-- ==== Sys2Proof/Word.lean ====
section
/-! DEFINITION. The word types of the X40 and their plainest arithmetic. -/

namespace Sys2Proof

/-- A 64-bit register value (R17). -/
abbrev Word := BitVec 64

/-- A byte of memory. -/
abbrev Byte := BitVec 8

/-- A half-word of code (R44). -/
abbrev Half := BitVec 16

/-- A tile register: 1,024 bytes, byte e in bits 8e+7 to 8e (R139). -/
abbrev Tile := BitVec 8192

/-- A mask register: bit e governs element e (R142). -/
abbrev Mask := BitVec 1024

/-- A 64-byte line, byte j in bits 8j+7 to 8j. -/
abbrev Line := BitVec 512

/-- Number of a g register field (R30). -/
abbrev GReg := BitVec 5

/-- Number of a tile register (R30). -/
abbrev VReg := BitVec 4

/-- Number of a message-build register (R30). -/
abbrev MBReg := BitVec 3

/-- Number of a queue register (R30). -/
abbrev QReg := BitVec 3

/-- Number of a mask register (R30). -/
abbrev KReg := BitVec 2

end Sys2Proof
end

