-- ==== Sys2Proof/Config.lean ====
section
/-! DEFINITION. What is fixed for the X40 and is no state: its sizes, and the free values. A free value is a constant
without a body, applied to the counter State.tick or to the operands it depends on. -/

namespace Sys2Proof.Config

/-- LM bytes of a core, CSP bytes of a cluster, DSW bytes of a die (R12). -/
def lmSize : Nat := 0xC000
def cspSize : Nat := 0x40000
def dswSize : Nat := 48 * 2 ^ 20

/-- LM bytes of the eight workspace slots (R18). -/
def slotBytes : Nat := 0x1000

/-- Bytes of device memory (R341). -/
def devMemSize : Nat := 0x9000000000

/-- This X40's own device number in bits 55:47 of a physical address (R341; log entry 18, DESIGN CHOICE). -/
def ownDevice : Nat := 0

/-- The age at which a CDC copy leaves the CDC (R200). -/
def cdcAge : Nat := 65536
/-- The bound of a WAITA (R225). -/
def waitaBound : Nat := 2 ^ 20
/-- The bound of a COMPOSE (R287). -/
def composeBound : Nat := 1024
/-- The wait after a YIELD, and the interval of a refused message (R271, R264). -/
def yieldBound : Nat := 64
def reofferAfter : Nat := 64
/-- The time after which a pre-emption request is met without a listed point (R366). -/
def forcedSaveAfter : Nat := 65536
/-- The age of a run-list record, and of a runnable task, at which its priority is 7 (R269, R270). -/
def runListAge : Nat := 65536
def issueAge : Nat := 4096
/-- A fault window's length and a fault list's entries (R361). -/
def faultWindow : Nat := 2048
def faultListMax : Nat := 512

/-- Home slices of a die, and the entries of the TLBs and the lines of a CDC (R3, R339). -/
def slicesPerDie : Nat := 64
def l1Entries : Nat := 1024
def l1Ways : Nat := 8
def l2Entries : Nat := 8192
def cdcLines : Nat := 2048

/-- Which of its die's slices is the home of a line (R218): the spec names the die only (R341); log entry 10, DESIGN
CHOICE. -/
opaque homeSlice : Nat → Nat

/-- The die that owns the stack of a line of device memory, and the die of the port of host memory (R341); log entry 10, DESIGN CHOICE,
DESIGN CHOICE. -/
opaque homeDie : Nat → Nat

/-- The set of a core's L1 TLB that a page goes to (R339); log entry 6, DESIGN CHOICE. -/
opaque l1Set : Nat → Nat

/-- A free choice among the outcomes a rule allows, for a fresh value of State.tick; log entry 5, DESIGN CHOICE. -/
opaque choice : Nat → Nat

/-- A word that the spec leaves open, for a fresh value of State.tick; log entry 31, DESIGN CHOICE. -/
opaque freeWord : Nat → Word

/-- What firmware's scrub writes into a damaged byte (R375), for a fresh tick; log entry 23, DESIGN CHOICE. -/
opaque scrubByte : Nat → Nat → Byte

end Sys2Proof.Config
end

