-- ==== Sys2Proof/Syntax.lean ====
section
/-! DEFINITION. Instr: one constructor per row of spec/opcode_table.json. The rows with words are the
instructions a task issues; the rows without words are the steps of the machine's other agents (engines, home
slices, scheduler, firmware, host), which carry the operands that say where the step happens. -/

namespace Sys2Proof

/-- The type qualifier of MULH, DIV, REM, MIN and MAX (R62). -/
inductive IntTy where
  | i64 | n64
  deriving DecidableEq, Repr

/-- The condition codes of R60; code 15 is no condition. -/
inductive Cond where
  | eq | ne | lt | ge | le | gt | ltu | geu | leu | gtu | mi | pl | vs | vc | al
  deriving DecidableEq, Repr

/-- The scope codes of R61. -/
inductive Scope where
  | package | core | cluster | quad | die | domain | system
  deriving DecidableEq, Repr

/-- The ordering codes of R66. -/
inductive Ordering where
  | rlx | acq | rel
  deriving DecidableEq, Repr

/-- The sz codes of format M (R66): 0 is 64 bits, 1 is 8, 2 is 16, 3 is 32. -/
inductive Size where
  | n64 | n8 | n16 | n32
  deriving DecidableEq, Repr

/-- A load or a store of another X40, with its size; none: the 64 bytes of LDMB and STMB (R204, R215, R343). -/
structure RemoteOp where
  write : Bool
  size  : Option Size
  deriving DecidableEq, Repr

/-- The types of the indexed LD (R66). -/
inductive LdTy where
  | n64 | n8 | n16 | n32 | i8 | i16 | i32
  deriving DecidableEq, Repr

/-- The type codes of EXT (R125). -/
inductive ExtTy where
  | i8 | i16 | i32 | n8 | n16 | n32
  deriving DecidableEq, Repr

/-- The operations of AMO (R66). -/
inductive AmoOp where
  | swap | cas | add | and | or | xor | min | max
  deriving DecidableEq, Repr

/-- The operations of RED (R66). -/
inductive RedOp where
  | add | and | or | xor | min | max
  deriving DecidableEq, Repr

/-- The rounding modes of R86. -/
inductive Round where
  | rne | rtz | rup | rdn | sr
  deriving DecidableEq, Repr

/-- The saturation codes of page 3 (R65). -/
inductive Sat where
  | sat | wrap | inf
  deriving DecidableEq, Repr

/-- The predicates of VCMP (R64). -/
inductive VPred where
  | eq | ne | lt | le | gt | ge | un | ord
  deriving DecidableEq, Repr

/-- The operations of VREDR and VREDC (R154). -/
inductive VRedOp where
  | add | max | min
  deriving DecidableEq, Repr

/-- The target types of VCVT (R65). -/
inductive VTarget where
  | f32 | f16 | bf16 | w19 | fp4 | c8 | i8 | i32
  deriving DecidableEq, Repr

/-- The level codes of CCLN, CINV and CFLU (R208). -/
inductive Level where
  | cdc | hs | dm | ic
  deriving DecidableEq, Repr

/-- The scope codes of the barriers (R68). -/
inductive BScope where
  | package | cluster | die
  deriving DecidableEq, Repr

/-- A MOV operand whose class a PFX.R may select (R62, R114). -/
inductive MovReg where
  | g (r : GReg)
  | mb (r : MBReg)
  | q (r : QReg)
  deriving DecidableEq, Repr

/-- The modifier of the page-2 arithmetic instructions (R64, R145): mask 0 is none. -/
structure VMod where
  mask  : KReg
  round : Round
  sat   : Bool
  deriving DecidableEq, Repr

/-- Where an atomic acts: a byte of physical memory or a DSW byte of a die (R216). -/
inductive HomeLoc where
  | phys (pa : Nat)
  | dsw (die : Nat) (off : Nat)
  deriving DecidableEq, Repr

/-- What a request asks of the atomic unit at the home (R216, R219, R221, R317). -/
inductive HomeOp where
  | amo (op : AmoOp) (w64 : Bool) (signed : Bool)
  | fadd
  | red (op : RedOp) (w64 : Bool) (signed : Bool)
  | redFadd
  | topk
  | tokc
  deriving DecidableEq, Repr

/-- A request to the home slice, with the sequence number of R218. For AMO cas, cmp holds g[d]. -/
structure HomeReq where
  src : Nat
  seq : Nat
  loc : HomeLoc
  op  : HomeOp
  val : Word
  cmp : Word
  deriving DecidableEq, Repr

/-- What firmware does with a fault it took first (R359). -/
inductive FwDecision where
  | resolved | passed | declined
  deriving DecidableEq, Repr

/-- The memories whose ECC words can be damaged (R375). -/
inductive Space where
  | lm | csp | dsw | mem
  deriving DecidableEq, Repr

/-- The blocks that count their corrected errors (R374): of a core, a cluster, a die, a home slice, and device memory. -/
inductive Block where
  | lm | taskTable | ticketTable | predictorTable | codeTable | queue | latch | accumulator | registerBank | tlb1
  | csp | cdc | tlb2
  | dsw
  | homeSlice
  | mem
  deriving DecidableEq, Repr

/-- What firmware fixes when it creates a context (R331, R358, R359, R16, R333, R335, R353, R378)
(log entry 20, DEDUCED). -/
structure ContextCfg where
  cxid     : Nat
  root     : Nat
  handler  : Option Nat
  passXlate : Bool
  passPerm  : Bool
  passMchk  : Bool
  dsw      : List (Nat × Nat × Nat)
  quotas   : List (Nat × Nat)
  classes  : List (Nat × Nat)
  homeDie  : Nat
  snapEn   : Bool
  maps     : List (Nat × Nat × List (Word × Word))
  deriving DecidableEq, Repr

/-- One constructor per row of spec/opcode_table.json, in the table's order. A field imm or disp holds the
immediate after sign extension and before scaling (R49). -/
inductive Instr where
  -- page 0 (R62)
  | ret
  | add (d a b : GReg)
  | sub (d a b : GReg)
  | mul (d a b : GReg)
  | mulh (ty : IntTy) (d a b : GReg)
  | div (ty : IntTy) (d a b : GReg)
  | rem (ty : IntTy) (d a b : GReg)
  | min (ty : IntTy) (d a b : GReg)
  | max (ty : IntTy) (d a b : GReg)
  | ldi (d : GReg) (imm : Word)
  | and (d a b : GReg)
  | or (d a b : GReg)
  | xor (d a b : GReg)
  | andn (d a b : GReg)
  | shl (d a b : GReg)
  | shr (d a b : GReg)
  | sar (d a b : GReg)
  | rol (d a b : GReg)
  | mov (d : GReg) (a : MovReg)
  | movDestSelect (d : MovReg) (a : GReg)
  | clz (d a : GReg)
  | ctz (d a : GReg)
  | popc (d a : GReg)
  | cmp (a b : GReg)
  | tst (a b : GReg)
  | sel (c : Cond) (d a b : GReg)
  | lea (d a : GReg) (disp : Word)
  | ext (ty : ExtTy) (d a : GReg)
  | jmpr (d a : GReg)
  | brc (c : Cond) (off : Word)
  | br (off : Word)
  | call (off : Word)
  | loop (d : GReg) (off : Word)
  | cmpImm (d : GReg) (imm : Word)
  | ldk (d : GReg) (imm : Word)
  | blkend
  | hintNop (modifier : BitVec 6) (base : Half)
  | unassignedEncoding
  -- page 1 (R63)
  | trap (n : Byte)
  | svc (n : Byte)
  | rft
  | snap (n : Byte)
  | shlImm (n : BitVec 6) (d a : GReg)
  | shrImm (n : BitVec 6) (d a : GReg)
  | sarImm (n : BitVec 6) (d a : GReg)
  | rolImm (n : BitVec 6) (d a : GReg)
  | bfx (pos : BitVec 6) (d a : GReg) (wm1 : BitVec 6)
  | bfi (pos : BitVec 6) (d a : GReg) (wm1 : BitVec 6)
  | mfs (d : GReg) (n : BitVec 12)
  | mts (d : GReg) (n : BitVec 12)
  | rep (stagger : BitVec 3) (a : GReg) (len : BitVec 6)
  | tlbi (cluster : Bool) (a b : GReg)
  -- page 2 (R64)
  | vadd (m : VMod) (d a b : VReg)
  | vsub (m : VMod) (d a b : VReg)
  | vmul (m : VMod) (d a b : VReg)
  | vfma (m : VMod) (d a b : VReg)
  | vmax (mask : KReg) (d a b : VReg)
  | vmin (mask : KReg) (d a b : VReg)
  | vdiv (m : VMod) (d a b : VReg)
  | vsel (k : KReg) (d a b : VReg)
  | vcmp (p : VPred) (mask : KReg) (d : KReg) (a b : VReg)
  | vabs (mask : KReg) (sat : Bool) (d a : VReg)
  | vneg (mask : KReg) (sat : Bool) (d a : VReg)
  | vbcast (mask : KReg) (d : VReg) (a : GReg)
  | vclr (d : VReg)
  | vredr (op : VRedOp) (m : VMod) (d a : VReg)
  | vredc (op : VRedOp) (m : VMod) (d a : VReg)
  | vrdq (d : VReg) (a : QReg) (b : GReg)
  | vsets (a : GReg)
  | vld (mask : KReg) (d : VReg) (a : GReg) (disp : Word)
  | vst (mask : KReg) (d : VReg) (a : GReg) (disp : Word)
  | vldt (mask : KReg) (d : VReg) (a : GReg) (disp : Word)
  | vsetsImm (imm : Word)
  -- page 3 (R65)
  | vcvt (target : VTarget) (mx : Bool) (ct : BitVec 2) (r : Round) (s : Sat) (d a : VReg)
  | vexp2 (d a : VReg)
  | vsmx (d a b : VReg)
  | vrng (d : VReg) (a : GReg)
  | vqmax (d a : VReg) (g : BitVec 3)
  | vqz (r : Round) (s : Sat) (d a b : VReg)
  | lqz (d a : VReg)
  | ldec (d a b : VReg)
  | ctld (ct : BitVec 2) (a : GReg) (disp : Word)
  | ctldPreset (ct : BitVec 2) (n : BitVec 9)
  | castle (a b : GReg)
  -- page 4 (R66)
  | ld (sz : Size) (o : Ordering) (sc : Scope) (nc : Bool) (d a : GReg) (disp : Word)
  | ldSigned (sz : Size) (o : Ordering) (sc : Scope) (nc : Bool) (d a : GReg) (disp : Word)
  | st (sz : Size) (o : Ordering) (sc : Scope) (stream : Bool) (d a : GReg) (disp : Word)
  | ldIndexed (ty : LdTy) (o : Ordering) (sc : Scope) (nc : Bool) (d a b : GReg)
  | stIndexed (sz : Size) (o : Ordering) (sc : Scope) (stream : Bool) (d a b : GReg)
  | lds (d a : GReg) (disp : Word)
  | ldt (d a : GReg) (disp : Word)
  | stf (d a : GReg) (disp : Word)
  | ste (a : GReg) (disp : Word)
  | ldmb (o : Ordering) (sc : Scope) (nc : Bool) (a : GReg) (disp : Word)
  | stmb (o : Ordering) (sc : Scope) (stream : Bool) (a : GReg) (disp : Word)
  | fence (o : Ordering) (sc : Scope)
  | acqr (sc : Scope) (a b : GReg)
  | relr (sc : Scope) (a b : GReg)
  | ccln (l : Level) (a b : GReg)
  | cinv (l : Level) (a b : GReg)
  | cflu (l : Level) (a b : GReg)
  | amo (op : AmoOp) (signed : Bool) (o : Ordering) (sc : Scope) (d a b : GReg)
  | amoN32 (op : AmoOp) (signed : Bool) (o : Ordering) (sc : Scope) (d a b : GReg)
  | amoFadd (o : Ordering) (sc : Scope) (d a b : GReg)
  | redFadd (a b : GReg)
  | topk (o : Ordering) (sc : Scope) (a b : GReg)
  | waita (o : Ordering) (sc : Scope) (d a b : GReg)
  | waitaN32 (o : Ordering) (sc : Scope) (d a b : GReg)
  | red (op : RedOp) (signed : Bool) (a b : GReg)
  | redN32 (op : RedOp) (signed : Bool) (a b : GReg)
  -- page 5 (R67)
  | cpy (ch : BitVec 3) (d a b : GReg)
  | cpyg (ch : BitVec 3) (d a b : GReg)
  | cpyw (ch : BitVec 3) (d a : GReg)
  | pmove (t : BitVec 2) (d a b : GReg)
  | pconf (a b : GReg)
  | pcanc (a : GReg)
  | pstat (d a : GReg)
  | prld (t : BitVec 2) (d a : GReg)
  | prst (t : BitVec 2) (a b : GReg)
  -- page 6 (R68)
  | exit
  | yield
  | dcmp
  | barv (sc : BScope) (n : Byte)
  | barwEven (sc : BScope) (n : Byte)
  | barwOdd (sc : BScope) (n : Byte)
  | compose (n : Byte)
  | send (a : GReg)
  | sendd (a b : GReg)
  | spawn (d : GReg)
  | popd (d : GReg)
  | cnti (d a b : GReg)
  | dec (a b : GReg)
  | exits (a : GReg)
  | launch (d a : GReg)
  | ttset (d a b : GReg)
  | tblk (a : GReg)
  | tublk (a : GReg)
  -- page 7 (R69)
  | kvlook (d a b : GReg)
  | kvmap (d a b : GReg)
  | sptlook (d a b : GReg)
  | sptins (d a : GReg)
  | bhash (d a b : GReg)
  | smax (a b : GReg)
  | tokc (d a b : GReg)
  -- steps of the other agents (spec/95)
  | firmwareFaultDecision (cid slot : Nat) (dec : FwDecision)
  | fmtset (cid : Nat)
  | bload (cid : Nat)
  | brot (cid : Nat)
  | mma (cid : Nat)
  | accrd (cid : Nat)
  | accz (cid : Nat)
  | mxfence (cid : Nat)
  | copyDelivery (cid ch : Nat)
  | gatherDelivery (cid ch : Nat)
  | faultListClose (die : Nat)
  | faultResolutionResume (die cxid page : Nat)
  | faultResolutionAbandon (die cxid page : Nat)
  | speculativeRequest (cid t : Nat)
  | speculativeArrival (cid t : Nat)
  | exposure (cid t : Nat)
  | atomicAtHome (r : HomeReq)
  | redDswApply (r : HomeReq)
  | accessReply (cid : Nat)
  | cdcCopyExpiry (cluster line : Nat)
  | waitaAtHome (cid slot : Nat)
  | waitaTimeout (cid slot : Nat)
  | topkAtHome (r : HomeReq)
  | tokcAtHome (r : HomeReq)
  | messageArrival (src k : Nat)
  | messageReoffer (src k : Nat)
  | waitingMessageRelease (cid k : Nat)
  | activation (cid : Nat)
  | runListAging (cid k : Nat)
  | issueAgePromotion (cid slot : Nat)
  | yieldExpiry (cid slot : Nat)
  | taskWakeUp (cid slot : Nat)
  | stealRoundStart (cid : Nat)
  | stealRequest (thief : Nat)
  | stealAnswer (thief : Nat)
  | stealBackoffExpiry (cid : Nat)
  | dequeCountReport (cid : Nat)
  | decApply (src k : Nat)
  | pendingCounterEnqueue (cid off : Nat)
  | hostLaunchEnqueue (die cxid : Nat) (addr : Word) (record : BitVec 2048)
  | launchExecute (die : Nat)
  | preemptionRequest (cid : Nat) (slot : Option Nat)
  | preemptionSave (cid slot : Nat)
  | preemptionForcedSave (cid slot : Nat)
  | savedTaskSlotRelease (cid slot : Nat)
  | resumption (cid slot : Nat)
  | coreMove (src dst : Nat)
  | clusterContextSwitch (cluster : Nat) (cxid : Option Nat)
  | composeGrant (cluster : Nat)
  | composeTimeout (cid slot : Nat)
  | reclaim (cid : Nat)
  | recomposeGrant (cluster : Nat)
  | kvLookupRequest (cid : Nat)
  | kvMapRequest (cid : Nat)
  | pageInComplete (cid k : Nat) (ok : Bool)
  | prefixLookupRequest (cxid : Nat)
  | prefixInsertRequest (cxid : Nat)
  | smaxRouterCombine (src k src' k' : Nat)
  | smaxPacketAtOwner (src k : Nat)
  | walkerGrant (die : Nat)
  | pageMigration (cxid va newPa : Nat)
  | redirectionEnd (k : Nat)
  | patrolScrub (sp : Space) (key unit : Nat)
  | coreRetirement (cid : Nat)
  | hostSnapTrigger (n : Nat)
  | flagFallLatch
  | snapshotRearm
  | thermalThrottle (die : Nat)
  | thermalTrip (die : Nat)
  | reset
  | firmwareStart (base len : Nat) (crc : BitVec 32)
  | hostBarAccess (write : Bool) (pa : Nat) (data : Word)
  | marhelRemoteAccess (dev cxid : Nat) (op : RemoteOp) (pa : Nat) (data : Line)
  | contextCreation (cfg : ContextCfg)
  | contextTeardown (cxid : Nat)
  deriving DecidableEq, Repr

/-- What firmware does to its own tables, what the outside world does, what leaves a full cache, and what an error hits: no row
of the opcode table names these (log entry 55, DESIGN CHOICE). -/
inductive Act where
  | writeTable (pa : Nat) (e : Word) (asked : Bool)              -- R336 to R339
  | handBack (cid slot : Nat)                                    -- R295
  | askMove (cxid va : Nat) (on : Bool)                          -- R371
  | enableTrigger (n : Nat) (on : Bool)                          -- R377
  | setExport (add : Bool) (dev cxid : Nat) (cores : Bool) (lo hi : Nat)  -- R343
  | setGrant (add : Bool) (dev cxid : Nat) (cores : Bool) (lo hi : Nat)
  | setBar (add : Bool) (base len : Nat) (writable : Bool)       -- R342
  | hostMemory (pa : Nat) (data : Word)
  | remoteAtomic (dev cxid src seq pa : Nat) (op : HomeOp) (val cmp : Word)
  | remoteWaita (dev cxid src slot pa : Nat) (w64 : Bool) (expected : Word)  -- R224, R343
  | remoteWaitaEnd (dev src slot : Nat)                          -- R225
  | remoteSend (dev cxid src dst : Nat) (chan : Byte) (words : List Word)
  | remoteSendd (dev cxid src dst : Nat) (chan : Byte) (mb : Bool) (reg : BitVec 5) (w : Word)
  | remoteDec (dev cxid src dst off : Nat) (n : Word)
  | replaceLine (cluster line : Nat)                             -- R222
  | replaceL1 (cid k : Nat)                                      -- R339, R375
  | replaceL2 (cluster k : Nat)
  | startWalk (die cxid : Nat)                                   -- R340
  | endWalk (die cxid : Nat)
  | corrected (b : Block) (key : Nat)                            -- R374
  | damage (sp : Space) (key unit : Nat)                         -- R375
  | loseULine (cluster line : Nat)
  | loseLatch (cid i : Nat)
  | loseAcc (cid acc word : Nat)
  | losePredictor (cid t i : Nat)
  | loseTicket (cid i : Nat)
  | loseEntry (cid chan : Nat)
  | loseCode (cid ct : Nat) (c : Byte)
  | loseDequeRec (cid k : Nat)
  | loseRunRec (cid k : Nat)
  | loseQueueWord (cid slot q k : Nat)
  | loseMessage (cid k : Nat)
  | loseRegister (cid slot reg : Nat)                            -- R299
  deriving DecidableEq, Repr

/-- A turn of the agenda: the core cid issues an instruction, another agent's step happens, n cc pass, or an act. -/
inductive Turn where
  | issue (cid : Nat)
  | event (i : Instr)
  | act (a : Act)
  | pass (n : Nat)
  deriving DecidableEq, Repr

end Sys2Proof
end

