-- ==== Sys2Proof/Machine/State.lean ====
section
/-! DEFINITION. The state of the X40 as plain data: tasks, cores, clusters, dies and the package (R9 to R25), with
every register, table and queue the spec names; INVENTORY.md lists each with its rule. -/

namespace Sys2Proof.Machine

/-- Bytes by address, addresses rising, no entry zero: an unlisted byte reads zero (R381, log entries 8, 12, DEDUCED). -/
abbrev Memory := List Host.Cell

/-- Items by number, numbers rising: an unlisted number has the item's reset value. -/
abbrev Table (α : Type) := List (Nat × α)

/-- The causes of R109; none is code 0. -/
inductive Cause where
  | none | illop | priv | align | xlate | perm | qzacc | mchk | svc | trap
  deriving DecidableEq, Repr

/-- TSW.STATE (R109). -/
inductive TaskState where
  | runnable | parked | trapped | saved
  deriving DecidableEq, Repr

/-- TSW.ORIGIN (R109). -/
inductive Origin where
  | message | deque | counter | launch | exits
  deriving DecidableEq, Repr

/-- A scope instance's barrier: scope and launch-relative number (R226). -/
structure BarId where
  scope : BScope
  num   : Nat
  deriving DecidableEq, Repr

/-- A byte's place: LM of a core, CSP of a cluster, DSW of a die, a core's command window, physical memory (R12 to R16,
R341). -/
inductive Loc where
  | lm (cid off : Nat)
  | csp (cluster off : Nat)
  | dsw (die off : Nat)
  | mqw (off : Nat)
  | phys (pa : Nat)
  deriving DecidableEq, Repr

/-- The parking conditions of R272. -/
inductive Wait where
  | queueEmpty (q : QReg)                 -- R115, R155
  | queueFull (q : QReg)                  -- R115
  | word (l : Loc)                        -- a full/empty word to be full (R211)
  | waita (l : Loc) (w64 : Bool) (expected : Word) (d : GReg) (acq : Option Scope) (va : Word)  -- R224; va: by what address
  | tokcFull (pa : Nat) (seen : Word) (va : Word)  -- R317: the consumed counter to change, and its address
  | barrier (b : BarId) (odd : Bool)      -- R226
  | sendQueue                             -- R263
  | channel (n : BitVec 3)                -- R235
  | cpyw (n : BitVec 3) (target : BitVec 48)  -- R240
  | ticket (ls : List Loc)                -- R248: an entry free and no line held by another ticket
  | line (ls : List Loc)                  -- R246: lines in Q or X state
  | command                               -- R171
  | castle (partner : BitVec 3) (off : Nat) (desc : Word)  -- R192
  | compose (n : Nat) (since : Nat)       -- R287
  | launchQueue (die : Nat)               -- R283
  | atomics (slice : Nat)                 -- R218
  | reply (d : GReg) (acq : Bool)         -- R348, R353
  | blocked (chan : Byte)                 -- an EXITS successor on a blocked channel (R275)
  deriving DecidableEq, Repr

/-- CTL (R108). -/
structure Ctl where
  z : Bool
  n : Bool
  c : Bool
  v : Bool
  rrb : BitVec 4
  rot : Bool
  cw : BitVec 3
  pres : BitVec 2
  repA : Bool
  repSt : BitVec 3
  repI : BitVec 3
  repLen : BitVec 6
  repOff : BitVec 6
  repRem : BitVec 24
  deriving DecidableEq, Repr

/-- TSW (R109). -/
structure Tsw where
  chan : Byte
  prio : BitVec 3
  cause : Cause
  origin : Origin
  state : TaskState
  deriving DecidableEq, Repr

/-- The vector save descriptor (R143). -/
structure Vsd where
  vused : BitVec 16
  kused : BitVec 4
  vhome : Bool
  vcap  : BitVec 5
  vsa   : BitVec 10
  deriving DecidableEq, Repr

/-- The premove ticket summary (R252). -/
structure Summary where
  lapse : BitVec 32
  dryn  : BitVec 32
  fdisc : BitVec 32
  pdisc : BitVec 32
  town  : BitVec 32
  deriving DecidableEq, Repr

/-- A task's 512 workspace bytes (R17, R107, R143). -/
structure Workspace where
  g      : Vector Word 32
  mb     : Vector Word 8
  pc     : Word
  ctl    : Ctl
  vshape : BitVec 24
  fpf    : Byte
  srctr  : BitVec 32
  srkey  : BitVec 32
  tsw    : Tsw
  resid  : Word
  trinfo : Word
  vsd    : Vsd
  sum    : Summary
  deriving DecidableEq, Repr

/-- A workspace slot and what the hardware keeps with its task (R18, R115, R132, R136, R171, R270 to R272). -/
structure Slot where
  held     : Bool
  ws       : Workspace
  queues   : Vector (List Word) 4          -- q0 to q3
  lcrd     : Vector Word 8
  lext     : Vector Word 8
  capf     : BitVec 16
  link     : Option Nat                    -- the trapped task's slot (R136)
  trpc     : Word
  tract    : Bool
  actNo    : BitVec 16                     -- R171
  wait     : Option Wait                   -- R272
  waitNo   : Nat                           -- the order in which it parked
  waitSince : Nat
  runSince : Nat                           -- R270: age is now minus this
  yielded  : Option Nat                    -- R271
  launch   : Option Nat                    -- R284
  preempt  : Option Nat                    -- R366: time of the pending request
  fwFault  : Option Word                   -- firmware has the fault first (R357); TRINFO as it was before the trap
  handlerDue : Bool                        -- its handler record waits for room in the run list (R358, R269)
  recompose : Bool                         -- R297
  members  : List Nat                      -- the lent cores of its composition, member 1 first (R289)
  reply    : Option Word                   -- a reply that has arrived (R348, R353)
  chainLen : Nat                           -- half-words of the parked or trapped instruction (R136, R225)
  taskId   : Nat                           -- the model's own: which task of the core this is (R245, R253)
  liveAt   : Option Word                   -- the listed point's entry under which it was saved (R366, R367)
  woken    : Option (Wait × Nat)           -- it was woken from this wait, and its place there (R115, R171, R235, R263)
  place    : Option (Wait × Nat)           -- the same while the instruction issues again
  block    : Option Word                   -- the block of its latest instruction, by start; none: a block begins (R74)
  codeFrom : Nat                           -- when the launch that created it started (R73)
  cinvs    : List (Nat × Nat × Nat)        -- its CINVs of level 3: base, length, time (R73)
  lost     : List Nat                      -- registers lost in a lent core's bank, numbered as in R360 (R299)
  deriving DecidableEq, Repr

/-- A task record (R267). -/
structure TaskRec where
  chan : Byte
  opx  : BitVec 32
  op1  : Word
  op2  : Word
  op3  : Word
  reserved : BitVec 24                     -- bits 31:8
  deriving DecidableEq, Repr

/-- What a run-list record activates (R268, R269, R358). -/
inductive RunKind where
  | message (words : List Word) (src : Nat) (dev : Option Nat)
  | handler (slot : Nat)
  | counter (r : TaskRec)
  | launch (id : Nat) (lcrd lext : List Word) (arg0 arg1 addr : Word)
  deriving DecidableEq, Repr

structure RunRec where
  chan  : Byte
  prio  : BitVec 3
  since : Nat
  kind  : RunKind
  deriving DecidableEq, Repr

/-- A task-table entry (R260). -/
structure TTEntry where
  addr  : Word
  vcap  : BitVec 5
  vsa   : BitVec 10
  qsel  : BitVec 2
  slot  : BitVec 3
  bound : Bool
  blk   : Bool
  prio  : BitVec 3
  valid : Bool
  deriving DecidableEq, Repr

/-- A request of KVLOOK or KVMAP to a directory agent (R347 to R350). -/
structure KvReq where
  map   : Bool
  src   : Nat
  slot  : Nat
  sq    : BitVec 32
  blk   : BitVec 32
  key   : BitVec 32
  ovr   : Bool
  toff  : Nat
  logt  : Nat
  near  : Word
  far   : Word
  arg   : Word                             -- arrival word, or the image
  hops  : Nat
  deriving DecidableEq, Repr

/-- A request of SPTLOOK or SPTINS to the prefix unit (R353, R354). -/
structure SptReq where
  ins    : Bool
  src    : Nat
  slot   : Nat
  hashes : List (BitVec 32)
  out    : Loc
  word   : Word
  page   : BitVec 24
  deriving DecidableEq, Repr

/-- What a message carries (R262, R280, R311, R348, R354). -/
inductive Payload where
  | send (words : List Word)
  | sendd (mb : Bool) (reg : BitVec 5) (w : Word)
  | dec (off : Nat) (n : Word)
  | smax (cnt tag : BitVec 16) (val idx : BitVec 32) (count : Nat)
  | kv (r : KvReq)
  | spt (r : SptReq)
  deriving DecidableEq, Repr

/-- A message in a send queue or an inbound buffer (R262 to R264). src is 0xFFFF for firmware and launch units. -/
structure Msg where
  src   : Nat
  cx    : Nat
  dev   : Option Nat
  dst   : Nat
  chan  : Byte
  load  : Payload
  refused : Option Nat
  origin : Option Nat := none              -- the X40 it comes from; none: this one (R268, R343)
  began : Nat := 0                         -- its place among what waits at the receiver (R261, R264)
  deriving DecidableEq, Repr

/-- A copy or gather in flight (R235 to R239). pos counts delivered bytes. -/
structure Transfer where
  gather : Bool
  src    : Word
  dst    : Word
  len    : Nat                             -- bytes to deliver in all
  row    : Nat                             -- gather: row size and row limit
  limit  : Nat
  list   : Word                            -- gather: index list
  pos    : Nat
  cur    : Option Nat                      -- gather: the index of the row under way
  fault  : Option (Nat × Cause)            -- waits at this page (R237)
  reported : Bool                          -- the KIND 2 record of its source has been entered (R396)
  listReported : Bool                      -- that of its index list has been entered (R396)
  slot   : Nat
  deriving DecidableEq, Repr

/-- A copy channel and CWPn (R235, R236). -/
structure Channel where
  flight : List Transfer
  bytes  : BitVec 48
  drops  : BitVec 16
  deriving DecidableEq, Repr

/-- A predictor entry with the context that wrote it (R241). -/
structure Pred where
  valid : Bool
  conf  : BitVec 3
  tag   : BitVec 12
  index : BitVec 24
  cx    : Nat
  deriving DecidableEq, Repr

/-- States of a ticket (R251). -/
inductive TicketState where
  | free | spec | dry | lapsed | exposing
  deriving DecidableEq, Repr

/-- A ticket entry (R245 to R257). data holds the bytes that have arrived, as (offset, byte). -/
structure Ticket where
  state  : TicketState
  gen    : BitVec 16
  owner  : Nat                             -- the task that holds it
  tbl    : BitVec 2
  key    : BitVec 16
  base   : Word
  stride : BitVec 32
  len    : Nat
  dst    : Word
  pidx   : BitVec 24
  dryKind : BitVec 2
  fault  : Cause
  src    : Word                            -- source of the read under way
  asked  : Nat                             -- bytes requested
  got    : Nat                             -- bytes arrived
  data   : Memory
  orphan : Bool                            -- the owner has retired while exposing
  no     : Nat                             -- the order of the PMOVEs of the core (R255)
  skipped : List Nat                       -- offsets of lines left to a demand read (R256)
  ahead  : List Nat                        -- offsets of lines that its confirm has read beyond got (R257)
  deriving DecidableEq, Repr

/-- A code table: a preset, or a loaded image of 256 W19 entries and its attribute word (R93 to R98). -/
inductive CodeTable where
  | preset (e5m2 : Bool)
  | image (vals : List (BitVec 19)) (attr : BitVec 27)
  deriving DecidableEq, Repr

/-- Operand formats of the matrix unit (R177). -/
inductive MxFmt where
  | bf16 | c8 | int8 | lx8
  deriving DecidableEq, Repr

/-- A format context, or the snapshot of one (R166, R177). -/
structure MxCtx where
  a : MxFmt
  b : MxFmt
  atab : CodeTable
  btab : CodeTable
  deriving DecidableEq, Repr

/-- A B operand latch (R166, R178). -/
structure Latch where
  full : Bool
  klen : Nat
  ncol : Nat
  fmt  : MxFmt
  tab  : CodeTable
  data : BitVec 65536
  scales : BitVec 4608                     -- up to 288 scales, as many as a legal shape needs (log entry 51, DEDUCED)
  bad    : Bool                            -- an uncorrectable error lies in it (R186)
  deriving DecidableEq, Repr

/-- An accepted command, with its pusher (R171) and, for FMTSET, the table snapshots (R177). -/
structure MxCmd where
  bits : Line
  seq  : BitVec 32
  slot : Nat
  act  : BitVec 16
  atab : CodeTable
  btab : CodeTable
  deriving DecidableEq, Repr

/-- The matrix state of a core (R166, R169, R170). -/
structure Mx where
  queue  : List MxCmd
  ctx    : MxCtx
  latch  : Vector Latch 2
  acc    : Vector (BitVec 32768) 4         -- word (r, c) at bit 32·(32·r + c)
  pushed : BitVec 32
  done   : BitVec 32
  err    : Option (BitVec 24 × Byte)
  accBad : List (Nat × Nat)                -- damaged accumulator words: accumulator, word (R186)
  head   : Option Nat                      -- the checks of the command at the head, once made (R397)
  headK  : Nat                             -- the K with which they counted an MMA's rows; 0: none was known
  records : List (Loc × Word)              -- completion records that wait for a line in Q or X state (R246)
  deriving DecidableEq, Repr

/-- A page-in of the directory agent (R349). -/
structure PageIn where
  slotOff : Nat                            -- LM offset of the entry's word 1
  src     : Word
  dst     : Word
  words   : List (Nat × Nat)               -- arrival words: core and LM offset, in the order recorded
  fault   : Option Nat                     -- it waits at this page (R357, R364)
  deriving DecidableEq, Repr

/-- An open SMAX combine (R312). -/
structure Combine where
  cx    : Nat
  chan  : Byte
  tag   : BitVec 16
  cnt   : BitVec 16
  val   : BitVec 32
  idx   : BitVec 32
  total : Nat
  deriving DecidableEq, Repr

/-- A thief's state (R278). targets is the rest of the order, the director last (5). -/
inductive Steal where
  | busy
  | waiting (targets : List Nat) (since : Nat)
  | asking (target : Nat) (targets : List Nat) (answer : Option (List TaskRec))
  | backoff (since : Nat)
  deriving DecidableEq, Repr

/-- A leaf translation (R337 to R339): virtual base, size, physical base, attributes. -/
structure Leaf where
  cx  : Nat
  va  : Nat
  size : Nat
  pa  : Nat
  rd  : Bool
  wr  : Bool
  ex  : Bool
  sp  : Bool
  pin : Bool
  deriving DecidableEq, Repr

/-- A core (R9, R12, R18, and the core-scoped state of R93, R166, R235, R241, R242, R260). -/
structure Core where
  lm       : Memory                        -- offsets 0x1000 to 0xBFFF
  full     : List Nat                      -- LM words (offset ÷ 4) whose full/empty bit is 1, rising (R210)
  slots    : Vector Slot 8
  cur      : Fin 8                         -- the issuing slot (WP)
  lastAt   : Vector (Fin 8) 8              -- last issued slot at each effective priority (R270)
  tiles    : Vector Tile 16
  masks    : Vector Mask 4
  local4   : Vector (List Word) 4          -- q4 to q7
  cts      : Vector CodeTable 4
  preds    : Vector (Vector Pred 16) 4
  pth      : Vector (BitVec 4) 4
  specbud  : BitVec 21
  tickets  : Vector Ticket 32
  chans    : Vector Channel 8
  tt       : Table TTEntry
  runList  : List RunRec
  fillRow  : Nat                           -- slots filled from the run list in a row (R269)
  deque    : List TaskRec                  -- oldest first
  sendQ    : List Msg
  inbound  : List Msg
  counters : List Nat                      -- LM offsets armed or pending (R279)
  mx       : Mx
  nextSeq  : Table Nat                     -- by home slice (R218)
  unanswered : List (Nat × Nat)            -- (slice, sequence number), oldest first
  dirQ     : List KvReq
  aside    : List KvReq
  pageIns  : List PageIn
  combines : List Combine
  steal    : Steal
  owed     : List TaskRec                  -- records of an answer under way to a thief that is busy again (R278)
  lent     : Option (Nat × Nat)            -- the leader's core and slot
  retired  : Bool
  icache   : Table Half                    -- by virtual address of the half-word (R73)
  codeFrom : Nat                           -- when the latest launch on the core started (R73)
  l1       : List Leaf
  taskNo   : Nat                           -- the model's own: tasks activated so far
  pmoves   : Nat                           -- the model's own: tickets allocated so far
  strays   : Table Nat                     -- by ticket entry: bytes that ended speculations have under way (R255)
  arrivals : Table Nat                     -- by LM word (offset ÷ 4): the page whose arrival set it full (R349)
  deriving DecidableEq, Repr

/-- A CDC copy of a line not in U state (R200). -/
structure Copy where
  line  : Nat                              -- physical address ÷ 64
  data  : Line
  since : Nat
  deriving DecidableEq, Repr

/-- What a cluster had of a line before a store that other tasks of it may not see yet (R198, R200, R203): barred tasks,
as core and task number, see the store. freed: releases that cover the store, as core, and whether at cluster scope or
wider (R201, R202). stale: the bytes may be older than what another agent had written at the home, as those of a CDC copy may
be, so that an acquire at quad scope or wider ends them too (R200). -/
structure Late where
  line   : Nat
  data   : Line
  since  : Nat
  barred : List (Nat × Nat)
  freed  : List (Nat × Bool)
  stale  : Bool
  deriving DecidableEq, Repr

/-- The kind of a U line (R222). -/
structure UKind where
  op     : Option RedOp                    -- none: fadd
  w64    : Bool
  signed : Bool
  deriving DecidableEq, Repr

/-- A line in U state: the contributions of each word, by byte offset (R222). -/
structure ULine where
  line : Nat
  kind : UKind
  contrib : Table (List Word)
  src  : Nat                               -- the core whose RED allocated it
  deriving DecidableEq, Repr

/-- A pending COMPOSE or recomposition (R289). -/
structure ComposeReq where
  cid  : Nat
  slot : Nat
  n    : Nat
  again : Bool
  deriving DecidableEq, Repr

/-- A cluster (R9, R12, R200, R332, R339). -/
structure Cluster where
  owner  : Option Nat
  csp    : Memory
  full   : List Nat
  copies : List Copy
  late   : List Late                       -- oldest first (log entry 4, DEDUCED)
  ulines : List ULine
  l2     : List Leaf
  composeQ : List ComposeReq
  mxNext : Nat                             -- the core whose queue the matrix unit looks at first (R184)
  deriving DecidableEq, Repr

/-- A fault-gatherer entry (R362). -/
structure FaultRec where
  cx     : Nat
  page   : Nat
  kind   : Nat
  cause  : Cause
  detail : Nat
  src    : Nat
  count  : Nat
  deriving DecidableEq, Repr

/-- A closed fault list (R361). -/
structure FaultList where
  num     : BitVec 32
  opened  : Nat
  entries : List FaultRec
  deriving DecidableEq, Repr

/-- What the snapshot registers hold (R377): of every block the count of corrected errors and the last error, uncorrectable
or not; the occupancies of each core's, cluster's, die's, home slice's and prefix unit's tables and queues; each core's
counters; and the last record of each die. -/
structure Snapshot where
  corrected : List (Block × Nat × Nat)
  lastErrs  : List (Block × Nat × Bool)
  cores     : List (Nat × List Nat)
  counters  : List (Nat × List Nat)        -- BYTES and DROPS of the channels, PUSHED and DONE (R170, R236)
  clusters  : List (Nat × List Nat)
  dies      : List (Nat × List Nat)
  slices    : List (Nat × List Nat)        -- reply entries and waiters of each home slice
  prefixes  : List (Nat × List Nat)        -- table entries and requests of each context's prefix unit
  records   : List (Nat × Option FaultRec)
  deriving DecidableEq, Repr

/-- A range of an export table (R343): the device and context it admits, addresses or core identifiers, first and last. -/
structure Export where
  dev   : Nat
  cx    : Nat
  cores : Bool
  lo    : Nat
  hi    : Nat
  deriving DecidableEq, Repr

/-- A launch in a die's queue (R281, R283). -/
structure LaunchRec where
  bits   : BitVec 2048
  cx     : Nat
  here   : Option Nat                      -- the launching core
  addr   : Word
  chtab  : List (Byte × TTEntry)
  prdtab : List Word
  deriving DecidableEq, Repr

/-- Thermal state of a die (R382). -/
inductive Thermal where
  | normal | throttled | tripped
  deriving DecidableEq, Repr

/-- A die (R9, R16, R277, R283, R340, R361, R382). -/
structure Die where
  dsw      : Memory
  launchQ  : List LaunchRec
  reports  : Table Nat                     -- steal director: deque count by core
  window   : Option Nat                    -- the cycle at which the gatherer's window opened
  faults   : List FaultRec                 -- in the order of arrival
  lists    : List FaultList
  listNo   : BitVec 32
  walkers  : Table Nat                     -- walkers held, by context
  walks    : Table Nat                     -- demand walks waiting, by context
  lastWalk : Nat
  thermal  : Thermal
  lastErr  : Option FaultRec               -- the last record entered (R377)
  deriving DecidableEq, Repr

/-- A barrier of a running launch in one scope instance (R226, R284). -/
structure Barrier where
  id       : BarId
  inst     : Nat                           -- cluster, die or 0
  expected : Nat
  arrived  : Nat
  odd      : Bool                          -- the done-parity bit
  deriving DecidableEq, Repr

/-- A launch being carried out (R284). -/
structure Launch where
  id       : Nat
  die      : Nat                           -- whose launch unit carries it out
  cx       : Nat
  began    : Nat
  left     : Nat
  doneref  : Word
  barriers : List Barrier
  pending  : List (Nat × RunRec)           -- activation records still to be placed, with their cores
  deriving DecidableEq, Repr

/-- An entry of a reply cache or side table (R218, R372): slice is the home the source numbered the request for, line the
line it acted on, at the slice that holds it now. -/
structure ReplyEntry where
  slice : Nat
  src   : Nat
  seq   : Nat
  line  : Loc
  old   : Word
  flags : Byte                             -- the status of the reply: the flags of fadd (R218)
  moved : Bool                             -- it stands in a side table (R372)
  cx    : Nat                              -- the source's context (R331)
  deriving DecidableEq, Repr

/-- A prefix-table entry (R353). A table lists the entry least recently matched or inserted first. -/
structure Prefix where
  hash : BitVec 32
  depth : BitVec 16
  page : BitVec 24
  pin  : BitVec 16
  deriving DecidableEq, Repr

/-- A translation that firmware has replaced: until a TLBI covers the address, the old leaves, or none, may still answer
for the range from va (R339). ended: clusters whose own TLBI has covered it. -/
structure OldWalk where
  cx    : Nat
  va    : Nat
  size  : Nat
  leaves : List Leaf
  ended : List Nat
  deriving DecidableEq, Repr

/-- A live context (R331, R336, R353, R359, R365, R371, R378). -/
structure Context where
  cfg    : ContextCfg
  prefixes : List Prefix
  sptQ   : List SptReq
  asks   : List Nat := []                  -- pages that it has asked to be moved although they are pinned (R371)
  deriving DecidableEq, Repr

/-- A redirected page of a migration, and when its redirection began (R371). -/
structure Redirect where
  oldPa : Nat
  newPa : Nat
  since : Nat
  deriving DecidableEq, Repr

/-- A saved task whose slot was freed, with its vector save area (R367). -/
structure SavedTask where
  cid  : Nat
  slot : Nat
  cx   : Nat
  task : Slot
  area : Memory
  deriving DecidableEq, Repr

/-- What firmware saved of a cluster that passed to another context (R167, R253, R370). -/
structure SavedCluster where
  cluster : Nat
  cx      : Nat
  cores   : List Core
  csp     : Memory
  full    : List Nat
  deriving DecidableEq, Repr

/-- A WAITA of another X40 that is performed here (R224, R343): its device, context, core and slot there, and its word. -/
structure FarWait where
  dev  : Nat
  cx   : Nat
  src  : Nat
  slot : Nat
  asked : Nat                              -- the address of the request; pa: where its word lies (R371)
  pa   : Nat
  w64  : Bool
  deriving DecidableEq, Repr

/-- A waiter of WAITA or TOKC on a line (R225): a task of this X40, or of another. -/
structure Waiter where
  line : Loc
  cid  : Nat
  slot : Nat
  far  : Option FarWait := none
  deriving DecidableEq, Repr

/-- The package's start register (R381). -/
inductive Firmware where
  | halted (error : Bool)
  | ready
  deriving DecidableEq, Repr

/-- The X40. here is the core in focus, hereCid its identifier; others lists the other cores that differ from reset. -/
structure State where
  hereCid  : Nat
  here     : Core
  others   : Table Core
  clusters : Table Cluster
  dies     : Table Die
  mem      : Memory                        -- physical memory by physical address (R341)
  contexts : Table Context
  waiters  : List Waiter
  replies  : List ReplyEntry               -- reply caches and side tables (R218, R372)
  redirects : List Redirect
  launches : List Launch
  nextLaunch : Nat
  fwMsgs   : List Msg                      -- messages of firmware and of launch units (R284, R364)
  falls    : BitVec 16                     -- the flag fall (R377, R378)
  lastTrig : Byte
  snapHeld : Bool
  trigEn   : List Nat                      -- enabled triggers among 128 to 133
  fallAt   : List (Nat × Nat)              -- triggers under way and their cycles, oldest first
  trigDrops : Nat                          -- triggers that arrived while a snapshot was held (R377)
  snapshot : Option Snapshot               -- what the last flag fall latched (R377)
  corrected : List (Block × Nat × Nat)     -- corrected errors by block and instance (R374)
  lastErrs : List (Block × Nat × Bool)     -- the last error of each block, uncorrectable or not (R377)
  exports  : List Export                   -- the export table (R343)
  grants   : List Export                   -- what other devices export to this one
  bars     : List (Nat × Nat × Bool)       -- exposed BAR ranges: base, length, writable (R342)
  lastRead : Line                          -- what the host or another device has read last
  savedTasks : List SavedTask
  savedClusters : List SavedCluster
  firmware : Firmware
  damaged  : List (Space × Nat × Nat)      -- damaged units: memory, instance, unit number (R375)
  oldWalks : List OldWalk                  -- translations that firmware replaced (R339)
  oldCode  : List (Nat × Half × Nat)       -- half-words of memory before each write, with its time, oldest first (R73)
  agenda   : List Turn                     -- the model's own: turns to come (log entry 1, DESIGN CHOICE)
  now      : Nat                           -- elapsed cc
  tick     : Nat                           -- the model's own: counts free values drawn (log entry 5, DESIGN CHOICE)
  ilen     : Nat                           -- the model's own: half-words of the instruction in execution
  parkNo   : Nat                           -- the model's own: tasks parked and messages kept waiting so far
  deriving DecidableEq, Repr

/-- Why the machine would stop. No rule of the spec ends the machine; no instruction raises this. -/
inductive Fault where
  /-- Raised by no meaning: kept so that the interface has a fault type. Safe: a stop proves nothing. -/
  | stuck
  deriving DecidableEq, Repr

/-- Why an instruction has no next state. -/
inductive Refusal where
  /-- Raised by exec for a constructor without a meaning. Safe. -/
  | notModelled (mnemonic : String)
  deriving DecidableEq, Repr

/-! ## Reset (R381) -/

def Ctl.reset : Ctl :=
  { z := false, n := false, c := false, v := false, rrb := 0, rot := false, cw := 0, pres := 0, repA := false,
    repSt := 0, repI := 0, repLen := 0, repOff := 0, repRem := 0 }

def Tsw.reset : Tsw := { chan := 0, prio := 0, cause := .none, origin := .message, state := .runnable }
def Vsd.reset : Vsd := { vused := 0, kused := 0, vhome := false, vcap := 0, vsa := 0 }
def Summary.reset : Summary := { lapse := 0, dryn := 0, fdisc := 0, pdisc := 0, town := 0 }

def Workspace.reset : Workspace :=
  { g := Vector.replicate 32 0, mb := Vector.replicate 8 0, pc := 0, ctl := Ctl.reset, vshape := 0, fpf := 0,
    srctr := 0, srkey := 0, tsw := Tsw.reset, resid := 0, trinfo := 0, vsd := Vsd.reset, sum := Summary.reset }

def Slot.reset : Slot :=
  { held := false, ws := Workspace.reset, queues := Vector.replicate 4 [], lcrd := Vector.replicate 8 0,
    lext := Vector.replicate 8 0, capf := 0, link := none, trpc := 0, tract := false, actNo := 0, wait := none,
    waitNo := 0, waitSince := 0, runSince := 0, yielded := none, launch := none, preempt := none, fwFault := none,
    handlerDue := false, recompose := false, members := [], reply := none, chainLen := 0, taskId := 0, liveAt := none,
    woken := none, place := none, block := none, codeFrom := 0, cinvs := [], lost := [] }

def TTEntry.reset : TTEntry :=
  { addr := 0, vcap := 0, vsa := 0, qsel := 0, slot := 0, bound := false, blk := false, prio := 0, valid := false }

def Channel.reset : Channel := { flight := [], bytes := 0, drops := 0 }
def Pred.reset : Pred := { valid := false, conf := 0, tag := 0, index := 0, cx := 0 }
def Ticket.reset : Ticket :=
  { state := .free, gen := 0, owner := 0, tbl := 0, key := 0, base := 0, stride := 0, len := 0, dst := 0, pidx := 0,
    dryKind := 0, fault := .none, src := 0, asked := 0, got := 0, data := [], orphan := false, no := 0, skipped := [],
    ahead := [] }
def Latch.reset : Latch :=
  { full := false, klen := 0, ncol := 0, fmt := .bf16, tab := .preset false, data := 0, scales := 0, bad := false }
def Mx.reset : Mx :=
  { queue := [], ctx := { a := .bf16, b := .bf16, atab := .preset false, btab := .preset false },
    latch := Vector.replicate 2 Latch.reset, acc := Vector.replicate 4 0, pushed := 0, done := 0, err := none,
    accBad := [], head := none, headK := 0, records := [] }

def Core.reset : Core :=
  { lm := [], full := [], slots := Vector.replicate 8 Slot.reset, cur := 0, lastAt := Vector.replicate 8 7,
    tiles := Vector.replicate 16 0, masks := Vector.replicate 4 0, local4 := Vector.replicate 4 [],
    cts := Vector.replicate 4 (.preset false), preds := Vector.replicate 4 (Vector.replicate 16 Pred.reset),
    pth := Vector.replicate 4 4, specbud := 65536, tickets := Vector.replicate 32 Ticket.reset,
    chans := Vector.replicate 8 Channel.reset, tt := [], runList := [], fillRow := 0, deque := [], sendQ := [],
    inbound := [], counters := [], mx := Mx.reset, nextSeq := [], unanswered := [], dirQ := [], aside := [],
    pageIns := [], combines := [], steal := .busy, owed := [], lent := none, retired := false,
    icache := [], codeFrom := 0, l1 := [], taskNo := 0, pmoves := 0, strays := [], arrivals := [] }

def Cluster.reset : Cluster :=
  { owner := none, csp := [], full := [], copies := [], late := [], ulines := [], l2 := [], composeQ := [],
    mxNext := 0 }

def Die.reset : Die :=
  { dsw := [], launchQ := [], reports := [], window := none, faults := [], lists := [], listNo := 0, walkers := [],
    walks := [], lastWalk := 0, thermal := .normal, lastErr := none }

/-- The machine right after power-on reset (R381): no context exists and the service cores wait for an image. -/
def State.reset : State :=
  { hereCid := 0, here := Core.reset, others := [], clusters := [], dies := [], mem := [], contexts := [],
    waiters := [], replies := [], redirects := [], launches := [], nextLaunch := 0, fwMsgs := [], falls := 0,
    lastTrig := 0, snapHeld := false, trigEn := [], fallAt := [], trigDrops := 0, snapshot := none, corrected := [],
    lastErrs := [], exports := [], grants := [], bars := [], lastRead := 0, savedTasks := [], savedClusters := [],
    firmware := .halted false, damaged := [], oldWalks := [], oldCode := [], agenda := [], now := 0, tick := 0, ilen := 1,
    parkNo := 0 }

end Sys2Proof.Machine
end

