-- ==== Sys2Proof/Machine/Flags.lean ====
section
/-! DEFINITION. The flag computations: FL (R113), the condition codes (R60) and the sticky bits of FPF (R89, R90). -/

namespace Sys2Proof.Machine

/-- FL as bits 3:0: Z, N, C, V (R108). -/
def Ctl.fl (c : Ctl) : BitVec 4 :=
  BitVec.ofBool c.z ++ BitVec.ofBool c.n ++ BitVec.ofBool c.c ++ BitVec.ofBool c.v

def Ctl.setFl (c : Ctl) (f : BitVec 4) : Ctl :=
  { c with z := f.getLsbD 3, n := f.getLsbD 2, c := f.getLsbD 1, v := f.getLsbD 0 }

/-- ADD: carry out of bit 63, signed overflow (R113). -/
def Ctl.addFl (c : Ctl) (a b : Word) : Ctl :=
  { c with
    z := a + b == 0
    n := (a + b).msb
    c := decide (2 ^ 64 ≤ a.toNat + b.toNat)
    v := a.msb == b.msb && (a + b).msb != a.msb }

/-- SUB and CMP: C is 1 if there is no borrow (R113). -/
def Ctl.subFl (c : Ctl) (a b : Word) : Ctl :=
  { c with
    z := a - b == 0
    n := (a - b).msb
    c := decide (b.toNat ≤ a.toNat)
    v := a.msb != b.msb && (a - b).msb != a.msb }

/-- TST (R113). -/
def Ctl.tstFl (c : Ctl) (a b : Word) : Ctl :=
  { c with z := a &&& b == 0, n := (a &&& b).msb, c := false, v := false }

/-- The condition codes on FL (R60). -/
def Cond.holds (k : Cond) (c : Ctl) : Bool :=
  match k with
  | .eq => c.z
  | .ne => !c.z
  | .lt => c.n != c.v
  | .ge => c.n == c.v
  | .le => c.z || c.n != c.v
  | .gt => !c.z && c.n == c.v
  | .ltu => !c.c
  | .geu => c.c
  | .leu => !c.c || c.z
  | .gtu => c.c && !c.z
  | .mi => c.n
  | .pl => !c.n
  | .vs => c.v
  | .vc => !c.v
  | .al => true

/-! The bits of FPF (R89). -/

def fInv : Byte := 1
def fDz : Byte := 2
def fOvf : Byte := 4
def fUnf : Byte := 8
def fInx : Byte := 16
def fLovf : Byte := 32
def fLvoid : Byte := 64
def fClip : Byte := 128

end Sys2Proof.Machine
end

