-- ==== Sys2Proof/Machine/Float.lean ====
section
/-! DEFINITION. Number formats, exact arithmetic and rounding (R76 to R92), code tables (R93 to R98) and the LX8
lattice (R100 to R106). Finite values are natural multiples of a unit with a sign: 2^-149 for an element (FV), 2^-298
for a value about to be rounded (a fraction num/den of that unit). -/

namespace Sys2Proof.Machine

/-- The value of a floating-point element; fin neg m is ±m·2^-149. -/
inductive FV where
  | nan
  | inf (neg : Bool)
  | fin (neg : Bool) (m : Nat)
  deriving DecidableEq, Repr

/-- A value to be converted or rounded; fin neg n d is ±(n/d)·2^-298. -/
inductive XV where
  | nan
  | inf (neg : Bool)
  | fin (neg : Bool) (num den : Nat)
  deriving DecidableEq, Repr

/-- A binary format (R78); special: the top exponent field holds infinities and NaNs (R79). -/
structure Fmt where
  ebits : Nat
  fbits : Nat
  bias  : Nat
  special : Bool
  deriving DecidableEq, Repr

def fp32 : Fmt := ⟨8, 23, 127, true⟩
def fp16 : Fmt := ⟨5, 10, 15, true⟩
def bf16 : Fmt := ⟨8, 7, 127, true⟩
def w19 : Fmt := ⟨8, 10, 127, true⟩
def fp4 : Fmt := ⟨2, 1, 1, false⟩

def unit : Nat := 2 ^ 149

def Fmt.width (f : Fmt) : Nat := f.ebits + f.fbits + 1
/-- The code of infinity, of the canonical NaN and of the largest finite value, without the sign. -/
def Fmt.infCode (f : Fmt) : Nat := (2 ^ f.ebits - 1) * 2 ^ f.fbits
def Fmt.nanCode (f : Fmt) : Nat := f.infCode + 2 ^ (f.fbits - 1)
def Fmt.maxCode (f : Fmt) : Nat := if f.special then f.infCode - 1 else 2 ^ (f.ebits + f.fbits) - 1

/-- The value of a code (R78 to R80). -/
def Fmt.decode (f : Fmt) (code : Nat) : FV :=
  let neg := decide (code / 2 ^ (f.ebits + f.fbits) % 2 = 1)
  let e := code / 2 ^ f.fbits % 2 ^ f.ebits
  let frac := code % 2 ^ f.fbits
  if f.special && e == 2 ^ f.ebits - 1 then (if frac = 0 then .inf neg else .nan)
  else if e = 0 then .fin neg (frac * 2 ^ (150 - f.bias - f.fbits))
  else .fin neg ((2 ^ f.fbits + frac) * 2 ^ (149 + e - f.bias - f.fbits))

def FV.toXV : FV → XV
  | .nan => .nan
  | .inf n => .inf n
  | .fin n m => .fin n (m * unit) 1

/-- Signed multiples of 2^-149. -/
def FV.toInt : FV → Int
  | .fin true m => -(m : Int)
  | .fin false m => m
  | _ => 0

/-- Whether rounding goes to hi, given the quotient lo with remainder rem of d (R86, R87); u is the draw. -/
def roundUp (r : Round) (u : Nat) (neg : Bool) (lo rem d : Nat) : Bool :=
  match r with
  | .rne => decide (d < 2 * rem) || (decide (d = 2 * rem) && decide (lo % 2 = 1))
  | .rtz => false
  | .rup => !neg && decide (0 < rem)
  | .rdn => neg && decide (0 < rem)
  | .sr => decide (2 ^ 16 ≤ rem * 2 ^ 16 / d + u)

/-- num/den rounded to a multiple of 2^p: the quotient and whether it is inexact. -/
def roundQ (r : Round) (u : Nat) (neg : Bool) (num den p : Nat) : Nat × Bool :=
  let d := den * 2 ^ p
  (num / d + (if roundUp r u neg (num / d) (num % d) d then 1 else 0), decide (num % d ≠ 0))

/-- The smallest quantum of a format: exponent p of 2^p units of 2^-298. -/
def Fmt.pmin (f : Fmt) : Nat := 299 - f.bias - f.fbits

/-- The code of ±(num/den)·2^-298 in a format, rounded once, with its flags (R83, R86, R90, R91). -/
def Fmt.round (f : Fmt) (r : Round) (u : Nat) (sat : Bool) (neg : Bool) (num den : Nat) : Nat × Byte :=
  let p := max (Nat.log2 (num / den) - f.fbits) f.pmin
  let (m, inexact) := roundQ r u neg num den p
  let code := (p - f.pmin) * 2 ^ f.fbits + m
  let sign := if neg then 2 ^ (f.ebits + f.fbits) else 0
  if f.maxCode < code then
    let big := !sat && f.special && (match r with
      | .rne => true | .sr => true | .rtz => false | .rup => !neg | .rdn => neg)
    (sign + (if big then f.infCode else f.maxCode), fOvf ||| fInx)
  else
    let tiny := decide (num < den * 2 ^ (f.pmin + f.fbits))
      && decide ((roundQ r u neg num den (f.pmin - 1)).1 < 2 ^ (f.fbits + 1))
    (sign + code, (if inexact then fInx else 0) ||| (if tiny && inexact then fUnf else 0))

/-- The sign of an exact zero sum of operands with opposite signs (R83). -/
def zeroNeg (r : Round) : Bool := r == .rdn

/-- The exact sum of two signed magnitudes in units of 2^-298, rounded in f. -/
def Fmt.sum (f : Fmt) (r : Round) (n1 : Bool) (m1 : Nat) (n2 : Bool) (m2 : Nat) : Nat × Byte :=
  if n1 == n2 then f.round r 0 false n1 (m1 + m2) 1
  else if m1 = m2 then f.round r 0 false (zeroNeg r) 0 1
  else if m2 < m1 then f.round r 0 false n1 (m1 - m2) 1
  else f.round r 0 false n2 (m2 - m1) 1

def Fmt.sign (f : Fmt) (neg : Bool) : Nat := if neg then 2 ^ (f.ebits + f.fbits) else 0
def Fmt.infinity (f : Fmt) (neg : Bool) : Nat := f.sign neg + f.infCode

/-- x + y, rounded once (R82, R83). -/
def Fmt.add (f : Fmt) (r : Round) (x y : FV) : Nat × Byte :=
  match x, y with
  | .nan, _ => (f.nanCode, 0)
  | _, .nan => (f.nanCode, 0)
  | .inf a, .inf b => if a == b then (f.infinity a, 0) else (f.nanCode, fInv)
  | .inf a, .fin _ _ => (f.infinity a, 0)
  | .fin _ _, .inf b => (f.infinity b, 0)
  | .fin a m, .fin b n => f.sum r a (m * unit) b (n * unit)

def FV.neg : FV → FV
  | .nan => .nan | .inf n => .inf (!n) | .fin n m => .fin (!n) m

/-- x · y + z with one rounding (R147); a product of 0 and ∞ is invalid whatever z is (log entry 26, DEDUCED). -/
def Fmt.fma (f : Fmt) (r : Round) (x y z : FV) : Nat × Byte :=
  match x, y with
  | .nan, _ => (f.nanCode, 0)
  | _, .nan => (f.nanCode, 0)
  | .inf _, .fin _ 0 => (f.nanCode, fInv)
  | .fin _ 0, .inf _ => (f.nanCode, fInv)
  | .fin a m, .fin b n =>
    match z with
    | .nan => (f.nanCode, 0)
    | .inf c => (f.infinity c, 0)
    | .fin c k => f.sum r (a != b) (m * n) c (k * unit)
  | x, y =>
    let s := (match x with | .inf a => a | .fin a _ => a | .nan => false) !=
      (match y with | .inf a => a | .fin a _ => a | .nan => false)
    match z with
    | .nan => (f.nanCode, 0)
    | .inf c => if c == s then (f.infinity c, 0) else (f.nanCode, fInv)
    | .fin _ _ => (f.infinity s, 0)

/-- x · y, rounded once. -/
def Fmt.mul (f : Fmt) (r : Round) (x y : FV) : Nat × Byte :=
  match x, y with
  | .nan, _ => (f.nanCode, 0)
  | _, .nan => (f.nanCode, 0)
  | .inf _, .fin _ 0 => (f.nanCode, fInv)
  | .fin _ 0, .inf _ => (f.nanCode, fInv)
  | .inf a, .inf b => (f.infinity (a != b), 0)
  | .inf a, .fin b _ => (f.infinity (a != b), 0)
  | .fin a _, .inf b => (f.infinity (a != b), 0)
  | .fin a m, .fin b n => f.round r 0 false (a != b) (m * n) 1

/-- x ÷ y as a value to be rounded, with DZ, which R89 gives a finite non-zero value over zero, and INV (R89, R82). -/
def divX (x y : FV) : XV × Byte :=
  match x, y with
  | .nan, _ => (.nan, 0)
  | _, .nan => (.nan, 0)
  | .inf _, .inf _ => (.nan, fInv)
  | .fin _ 0, .fin _ 0 => (.nan, fInv)
  | .inf a, .fin b _ => (.inf (a != b), 0)
  | .fin a _, .inf b => (.fin (a != b) 0 1, 0)
  | .fin a _, .fin b 0 => (.inf (a != b), fDz)
  | .fin a m, .fin b n => (.fin (a != b) (m * 2 ^ 298) n, 0)

/-- x ÷ y in format f, rounded once (R147). -/
def Fmt.div (f : Fmt) (r : Round) (x y : FV) : Nat × Byte :=
  match divX x y with
  | (.nan, g) => (f.nanCode, g)
  | (.inf n, g) => (f.infinity n, g)
  | (.fin n a d, g) => let (c, h) := f.round r 0 false n a d; (c, g ||| h)

/-- The order of two values that are not NaN: x < y, with −0 equal to +0. -/
def FV.lt (x y : FV) : Bool :=
  match x, y with
  | .nan, _ => false
  | _, .nan => false
  | .inf a, .inf b => a && !b
  | .inf a, .fin _ _ => a
  | .fin _ _, .inf b => !b
  | x, y => decide (x.toInt < y.toInt)

def FV.isNan : FV → Bool
  | .nan => true | _ => false

def FV.isNeg : FV → Bool
  | .inf n => n | .fin n _ => n | .nan => false

/-- VMAX of two values, with their codes (R147): NaN if either is, +0 over −0. -/
def Fmt.maxOf (f : Fmt) (x y : Nat) : Nat :=
  let a := f.decode x; let b := f.decode y
  if a.isNan || b.isNan then f.nanCode
  else if a.lt b then y else if b.lt a then x else if a.isNeg then y else x

def Fmt.minOf (f : Fmt) (x y : Nat) : Nat :=
  let a := f.decode x; let b := f.decode y
  if a.isNan || b.isNan then f.nanCode
  else if a.lt b then x else if b.lt a then y else if a.isNeg then x else y

/-- |x| rounded to an integer in the given mode, with its sign, and whether it is inexact. -/
def roundInt (r : Round) (u : Nat) (neg : Bool) (num den : Nat) : Int × Bool :=
  let (m, i) := roundQ r u neg num den 298
  (if neg then -(m : Int) else m, i)

/-- A value to an integer target of w bits (R91, R92). -/
def toIntTarget (w : Nat) (wrap : Bool) (r : Round) (u : Nat) (x : XV) : Nat × Byte :=
  let hi : Int := 2 ^ (w - 1) - 1
  let lo : Int := -(2 ^ (w - 1))
  let bits (v : Int) : Nat := (v % 2 ^ w).toNat
  match x with
  | .nan => (0, fInv)
  | .inf n => (bits (if n then lo else hi), fInv)
  | .fin n a d =>
    let (v, i) := roundInt r u n a d
    if wrap then (bits v, if i then fInx else 0)
    else if hi < v then (bits hi, fInv)
    else if v < lo then (bits lo, fInv)
    else (bits v, if i then fInx else 0)

/-! ## Code tables (R93 to R98) -/

/-- The format of a preset: E4M3 with its two NaN codes apart, or E5M2 (R98). -/
def e4m3 : Fmt := ⟨4, 3, 7, false⟩
def e5m2 : Fmt := ⟨5, 2, 15, true⟩

/-- The value that a code of a table decodes to (R96, R98). -/
def CodeTable.decode (t : CodeTable) (c : Byte) : FV :=
  match t with
  | .preset false => if c &&& 0x7F = 0x7F then .nan else e4m3.decode c.toNat
  | .preset true => e5m2.decode c.toNat
  | .image vals attr =>
    if attr.getLsbD 8 && attr.extractLsb' 0 8 == c then .nan
    else if attr.getLsbD 17 && attr.extractLsb' 9 8 == c then .inf false
    else if attr.getLsbD 26 && attr.extractLsb' 18 8 == c then .inf true
    else w19.decode (vals.getD c.toNat 0).toNat

/-- The attribute word (R95, R98). -/
def CodeTable.attr : CodeTable → BitVec 27
  | .preset false => 0x17F#27
  | .preset true => 1#1 ++ 0xFC#8 ++ 1#1 ++ 0x7C#8 ++ 1#1 ++ 0x7F#8
  | .image _ a => a

/-- Whether the attribute word names the code. -/
def CodeTable.names (t : CodeTable) (c : Byte) : Bool :=
  (t.attr.getLsbD 8 && t.attr.extractLsb' 0 8 == c)
    || (t.attr.getLsbD 17 && t.attr.extractLsb' 9 8 == c)
    || (t.attr.getLsbD 26 && t.attr.extractLsb' 18 8 == c)

/-- F of R96: the finite codes not named, with sign and value in units of 2^-149. -/
def CodeTable.finite (t : CodeTable) : List (Byte × Bool × Int) :=
  (List.range 256).filterMap fun c =>
    let c : Byte := BitVec.ofNat 8 c
    match t.decode c with
    | .fin n m => if t.names c then none else some (c, n, (FV.fin n m).toInt)
    | _ => none

/-- Choose of R96. -/
def chooseCode (s : List (Byte × Bool × Int)) (neg : Bool) : Byte :=
  let s1 := s.filter fun x => x.2.1 == neg
  let s1 := if s1.isEmpty then s else s1
  let s2 := s1.filter fun x => !x.1.getLsbD 0
  let s2 := if s2.isEmpty then s1 else s2
  (s2.head?.map (·.1)).getD 0

def leastOf (l : List Int) : Int := l.foldl min (l.headD 0)
def greatestOf (l : List Int) : Int := l.foldl max (l.headD 0)

/-- The codes whose value is v. -/
def withValue (f : List (Byte × Bool × Int)) (v : Int) : List (Byte × Bool × Int) := f.filter fun x => x.2.2 == v

/-- The +0 code of R92: the codes at the least |v|, chosen for +0. -/
def CodeTable.zeroCode (t : CodeTable) : Byte :=
  let f := t.finite
  let least := leastOf (f.map fun x => (x.2.2.natAbs : Int))
  chooseCode (f.filter fun x => (x.2.2.natAbs : Int) == least) false

/-- The draw of R87 between lo and hi for a value x, by magnitudes; where those of lo and hi are equal, by distances from lo
(log entry 49, DESIGN CHOICE). -/
def drawsHi (x lo hi : Int) (u : Nat) : Bool :=
  let t : Int :=
    if hi.natAbs = lo.natAbs then ((x - lo).natAbs * 2 ^ 16 / (hi - lo).natAbs : Nat)
    else Int.fdiv (((x.natAbs : Int) - lo.natAbs) * 2 ^ 16) ((hi.natAbs : Int) - lo.natAbs)
  decide (2 ^ 16 ≤ t + u)

/-- EncodeC8 and OverflowC8 of R96 and R97 for the value ±(num/den)·2^-298. R96 names no hi for a zero under .sr: it takes lo
without a draw, in a table without a zero too (log entry 49, DESIGN CHOICE). A zero in a table that holds no zero follows R96 and
R97, with the sign of x in Choose and INX, where R92's row for −0 names the +0 code without a flag (log entry 49, DEDUCED). -/
def CodeTable.encode (t : CodeTable) (r : Round) (u : Nat) (sat : Bool) (neg : Bool) (num den : Nat) : Byte × Byte :=
  let f := t.finite
  let vals := f.map (·.2.2)
  let x : Int := if neg then -(num : Int) else num
  let sc (v : Int) : Int := v * (unit * den : Nat)
  let vmax := greatestOf vals
  let vmin := leastOf vals
  let near : Int := leastOf (vals.map fun v => ((sc v - x).natAbs : Int))
  let rneVal : Int := leastOf (vals.filter fun v => ((sc v - x).natAbs : Int) == near)
  let rneSet := f.filter fun y => ((sc y.2.2 - x).natAbs : Int) == near
  if sc vmax < x || x < sc vmin then
    let top := decide (sc vmax < x)
    let edge := if top then vmax else vmin
    let inner := if top then vals.filter (fun v => decide (v < vmax)) else vals.filter (fun v => decide (vmin < v))
    let v2 := if inner.isEmpty then edge else if top then greatestOf inner else leastOf inner
    let gap : Int := (edge - v2).natAbs
    let past : Int := (x - sc edge).natAbs
    let infOk := if top then t.attr.getLsbD 17 else t.attr.getLsbD 26
    let drawn : Bool := match r with
      | .rup => top
      | .rdn => !top
      | .rne => decide (sc gap ≤ 2 * past)
      | .sr => decide (sc gap ≤ past) || drawsHi x (sc edge) (sc (if top then edge + gap else edge - gap)) u
      | .rtz => false
    let code := if !sat && infOk && drawn then
        (if top then t.attr.extractLsb' 9 8 else t.attr.extractLsb' 18 8)
      else chooseCode (withValue f edge) neg
    (code, fOvf ||| fInx ||| (match t.decode code with | .fin _ 0 => fUnf | _ => 0))
  else
    let toward := if neg then vals.filter (fun v => decide (x ≤ sc v) && decide (v ≤ 0))
      else vals.filter (fun v => decide (sc v ≤ x) && decide (0 ≤ v))
    let rtzVal := if toward.isEmpty then rneVal else if neg then leastOf toward else greatestOf toward
    let rtzSet := if toward.isEmpty then rneSet else withValue f rtzVal
    let up := vals.filter fun v => decide (x ≤ sc v)
    let dn := vals.filter fun v => decide (sc v ≤ x)
    let away := if neg then vals.filter (fun v => decide (sc v < x)) else vals.filter (fun v => decide (x < sc v))
    let s := match r with
      | .rne => rneSet
      | .rtz => rtzSet
      | .rup => withValue f (leastOf up)
      | .rdn => withValue f (greatestOf dn)
      | .sr =>
        let lo := (t.decode (chooseCode rtzSet neg)).toInt
        if sc lo = x || num = 0 || away.isEmpty then rtzSet
        else
          let hi := if neg then greatestOf away else leastOf away
          let d := ((sc hi).natAbs - (sc lo).natAbs : Nat)
          if 2 ^ 16 ≤ (x.natAbs - (sc lo).natAbs) * 2 ^ 16 / d + u then withValue f hi else withValue f lo
    let c := chooseCode s neg
    let v := (t.decode c).toInt
    (c, (if sc v = x then 0 else fInx) ||| (if x ≠ 0 ∧ v = 0 then fUnf else 0))

/-- A value to C8 (R92, R96, R97). An infinity without its code takes, among the codes of the largest or smallest finite value,
the one that Choose of R96 gives for the sign of the infinity: −0 for −inf where the least value is 0 (log entry 49, DEDUCED,
DEDUCED). -/
def toC8 (t : CodeTable) (r : Round) (u : Nat) (sat : Bool) (x : XV) : Byte × Byte :=
  match x with
  | .nan => if t.attr.getLsbD 8 then (t.attr.extractLsb' 0 8, 0) else (t.zeroCode, fInv)
  | .inf n =>
    if (if n then t.attr.getLsbD 26 else t.attr.getLsbD 17) then
      (if n then t.attr.extractLsb' 18 8 else t.attr.extractLsb' 9 8, 0)
    else
      let vals := t.finite.map (·.2.2)
      let v := if n then leastOf vals else greatestOf vals
      (chooseCode (withValue t.finite v) n, fInv)
  | .fin n a d => t.encode r u sat n a d

/-- A value to a floating-point format or FP4 (R91, R92). -/
def toFloat (f : Fmt) (r : Round) (u : Nat) (sat : Bool) (x : XV) : Nat × Byte :=
  match x with
  | .nan => if f.special then (f.nanCode, 0) else (0, fInv)
  | .inf n => if f.special then (f.infinity n, 0) else (f.sign n + f.maxCode, fInv)
  | .fin n a d => f.round r u sat n a d

/-! ## The random generator (R159) -/

def rngRound (x y : Word) : Word × Word :=
  let x := x + y
  let x := x ^^^ (x >>> 31)
  let x := x * 0xA4C293E15B7D06F3#64
  let x := x ^^^ (x >>> 29)
  (x, y + 0x7F4AC91528E3B60D#64)

/-- G(key, ctr, idx) of R159. -/
def rng (key ctr idx : BitVec 32) : BitVec 32 :=
  let p := rngRound (ctr ++ idx) (key ++ (key ^^^ 0x6A3D91C5#32))
  let p := rngRound p.1 p.2
  let p := rngRound p.1 p.2
  let p := rngRound p.1 p.2
  p.1.extractLsb' 32 32 ^^^ p.1.extractLsb' 0 32

/-- The draw u of R87 for element e. -/
def srDraw (key ctr : BitVec 32) (e : Nat) : Nat := (rng key ctr (BitVec.ofNat 32 e)).toNat % 2 ^ 16

/-! ## LX8 (R100 to R106) -/

/-- Twice the coordinates c0 to c7 of a code, and whether it is void (R100, R101). -/
def lx8Coords (c : BitVec 16) : List Int × Bool :=
  if c.getLsbD 15 then
    let mag (i : Nat) : Int := if c.getLsbD (7 + i) then 3 else 1
    let rest := (List.range 7).map fun i => (if c.getLsbD i then -mag (i + 1) else mag (i + 1))
    let total : Int := rest.foldl (· + ·) 0
    let c0 : Int := if (total + mag 0) % 4 = 0 then mag 0 else -mag 0
    (c0 :: rest, false)
  else
    let e (i : Nat) : Bool := if i = 0 then
        (List.range 7).foldl (fun a j => a != c.getLsbD (8 + j)) false
      else c.getLsbD (7 + i)
    let void := (List.range 8).any fun i => c.getLsbD i && !e i
    if void then (List.replicate 8 0, true)
    else ((List.range 8).map fun i => if e i then (if c.getLsbD i then -2 else 2) else 0, false)

/-- The decoded value c × scale in W19, with flags (R105); c2 is the doubled coordinate. A zero coordinate counts as +0
(log entry 49, DEDUCED). -/
def lx8Value (c2 : Int) (scale : FV) : FV × Byte :=
  match scale with
  | .nan => (.nan, fInv)
  | .inf n => if c2 = 0 then (.nan, fInv) else (.inf (n != decide (c2 < 0)), fInv)
  | .fin n m =>
    let (code, g) := w19.round .rne 0 false (n != decide (c2 < 0)) (c2.natAbs * m * 2 ^ 148) 1
    (w19.decode code, g)

/-- z (in units of 2^-149) rounded to an integer, ties to even. -/
def nearInt (z : Int) : Int :=
  let (m, _) := roundQ .rne 0 false z.natAbs 1 149
  if z < 0 then -(m : Int) else m

/-- The lowest index at which l is greatest. -/
def argMax (l : List Nat) : Nat := l.findIdx (· == l.foldl max 0)
def argMin (l : List Nat) : Nat := l.findIdx (· == l.foldl min (l.headD 0))

/-- NearestD8 of R106 on multiples of 2^-149. -/
def nearestD8 (z : List Int) : List Int :=
  let c := z.map nearInt
  let e := (z.zip c).map fun (x, y) => x - y * unit
  if (c.foldl (· + ·) 0) % 2 ≠ 0 then
    let j := argMax (e.map Int.natAbs)
    c.modify j fun x => if 0 ≤ e.getD j 0 then x + 1 else x - 1
  else c

/-- ClampLX8 of R106 on doubled coordinates. -/
def clampLx8 (half : Bool) (p : List Int) (y : List Int) : List Int :=
  let a := y.map Int.natAbs
  if half then
    let p := p.map fun x => if 3 < x then 3 else if x < -3 then -3 else x
    if (p.foldl (· + ·) 0) % 4 ≠ 0 then p.modify (argMin a) fun x => -x else p
  else
    let p := p.map fun x => if 2 < x then 2 else if x < -2 then -2 else x
    if (p.countP (· ≠ 0)) % 2 = 1 then
      let big := a.foldl max 0 + 1
      let live := (p.zip a).map fun (x, v) => if x ≠ 0 then v else big
      p.modify (argMin live) fun _ => 0
    else p

/-- CodeOf of R106, from doubled coordinates. -/
def codeOfLx8 (half : Bool) (p : List Int) : BitVec 16 :=
  let bit (i : Nat) (f : Int → Bool) : Nat := if f (p.getD i 0) then 1 else 0
  let s (i : Nat) : Nat := bit i fun x => decide (x < 0)
  if half then
    let m (i : Nat) : Nat := bit i fun x => decide (x.natAbs = 3)
    BitVec.ofNat 16 (2 ^ 15 + (List.range 8).foldl (fun a i => a + m i * 2 ^ (7 + i)) 0
      + (List.range 7).foldl (fun a i => a + s (i + 1) * 2 ^ i) 0)
  else
    let e (i : Nat) : Nat := bit i fun x => decide (x ≠ 0)
    BitVec.ofNat 16 ((List.range 7).foldl (fun a i => a + e (i + 1) * 2 ^ (8 + i)) 0
      + (List.range 8).foldl (fun a i => a + s i * 2 ^ i) 0)

/-- QuantiseLX8 of R106. -/
def quantiseLx8 (y : List FV) : BitVec 16 × Byte :=
  if y.any fun v => match v with | .fin _ _ => false | _ => true then (0, fInv)
  else
    let z := y.map FV.toInt
    let a := nearestD8 z
    let b := (nearestD8 (z.map fun x => x - 2 ^ 148)).map fun x => 2 * x + 1
    let dist (p : List Int) : Nat := (z.zip p).foldl (fun acc (x, c) => acc + (2 * x - c * unit).natAbs ^ 2) 0
    let a2 := a.map fun x => 2 * x
    let half := decide (dist b < dist a2)
    let p := if half then b else a2
    let ok := if half then p.all fun x => decide (x.natAbs = 1 ∨ x.natAbs = 3)
      else p.all fun x => decide (x.natAbs = 0 ∨ x.natAbs = 2)
    if ok then (codeOfLx8 half p, 0)
    else (codeOfLx8 half (clampLx8 half p z), fLovf)

/-! ## VEXP2 (R157) -/

/-- RoundRNE32 of a value as an FP32 code read back. -/
def ofCode32 (p : Nat × Byte) : FV × Byte := (fp32.decode p.1, p.2)

/-- VExp2 of R157: the FP32 code and the flags. -/
def vexp2 (x : FV) : Nat × Byte :=
  match x with
  | .nan => (fp32.nanCode, 0)
  | .inf false => (fp32.infCode, 0)
  | .inf true => (0, 0)
  | .fin neg m =>
    let z : Int := (FV.fin neg m).toInt
    if 128 * (unit : Int) ≤ z then (fp32.infCode, fOvf ||| fInx)
    else if z < -(150 * (unit : Int)) then (0, fUnf ||| fInx)
    else
      let n : Int := z / (unit : Int)
      let f : FV := .fin false (z - n * unit).toNat
      let (t1, g1) := ofCode32 (fp32.fma .rne (.fin false (5125 * 2 ^ 133)) f (.fin false (14805 * 2 ^ 133)))
      let (t2, g2) := ofCode32 (fp32.fma .rne t1 f (.fin false (45600 * 2 ^ 133)))
      let (p, g3) := ofCode32 (fp32.fma .rne t2 f (.fin false unit))
      let pm := p.toInt.toNat
      let (c, g4) := if 0 ≤ n then fp32.round .rne 0 false false (pm * unit * 2 ^ n.toNat) 1
        else fp32.round .rne 0 false false (pm * unit) (2 ^ (-n).toNat)
      (c, g1 ||| g2 ||| g3 ||| g4)

end Sys2Proof.Machine
end

