-- ==== Sys2Proof/Machine/Ops.lean ====
section
/-! DEFINITION. The named operations over the state: tables and memories, cores and workspaces, retiring and parking an
instruction, the fault gatherer, tiles in save areas, and taking a trap and returning from one. -/

namespace Sys2Proof.Machine

/-! ## Tables, vectors, lists of numbers -/

def Table.get {α : Type} : Table α → Nat → Option α
  | [], _ => none
  | (j, x) :: t, k => if j = k then some x else Table.get t k

def Table.put {α : Type} : Table α → Nat → α → Table α
  | [], k, v => [(k, v)]
  | (j, x) :: t, k, v =>
    if j < k then (j, x) :: Table.put t k v else if j = k then (k, v) :: t else (k, v) :: (j, x) :: t

def Table.erase {α : Type} (t : Table α) (k : Nat) : Table α := t.filter fun p => p.1 ≠ k

def vget {α : Type} {n : Nat} (v : Vector α n) (i : Nat) (d : α) : α := if h : i < n then v[i] else d
def vset {α : Type} {n : Nat} (v : Vector α n) (i : Nat) (x : α) : Vector α n := if h : i < n then v.set i x else v

/-- Put a number into a rising list. -/
def insertNat : List Nat → Nat → List Nat
  | [], k => [k]
  | j :: t, k => if j < k then j :: insertNat t k else if j = k then j :: t else k :: j :: t

def eraseNat (l : List Nat) (k : Nat) : List Nat := l.filter fun j => j ≠ k

/-! ## Memory: one canonical form -/

/-- Addresses rise strictly and no listed byte is zero. -/
def Memory.wf (m : Memory) : Bool :=
  match m with
  | [] => true
  | [(_, b)] => b != 0
  | (a, b) :: (a', b') :: t => b != 0 && decide (a < a') && Memory.wf ((a', b') :: t)

/-- What an unlisted byte reads as (log entries 8, 12, DEDUCED). -/
def Memory.blank : Byte := 0

def Memory.get : Memory → Nat → Byte
  | [], _ => Memory.blank
  | (j, x) :: t, a => if j = a then x else if a < j then Memory.blank else Memory.get t a

/-- Write one byte, keeping the canonical form. -/
def Memory.put : Memory → Nat → Byte → Memory
  | [], a, b => if b = 0 then [] else [(a, b)]
  | (j, x) :: t, a, b =>
    if j < a then (j, x) :: Memory.put t a b
    else if j = a then (if b = 0 then t else (a, b) :: t)
    else (if b = 0 then (j, x) :: t else (a, b) :: (j, x) :: t)

/-- n bytes from a, little-endian (R139). -/
def Memory.readN (m : Memory) (a : Nat) : Nat → Nat
  | 0 => 0
  | n + 1 => (m.get a).toNat + 256 * Memory.readN m (a + 1) n

def Memory.writeN (m : Memory) (a : Nat) : Nat → Nat → Memory
  | 0, _ => m
  | n + 1, v => Memory.writeN (m.put a (BitVec.ofNat 8 v)) (a + 1) n (v / 256)

/-- Drop every byte below lo or at hi and above. -/
def Memory.within (m : Memory) (lo hi : Nat) : Memory := m.filter fun c => decide (lo ≤ c.1 ∧ c.1 < hi)
/-- Drop the bytes from lo up to hi: they read as the blank. -/
def Memory.clear (m : Memory) (lo hi : Nat) : Memory := m.filter fun c => !decide (lo ≤ c.1 ∧ c.1 < hi)

/-! ## Cores, clusters, dies -/

def clusterOf (cid : Nat) : Nat := cid / 8
def dieOf (cid : Nat) : Nat := cid / 8192
def dieOfCluster (c : Nat) : Nat := c / 1024
def quadOf (c : Nat) : Nat := (c / 1024) * 1024 + (c % 1024 / 32 / 2) * 16 + c % 32 / 2

def State.core (s : State) (cid : Nat) : Core :=
  if cid = s.hereCid then s.here else (s.others.get cid).getD Core.reset

def State.setCore (s : State) (cid : Nat) (c : Core) : State :=
  if cid = s.hereCid then { s with here := c } else { s with others := s.others.put cid c }

def State.modCore (s : State) (cid : Nat) (f : Core → Core) : State := s.setCore cid (f (s.core cid))

/-- Bring a core into focus. -/
def State.focus (s : State) (cid : Nat) : State :=
  if cid = s.hereCid then s
  else { s with hereCid := cid, here := s.core cid, others := (s.others.erase cid).put s.hereCid s.here }

def State.cluster (s : State) (c : Nat) : Cluster := (s.clusters.get c).getD Cluster.reset
def State.setCluster (s : State) (c : Nat) (x : Cluster) : State := { s with clusters := s.clusters.put c x }
def State.modCluster (s : State) (c : Nat) (f : Cluster → Cluster) : State := s.setCluster c (f (s.cluster c))
def State.die (s : State) (d : Nat) : Die := (s.dies.get d).getD Die.reset
def State.setDie (s : State) (d : Nat) (x : Die) : State := { s with dies := s.dies.put d x }
def State.modDie (s : State) (d : Nat) (f : Die → Die) : State := s.setDie d (f (s.die d))

/-- The numbers of the cores the state lists, the focus core among them. -/
def State.coreIds (s : State) : List Nat := insertNat (s.others.map (·.1)) s.hereCid

/-- The context that owns a core's cluster (R332). -/
def State.cxOf (s : State) (cid : Nat) : Option Nat := (s.cluster (clusterOf cid)).owner
/-- The context of the issuing task. -/
def State.cx (s : State) : Nat := (s.cxOf s.hereCid).getD 0
def State.ctxCfg (s : State) (cx : Nat) : Option ContextCfg := (s.contexts.get cx).map (·.cfg)

def Core.slot (c : Core) (i : Nat) : Slot := vget c.slots i Slot.reset
def Core.setSlot (c : Core) (i : Nat) (t : Slot) : Core := { c with slots := vset c.slots i t }
def Core.modSlot (c : Core) (i : Nat) (f : Slot → Slot) : Core := c.setSlot i (f (c.slot i))
def State.modSlot (s : State) (cid i : Nat) (f : Slot → Slot) : State := s.modCore cid fun c => c.modSlot i f

/-- The issuing task. -/
def State.task (s : State) : Slot := s.here.slots[s.here.cur]
def State.setTask (s : State) (t : Slot) : State :=
  { s with here := { s.here with slots := s.here.slots.set s.here.cur t } }
def State.modTask (s : State) (f : Slot → Slot) : State := s.setTask (f s.task)
def State.ws (s : State) : Workspace := s.task.ws
def State.setWs (s : State) (w : Workspace) : State := s.setTask { s.task with ws := w }
def State.modWs (s : State) (f : Workspace → Workspace) : State := s.setWs (f s.ws)
def State.modCtl (s : State) (f : Ctl → Ctl) : State := s.modWs fun w => { w with ctl := f w.ctl }

/-! ## Words of the workspace (R17, R107 to R109, R143, R252) -/

def Ctl.toWord (c : Ctl) : Word :=
  0#7 ++ c.repRem ++ c.repOff ++ c.repLen ++ c.repI ++ c.repSt ++ BitVec.ofBool c.repA ++ c.pres ++ c.cw
    ++ BitVec.ofBool c.rot ++ c.rrb ++ c.fl

def Cause.code : Cause → BitVec 4
  | .none => 0 | .illop => 1 | .priv => 2 | .align => 3 | .xlate => 4 | .perm => 5 | .qzacc => 6 | .mchk => 7
  | .svc => 8 | .trap => 9

def TaskState.code : TaskState → BitVec 4
  | .runnable => 0 | .parked => 1 | .trapped => 2 | .saved => 3

def Origin.code : Origin → BitVec 4
  | .message => 0 | .deque => 1 | .counter => 2 | .launch => 3 | .exits => 4

def Tsw.toWord (t : Tsw) : Word :=
  0#32 ++ t.chan ++ 0#3 ++ t.prio ++ 0#2 ++ t.cause.code ++ 0#4 ++ t.origin.code ++ t.state.code

def Vsd.toWord (v : Vsd) : Word :=
  v.vused ++ v.kused ++ 0#3 ++ BitVec.ofBool v.vhome ++ 0#4 ++ v.vcap ++ 0#21 ++ v.vsa

/-- The 64-bit word i of a workspace, i from 0 to 63. -/
def Workspace.word (w : Workspace) (i : Nat) : Word :=
  if i < 32 then vget w.g i 0
  else if i < 40 then vget w.mb (i - 32) 0
  else match i - 40 with
    | 0 => w.pc
    | 1 => w.ctl.toWord
    | 2 => w.vshape.setWidth 64
    | 3 => w.fpf.setWidth 64
    | 4 => w.srctr ++ w.srkey
    | 5 => w.tsw.toWord
    | 6 => w.resid
    | 7 => w.trinfo
    | 8 => w.vsd.toWord
    | 9 => 0#32 ++ w.sum.town
    | 10 => w.sum.fdisc ++ w.sum.pdisc
    | 11 => w.sum.lapse ++ w.sum.dryn
    | _ => 0

def Workspace.byte (w : Workspace) (o : Nat) : Byte := (w.word (o / 8)).extractLsb' (8 * (o % 8)) 8

/-- Replace byte i of a word. -/
def setByte (v : Word) (i : Nat) (b : Byte) : Word :=
  (v &&& ~~~(0xFF#64 <<< (8 * i))) ||| (b.setWidth 64 <<< (8 * i))

/-- A store to byte o acts on the g and mb bytes only (R19, R110). -/
def Workspace.setByteAt (w : Workspace) (o : Nat) (b : Byte) : Workspace :=
  if o < 256 then { w with g := vset w.g (o / 8) (setByte (vget w.g (o / 8) 0) (o % 8) b) }
  else if o < 320 then
    { w with mb := vset w.mb (o / 8 - 32) (setByte (vget w.mb (o / 8 - 32) 0) (o % 8) b) }
  else w

/-! ## Bytes of every memory -/

def Core.lmByte (c : Core) (o : Nat) : Byte :=
  if o < Config.slotBytes then (c.slot (o / 512)).ws.byte (o % 512) else c.lm.get o

def Core.setLmByte (c : Core) (o : Nat) (b : Byte) : Core :=
  if o < Config.slotBytes then c.modSlot (o / 512) fun t => { t with ws := t.ws.setByteAt (o % 512) b }
  else { c with lm := c.lm.put o b }

def State.byteAt (s : State) : Loc → Byte
  | .lm cid o => (s.core cid).lmByte o
  | .csp c o => (s.cluster c).csp.get o
  | .dsw d o => (s.die d).dsw.get o
  | .mqw _ => 0
  | .phys a => s.mem.get a

def State.setByteAt (s : State) (l : Loc) (b : Byte) : State :=
  match l with
  | .lm cid o => s.modCore cid fun c => c.setLmByte o b
  | .csp c o => s.modCluster c fun x => { x with csp := x.csp.put o b }
  | .dsw d o => s.modDie d fun x => { x with dsw := x.dsw.put o b }
  | .mqw _ => s
  | .phys a => { s with mem := s.mem.put a b }

def Loc.add : Loc → Nat → Loc
  | .lm cid o, n => .lm cid (o + n)
  | .csp c o, n => .csp c (o + n)
  | .dsw d o, n => .dsw d (o + n)
  | .mqw o, n => .mqw (o + n)
  | .phys a, n => .phys (a + n)

def Loc.off : Loc → Nat
  | .lm _ o => o | .csp _ o => o | .dsw _ o => o | .mqw o => o | .phys a => a

/-- The 64-byte line of a byte. -/
def Loc.line : Loc → Loc
  | .lm cid o => .lm cid (o / 64)
  | .csp c o => .csp c (o / 64)
  | .dsw d o => .dsw d (o / 64)
  | .mqw o => .mqw (o / 64)
  | .phys a => .phys (a / 64)

/-- The lines of n bytes from l, in address order. -/
def Loc.lines (l : Loc) (n : Nat) : List Loc :=
  if n = 0 then []
  else (List.range ((l.off % 64 + n - 1) / 64 + 1)).map fun i => l.line.add i

/-- n bytes from l as a number, little-endian. -/
def State.peek (s : State) (l : Loc) : Nat → Nat
  | 0 => 0
  | n + 1 => (s.byteAt l).toNat + 256 * State.peek s (l.add 1) n

/-- Write n bytes at l, little-endian. -/
def State.poke (s : State) (l : Loc) : Nat → Nat → State
  | 0, _ => s
  | n + 1, v => State.poke (s.setByteAt l (BitVec.ofNat 8 v)) (l.add 1) n (v / 256)

/-- The full/empty bit of the word that holds l (R210); DSW and memory have none. -/
def State.isFull (s : State) : Loc → Bool
  | .lm cid o => (s.core cid).full.contains (o / 4)
  | .csp c o => (s.cluster c).full.contains (o / 4)
  | _ => false

def State.setFull (s : State) (l : Loc) (f : Bool) : State :=
  match l with
  | .lm cid o => s.modCore cid fun c =>
      { c with full := if f then insertNat c.full (o / 4) else eraseNat c.full (o / 4), arrivals := c.arrivals.erase (o / 4) }
  | .csp c o => s.modCluster c fun x =>
      { x with full := if f then insertNat x.full (o / 4) else eraseNat x.full (o / 4) }
  | _ => s

/-- Write n bytes of memory at the home, and remember each half-word that changes (R73). -/
def State.pokeHome (s : State) (pa n v : Nat) : State :=
  let t := s.poke (.phys pa) n v
  let half (u : State) (i : Nat) : Half := BitVec.ofNat 16 (u.peek (.phys (2 * i)) 2)
  let is := ((List.range ((pa % 2 + n + 1) / 2)).map (pa / 2 + ·)).filter fun i => half s i != half t i
  { t with oldCode := s.oldCode ++ is.map fun i => (i, half s i, s.now) }

/-- Set or clear the bits of the words of n bytes from l. -/
def State.setFullRange (s : State) (l : Loc) (n : Nat) (f : Bool) : State :=
  (List.range ((l.off % 4 + n + 3) / 4)).foldl (fun s i => s.setFull (l.add (4 * i)) f) s

/-! ## g registers (R20, R111, R129) -/

/-- R129 then R111: the physical register that a g field names. -/
def Ctl.phys (c : Ctl) (r : GReg) : GReg :=
  let r1 : GReg := if c.repA && decide (8 ≤ r.toNat ∧ r.toNat < 16) then
      BitVec.ofNat 5 (8 + (r.toNat - 8 + c.repSt.toNat * c.repI.toNat) % 8) else r
  if c.rot && decide (16 ≤ r1.toNat) then BitVec.ofNat 5 (16 + (r1.toNat - 16 + c.rrb.toNat) % 16) else r1

/-- A physical register's bytes. -/
def Workspace.raw (w : Workspace) (p : GReg) : Word := w.g[p.toNat]
/-- Reads of g0 return zero (R20). -/
def Workspace.reg (w : Workspace) (p : GReg) : Word := if p = 0#5 then 0 else w.raw p
def Workspace.setReg (w : Workspace) (p : GReg) (v : Word) : Workspace :=
  { w with g := w.g.set p.toNat v }

/-- The value of a g operand. -/
def State.g (s : State) (r : GReg) : Word := s.ws.reg (s.ws.ctl.phys r)
/-- Write a g operand. -/
def State.setG (s : State) (r : GReg) (v : Word) : State := s.modWs fun w => w.setReg (w.ctl.phys r) v
/-- The register above an even one: the second of a pair, a name of its own that R129 and R111 map in turn (log entry 50, DEDUCED,
DEDUCED). -/
def GReg.next (r : GReg) : GReg := r + 1
/-- a and b operands that must be an even register from 2 to 30. -/
def evenPair (r : GReg) : Bool := r != 0#5 && !r.getLsbD 0

def State.addFpf (s : State) (f : Byte) : State := s.modWs fun w => { w with fpf := w.fpf ||| f }

/-! ## Free values -/

/-- One of n outcomes that a rule leaves open, and the advanced counter (log entry 5, DESIGN CHOICE). -/
def State.choose (s : State) (n : Nat) : Nat × State :=
  (Config.choice s.tick % n, { s with tick := s.tick + 1 })

/-! ## Completing, parking -/

/-- Why an instruction does not complete: a trap with its TRINFO, or a parking condition. -/
inductive Stop where
  | trap (c : Cause) (info : Word)
  | malformed (va : Word)                  -- XLATE on a malformed page-table entry (R338)
  | park (w : Wait)
  deriving DecidableEq, Repr

abbrev Eff (α : Type) := Except Stop α

def illop {α : Type} : Eff α := .error (.trap .illop 0)
/-- Go on when b holds, else trap ILLOP. -/
def demand (b : Bool) : Eff Unit := if b then .ok () else illop
def demandOr (b : Bool) (c : Cause) (info : Word) : Eff Unit := if b then .ok () else .error (.trap c info)
/-- Go on when b holds, else park on w. -/
def await (b : Bool) (w : Wait) : Eff Unit := if b then .ok () else .error (.park w)

/-- A, and the address after the instruction in execution (R44). -/
def State.addr (s : State) : Word := s.ws.pc
def State.nextPc (s : State) : Word := s.ws.pc + BitVec.ofNat 64 (2 * s.ilen)

/-- AfterBodyInstruction of R129: the control word and the step back to the body start. -/
def Ctl.afterBody (c : Ctl) (h : Nat) : Ctl × Word :=
  if !c.repA then (c, 0)
  else
    let off := c.repOff.toNat + h
    if off < c.repLen.toNat + 1 then ({ c with repOff := BitVec.ofNat 6 off }, 0)
    else
      let c1 := { c with repOff := 0, repRem := c.repRem - 1, repI := c.repI + 1 }
      if c1.repRem = 0 then ({ c1 with repA := false }, 0)
      else (c1, BitVec.ofNat 64 (2 * (c.repLen.toNat + 1)))

/-- The instruction completes: the PC moves past it, and a REP body goes on (R44, R129). -/
def State.advance (s : State) : State :=
  let r := s.ws.ctl.afterBody s.ilen
  s.modWs fun w => { w with pc := s.nextPc - r.2, ctl := r.1 }

/-- The instruction completes with the PC at t. -/
def State.jump (s : State) (t : Word) : State := s.modWs fun w => { w with pc := t }

/-- The place in the order of parking: a task that finds the wait it was woken from again keeps its own (R171, R235,
R263). -/
def Slot.placeFor (t : Slot) (w : Wait) (n : Nat) : Nat :=
  match t.place with
  | some (w', k) => if w' = w then k else n
  | none => n

/-- The task parks at A (R272). -/
def State.park (s : State) (w : Wait) : State :=
  let s1 := s.modTask fun t =>
    { t with
      wait := some w
      waitNo := t.placeFor w s.parkNo
      waitSince := s.now
      chainLen := s.ilen
      ws := { t.ws with tsw := { t.ws.tsw with state := .parked } } }
  { s1 with parkNo := s1.parkNo + 1 }

/-- Make a task runnable: it issues afresh (R272, R270). -/
def Slot.wake (t : Slot) (now : Nat) : Slot :=
  { t with
    wait := none
    runSince := now
    ws := { t.ws with tsw := { t.ws.tsw with state := .runnable } } }

/-! ## The flag fall and the fault gatherer (R361, R377) -/

/-- A trigger raises the flag fall; while a snapshot is held it is dropped and counted, and one that is not enabled
changes nothing (R377) (log entry 30, DEDUCED). -/
def State.trigger (s : State) (n : Nat) : State :=
  if !(decide (n < 128) || s.trigEn.contains n) then s
  else if s.snapHeld then { s with trigDrops := s.trigDrops + 1 }
  else { s with fallAt := s.fallAt ++ [(n, s.now)] }

/-- A fault-list entry as its 16 bytes (R362). -/
def FaultRec.bits (r : FaultRec) : BitVec 128 :=
  BitVec.ofNat 16 r.count ++ BitVec.ofNat 16 r.src ++ BitVec.ofNat 8 r.detail ++ 0#12 ++ r.cause.code ++ BitVec.ofNat 8 r.kind ++
    BitVec.ofNat 12 r.cx ++ 0#12 ++ BitVec.ofNat 40 r.page

/-- The sort key of R361: word 0, then KIND. -/
def FaultRec.before (a b : FaultRec) : Bool :=
  decide (a.cx < b.cx) || (decide (a.cx = b.cx) && (decide (a.page < b.page) || (decide (a.page = b.page) &&
    decide (a.kind ≤ b.kind))))

/-- The entry takes its place; entries of equal word 0 and KIND stay in the order of arrival (R361; log entry 60, DESIGN
CHOICE). -/
def insertFault (r : FaultRec) : List FaultRec → List FaultRec
  | [] => [r]
  | x :: t => if x.before r then x :: insertFault r t else r :: x :: t

/-- Close the window: the entries are sorted and delivered as one list (R361). -/
def Die.closeFaults (d : Die) : Die :=
  { d with
    window := none
    faults := []
    listNo := d.listNo + 1
    lists := d.lists ++
      [{ num := d.listNo, opened := d.window.getD 0, entries := d.faults.foldl (fun l r => insertFault r l) [] }] }

/-- A record enters the gatherer of a die: it merges with an equal one, opens the window, or closes a full list. -/
def State.report (s : State) (die : Nat) (r : FaultRec) : State :=
  let d := { s.die die with lastErr := some r }
  let same (x : FaultRec) : Bool :=
    x.cx == r.cx && x.page == r.page && x.kind == r.kind && x.cause == r.cause
  if d.faults.any same then
    let merged := d.faults.map fun x => if same x then { x with count := min 65535 (x.count + r.count) } else x
    s.setDie die { d with faults := merged }
  else if d.faults.length < Config.faultListMax then
    s.setDie die { d with faults := d.faults ++ [r], window := some (d.window.getD s.now) }
  else
    let s1 := s.setDie die { d.closeFaults with faults := [r], window := some s.now }
    s1.trigger 130

def faultRec (cx page kind : Nat) (cause : Cause) (detail src : Nat) : FaultRec :=
  { cx := cx, page := page, kind := kind, cause := cause, detail := detail, src := src, count := 1 }

/-! ## Tiles, masks and save areas (R142 to R144) -/

def popcount (n : Nat) (v : Nat) : Nat := ((List.range n).filter fun i => v.testBit i).length

/-- The place of tile i in a save area. -/
def Vsd.tileOff (v : Vsd) (i : Nat) : Nat := 64 * v.vsa.toNat + 512 + 1024 * popcount i v.vused.toNat

/-- Tile j of task i, in the unit or in the task's save area (R143, R144). -/
def Core.tileOf (c : Core) (i j : Nat) : Nat :=
  let v := (c.slot i).ws.vsd
  if v.vhome then (vget c.tiles j 0).toNat else c.lm.readN (v.tileOff j) 1024

/-- Saving the tiles of live of task i would move tiles that lie in its area. -/
def Core.saveMoves (c : Core) (i : Nat) (live : BitVec 16) : Bool :=
  let v := (c.slot i).ws.vsd
  !v.vhome && v.vused &&& live != v.vused

/-- Write the used tiles of live, and where the unit holds them the masks, to the task's area and clear VHOME (R144). Tiles
that lie in the area already move down to their new places. -/
def Core.saveTiles (c : Core) (i : Nat) (live : BitVec 16) : Core :=
  let t := c.slot i
  let v := t.ws.vsd
  let v1 := { v with vused := v.vused &&& live, vhome := false }
  let lm1 := if v.vhome then (List.range 4).foldl (fun m j => if v.kused.getLsbD j then
    m.writeN (64 * v.vsa.toNat + 128 * j) 128 (vget c.masks j 0).toNat else m) c.lm else c.lm
  let lm2 := if !v.vhome && v1.vused == v.vused then lm1
    else (List.range 16).foldl (fun m j => if v1.vused.getLsbD j then m.writeN (v1.tileOff j) 1024 (c.tileOf i j) else m) lm1
  { c with lm := lm2 }.setSlot i { t with ws := { t.ws with vsd := v1 } }

/-- The places of the used tiles in a save area: offset and bytes. -/
def Vsd.tilePlaces (v : Vsd) : List (Nat × Nat) :=
  ((List.range 16).filter fun j => v.vused.getLsbD j).map fun j => (v.tileOff j, 1024)

/-- The places of the used masks and tiles in a save area. -/
def Vsd.places (v : Vsd) : List (Nat × Nat) :=
  ((List.range 4).filter fun j => v.kused.getLsbD j).map (fun j => (64 * v.vsa.toNat + 128 * j, 128)) ++ v.tilePlaces

/-- Read the used tiles and masks of task i from its area, zero the others, set VHOME (R144). -/
def Core.loadTiles (c : Core) (i : Nat) : Core :=
  let t := c.slot i
  let v := t.ws.vsd
  { c with
    tiles := Vector.ofFn fun (j : Fin 16) => if v.vused.getLsbD j.val then
      BitVec.ofNat 8192 (c.lm.readN (v.tileOff j.val) 1024) else 0
    masks := Vector.ofFn fun (j : Fin 4) => if v.kused.getLsbD j.val then
      BitVec.ofNat 1024 (c.lm.readN (64 * v.vsa.toNat + 128 * j.val) 128) else 0 }.setSlot i
    { t with ws := { t.ws with vsd := { v with vhome := true } } }

/-- Before a vector instruction of task i: the unit's holder is saved and the task's tiles are loaded (R144). -/
def Core.claimUnit (c : Core) (i : Nat) : Core :=
  if (c.slot i).ws.vsd.vhome then c
  else ((List.range 8).foldl (fun c j => if (c.slot j).held && (c.slot j).ws.vsd.vhome then
      c.saveTiles j 0xFFFF#16 else c) c).loadTiles i

/-! ## Damaged units (R375, R360) -/

/-- Memory, instance, unit number and unit size of a byte. -/
def Loc.unit : Loc → Space × Nat × Nat × Nat
  | .lm cid o => (.lm, cid, o / 4, 4)
  | .csp c o => (.csp, c, o / 4, 4)
  | .dsw d o => (.dsw, d, o / 4, 4)
  | .mqw o => (.lm, 0, o, 1)
  | .phys a => (.mem, 0, a / 64, 64)

/-- The instance number of a damaged line that a home slice holds dirty; other damaged lines of memory have 0 (R375). -/
def dirtyLine : Nat := 1

/-- A damaged unit is the one that a byte lies in. -/
def Loc.hit (l : Loc) (d : Space × Nat × Nat) : Bool :=
  d.1 == l.unit.1 && (d.2.1 == l.unit.2.1 || (d.1 == .mem && d.2.1 == dirtyLine)) && d.2.2 == l.unit.2.2.1

/-- The register that a byte of a workspace stands for, where a lent core's bank has lost it (R299). -/
def State.lostAt (s : State) (l : Loc) : Option Nat :=
  match l with
  | .lm cid o =>
    if o < Config.slotBytes ∧ ((s.core cid).slot (o / 512)).lost.contains (o % 512 / 8) then some (o % 512 / 8) else none
  | _ => none

/-- A byte lies in a damaged unit, or in the place of a lost register. -/
def State.isDamaged (s : State) (l : Loc) : Bool := s.damaged.any l.hit || (s.lostAt l).isSome

/-- Nothing is damaged, and no register of a core is lost whose place an access from l may meet. -/
def State.sound (s : State) (l : Loc) : Bool :=
  s.damaged.isEmpty && match l with
    | .lm cid o => decide (Config.slotBytes ≤ o) || (List.range 8).all fun i => ((s.core cid).slot i).lost.isEmpty
    | _ => true

/-- The lowest byte, counted from l, of n bytes that lies in a damaged unit. -/
def State.damagedByte (s : State) (l : Loc) (n : Nat) : Option Nat :=
  if s.sound l then none else (List.range n).find? fun i => s.isDamaged (l.add i)

/-- The lowest byte of n bytes in a damaged unit, or a lost register, that the access does not cover whole. -/
def State.damagedPart (s : State) (l : Loc) (n : Nat) : Option Nat :=
  if s.sound l then none else (List.range n).find? fun i =>
    let size := if (s.lostAt (l.add i)).isSome then 8 else l.unit.2.2.2
    let u := (l.add i).off / size
    s.isDamaged (l.add i) && !decide (l.off ≤ u * size ∧ (u + 1) * size ≤ l.off + n)

/-- A write of n bytes makes readable again every damaged unit and every lost register it covers. -/
def State.mend (s : State) (l : Loc) (n : Nat) : State :=
  if s.sound l then s
  else
    let s1 := { s with damaged := s.damaged.filter fun d =>
      !(d.1 == l.unit.1 && (d.2.1 == l.unit.2.1 || (d.1 == .mem && d.2.1 == dirtyLine)) &&
        decide (l.off ≤ d.2.2 * l.unit.2.2.2 ∧ (d.2.2 + 1) * l.unit.2.2.2 ≤ l.off + n)) }
    match l with
    | .lm cid o =>
      if o < Config.slotBytes then s1.modSlot cid (o / 512) fun t =>
        { t with lost := t.lost.filter fun r => !decide (o % 512 ≤ 8 * r ∧ 8 * r + 8 ≤ o % 512 + n) } else s1
    | _ => s1

/-- A register of a task's workspace, numbered as in R360, is written whole: it is lost no more, and its word is readable (R299,
R375). -/
def State.mendReg (s : State) (cid slot r : Nat) : State := s.mend (.lm cid (512 * slot + 8 * r)) 8

/-! ## Waiters at a home (R225) -/

/-- The value a WAITA reply carries. -/
def State.waitValue (s : State) : Wait → Word
  | .waita l w64 _ _ _ _ => BitVec.ofNat 64 (s.peek l (if w64 then 8 else 4))
  | .tokcFull pa _ _ => BitVec.ofNat 64 (s.peek (.phys pa) 8)
  | _ => 0

/-- Send the reply to one waiter. -/
def State.answer (s : State) (cid slot : Nat) : State :=
  s.modSlot cid slot fun t =>
    match t.wait with
    | some w => { t with reply := some (s.waitValue w) }
    | none => t

/-- An entry of an export table admits a number, an address or a core identifier, for a device's context (R343). -/
def Export.gives (x : Export) (cores : Bool) (dev cx n : Nat) : Bool :=
  x.cores == cores && x.dev == dev && x.cx == cx && decide (x.lo ≤ n ∧ n ≤ x.hi)

/-- The reply to a WAITA of another X40 carries the word's value, unless firmware no longer exports the word to its context,
or the word is damaged (R224, R343, R375) (log entry 29, DESIGN CHOICE). -/
def State.answerFar (s : State) (w : FarWait) : State :=
  let n := if w.w64 then 8 else 4
  if (s.exports.any fun x => x.gives false w.dev w.cx w.asked) && (s.damagedByte (.phys w.pa) n).isNone then
    { s with lastRead := BitVec.ofNat 512 (s.peek (.phys w.pa) n) }
  else s

/-- The waiter is the WAITA of a slot of a core of another X40. -/
def Waiter.isFar (w : Waiter) (dev src slot : Nat) : Bool :=
  w.far.any fun x => x.dev == dev && x.src == src && x.slot == slot

/-- A waiter gets its reply. -/
def State.answerWaiter (s : State) (w : Waiter) : State :=
  match w.far with
  | some x => s.answerFar x
  | none => s.answer w.cid w.slot

/-- A write to the line wakes every waiter of it (R225). -/
def State.wakeLine (s : State) (line : Loc) : State :=
  let hit := s.waiters.filter fun w => w.line == line
  hit.foldl State.answerWaiter { s with waiters := s.waiters.filter fun w => w.line != line }

/-! ## Tickets: the destination and its end (R214, R246, R250, R253) -/

/-- A local-window address as a place, for a core of a context (R15, R16). -/
def State.window (s : State) (cid : Nat) (a : Word) : Option Loc :=
  if a.extractLsb' 56 8 ≠ 0xFF#8 then none
  else
    let o := (a.extractLsb' 0 48).toNat
    match (a.extractLsb' 48 8).toNat with
    | 0 => some (.lm cid o)
    | 1 => some (.csp (clusterOf cid) o)
    | 2 => some (.mqw o)
    | 3 =>
      let base := ((((s.ctxCfg ((s.cxOf cid).getD 0)).map (·.dsw)).getD []).find?
        fun x => x.1 == dieOf cid).map (·.2.1)
      some (.dsw (dieOf cid) (base.getD 0 * 65536 + o))
    | _ => none

/-- The lines of a ticket's destination. -/
def State.ticketLines (s : State) (cid : Nat) (t : Ticket) : List Loc :=
  match s.window cid t.dst with
  | some l => l.lines t.len
  | none => []

def Core.ticket (c : Core) (i : Nat) : Ticket := vget c.tickets i Ticket.reset
def Core.setTicket (c : Core) (i : Nat) (t : Ticket) : Core := { c with tickets := vset c.tickets i t }

/-- Free an entry; its generation stays. -/
def Ticket.freed (t : Ticket) : Ticket := { Ticket.reset with gen := t.gen }

/-- Return to empty: zeros over the range, its words empty; a write to a DSW line wakes its waiters (R214, R225). -/
def State.ticketEmpty (s : State) (cid : Nat) (t : Ticket) : State :=
  match s.window cid t.dst with
  | some (.dsw d o) =>
    ((Loc.dsw d o).lines t.len).foldl (fun s x => s.wakeLine x) ((s.mend (.dsw d o) t.len).poke (.dsw d o) t.len 0)
  | some l => ((s.mend l t.len).poke l t.len 0).setFullRange l t.len false
  | none => s

def Summary.discard (x : Summary) (t : Ticket) : Summary :=
  if t.fault = .none then { x with pdisc := x.pdisc + 1 } else { x with fdisc := x.fdisc + 1 }

def Slot.modSum (t : Slot) (f : Summary → Summary) : Slot := { t with ws := { t.ws with sum := f t.ws.sum } }

/-- The slot of a task of the core; none: it is saved and its slot was released, or it has retired. -/
def Core.slotOf (c : Core) (task : Nat) : Option Nat :=
  (List.range 8).find? fun i => (c.slot i).held && (c.slot i).taskId == task

/-- Change the ticket summary of a task of a core, resident or saved (R252). -/
def State.modSum (s : State) (cid task : Nat) (f : Summary → Summary) : State :=
  match (s.core cid).slotOf task with
  | some i => s.modSlot cid i fun t => t.modSum f
  | none =>
    { s with savedTasks := s.savedTasks.map fun x =>
        if x.cid = cid ∧ x.task.taskId = task then { x with task := x.task.modSum f } else x }

/-- Clear TOWN's bit of a ticket entry. -/
def Summary.drop (x : Summary) (i : Nat) : Summary := { x with town := x.town &&& ~~~(1#32 <<< i) }

/-- Bytes of the request or arrival at pos: those of one 64-byte source line (R255). -/
def Ticket.chunk (t : Ticket) (pos : Nat) : Nat := min (t.len - pos) (64 - (t.src.toNat + pos) % 64)

/-- Bytes that a ticket has requested and not received; a line left to a demand read was not requested (R255, R256). -/
def Ticket.underWay (t : Ticket) : Nat :=
  t.asked - t.got - (t.skipped.filter fun o => decide (t.got ≤ o)).foldl (fun n o => n + t.chunk o) 0

/-- A speculation of an entry ends: what it has requested and not received stays under way (R255). -/
def Core.endSpec (c : Core) (i : Nat) : Core :=
  let t := c.ticket i
  if t.state = .spec ∧ 0 < t.underWay then
    { c with strays := c.strays.put i ((c.strays.get i).getD 0 + t.underWay) }
  else c

/-- PCANC, and the end of a ticket at EXIT (R250, R253). -/
def State.cancelTicket (s : State) (cid i : Nat) : State :=
  let t := (s.core cid).ticket i
  let s1 := s.modSum cid t.owner fun x => x.drop i
  match t.state with
  | .spec =>
    ((s1.ticketEmpty cid t).modSum cid t.owner fun x => x.discard t).modCore cid fun c => (c.endSpec i).setTicket i t.freed
  | .dry => s1.modCore cid fun c => c.setTicket i t.freed
  | .lapsed => s1.modCore cid fun c => c.setTicket i t.freed
  | .exposing => s1.modCore cid fun c => c.setTicket i { t with orphan := true }
  | .free => s

/-- A speculating ticket lapses at pre-emption (R253). -/
def State.lapseTicket (s : State) (cid i : Nat) : State :=
  let t := (s.core cid).ticket i
  if t.state = .spec then
    ((s.ticketEmpty cid t).modSum cid t.owner fun x =>
      let y := x.discard t; { y with lapse := y.lapse + 1 }).modCore cid fun c =>
        (c.endSpec i).setTicket i { t with state := .lapsed, fault := .none, data := [], asked := 0, got := 0, skipped := [] }
  else s

/-- The ticket entries that a slot's task holds. -/
def Core.ownTickets (c : Core) (slot : Nat) : List Nat :=
  (List.range 32).filter fun i =>
    let t := c.ticket i; t.state != .free && t.owner == (c.slot slot).taskId && !t.orphan

/-! ## Composition and hand-back (R295, R296), launch completion (R284), retirement (R273) -/

/-- Zeros in the workspace bytes of registers that a lent core's bank has lost (R299). -/
def Slot.zeroLost (t : Slot) : Slot :=
  if t.lost.isEmpty then t
  else { t with
    lost := []
    ws := { t.ws with
      g := Vector.ofFn fun (i : Fin 32) => if t.lost.contains i.val then 0 else t.ws.g[i]
      mb := Vector.ofFn fun (i : Fin 8) => if t.lost.contains (32 + i.val) then 0 else t.ws.mb[i] } }

/-- Zeros in the tiles and masks of task i that a lent core's bank has lost: in the unit, or in its save area (R299). -/
def Core.zeroLost (c : Core) (i : Nat) (lost : List Nat) : Core :=
  let v := (c.slot i).ws.vsd
  if lost.isEmpty then c
  else if v.vhome then { c with
    tiles := Vector.ofFn fun (j : Fin 16) => if lost.contains (64 + j.val) then 0 else c.tiles[j]
    masks := Vector.ofFn fun (j : Fin 4) => if lost.contains (80 + j.val) then 0 else c.masks[j] }
  else
    let m := (List.range 4).foldl (fun m j => if lost.contains (80 + j) && v.kused.getLsbD j then
      m.writeN (64 * v.vsa.toNat + 128 * j) 128 0 else m) c.lm
    { c with lm := (List.range 16).foldl (fun m j => if lost.contains (64 + j) && v.vused.getLsbD j then
      m.writeN (v.tileOff j) 1024 0 else m) m }

/-- The lent cores whose banks have lost a register: member r mod n holds the one that R360 numbers r (R291). -/
def Slot.lostMembers (t : Slot) : List Nat :=
  (t.members.zipIdx.filter fun x => t.lost.any fun r => r % (t.members.length + 1) == x.2 + 1).map (·.1)

/-- A core leaves service (R376, R377). -/
def State.outOfService (s : State) (cid : Nat) : State := (s.modCore cid fun c => { c with retired := true }).trigger 129

/-- An uncorrectable error is met at a place: where that is LM, its core leaves service at once (R375, R376). What firmware then
does with its tasks is CORE_RETIREMENT. -/
def State.failLm (s : State) (l : Loc) : State :=
  match l with
  | .lm cid _ => if (s.core cid).retired then s else s.outOfService cid
  | _ => s

/-- Words of a core's LM that are written whole are damaged no more (R375). -/
def State.mendLm (s : State) (cid : Nat) (l : List (Nat × Nat)) : State :=
  if s.damaged.isEmpty then s
  else { s with damaged := s.damaged.filter fun d => !(d.1 == .lm && d.2.1 == cid &&
    l.any fun x => decide (x.1 ≤ 4 * d.2.2 ∧ 4 * d.2.2 + 4 ≤ x.1 + x.2)) }

/-- A word of these places of a core's LM is damaged. -/
def State.lmHit (s : State) (cid : Nat) (l : List (Nat × Nat)) : Bool :=
  s.damaged.any fun d => d.1 == .lm && d.2.1 == cid && l.any fun x => decide (x.1 < 4 * d.2.2 + 4 ∧ 4 * d.2.2 < x.1 + x.2)

/-- Save the tiles of live of task i of a core (R144): what is written whole is damaged no more. Where tiles that lie in the area
would move down over a damaged word, none moves: the error is an engine's (R375) (log entry 17, DESIGN CHOICE). -/
def State.saveTiles (s : State) (cid i : Nat) (live : BitVec 16) : State :=
  let c := s.core cid
  let v := (c.slot i).ws.vsd
  if c.saveMoves i live && s.lmHit cid v.tilePlaces then
    (s.report (dieOf cid) (faultRec ((s.cxOf cid).getD 0) 0 2 .mchk 0 cid)).failLm (.lm cid 0)
  else
    let s1 := s.modCore cid fun c => c.saveTiles i live
    let v1 := ((s1.core cid).slot i).ws.vsd
    if v.vhome then s1.mendLm cid v1.places else if c.saveMoves i live then s1.mendLm cid v1.tilePlaces else s1

/-- Hand-back: the lent cores return, one that has lost a register leaves service, the used tiles of live are saved; CW
stays (R286, R299). -/
def State.handBack (s : State) (cid slot : Nat) (live : BitVec 16) : State :=
  let t := (s.core cid).slot slot
  let s0 := t.lostMembers.foldl (fun s m => s.outOfService m) s
  let s1 := t.members.foldl (fun s m => s.modCore m fun c => { c with lent := none }) s0
  let s2 := s1.modCluster (clusterOf cid) fun x =>
    { x with composeQ := x.composeQ.filter fun r => !(r.cid == cid && r.slot == slot) }
  let s3 := if t.members.isEmpty then s2 else (s2.modCore cid fun c => c.zeroLost slot t.lost).saveTiles cid slot live
  s3.modSlot cid slot fun t => { t.zeroLost with members := [], recompose := false }

/-- REMOTE and DEV of a descriptor or reference (R262). -/
def remoteOf (a : Word) : Option Nat := if a.getLsbD 57 then some (a.extractLsb' 48 9).toNat else none
def remoteOk (a : Word) : Bool := a.extractLsb' 58 6 == 0#6 && (a.getLsbD 57 || a.extractLsb' 48 9 == 0#9)
/-- A core identifier's row is at most 19 (R9, R10). -/
def rowOk (c : BitVec 16) : Bool := decide ((c.extractLsb' 8 5).toNat < 20)

/-- A counter reference that DEC accepts, and DONEREF (R280). -/
def counterRefOk (a : Word) : Bool :=
  let off := (a.extractLsb' 16 16).toNat
  remoteOk a && a.extractLsb' 32 16 == 0#16 && decide (off % 64 = 0 ∧ 0x1000 ≤ off ∧ off ≤ 0xBFC0) &&
    rowOk (a.extractLsb' 0 16)

/-- A task that a launch counts has ended; at the last one the barriers are freed and DONEREF is decremented, as a DEC would:
a reference that DEC does not accept is not (log entry 25, DEDUCED). -/
def State.launchEnded (s : State) (id : Nat) : State :=
  match s.launches.find? fun l => l.id == id with
  | none => s
  | some l =>
    if 1 < l.left then
      { s with launches := s.launches.map fun x => if x.id = id then { x with left := x.left - 1 } else x }
    else
      let m : Msg :=
        { src := 0xFFFF, cx := l.cx, dev := remoteOf l.doneref,
          dst := (l.doneref.extractLsb' 0 16).toNat, chan := 0,
          load := .dec (l.doneref.extractLsb' 16 16).toNat 1, refused := none }
      { s with
        launches := s.launches.filter fun x => x.id ≠ id
        fwMsgs := if l.doneref != 0 && counterRefOk l.doneref then s.fwMsgs ++ [m] else s.fwMsgs }

/-- EXIT of the task in a slot (R273), also as RFT and firmware retire one. -/
def State.retire (s : State) (cid slot : Nat) : State :=
  let t := (s.core cid).slot slot
  let s1 := s.handBack cid slot 0xFFFF#16
  let s2 := ((s.core cid).ownTickets slot).foldl (fun s i => s.cancelTicket cid i) s1
  let s3 := s2.modCore cid fun c =>
    { c with tt := c.tt.map fun (k, e) =>
        (k, if e.bound && e.slot.toNat == slot then { e with blk := true } else e) }
  let s4 := match t.launch with
    | some id => s3.launchEnded id
    | none => s3
  ({ s4 with waiters := s4.waiters.filter fun w => !(w.cid == cid && w.slot == slot) } : State).modSlot cid slot
    fun t => { Slot.reset with actNo := t.actNo }

/-! ## Taking a trap and returning from one (R135 to R137, R357 to R359) -/

/-- The records of the answer that a thief is waiting for (R278). -/
def Steal.due : Steal → List TaskRec
  | .asking _ _ (some l) => l
  | _ => []

/-- Put a record on a core's run list; the caller has seen room. The thief is busy, and the records of an answer under way
still come (R277, R278). -/
def Core.enlist (c : Core) (r : RunRec) : Core :=
  { c with runList := c.runList ++ [r], steal := .busy, owed := c.owed ++ c.steal.due }
def Core.hasRoom (c : Core) : Bool := decide (c.runList.length < 64)

/-- A handler is linked to the task in a slot: one in a slot of the core, or a saved one whose slot was released (R136,
R367). -/
def State.linkedBy (s : State) (cid slot : Nat) : Bool :=
  ((List.range 8).any fun i => ((s.core cid).slot i).held && ((s.core cid).slot i).link == some slot) ||
    s.savedTasks.any fun x => x.cid == cid && s.cxOf cid == some x.cx && x.task.link == some slot

/-- Firmware retires a trapped task and records it as unhandled (R359). -/
def State.unhandled (s : State) (cid slot : Nat) : State :=
  let t := (s.core cid).slot slot
  let r (s : State) (i : Nat) : FaultRec :=
    faultRec ((s.cxOf cid).getD 0) 0 9 ((s.core cid).slot i).ws.tsw.cause i cid
  let s1 := (s.report (dieOf cid) (r s slot)).retire cid slot
  match t.link with
  | some l => (s1.report (dieOf cid) (r s l)).retire cid l
  | none => s1

/-- The handler channel that takes a trapped task, and its priority; none: firmware retires the task (R358, R359). -/
def State.handlerOf (s : State) (cid slot : Nat) : Option (Nat × BitVec 3) :=
  match ((s.cxOf cid).bind s.ctxCfg).bind (·.handler) with
  | none => none
  | some h =>
    let e := ((s.core cid).tt.get h).getD TTEntry.reset
    if !e.valid || e.bound || ((s.core cid).slot slot).link.isSome then none else some (h, e.prio)

/-- A trapped task's handler record enters the run list once there is room (R358). A task that no handler takes stays
trapped until firmware's own step retires it (R359). -/
def State.raise (s : State) (cid slot : Nat) : State :=
  match s.handlerOf cid slot with
  | none => s.modSlot cid slot fun t => { t with handlerDue := false }
  | some (h, prio) =>
    if (s.core cid).hasRoom then
      s.modCore cid fun c => (c.enlist
        { chan := BitVec.ofNat 8 h, prio := prio, since := s.now, kind := .handler slot }).modSlot slot
          fun t => { t with handlerDue := false }
    else s.modSlot cid slot fun t => { t with handlerDue := true }

/-- The task waits for this: it is parked, or it has resumed as runnable with the wait of an EXITS successor (R272, R275,
R367). -/
def Slot.awaits (t : Slot) (w : Wait) : Bool :=
  (t.ws.tsw.state == .parked || t.ws.tsw.state == .runnable) && t.wait == some w

/-- The causes that firmware takes first (R357). -/
def Cause.firmwareFirst : Cause → Bool
  | .xlate => true | .perm => true | .mchk => true | _ => false

/-- The trap record (R135): PC stays at A, CAUSE and TRINFO are written, STATE becomes 2, the task parks. -/
def Slot.trapped (t : Slot) (c : Cause) (info : Word) (len : Nat) : Slot :=
  { t with
    wait := none
    chainLen := len
    fwFault := if c.firmwareFirst then some t.ws.trinfo else none
    ws := { t.ws with
      trinfo := info
      tsw := { t.ws.tsw with cause := c, state := .trapped } } }

/-- A precise trap of a task: hand-back, then the trap record, then the handler, unless firmware takes the cause first
(R295, R135, R357, R358). Word 47 of the workspace is TRINFO: it is written whole (R107, R375). -/
def State.deliver (s : State) (cid slot : Nat) (c : Cause) (info : Word) (len : Nat) : State :=
  let s1 := ((s.handBack cid slot 0xFFFF#16).modSlot cid slot fun t => t.trapped c info len).mendReg cid slot 47
  if c.firmwareFirst then s1 else s1.raise cid slot

/-- Take a trap of the issuing task: every effect of the instruction is undone, since s is the state at its issue. An MCHK whose
SRC is 0 names a word of the core's LM (R360). -/
def State.takeTrap (s : State) (c : Cause) (info : Word) : State :=
  let s1 := if c = .mchk then s.trigger 128 else s
  let s0 := if c = .mchk ∧ info.extractLsb' 60 4 = 0 then s1.failLm (.lm s.hereCid 0) else s1
  s0.deliver s0.hereCid s0.here.cur c info s.ilen

/-- XLATE on a malformed entry: firmware is told, by a KIND 7 record, and trigger 131 (R338, R363, R377). -/
def State.takeMalformed (s : State) (va : Word) : State :=
  ((s.report (dieOf s.hereCid) (faultRec s.cx (va.extractLsb' 16 40).toNat 7 .xlate 0 0xFFFF)).trigger
    131).takeTrap .xlate va

/-- A task becomes runnable again while CW is not 0: a recomposition becomes pending (R297). -/
def State.recomposeDue (s : State) (cid slot : Nat) : State :=
  let t := (s.core cid).slot slot
  if t.ws.ctl.cw = 0 then s
  else (s.modSlot cid slot fun t => { t with recompose := true }).modCluster (clusterOf cid) fun x =>
    { x with composeQ := x.composeQ ++ [{ cid := cid, slot := slot, n := 2 ^ t.ws.ctl.cw.toNat, again := true }] }

/-- RFT releases the trapped task at pc (R137, R156, R297); a task saved meanwhile stays saved, and resumes as one that
has not trapped (R272, R367). -/
def State.release (s : State) (cid slot : Nat) (pc : Word) : State :=
  let s1 := s.modSlot cid slot fun t =>
    let w := t.ws
    { t with block := if pc = w.pc then t.block else none, ws := { w with
        pc := pc
        ctl := if pc = w.pc then w.ctl else { w.ctl with repA := false }
        resid := if pc = w.pc then w.resid else 0
        tsw := { w.tsw with cause := .none } } }
  if ((s.core cid).slot slot).ws.tsw.state = .saved then s1
  else (s1.modSlot cid slot fun t => t.wake s.now).recomposeDue cid slot

/-! ## Outcomes -/

/-- The outcome type of every meaning. -/
abbrev Result := Host.Outcome State Fault Refusal

/-- The outcome of an instruction at state s whose effects are r and which then has the PC it left. -/
def State.settle (s : State) (r : Eff State) : Result :=
  match r with
  | .ok t => .next t
  | .error (.trap c i) => .next (s.takeTrap c i)
  | .error (.malformed va) => .next (s.takeMalformed va)
  | .error (.park w) => .next (s.park w)

/-- The same, moving past the instruction. -/
def State.finish (s : State) (r : Eff State) : Result := s.settle (r.map State.advance)

/-- The kinds that trap ILLOP inside a REP body (R130). -/
def State.noRep (s : State) : Eff Unit := demand (!s.ws.ctl.repA)

/-- A body instruction that would end beyond the body end traps ILLOP before any effect (R130). -/
def State.crossesBody (s : State) : Bool :=
  s.ws.ctl.repA && decide (s.ws.ctl.repLen.toNat + 1 < s.ws.ctl.repOff.toNat + s.ilen)

end Sys2Proof.Machine
end

