-- ==== Sys2Proof/Machine/Access.lean ====
section
/-! DEFINITION. Access to memory: translation (R336 to R340), the local windows (R14 to R16, R19, R144), lines in Q and
X state (R246), damaged units (R375), loads and stores (R198 to R205), U lines (R222) and the home slices (R216 to
R225). -/

namespace Sys2Proof.Machine

/-- What an access does (R338). -/
inductive Acc where
  | load | store | atomic | fetch
  deriving DecidableEq, Repr

/-! ## Translation -/

inductive Walk where
  | leaf (l : Leaf)
  | absent
  | malformed
  deriving DecidableEq, Repr

/-- The kinds of physical address (R341), by PA<46:0>. -/
inductive PaKind where
  | device | far | host | firmware | nothing
  deriving DecidableEq, Repr

def paKind (pa : Nat) : PaKind :=
  let a := pa % 2 ^ 47
  if a < Config.devMemSize then .device
  else if 0x100000000000 ≤ a ∧ a < 0x200000000000 then .far
  else if 0x200000000000 ≤ a ∧ a < 0x400000000000 then .host
  else if 0x400000000000 ≤ a then .firmware
  else .nothing

def paDevice (pa : Nat) : Nat := pa / 2 ^ 47

/-- Bytes that an entry of a level maps, and the alignment of the table below it (R336). -/
def levelSize : Nat → Nat
  | 0 => 2 ^ 16 | 1 => 2 ^ 21 | 2 => 2 ^ 30 | _ => 2 ^ 39
def tableAlign : Nat → Nat
  | 1 => 256 | _ => 4096

/-- One entry of a level (R337, R338): the leaf it names, or the next table. -/
def readEntry (e level cx va : Nat) : Walk ⊕ Nat :=
  let pa := e % 2 ^ 56 / 256 * 256
  if e % 2 = 0 then .inl .absent
  else if e / 2 ^ 56 ≠ 0 then .inl .malformed
  else if e / 2 % 2 = 1 then
    let size := levelSize level
    let far := e / 64 % 2 = 1
    if level = 3 ∨ pa % size ≠ 0 then .inl .malformed
    else if paKind pa ≠ paKind (pa + size - 1) then .inl .malformed
    else if far ≠ (paKind pa = .far) then .inl .malformed
    else if paKind pa = .nothing ∨ paKind pa = .firmware then .inl .malformed
    else .inl (.leaf
      { cx := cx, va := va / size * size, size := size, pa := pa, rd := e.testBit 2, wr := e.testBit 3,
        ex := e.testBit 4, sp := e.testBit 5, pin := e.testBit 7 })
  else if level = 0 ∨ e / 4 % 64 ≠ 0 ∨ pa % tableAlign level ≠ 0 ∨ paKind pa = .far then .inl .malformed
  else .inr pa

/-- The walk from a table of a level, structural on the level (R338). -/
def walkFrom (m : Memory) (cx va : Nat) : Nat → Nat → Walk
  | 0, table =>
    match readEntry (m.readN (table + 8 * (va / 2 ^ 16 % 32)) 8) 0 cx va with
    | .inl w => w
    | .inr _ => .malformed
  | level + 1, table =>
    let idx := match level with
      | 0 => va / 2 ^ 21 % 512 | 1 => va / 2 ^ 30 % 512 | _ => va / 2 ^ 39 % 131072
    match readEntry (m.readN (table + 8 * idx) 8) (level + 1) cx va with
    | .inl w => w
    | .inr t => walkFrom m cx va level t

def State.walk (s : State) (cx va : Nat) : Walk :=
  match s.ctxCfg cx with
  | none => .absent
  | some c => walkFrom s.mem cx va 3 c.root

/-- Numbers of the entries of a table that memory lists, rising. -/
def tableEntries (m : Memory) (table n : Nat) : List Nat :=
  ((m.within table (table + 8 * n)).map fun c => (c.1 - table) / 8).eraseDups

def levelEntries : Nat → Nat
  | 0 => 32 | 1 => 512 | 2 => 512 | _ => 131072

/-- The leaves below a table of a level that map an address from lo up to hi. -/
def leavesFrom (m : Memory) (cx lo hi : Nat) : Nat → Nat → Nat → List Leaf
  | 0, table, base =>
    (tableEntries m table 32).flatMap fun i =>
      match readEntry (m.readN (table + 8 * i) 8) 0 cx (base + 2 ^ 16 * i) with
      | .inl (.leaf l) => if l.va < hi ∧ lo < l.va + l.size then [l] else []
      | _ => []
  | level + 1, table, base =>
    (tableEntries m table (levelEntries (level + 1))).flatMap fun i =>
      let va := base + levelSize (level + 1) * i
      if va < hi ∧ lo < va + levelSize (level + 1) then
        match readEntry (m.readN (table + 8 * i) 8) (level + 1) cx va with
        | .inl (.leaf l) => [l]
        | .inl _ => []
        | .inr t => leavesFrom m cx lo hi level t va
      else []

/-- The leaves of a context that map an address from lo up to hi. -/
def State.leaves (s : State) (cx lo hi : Nat) : List Leaf :=
  match s.ctxCfg cx with
  | none => []
  | some c => leavesFrom s.mem cx lo hi 3 c.root 0

def Leaf.covers (l : Leaf) (cx va : Nat) : Bool := l.cx == cx && decide (l.va ≤ va ∧ va < l.va + l.size)

/-- Why an access to global space fails. -/
inductive XErr where
  | xlate | malformed | perm
  deriving DecidableEq, Repr

def Leaf.allows (l : Leaf) : Acc → Bool
  | .load => l.rd | .store => l.wr | .atomic => l.rd && l.wr | .fetch => l.ex

/-- Another device's memory is reached only through its export table (R343). -/
def State.granted (s : State) (cx pa : Nat) : Bool :=
  paDevice pa == Config.ownDevice || s.grants.any fun g => g.gives false (paDevice pa) cx pa

/-- What a replaced translation gave for an address. -/
def OldWalk.at (o : OldWalk) (va : Nat) : Walk :=
  match o.leaves.find? fun l => decide (l.va ≤ va ∧ va < l.va + l.size) with
  | some l => .leaf l
  | none => .absent

/-- A replaced translation of the context covers the address and may still answer in a cluster. -/
def OldWalk.covers (o : OldWalk) (cluster cx va : Nat) : Bool :=
  o.cx == cx && decide (o.va ≤ va ∧ va < o.va + o.size) && !o.ended.contains cluster

/-- The outcomes a translation may have: the walk's, and every TLB entry and every replaced translation that differs from
it (R339) (log entry 6, DEDUCED). -/
def State.translations (s : State) (cid cx va : Nat) : List Walk :=
  let w := s.walk cx va
  let k := clusterOf cid
  let tlb := ((s.core cid).l1 ++ (s.cluster k).l2).filter fun l => l.covers cx va
  let old := (s.oldWalks.filter fun o => o.covers k cx va).map fun o => o.at va
  w :: ((tlb.map Walk.leaf ++ old).eraseDups.filter (· != w))

/-- An L1 TLB with a leaf more: of a full set the oldest entry leaves (R339) (log entry 6, DESIGN CHOICE). -/
def enterL1 (l : Leaf) (t : List Leaf) : List Leaf :=
  let near (x : Leaf) : Bool := Config.l1Set (x.va / 65536) % (Config.l1Entries / Config.l1Ways) ==
    Config.l1Set (l.va / 65536) % (Config.l1Entries / Config.l1Ways)
  if t.length < Config.l1Ways then l :: t
  else if (t.filter near).length < Config.l1Ways then l :: t
  else l :: (t.reverse.eraseP near).reverse

/-- Enter a leaf into the TLBs of a core and its cluster. -/
def State.fillTlb (s : State) (cid : Nat) (l : Leaf) : State :=
  (s.modCore cid fun c => if c.l1.contains l then c else { c with l1 := enterL1 l c.l1 }).modCluster (clusterOf cid)
    fun x => if x.l2.contains l then x else { x with l2 := (l :: x.l2).take Config.l2Entries }

/-- One of the outcomes a translation may have (R339). -/
def State.leafOf (s : State) (cid va : Nat) : Walk × State :=
  let ws := s.translations cid ((s.cxOf cid).getD 0) va
  let (k, s1) := if ws.length ≤ 1 then (0, s) else s.choose ws.length
  (ws.getD k .absent, s1)

/-- Translate a global address for a core of a context. -/
def State.translate (s : State) (cid : Nat) (acc : Acc) (va : Nat) : Except XErr (Nat × State) :=
  let cx := (s.cxOf cid).getD 0
  let (w, s1) := s.leafOf cid va
  match w with
  | .absent => .error .xlate
  | .malformed => .error .malformed
  | .leaf l =>
    let pa := l.pa + (va - l.va)
    if !l.allows acc || !s.granted cx pa || (acc == .atomic && paKind pa == .host) then .error .perm
    else .ok (pa, s1.fillTlb cid l)

/-! ## Local windows -/

/-- The save area of a task: offset and length (R143); length 0 for none. -/
def Vsd.area (v : Vsd) : Nat × Nat := if v.vsa = 0 then (0, 0) else (64 * v.vsa.toNat, 512 + 1024 * v.vcap.toNat)

def overlaps (a n b m : Nat) : Bool := decide (0 < n ∧ 0 < m ∧ a < b + m ∧ b < a + n)

/-- LM bytes from o overlap a workspace slot or a resident task's save area (R19, R144). -/
def Core.reserved (c : Core) (o n : Nat) : Bool :=
  overlaps o n 0 Config.slotBytes ||
    (List.range 8).any fun i => (c.slot i).held && overlaps o n (c.slot i).ws.vsd.area.1 (c.slot i).ws.vsd.area.2

def Core.inArea (c : Core) (o n : Nat) : Bool :=
  (List.range 8).any fun i => (c.slot i).held && overlaps o n (c.slot i).ws.vsd.area.1 (c.slot i).ws.vsd.area.2

/-- LM bytes from o overlap an armed or pending counter block (R279). -/
def Core.onCounter (c : Core) (o n : Nat) : Bool := c.counters.any fun k => overlaps o n k 64

/-- A task's own access to its LM (R19, R110, R144, R279). -/
def State.lmAllowed (s : State) (store : Bool) (o n : Nat) : Bool :=
  if o < Config.slotBytes then
    decide (o / 512 = s.here.cur.val ∧ (o + n - 1) / 512 = s.here.cur.val) && (!store || decide (o % 512 + n ≤ 320))
  else !s.here.inArea o n && (!store || !s.here.onCounter o n)

/-- DSW base and limit of a context on a die, in bytes (R16). -/
def State.dswRange (s : State) (cx die : Nat) : Nat × Nat :=
  match (((s.ctxCfg cx).map (·.dsw)).getD []).find? fun x => x.1 == die with
  | some (_, b, l) => (b * 65536, l * 65536)
  | none => (0, 0)

def winSel (a : Word) : Nat := (a.extractLsb' 48 8).toNat
def winOff (a : Word) : Nat := (a.extractLsb' 0 48).toNat
def isLocal (a : Word) : Bool := a.extractLsb' 56 8 == 0xFF#8
def isGlobal (a : Word) : Bool := a.extractLsb' 56 8 == 0#8

/-- The extent of a window on a core of a context; 0 for a selector without a window (R15). -/
def State.extent (s : State) (cid : Nat) (sel : Nat) : Nat :=
  match sel with
  | 0 => Config.lmSize
  | 1 => Config.cspSize
  | 2 => 0x1000
  | 3 => (s.dswRange ((s.cxOf cid).getD 0) (dieOf cid)).2
  | _ => 0

/-- The issuing task's access to n bytes at an address: the place, or the trap of R14 to R19, R144, R338. An access to
the command window answers its own place; who may use it is decided where it is used (R168) (log entry 25, DEDUCED). -/
def State.resolve (s : State) (acc : Acc) (a : Word) (n : Nat) : Eff (Loc × State) :=
  if isGlobal a then
    match s.translate s.hereCid acc a.toNat with
    | .ok (pa, t) => .ok (.phys pa, t)
    | .error .xlate => .error (.trap .xlate a)
    | .error .malformed => .error (.malformed a)
    | .error .perm => .error (.trap .perm a)
  else if !isLocal a then .error (.trap .xlate a)
  else if s.extent s.hereCid (winSel a) < winOff a + n then .error (.trap .xlate a)
  else
    let o := winOff a
    match winSel a with
    | 0 =>
      if acc == .atomic || !s.lmAllowed (acc == .store) o n then .error (.trap .perm a)
      else .ok (.lm s.hereCid o, s)
    | 1 => if acc == .atomic then .error (.trap .perm a) else .ok (.csp (clusterOf s.hereCid) o, s)
    | 2 => if acc == .atomic then .error (.trap .perm a) else .ok (.mqw o, s)
    | _ => .ok (.dsw (dieOf s.hereCid) ((s.dswRange s.cx (dieOf s.hereCid)).1 + o), s)

/-! ## Lines in Q and X state (R246) -/

/-- The cores whose tickets may hold a line of this place. -/
def State.coresAt (s : State) : Loc → List Nat
  | .lm cid _ => [cid]
  | .csp c _ => (List.range 8).map fun i => 8 * c + i
  | .dsw d _ => s.coreIds.filter fun k => dieOf k == d
  | _ => []

/-- The tickets that hold one of these lines: core, entry, and whether the line is in Q. -/
def State.holders (s : State) (ls : List Loc) : List (Nat × Nat × Bool) :=
  match ls with
  | [] => []
  | l :: _ =>
    (s.coresAt l).flatMap fun cid =>
      ((List.range 32).filter fun i =>
        let t := (s.core cid).ticket i
        (t.state == .spec || t.state == .exposing) && (s.ticketLines cid t).any fun x => ls.contains x).map fun i =>
          (cid, i, ((s.core cid).ticket i).state == .spec)

/-- A line of Q state held by a ticket of the task in a slot. -/
def State.ownQ (s : State) (cid slot : Nat) (ls : List Loc) : Bool :=
  (s.holders ls).any fun h => h.2.2 && h.1 == cid && ((s.core cid).ticket h.2.1).owner == ((s.core cid).slot slot).taskId

/-- An access of the issuing task: QZACC on its own Q line, else it waits for every held line (R205, R246). -/
def State.lineCheck (s : State) (a : Word) (l : Loc) (n : Nat) : Eff Unit :=
  let ls := l.lines n
  if s.ownQ s.hereCid s.here.cur ls then .error (.trap .qzacc a)
  else await (s.holders ls).isEmpty (.line ls)

/-! ## Reads and writes of damaged units (R375, R360) -/

/-- TRINFO of an MCHK for a register (R360). -/
def lostInfo (r : Nat) : Word := 7#4 ++ 0#52 ++ BitVec.ofNat 8 r

/-- TRINFO of an MCHK at byte i of the access at address a, place l (R360). -/
def State.mchkInfo (s : State) (a : Word) (l : Loc) (i : Nat) : Word :=
  match s.lostAt (l.add i) with
  | some r => lostInfo r
  | none =>
  let src : BitVec 4 := match l with
    | .lm _ _ => 0 | .csp _ _ => 1 | .dsw _ _ => 2 | .mqw _ => 0
    | .phys pa =>
      if s.damaged.contains (.mem, dirtyLine, (pa + i) / 64) then 3
      else match paKind pa with | .far => 5 | .host => 6 | _ => 4
  let at' := a + BitVec.ofNat 64 i
  let loc : BitVec 56 := if isLocal a then (at'.extractLsb' 0 48).setWidth 56 else at'.extractLsb' 0 56
  src ++ 0#4 ++ loc

def State.readable (s : State) (a : Word) (l : Loc) (n : Nat) : Eff Unit :=
  match s.damagedByte l n with
  | some i => .error (.trap .mchk (s.mchkInfo a l i))
  | none => .ok ()

def State.writable (s : State) (a : Word) (l : Loc) (n : Nat) : Eff Unit :=
  match s.damagedPart l n with
  | some i => .error (.trap .mchk (s.mchkInfo a l i))
  | none => .ok ()

/-! ## U lines (R222) -/

/-- Signed reading of a w-bit number. -/
def signedOf (w v : Nat) : Int := if 2 ^ (w - 1) ≤ v then (v : Int) - 2 ^ w else v

/-- The value an integer RED or AMO writes over old (R216, R221). -/
def redValue (op : RedOp) (signed : Bool) (w old v : Nat) : Nat :=
  let less : Bool := if signed then decide (signedOf w v < signedOf w old) else decide (v < old)
  match op with
  | .add => (old + v) % 2 ^ w
  | .and => old &&& v
  | .or => old ||| v
  | .xor => old ^^^ v
  | .min => if less then v else old
  | .max => if less then old else v

/-- The identity of a kind (R222), and one local combine of it. −0 is the identity of fadd. -/
def UKind.width (k : UKind) : Nat := if k.w64 then 64 else 32

/-- The contributions of a float word in some order, as one sum from −0; a single one needs no choice (log entry 9, DESIGN CHOICE). -/
def sumFloat (s : State) : Nat → List Word → Nat → Nat × State
  | 0, _, acc => (acc, s)
  | _, [], acc => (acc, s)
  | n + 1, l, acc =>
    let (k, s1) := if l.length ≤ 1 then (0, s) else s.choose l.length
    let v := (l.getD k 0).toNat % 2 ^ 32
    let r := (fp32.add .rne (fp32.decode acc) (fp32.decode v)).1
    sumFloat s1 n (l.eraseIdx k) r

/-- Combine one word of a U line into the home value. -/
def combineWord (k : UKind) (s : State) (pa : Nat) (l : List Word) : State :=
  match k.op with
  | some op =>
    let w := k.width
    let part := (l.drop 1).foldl (fun acc v => redValue op k.signed w acc v.toNat) ((l.headD 0).toNat)
    s.pokeHome pa (w / 8) (redValue op k.signed w (s.peek (.phys pa) (w / 8)) part)
  | none =>
    let (part, s1) := sumFloat s l.length l 0x80000000
    s1.pokeHome pa 4 (fp32.add .rne (fp32.decode (s1.peek (.phys pa) 4)) (fp32.decode part)).1

/-- The 64 KiB page of a virtual address that a context maps to a physical address; 0 if none. -/
def State.pageOf (s : State) (cx pa : Nat) : Nat :=
  match (s.leaves cx 0 (2 ^ 56)).find? fun l => decide (l.pa ≤ pa ∧ pa < l.pa + l.size) with
  | some l => (l.va + (pa - l.pa)) / 65536
  | none => 0

/-- Combine a U line of a cluster at its home and drop it (R222); at a damaged home line the contributions are lost
(R375, log entry 17, DESIGN CHOICE). -/
def State.combineU (s : State) (c : Nat) (u : ULine) : State :=
  let s0 := s.modCluster c fun x => { x with ulines := x.ulines.filter fun y => y.line ≠ u.line }
  if s.isDamaged (.phys (64 * u.line)) then
    let cx := (s.cluster c).owner.getD 0
    s0.report (dieOfCluster c) (faultRec cx (s.pageOf cx (64 * u.line)) 8 .none 0 0xFFFF)
  else
    (u.contrib.foldl (fun s (o, l) => combineWord u.kind s (64 * u.line + o) l) s0).wakeLine (.phys u.line)

/-- Every U copy of a line is recalled and combined, clusters ascending (R222). -/
def State.combineLine (s : State) (line : Nat) : State :=
  s.clusters.foldl (fun s (c, x) =>
    match x.ulines.find? fun u => u.line == line with
    | some u => s.combineU c u
    | none => s) s

/-- Combine every U line of a cluster whose line satisfies p (R207, R208, R222). -/
def State.combineWhere (s : State) (c : Nat) (p : Nat → Bool) : State :=
  ((s.cluster c).ulines.filter fun u => p u.line).foldl (fun s u => s.combineU c u) s

/-- Drop a cluster's CDC copies of the lines satisfying p (R200, R207). -/
def State.dropCopies (s : State) (c : Nat) (p : Nat → Bool) : State :=
  s.modCluster c fun x => { x with copies := x.copies.filter fun y => !p y.line }

/-- A cluster's copy of a line leaves the CDC (R200). -/
def State.dropCopy (s : State) (c line : Nat) : State := s.dropCopies c fun x => x == line

/-! ## Stores that other tasks of the cluster may not see yet (R198, R200 to R203; log entry 4, DEDUCED) -/

/-- A task, as its core and its number, sees the store from now on. -/
def Late.bar (y : Late) (w : Nat × Nat) : Late := if y.barred.contains w then y else { y with barred := w :: y.barred }
/-- A release of a core covers the store, at cluster scope or wider where wide. -/
def Late.free (y : Late) (f : Nat × Bool) : Late := if y.freed.contains f then y else { y with freed := f :: y.freed }
/-- An acquire of a core synchronises with a release that covers the store: both at core scope or wider on one core, or both
at cluster scope or wider (R196). -/
def Late.reaches (y : Late) (cid : Nat) (wide : Bool) : Bool := y.freed.any fun f => f.1 == cid || (f.2 && wide)

/-- A task of a core as the memory model names it. -/
def State.who (s : State) (cid slot : Nat) : Nat × Nat := (cid, ((s.core cid).slot slot).taskId)
/-- The issuing task as the memory model names it. -/
def State.me (s : State) : Nat × Nat := (s.hereCid, s.task.taskId)

def State.modLate (s : State) (c : Nat) (f : List Late → List Late) : State :=
  if (s.cluster c).late.isEmpty then s else s.modCluster c fun x => { x with late := f x.late }

/-- A task has seen the newest of the lines satisfying p. -/
def State.barLate (s : State) (w : Nat × Nat) (p : Nat → Bool) : State :=
  s.modLate (clusterOf w.1) fun l => l.map fun y => if p y.line then y.bar w else y

/-- Every store that a task has made is performed at system scope: each task of its cluster sees it, and so nothing of its line
that is older (R195, R199). The task that stored is the last that an entry bars. -/
def State.performStores (s : State) (w : Nat × Nat) : State :=
  s.modLate (clusterOf w.1) fun l => (l.zipIdx.filter fun (y, i) =>
    !(l.drop i).any fun z => z.line == y.line && z.barred.getLast? == some w).map Prod.fst

/-- The tasks of a core have moved to another of its cluster, and what they have seen with them (R195, R369). -/
def State.moveSeen (s : State) (src dst : Nat) : State :=
  s.modLate (clusterOf dst) fun l => l.map fun y =>
    { y with barred := (y.barred.filter fun w => w.1 != dst).map fun w => if w.1 = src then (dst, w.2) else w }

/-- Every task of a cluster sees the newest of the lines satisfying p. -/
def State.dropLate (s : State) (c : Nat) (p : Nat → Bool) : State :=
  s.modLate c fun l => l.filter fun y => !p y.line

/-- Something outside a cluster's memory path has seen the newest of the lines satisfying p, and may tell any task. -/
def State.dropLateAll (s : State) (p : Nat → Bool) : State :=
  s.clusters.foldl (fun s x => s.dropLate x.1 p) s

/-- A task created in a cluster observes what releases at cluster scope or wider cover (R280, R284). -/
def State.settleLate (s : State) (c : Nat) : State :=
  s.modLate c fun l => l.filter fun y => !(y.stale || y.freed.any fun f => f.2)

/-- An agent outside every cluster has written a line: what clusters had of it before may be older than the home (R195,
R200). -/
def State.outdateLate (s : State) (line : Nat) : State :=
  s.clusters.foldl (fun s x => s.modLate x.1 fun l => l.map fun y => if y.line = line then { y with stale := true } else y) s

/-- Scopes at quad or wider (R200). -/
def scopeWide : Scope → Bool
  | .core => false | .cluster => false | _ => true

/-- A release of a task for the lines satisfying p (R201, R202, R207, R222): it covers the stores of its cluster that the
task has made or seen; at quad scope or wider the cluster's U lines are combined first, and what other clusters may not
have seen is covered too. Every earlier store of the task is performed at its home already. -/
def State.releaseFor (s : State) (w : Nat × Nat) (sc : Scope) (p : Nat → Bool) : State :=
  let c := clusterOf w.1
  let f : Nat × Bool := (w.1, sc != .core)
  let abroad (s : State) : State := s.clusters.foldl (fun s x => if x.1 = c then s else
    s.modLate x.1 fun l => l.map fun y => if p y.line then y.free f else y) s
  (if scopeWide sc then abroad (s.combineWhere c p) else s).modLate c fun l =>
    l.map fun y => if p y.line && y.barred.contains w then y.free f else y

/-- An acquire of a task for the lines satisfying p (R200 to R202, R207): it sees the stores that a release in scope
covers; at quad scope or wider the cluster's copies are dropped, and the task reads none of the bytes that an older copy had
before a store. -/
def State.acquireFor (s : State) (w : Nat × Nat) (sc : Scope) (p : Nat → Bool) : State :=
  (if scopeWide sc then s.dropCopies (clusterOf w.1) p else s).modLate (clusterOf w.1) fun l =>
    l.map fun y => if p y.line && (y.reaches w.1 (sc != .core) || (scopeWide sc && y.stale)) then y.bar w else y

/-- A task has seen a line at its home: no older copy of it stays in its cluster (R198, R217). -/
def State.seeHome (s : State) (w : Nat × Nat) (line : Nat) : State :=
  (s.dropCopy (clusterOf w.1) line).barLate w fun x => x == line

/-- An acquire of the issuing task over all its later accesses (R201). -/
def State.acquire (s : State) (sc : Scope) : State := s.acquireFor s.me sc fun _ => true
/-- A release of the issuing task over all its earlier accesses (R201). -/
def State.releaseTo (s : State) (sc : Scope) : State := s.releaseFor s.me sc fun _ => true

def State.acquireIf (s : State) (o : Ordering) (sc : Scope) : State := if o = .acq then s.acquire sc else s
def State.releaseIf (s : State) (o : Ordering) (sc : Scope) : State := if o = .rel then s.releaseTo sc else s

/-! ## Waits at a home (R224, R225) -/

/-- The line a task waits on at a home, and the value it expects. -/
def Wait.homeLine : Wait → Option (Loc × Word)
  | .waita l _ e _ _ _ => some (l.line, e)
  | .tokcFull pa seen _ => some (.phys (pa / 64), seen)
  | _ => none

/-- The value that a wait reads at its home: every U copy of the line is combined first (R222). -/
def State.waitRead (s : State) (w : Wait) : Word × State :=
  let s1 := match w.homeLine with
    | some (.phys l, _) => s.combineLine l
    | _ => s
  (s1.waitValue w, s1)

/-- The address by which a context's task reaches a place of the DSW or of memory. -/
def State.addrOf (s : State) (cid : Nat) (l : Loc) : Word :=
  let cx := (s.cxOf cid).getD 0
  match l with
  | .phys pa => BitVec.ofNat 64 (s.pageOf cx pa * 65536 + pa % 65536)
  | .dsw d o => 0xFF03#16 ++ BitVec.ofNat 48 (o - (s.dswRange cx d).1)
  | _ => 0

/-- TRINFO of a WAITA whose word has been damaged while it waits (R375). -/
def State.waitDamage (s : State) (cid : Nat) (w : Wait) : Option Word :=
  match w with
  | .waita l w64 _ _ _ _ => (s.damagedByte l (if w64 then 8 else 4)).map fun i => s.mchkInfo (s.addrOf cid l) l i
  | _ => none

/-! ## Loads and stores -/

def Line.slice (d : Line) (o n : Nat) : Nat := d.toNat / 2 ^ (8 * o) % 2 ^ (8 * n)

/-- The copy of a line that may answer in a cluster: younger than 65,536 cc, and the line not in U state there (R200,
R222). -/
def State.copyOf (s : State) (c line : Nat) : Option Copy :=
  if (s.cluster c).ulines.any fun u => u.line == line then none
  else (s.cluster c).copies.find? fun x => x.line == line && decide (s.now < x.since + Config.cdcAge)

/-- A load of physical memory through a cluster's CDC (R200, R222): a copy that differs from the home may answer. -/
def State.loadPhys (s : State) (c : Nat) (nc : Bool) (pa n : Nat) : Nat × State :=
  let line := pa / 64
  match s.copyOf c line with
  | some x =>
    let old := Line.slice x.data (pa % 64) n
    let cur := s.peek (.phys pa) n
    let r : Nat × State := if old = cur then (cur, s) else
      match s.choose 2 with
      | (0, t) => (old, t)
      | (_, t) =>
        let t1 := t.combineLine line
        (t1.peek (.phys pa) n, t1.dropCopy c line)
    if nc then (r.1, r.2.dropCopy c line) else r
  | none =>
    let s1 := s.combineLine line
    let v := s1.peek (.phys pa) n
    let s2 := s1.dropCopy c line
    let y : Copy := { line := line, data := BitVec.ofNat 512 (s1.peek (.phys (64 * line)) 64), since := s.now }
    (v, if nc then s2 else s2.modCluster c fun x => { x with copies := (y :: x.copies).take (Config.cdcLines - x.ulines.length) })

/-- A load of n bytes at a place by a task of a core. -/
def State.loadAt (s : State) (cid : Nat) (nc : Bool) (l : Loc) (n : Nat) : Nat × State :=
  match l with
  | .phys pa => s.loadPhys (clusterOf cid) nc pa n
  | l => (s.peek l n, s)

/-- Write physical memory at the home: U copies first, then the write, then the waiters (R222, R225). -/
def State.storeHome (s : State) (pa n v : Nat) : State :=
  (((s.combineLine (pa / 64)).pokeHome pa n v).wakeLine (.phys (pa / 64)))

def Line.patch (d : Line) (o n v : Nat) : Line :=
  BitVec.ofNat 512 (d.toNat - Line.slice d o n * 2 ^ (8 * o) + v % 2 ^ (8 * n) * 2 ^ (8 * o))

/-- A store of n bytes at a place by a task of a core: write-through (R200). -/
def State.storeAt (s : State) (cid : Nat) (l : Loc) (n v : Nat) : State :=
  let s1 := s.mend l n
  match l with
  | .phys pa =>
    (s1.storeHome pa n v).modCluster (clusterOf cid) fun x => { x with copies := x.copies.map fun y =>
      if y.line = pa / 64 then { y with data := Line.patch y.data (pa % 64) n v } else y }
  | .dsw d o => ((Loc.dsw d o).lines n).foldl (fun s x => s.wakeLine x) (s1.poke l n v)
  | l => s1.poke l n v

/-- What a cluster has of a line, and since when something newer may stand at the home (R200). -/
def State.lineView (s : State) (c line : Nat) : Line × Nat :=
  match s.copyOf c line with
  | some x => (x.data, x.since)
  | none => (BitVec.ofNat 512 ((s.combineLine line).peek (.phys (64 * line)) 64), s.now)

/-- A store of the issuing task: until they synchronise, the other tasks of its cluster may still read what the cluster had
of the line before (R200, R203). -/
def State.storeTask (s : State) (l : Loc) (n v : Nat) : State :=
  match l with
  | .phys pa =>
    let view := s.lineView (clusterOf s.hereCid) (pa / 64)
    let home : Line := BitVec.ofNat 512 ((s.combineLine (pa / 64)).peek (.phys (64 * (pa / 64))) 64)
    let old : Late :=
      { line := pa / 64, data := view.1, since := view.2, barred := [s.me], freed := [], stale := view.1 != home }
    ((s.barLate s.me fun x => x == pa / 64).storeAt s.hereCid l n v).modCluster (clusterOf s.hereCid) fun x =>
      { x with late := x.late ++ [old] }
  | l => s.storeAt s.hereCid l n v

/-- A store of an engine of a core, which its cluster sees at once (R212, R240). -/
def State.storeEngine (s : State) (cid : Nat) (l : Loc) (n v : Nat) : State :=
  match l with
  | .phys pa => (s.storeAt cid l n v).dropLate (clusterOf cid) fun x => x == pa / 64
  | l => s.storeAt cid l n v

/-- The older values that the issuing task may still read of a line in its cluster, oldest first, with their places in the
list. -/
def State.lateValues (s : State) (pa n : Nat) : List (Nat × Nat) :=
  ((s.cluster (clusterOf s.hereCid)).late.zipIdx.filter fun (y, _) =>
    y.line == pa / 64 && decide (s.now < y.since + Config.cdcAge) && !y.barred.contains s.me).map
      fun (y, i) => (Line.slice y.data (pa % 64) n, i)

/-- A load of the issuing task: the cluster's value, or an older one that a store of another task of the cluster has
replaced; the task never goes back from what it has read (R198, R200). A line that the cluster holds in U state is combined
first and the load follows it (R205, R223); .nc leaves no copy of the line in the CDC (R204). -/
def State.loadTask (s : State) (nc : Bool) (l : Loc) (n : Nat) : Nat × State :=
  match l with
  | .phys pa =>
    let c := clusterOf s.hereCid
    let old := s.lateValues pa n
    let bar (t : State) (k : Nat) : State := t.modLate c fun l =>
      l.zipIdx.map fun (y, i) => if y.line = pa / 64 ∧ i < k then y.bar s.me else y
    let newest (t : State) : Nat × State :=
      let r := t.loadAt s.hereCid nc l n
      (r.1, bar r.2 (s.cluster c).late.length)
    if old.isEmpty then s.loadAt s.hereCid nc l n
    else if (s.cluster c).ulines.any fun u => u.line == pa / 64 then newest s
    else match s.choose (old.length + 1) with
      | (0, t) => newest t
      | (k + 1, t) =>
        let u := bar t (old.getD k (0, 0)).2
        ((old.getD k (0, 0)).1, if nc then u.dropCopy c (pa / 64) else u)
  | l => s.loadAt s.hereCid nc l n

/-- A load of the issuing task at an address, after its alignment has been checked (R204, R205). -/
def State.loadMem (s : State) (nc : Bool) (a : Word) (n : Nat) : Eff (Nat × State) := do
  let (l, s1) ← s.resolve .load a n
  match l with
  | .mqw _ => .error (.trap .perm a)
  | l =>
    s1.lineCheck a l n
    s1.readable a l n
    .ok (s1.loadTask nc l n)

/-- A store of the issuing task at an address. -/
def State.storeMem (s : State) (a : Word) (n v : Nat) : Eff State := do
  let (l, s1) ← s.resolve .store a n
  match l with
  | .mqw _ => .error (.trap .perm a)
  | l =>
    s1.lineCheck a l n
    s1.writable a l n
    .ok (s1.storeTask l n v)

/-- The aligned address or the ALIGN trap (R197). -/
def aligned (a : Word) (n : Nat) : Eff Unit := demandOr (decide (a.toNat % n = 0)) .align a

/-- n aligned words of w bytes from a, read as plain loads in address order. -/
def State.loadWords (s : State) (w : Nat) : Nat → Word → Eff (List Nat × State)
  | 0, _ => .ok ([], s)
  | k + 1, a => do
    let (v, s1) ← s.loadMem false a w
    let (vs, s2) ← s1.loadWords w k (a + BitVec.ofNat 64 w)
    .ok (v :: vs, s2)

/-- 64 bytes at an aligned address as one access. -/
def State.loadLine (s : State) (a : Word) : Eff (Nat × State) := s.loadMem false a 64

/-! ## Home slices (R216 to R219, R372) -/

/-- The die of the home slice of physical memory: of a far-tier window the die of its port, and of host memory die 0, where
the host port is (R3, R341, R342). -/
def homeDieOf (pa : Nat) : Nat :=
  match paKind pa with
  | .far => (pa % 2 ^ 47 - 0x100000000000) / 0x40000000000
  | .host => 0
  | _ => Config.homeDie (pa / 64) % 8

/-- The home slice of a place, of the 64 slices of its die (R3, R341); DSW lines and memory lines have distinct keys
(log entry 10, DESIGN CHOICE). -/
def Loc.slice : Loc → Nat
  | .phys pa => Config.slicesPerDie * homeDieOf pa + Config.homeSlice (2 * (pa / 64)) % Config.slicesPerDie
  | .dsw d o => Config.slicesPerDie * d + Config.homeSlice (2 * (d * 2 ^ 20 + o / 64) + 1) % Config.slicesPerDie
  | _ => 0

def homePlace : HomeLoc → Loc
  | .phys pa => .phys pa
  | .dsw d o => .dsw d o

/-- The new value of an AMO (R216) and the flags of fadd. -/
def amoValue (op : AmoOp) (signed : Bool) (w old val cmp : Nat) : Nat :=
  match op with
  | .swap => val
  | .cas => if old = cmp then val else old
  | .add => redValue .add signed w old val
  | .and => redValue .and signed w old val
  | .or => redValue .or signed w old val
  | .xor => redValue .xor signed w old val
  | .min => redValue .min signed w old val
  | .max => redValue .max signed w old val

/-- Score order of TOPK (R219): x before y. −0 equals +0; a tie goes to the lower expert. -/
def topkBefore (x y : BitVec 64) : Bool :=
  let a := fp32.decode (x.extractLsb' 32 32).toNat
  let b := fp32.decode (y.extractLsb' 32 32).toNat
  b.lt a || (!a.lt b && decide ((x.extractLsb' 0 32).toNat < (y.extractLsb' 0 32).toNat))

def insertTopk (x : BitVec 64) : List (BitVec 64) → List (BitVec 64)
  | [] => [x]
  | y :: t => if topkBefore x y then x :: y :: t else y :: insertTopk x t

/-- Keep, for x's expert, the greater score, +0 over −0. -/
def mergeTopk (l : List (BitVec 64)) (x : BitVec 64) : List (BitVec 64) :=
  match l.find? fun y => y.extractLsb' 0 32 == x.extractLsb' 0 32 with
  | none => l ++ [x]
  | some y =>
    let a := fp32.decode (x.extractLsb' 32 32).toNat
    let b := fp32.decode (y.extractLsb' 32 32).toNat
    if b.lt a || (!a.lt b && b.isNeg && !a.isNeg) then l.map fun z => if z == y then x else z else l

/-- TOPK on a 64-byte record (R219). -/
def topkRecord (rec pair : Nat) : Nat :=
  let p : BitVec 64 := BitVec.ofNat 64 pair
  let k := rec % 8
  let filled := rec / 256 % 8
  let nan (x : BitVec 64) : Bool := (fp32.decode (x.extractLsb' 32 32).toNat).isNan
  if k = 0 || nan p then rec
  else
    let slots := ((List.range filled).map fun i => (BitVec.ofNat 64 (rec / 2 ^ (64 * (i + 1))) : BitVec 64)).filter
      fun x => !nan x
    let merged := (slots ++ [p]).foldl mergeTopk []
    let best := (merged.foldl (fun l x => insertTopk x l) []).take k
    let head := rec % 2 ^ 64 / 2048 * 2048 + best.length * 256 + rec % 256
    let body := (List.range 7).foldl (fun a i =>
      let v := if i < best.length then (best.getD i 0).toNat else rec / 2 ^ (64 * (i + 1)) % 2 ^ 64
      a + v * 2 ^ (64 * (i + 1))) 0
    head + body

/-- Make room for one more entry of a source at a slice: the oldest of 32 leaves (R218). Moved entries stand in the side
table, beside the 32 (R372). -/
def keepReplies (slice src : Nat) (l : List ReplyEntry) : List ReplyEntry :=
  let mine (e : ReplyEntry) : Bool := e.slice == slice && e.src == src && !e.moved
  if (l.filter mine).length < 32 then l else l.eraseP mine

/-- A request acknowledges the earlier replies of its source at a slice: their entries are dropped (R372). -/
def State.acknowledge (s : State) (src slice seq : Nat) : State :=
  if s.replies.isEmpty then s
  else { s with replies := s.replies.filter fun e =>
    !(e.slice == slice && e.src == src && decide (e.seq < seq) && !(s.core src).unanswered.contains (slice, e.seq)) }

/-- The request returns a value, so that its task goes on only once it is answered. -/
def HomeOp.returns : HomeOp → Bool
  | .amo _ _ _ => true | .fadd => true | .tokc => true | _ => false

/-- Where a line of a redirected page lies now (R371). -/
def State.redirected (s : State) (l : Loc) : Loc :=
  match l with
  | .phys pa =>
    match s.redirects.find? fun r => decide (r.oldPa ≤ pa ∧ pa < r.oldPa + 65536) with
    | some r => .phys (r.newPa + (pa - r.oldPa))
    | none => l
  | _ => l

/-- A request reaches its home: it is answered from the reply cache, or performed once and entered (R218, R372).
The answer is the old value, the flags of fadd, and the state. A TOPK that leaves its record as it was counts as a write of
its line, so it wakes the tasks that wait there (R219, R225; log entry 60, DESIGN CHOICE). -/
def State.perform (s : State) (src seq : Nat) (asked : Loc) (op : HomeOp) (val cmp : Nat) : Nat × Byte × State :=
  match s.replies.find? fun e => e.slice == asked.slice && e.src == src && e.seq == seq with
  | some e => (e.old.toNat, e.flags, s)
  | none =>
    let l := s.redirected asked
    let s1 := match l with
      | .phys pa => s.combineLine (pa / 64)
      | _ => s
    let enter (t : State) (old : Nat) (f : Byte := 0) : State :=
      { t with replies := keepReplies asked.slice src t.replies ++
        [{ slice := asked.slice, src := src, seq := seq, line := l.line, old := BitVec.ofNat 64 old, flags := f, moved := false,
           cx := (s.cxOf src).getD 0 }] }
    let put (n v : Nat) : State := (match l with
      | .phys pa => (s1.mend l n).pokeHome pa n v
      | l => (s1.mend l n).poke l n v).wakeLine l.line
    match op with
    | .amo o w64 sg =>
      let n := if w64 then 8 else 4
      let old := s1.peek l n
      let new := amoValue o sg (8 * n) old (val % 2 ^ (8 * n)) (cmp % 2 ^ (8 * n))
      (old, 0, enter (if o = .cas ∧ old ≠ cmp % 2 ^ (8 * n) then s1 else put n new) old)
    | .fadd =>
      let old := s1.peek l 4
      let r := fp32.add .rne (fp32.decode old) (fp32.decode (val % 2 ^ 32))
      (old, r.2, enter (put 4 r.1) old r.2)
    | .red o w64 sg =>
      let n := if w64 then 8 else 4
      (0, 0, enter (put n (redValue o sg (8 * n) (s1.peek l n) (val % 2 ^ (8 * n)))) 0)
    | .redFadd =>
      (0, 0, enter (put 4 (fp32.add .rne (fp32.decode (s1.peek l 4)) (fp32.decode (val % 2 ^ 32))).1) 0)
    | .topk => (0, 0, enter (put 64 (topkRecord (s1.peek l 64) val)) 0)
    | .tokc => (0, 0, s1)

/-- The issuing core's next sequence number towards a slice. -/
def Core.seqFor (c : Core) (slice : Nat) : Nat := (c.nextSeq.get slice).getD 0

/-- Fewer than 32 unanswered requests towards the slice, else the task parks (R218). -/
def State.roomAtHome (s : State) (l : Loc) : Eff Unit :=
  await (s.here.unanswered.isEmpty || decide ((s.here.unanswered.filter fun u => u.1 == l.slice).length < 32))
    (.atomics l.slice)

/-- Send a request of the issuing task to the home and take its answer (R216 to R218). -/
def State.request (s : State) (l : Loc) (op : HomeOp) (val cmp : Nat) : Nat × Byte × State :=
  let seq := s.here.seqFor l.slice
  let s1 := { s with here := { s.here with
    nextSeq := s.here.nextSeq.put l.slice (seq + 1)
    unanswered := if HomeOp.returns op then s.here.unanswered else s.here.unanswered ++ [(l.slice, seq)] } }
  let s2 := match l with
    | .phys pa => s1.seeHome s.me (pa / 64)
    | _ => s1
  (s2.acknowledge s.hereCid l.slice seq).perform s.hereCid seq l op val cmp

/-- The checks of an atomic of n bytes at an address (R216, R220): alignment, place, lines, damage, room. -/
def State.atomicAt (s : State) (a : Word) (n : Nat) : Eff (Loc × State) := do
  aligned a n
  let (l, s1) ← s.resolve .atomic a n
  s1.lineCheck a l n
  s1.readable a l n
  s1.roomAtHome l
  .ok (l, s1)

end Sys2Proof.Machine
end

