-- ==== Sys2Proof/Machine/Operands.lean ====
section
/-! DEFINITION. Operand forms: g operands with stagger and rotation, MOV's class-selectable operands, addresses of the
access formats, sizes and sign extension (R46 to R51, R66, R111, R114, R204). -/

namespace Sys2Proof.Machine

/-- Bytes of an access (R66). -/
def sizeBytes : Size → Nat
  | .n64 => 8 | .n8 => 1 | .n16 => 2 | .n32 => 4

def ldBytes : LdTy → Nat
  | .n64 => 8 | .n8 => 1 | .n16 => 2 | .n32 => 4 | .i8 => 1 | .i16 => 2 | .i32 => 4

def ldSigned : LdTy → Bool
  | .i8 => true | .i16 => true | .i32 => true | _ => false

/-- The low n bytes of a value, extended to 64 bits. -/
def extendBytes (signed : Bool) (n v : Nat) : Word :=
  if signed then BitVec.ofInt 64 (signedOf (8 * n) (v % 2 ^ (8 * n))) else BitVec.ofNat 64 (v % 2 ^ (8 * n))

/-- g[a] + disp·scale: format M scales the displacement by the size (R46, R66, R204). -/
def State.dispAddr (s : State) (a : GReg) (disp : Word) (scale : Nat) : Word :=
  s.g a + disp * BitVec.ofNat 64 scale

/-- The target of a branch: A + 2·off (R127). -/
def State.target (s : State) (off : Word) : Word := s.addr + 2 * off

def Word.signed (v : Word) : Int := v.toInt

/-- g[a] read as the type of MULH, DIV, REM, MIN and MAX (R118). -/
def asType (t : IntTy) (v : Word) : Int :=
  match t with
  | .i64 => v.toInt
  | .n64 => v.toNat

/-- The queue q0 to q7 of the issuing task and its core (R115). -/
def State.queue (s : State) (q : QReg) : List Word :=
  if q.toNat < 4 then vget s.task.queues q.toNat [] else vget s.here.local4 (q.toNat - 4) []

def State.setQueue (s : State) (q : QReg) (l : List Word) : State :=
  if q.toNat < 4 then s.modTask fun t => { t with queues := vset t.queues q.toNat l }
  else { s with here := { s.here with local4 := vset s.here.local4 (q.toNat - 4) l } }

def State.mb (s : State) (r : MBReg) : Word := s.ws.mb[r.toNat]
def State.setMb (s : State) (r : MBReg) (v : Word) : State :=
  s.modWs fun w => { w with mb := w.mb.set r.toNat v }

/-- The value of MOV's source; a queue is popped, or the task parks while it is empty (R114). -/
def State.readMov (s : State) (a : MovReg) : Eff (Word × State) :=
  match a with
  | .g r => .ok (s.g r, s)
  | .mb r => .ok (s.mb r, s)
  | .q q =>
    match s.queue q with
    | [] => .error (.park (.queueEmpty q))
    | v :: rest => .ok (v, s.setQueue q rest)

/-- MOV's destination is writable: q0 to q3 trap ILLOP (R115). -/
def movDestOk : MovReg → Eff Unit
  | .q q => demand (decide (4 ≤ q.toNat))
  | _ => .ok ()

/-- Write MOV's destination; a full queue parks (R114). -/
def State.writeMov (s : State) (d : MovReg) (v : Word) : Eff State :=
  match d with
  | .g r => .ok (s.setG r v)
  | .mb r => .ok (s.setMb r v)
  | .q q => do
    await (decide ((s.queue q).length < 8)) (.queueFull q)
    .ok (s.setQueue q (s.queue q ++ [v]))

/-- A range that does not cross 2^64 and does not lie partly in global space and partly in a local window (R209); the
addresses between the two, which nothing translates, are skipped. -/
def rangeOk (base len : Word) : Bool :=
  len == 0 || (decide (base.toNat + len.toNat ≤ 2 ^ 64) &&
    !(isGlobal base && decide (0xFF00000000000000 < base.toNat + len.toNat)))

end Sys2Proof.Machine
end

