-- ==== Sys2Proof/Machine/Matrix.lean ====
section
/-! DEFINITION. The matrix unit (R166 to R188, R397): pushing a command, the checks at the head of a queue, the seven
commands, and completion. Each command's event runs the head of one core's queue. -/

namespace Sys2Proof.Machine

/-- Command kinds (R172). -/
inductive MxKind where
  | mma | bload | brot | accrd | accz | fmtset | mxfence
  deriving DecidableEq, Repr

def MxCmd.field (c : MxCmd) (lo n : Nat) : Nat := (c.bits.extractLsb' lo n).toNat
def MxCmd.addr (c : MxCmd) (lo : Nat) : Word := c.bits.extractLsb' lo 64
def MxCmd.caddr (c : MxCmd) : Word := c.addr 64

def MxCmd.kind (c : MxCmd) : Option MxKind :=
  match c.field 0 8 with
  | 1 => some .mma | 2 => some .bload | 3 => some .brot | 4 => some .accrd | 5 => some .accz | 6 => some .fmtset
  | 7 => some .mxfence | _ => none

/-- Bits that must be zero, as (lowest bit, number) (R172, R177 to R183). -/
def MxKind.zeros : MxKind → List (Nat × Nat)
  | .fmtset => [(32, 32), (8, 8), (140, 372)]
  | .bload => [(32, 32), (8, 8), (321, 191), (240, 16), (198, 10)]
  | .brot => [(32, 32), (9, 7), (130, 382)]
  | .mma => [(32, 32), (10, 6), (324, 188), (321, 1), (240, 16), (198, 26)]
  | .accrd => [(32, 32), (9, 7), (256, 256), (240, 16), (216, 8), (210, 2), (206, 2), (198, 2)]
  | .accz => [(32, 32), (8, 8), (132, 380)]
  | .mxfence => [(32, 32), (9, 7), (128, 384)]

def mxFmt : Nat → MxFmt
  | 0 => .bf16 | 1 => .c8 | 2 => .int8 | _ => .lx8

/-- Element bits, element bytes as stored, and the K step of a format (R178, R180). -/
def MxFmt.bits : MxFmt → Nat
  | .bf16 => 16 | .lx8 => 2 | _ => 8
def MxFmt.size : MxFmt → Nat
  | .bf16 => 2 | .lx8 => 2 | _ => 1
def MxFmt.kstep : MxFmt → Nat
  | .bf16 => 32 | _ => 64

/-- The format pairs of R183. -/
def mxAllowed (a b : MxFmt) : Bool :=
  match a, b with
  | .bf16, .bf16 => true | .c8, .c8 => true | .c8, .lx8 => true | .int8, .int8 => true | _, _ => false

/-- Scales of one LX8 column of K elements. -/
def scaleCount (k : Nat) : Nat := (k + 127) / 128

/-- Bytes of a B column. -/
def MxFmt.colBytes (f : MxFmt) (k : Nat) : Nat := k * f.bits / 8

/-! ## Checks (R397) -/

/-- A field out of its range, or a limit of the command's own entry broken. -/
def MxCmd.badField (c : MxCmd) (k : MxKind) (x : MxCtx) : Bool :=
  let one32 (lo : Nat) : Bool := decide (1 ≤ c.field lo 6 ∧ c.field lo 6 ≤ 32)
  match k with
  | .fmtset => decide (2 < c.field 128 4 ∨ 3 < c.field 132 4)
  | .bload =>
    let kl := c.field 208 16
    !one32 192 || kl == 0 || decide (kl % x.b.kstep ≠ 0) || decide (65536 < kl * c.field 192 6 * x.b.bits) ||
      decide (c.field 224 16 < x.b.colBytes kl) || (x.b != .lx8 && c.field 256 64 != 0)
  | .mma => !one32 192
  | .accrd => !one32 192 || !one32 200 || decide (3 < c.field 212 4)
  | _ => false

/-- A legal address of n bytes (R173): its place, for a core. dsw: the DSW window counts. -/
def State.mxPlace (s : State) (cid : Nat) (dsw : Bool) (a : Word) (n align : Nat) : Option Loc :=
  if !isLocal a ∨ a.toNat % align ≠ 0 then none
  else if s.extent cid (winSel a) < winOff a + n then none
  else match winSel a with
    | 0 => if (s.core cid).reserved (winOff a) n then none else some (.lm cid (winOff a))
    | 1 => some (.csp (clusterOf cid) (winOff a))
    | 3 => if dsw then some (.dsw (dieOf cid) ((s.dswRange ((s.cxOf cid).getD 0) (dieOf cid)).1 + winOff a)) else none
    | _ => none

/-- Rows of n bytes: address, length, alignment. -/
def mxRows (base : Word) (stride rows n align : Nat) : List (Word × Nat × Nat) :=
  (List.range rows).map fun r => (base + BitVec.ofNat 64 (r * stride), n, align)

/-- The bytes a command names; an MMA's rows count K elements, or one where no K is known yet (log entry 28, DEDUCED). -/
def MxCmd.spans (c : MxCmd) (k : MxKind) (x : MxCtx) (klen : Nat) : List (Word × Nat × Nat) :=
  match k with
  | .bload =>
    let kl := c.field 208 16
    mxRows (c.addr 128) (c.field 224 16) (c.field 192 6) (x.b.colBytes kl) x.b.size ++
      (if x.b = .lx8 then [(c.addr 256, 2 * c.field 192 6 * scaleCount kl, 2)] else [])
  | .mma =>
    (if c.addr 256 = 0 then [] else [(c.addr 256, 4, 4)]) ++
      mxRows (c.addr 128) (c.field 224 16) (c.field 192 6) (klen * x.a.size) x.a.size
  | .accrd =>
    let n := if c.field 212 4 = 1 ∨ c.field 212 4 = 2 then 2 else 4
    mxRows (c.addr 128) (c.field 224 16) (c.field 192 6) (n * c.field 200 6) n
  | _ => []

def State.mxSpansOk (s : State) (cid : Nat) (l : List (Word × Nat × Nat)) : Bool :=
  l.all fun x => (s.mxPlace cid true x.1 x.2.1 x.2.2).isSome

/-- The record's place: own LM or the CSP. -/
def State.mxRecord (s : State) (cid : Nat) (c : MxCmd) : Option Loc :=
  if c.caddr = 0 then none else s.mxPlace cid false c.caddr 8 8

/-- The K of an MMA's latch while that is FULL; 0: none is known. -/
def State.mxK (s : State) (cid : Nat) (c : MxCmd) : Nat :=
  let l := vget (s.core cid).mx.latch (c.field 320 1) Latch.reset
  if l.full then l.klen else 0

/-- The status of a command that fails a check at the head of its queue; 0: none. An MMA's rows count the K of its latch
where that is FULL already (log entry 28, DEDUCED). -/
def State.mxCheck (s : State) (cid : Nat) (c : MxCmd) (k : MxKind) : Nat :=
  let x := (s.core cid).mx.ctx
  if !(k.zeros.all fun z => c.field z.1 z.2 == 0) || c.badField k x then 2
  else if k = .fmtset ∧ !mxAllowed (mxFmt (c.field 128 4)) (mxFmt (c.field 132 4)) then 3
  else if (c.caddr ≠ 0 ∧ (s.mxRecord cid c).isNone) ∨ !s.mxSpansOk cid (c.spans k x (max 1 (s.mxK cid c))) then 4
  else 0

/-! ## Running a command -/

/-- The pushing task is still in its slot (R176). -/
def State.mxPusher (s : State) (cid : Nat) (c : MxCmd) : Bool :=
  ((s.core cid).slot c.slot).held && ((s.core cid).slot c.slot).actNo == c.act

/-- A command's run: it waits (none), or ends with an error status. -/
abbrev MxEff (α : Type) := Except (Option Nat) α

/-- An operand read (R185, R186) (log entry 16, DEDUCED): its place has passed the checks, which are made once (R397). -/
def State.mxRead (s : State) (cid : Nat) (c : MxCmd) (x : Word × Nat × Nat) : MxEff Nat :=
  match s.window cid x.1 with
  | none => .error (some 4)
  | some l =>
    let ls := l.lines x.2.1
    if s.mxPusher cid c && s.ownQ cid c.slot ls then .error (some 6)
    else if !(s.holders ls).isEmpty then .error none
    else if (s.damagedByte l x.2.1).isSome then .error (some 5)
    else .ok (s.peek l x.2.1)

def State.mxReads (s : State) (cid : Nat) (c : MxCmd) : List (Word × Nat × Nat) → MxEff (List Nat)
  | [] => .ok []
  | x :: t => do
    let v ← s.mxRead cid c x
    let vs ← s.mxReads cid c t
    .ok (v :: vs)

def State.modMx (s : State) (cid : Nat) (f : Mx → Mx) : State := s.modCore cid fun c => { c with mx := f c.mx }
def Mx.getLatch (m : Mx) (i : Nat) : Latch := vget m.latch i Latch.reset
def Mx.setLatch (m : Mx) (i : Nat) (l : Latch) : Mx := { m with latch := vset m.latch i l }

/-- A write of an engine: it mends or misses damaged units, and sets the words it touches full in LM and CSP (R210,
R375). detail is the copy channel, for a copy (R362). -/
def State.engineWrite (s : State) (cid : Nat) (l : Loc) (n v : Nat) (detail : Nat := 0) : State :=
  if (s.damagedPart l n).isSome then
    (s.report (dieOf cid) (faultRec ((s.cxOf cid).getD 0) 0 2 .mchk detail cid)).failLm l
  else (s.storeEngine cid l n v).setFullRange l n true

/-- What the checks find for the command at the head of a queue: 0, or the status it completes with (R397). -/
def State.mxVerdict (s : State) (cid : Nat) (c : MxCmd) : Nat :=
  match c.kind with
  | none => 2
  | some k => s.mxCheck cid c k

/-- The command that has reached the head of a queue is checked at once (R397). -/
def State.mxArrive (s : State) (cid : Nat) : State :=
  match (s.core cid).mx.queue with
  | [] => s.modMx cid fun m => { m with head := none, headK := 0 }
  | c :: _ => s.modMx cid fun m => { m with head := some (s.mxVerdict cid c), headK := s.mxK cid c }

/-- Write a completion record, or let it wait for its line in Q or X state, behind those that wait already. -/
def State.mxRecordWrite (s : State) (cid : Nat) (l : Loc) (v : Word) : State :=
  if (s.core cid).mx.records.isEmpty && (s.holders (l.lines 8)).isEmpty then s.engineWrite cid l 8 v.toNat
  else s.modMx cid fun m => { m with records := m.records ++ [(l, v)] }

/-- The oldest waiting record is written, once its line is free. -/
def State.mxFlush (s : State) (cid : Nat) : Option State :=
  match (s.core cid).mx.records with
  | [] => none
  | (l, v) :: t =>
    if (s.holders (l.lines 8)).isEmpty then
      some ((s.modMx cid fun m => { m with records := t }).engineWrite cid l 8 v.toNat)
    else none

/-- The next core on the cluster's ring (R9, R179). -/
def ringNext (cid : Nat) : Nat := 8 * (cid / 8) + (cid % 8 + 1) % 8

/-- The command waits for a latch (R178 to R180). -/
def State.mxLatchWait (s : State) (cid : Nat) (c : MxCmd) : Bool :=
  let m := (s.core cid).mx
  match c.kind with
  | some .bload => (m.getLatch (c.field 320 1)).full
  | some .brot => !(m.getLatch (c.field 128 1)).full || ((s.core (ringNext cid)).mx.getLatch (c.field 129 1)).full
  | some .mma => !(m.getLatch (c.field 320 1)).full
  | _ => false

/-- The record's place of a command that has passed its checks. -/
def State.mxPlaced (s : State) (cid : Nat) (c : MxCmd) : Option Loc := if c.caddr = 0 then none else s.window cid c.caddr

/-- A line of the command's record is held in Q or X state (R246). -/
def State.mxRecordWait (s : State) (cid : Nat) (c : MxCmd) : Bool :=
  match s.mxPlaced cid c with
  | some l => !(s.holders (l.lines 8)).isEmpty
  | none => false

/-- What the command reads of memory, in its order: of an MMA the row count, then the rows that it gives (R178, R180). -/
def State.mxOperands (s : State) (cid : Nat) (c : MxCmd) : List (Word × Nat × Nat) :=
  let x := (s.core cid).mx.ctx
  match c.kind with
  | some .bload => c.spans .bload x 0
  | some .mma =>
    let rows (n : Nat) := mxRows (c.addr 128) (c.field 224 16) n (s.mxK cid c * x.a.size) x.a.size
    let count : Word × Nat × Nat := (c.addr 256, 4, 4)
    if c.addr 256 = 0 then rows (c.field 192 6)
    else count :: match s.mxRead cid c count with
      | .ok n => rows (min n (c.field 192 6))
      | .error _ => []
  | _ => []

/-- A place that the command writes lies in a held line. -/
def State.mxOutHeld (s : State) (cid : Nat) (c : MxCmd) : Bool :=
  match c.kind with
  | some .accrd => (c.spans .accrd (s.core cid).mx.ctx 0).any fun x => match s.window cid x.1 with
    | some l => !(s.holders (l.lines x.2.1)).isEmpty
    | none => false
  | _ => false

/-- The status with which an MMA whose latch is FULL completes before it reads anything: its pair of formats is refused, or its
rows, which its latch's K gives only now, reach too far (R183, R397) (log entry 28, DEDUCED). -/
def State.mxUnfit (s : State) (cid : Nat) (c : MxCmd) : Option Nat :=
  let m := (s.core cid).mx
  let l := m.getLatch (c.field 320 1)
  if !mxAllowed m.ctx.a l.fmt then some 3
  else if m.headK = 0 ∧ !s.mxSpansOk cid (c.spans .mma m.ctx l.klen) then some 4
  else none

/-- The command waits for a line: another task's ticket holds one that it would read next, or it writes to a held one (R185,
R246). -/
def State.mxLineWait (s : State) (cid : Nat) (c : MxCmd) : Bool :=
  if c.kind = some .mma ∧ (s.mxUnfit cid c).isSome then false
  else s.mxOutHeld cid c || match s.mxReads cid c (s.mxOperands cid c) with
    | .error none => true
    | _ => false

/-- A damaged operand of the command lies in LM (R375). -/
def State.mxLmError (s : State) (cid : Nat) (c : MxCmd) : Bool :=
  (s.mxOperands cid c).any fun x => match s.window cid x.1 with
    | some (.lm k o) => (s.damagedByte (.lm k o) x.2.1).isSome
    | _ => false

/-- Completion: the record at its place, DONE, MQERR, the pusher's flags (R170, R174 to R176). -/
def State.mxComplete (s : State) (cid : Nat) (c : MxCmd) (place : Option Loc) (st : Nat) (fl : Byte) (rows : Nat) :
    State :=
  let f : Byte := if st = 1 then fl ||| fClip else fl
  let rec1 : Word := c.seq.extractLsb' 0 24 ++ BitVec.ofNat 6 rows ++ 0#2 ++ c.bits.extractLsb' 16 16 ++ BitVec.ofNat 8 st
    ++ f
  let s1 := match place with
    | some l => s.mxRecordWrite cid l rec1
    | none => s
  let s2 := s1.modMx cid fun m =>
    { m with
      queue := m.queue.drop 1
      done := m.done + 1
      err := if 2 ≤ st ∧ st ≤ 6 ∧ m.err.isNone then some (c.seq.extractLsb' 0 24, BitVec.ofNat 8 st) else m.err }
  let s3 := if st = 5 then
      let s3 := s2.report (dieOf cid) (faultRec ((s.cxOf cid).getD 0) 0 2 .mchk 0 cid)
      if s.mxLmError cid c then s3.failLm (.lm cid 0) else s3
    else s2
  let s4 := if s3.mxPusher cid c then
      s3.modSlot cid c.slot fun t => { t with ws := { t.ws with fpf := t.ws.fpf ||| f } }
    else s3
  s4.mxArrive cid

/-- The head of a queue is ready to start: it passed its checks and waits for no latch, no line and no earlier record
(R184). -/
def State.mxReady (s : State) (cid : Nat) : Bool :=
  match (s.core cid).mx.queue with
  | [] => false
  | c :: _ => (s.core cid).mx.head.getD (s.mxVerdict cid c) == 0 && (s.core cid).mx.records.isEmpty &&
      !(s.mxRecordWait cid c || s.mxLatchWait cid c || s.mxLineWait cid c)

/-- It is the queue's turn: in round-robin order of core number no other ready head stands before it (R184). -/
def State.mxIsNext (s : State) (cid : Nat) : Bool :=
  let first := (s.cluster (clusterOf cid)).mxNext
  let ring := (List.range 8).map fun i => 8 * clusterOf cid + (first + i) % 8
  !(ring.takeWhile (· != cid)).any s.mxReady

/-- The round goes on after a queue that has started a command (R184). -/
def State.mxServed (s : State) (cid : Nat) : State :=
  s.modCluster (clusterOf cid) fun x => { x with mxNext := (cid + 1) % 8 }

/-- The unit looks at a core's queue. A record that has waited for its line is written first. A command that failed its
checks completes at once, out of turn. Another starts when it is ready and its queue's turn has come, at the step of its own
kind (R184, R397). -/
def State.mxTurn (s : State) (cid : Nat) (k : MxKind) (run : MxCmd → MxEff (State × Nat × Byte × Nat)) : Result :=
  match s.mxFlush cid with
  | some t => .next t
  | none => match (s.core cid).mx.queue with
    | [] => .next s
    | c :: _ => match (s.core cid).mx.head.getD (s.mxVerdict cid c) with
      | 0 =>
        if c.kind ≠ some k ∨ s.mxRecordWait cid c ∨ (s.core cid).mx.records ≠ [] ∨ s.mxIsNext cid = false then .next s
        else match run c with
          | .ok (t, st, fl, rows) => .next ((t.mxComplete cid c (s.mxPlaced cid c) st fl rows).mxServed cid)
          | .error none => .next s
          | .error (some st) => .next ((s.mxComplete cid c (s.mxPlaced cid c) st 0 0).mxServed cid)
      | st => .next (s.mxComplete cid c (s.mxRecord cid c) st 0 0)

/-- FMTSET (R177). -/
def execFmtset (cid : Nat) (s : State) : Result :=
  s.mxTurn cid .fmtset fun c =>
    let x : MxCtx :=
      { a := mxFmt (c.field 128 4), b := mxFmt (c.field 132 4), atab := c.atab, btab := c.btab }
    .ok (s.modMx cid fun m => { m with ctx := x }, 0, 0, 0)

/-- Numbers of w bits side by side, the first lowest. -/
def packBits (w : Nat) (l : List Nat) : Nat := l.foldr (fun v acc => v % 2 ^ w + acc * 2 ^ w) 0

/-- BLOAD (R178, R186): a damaged operand leaves the latch EMPTY. -/
def execBload (cid : Nat) (s : State) : Result :=
  s.mxTurn cid .bload fun c => do
    let m := (s.core cid).mx
    let i := c.field 320 1
    if (m.getLatch i).full then .error none
    else
      let kl := c.field 208 16
      let cols ← s.mxReads cid c (mxRows (c.addr 128) (c.field 224 16) (c.field 192 6) (m.ctx.b.colBytes kl)
        m.ctx.b.size)
      let scales ← if m.ctx.b = .lx8 then s.mxRead cid c (c.addr 256, 2 * c.field 192 6 * scaleCount kl, 2)
        else .ok 0
      let l : Latch :=
        { full := true, klen := kl, ncol := c.field 192 6, fmt := m.ctx.b, tab := m.ctx.btab
          data := BitVec.ofNat 65536 (packBits (kl * m.ctx.b.bits) cols)
          scales := BitVec.ofNat 4608 scales, bad := false }
      .ok (s.modMx cid fun m => m.setLatch i l, 0, 0, 0)

/-- A latch that an uncorrectable error has hit is found when it is read: it is made empty, with a KIND 10 record
(R186, R375). -/
def State.loseLatch (s : State) (cid i : Nat) : State :=
  (s.modMx cid fun m => m.setLatch i Latch.reset).report (dieOf cid)
    (faultRec ((s.cxOf cid).getD 0) 0 10 .none 7 cid)

/-- BROT (R179, R186). -/
def execBrot (cid : Nat) (s : State) : Result :=
  s.mxTurn cid .brot fun c =>
    let src := c.field 128 1
    let dst := c.field 129 1
    let l := (s.core cid).mx.getLatch src
    let d := (s.core (ringNext cid)).mx.getLatch dst
    if !l.full || d.full then .error none
    else if l.bad then .ok (s.loseLatch cid src, 5, 0, 0)
    else
      let s1 := s.modMx (ringNext cid) fun m => m.setLatch dst l
      let s2 := if c.field 8 1 = 1 then s1.modMx cid fun m => m.setLatch src Latch.reset else s1
      .ok (s2, 0, 0, 0)

/-- The value of a stored element of a float pair. -/
def mxValue (f : MxFmt) (t : CodeTable) (v : Nat) : FV :=
  match f with
  | .c8 => t.decode (BitVec.ofNat 8 v)
  | _ => bf16.decode v

/-- The elements of w bits of a row or column. -/
def unpackBits (w n v : Nat) : List Nat := (List.range n).map fun i => v >>> (w * i) % 2 ^ w

/-- The values of a latch's column j, with the port's flags (R181, R188). -/
def Latch.column (l : Latch) (j : Nat) : List FV × Byte :=
  let bits := l.klen * l.fmt.bits
  let raw := l.data.toNat >>> (j * bits) % 2 ^ bits
  match l.fmt with
  | .lx8 =>
    let sc := l.scales.toNat >>> (16 * j * scaleCount l.klen)
    let vals := (List.range l.klen).map fun i =>
      let g := lx8Coords (BitVec.ofNat 16 (raw >>> (16 * (i / 8))))
      let x := lx8Value (g.1.getD (i % 8) 0) (bf16.decode (sc >>> (16 * (i / 128)) % 2 ^ 16))
      (x.1, x.2 ||| (if g.2 then fLvoid else 0))
    (vals.map (·.1), vals.foldl (fun f x => f ||| x.2) 0)
  | f => ((unpackBits f.bits l.klen raw).map (mxValue f l.tab), 0)

/-- StepSum of R181 for float pairs, in units of 2^-298, with INV. -/
def stepSum (xs ys : List FV) : XV × Byte :=
  let ps := xs.zip ys
  let inf (x : FV) : Bool := match x with | .inf _ => true | _ => false
  let zero (x : FV) : Bool := match x with | .fin _ 0 => true | _ => false
  let bad := ps.any fun p => (inf p.1 && zero p.2) || (zero p.1 && inf p.2)
  let infs := ps.filter fun p => !p.1.isNan && !p.2.isNan && (inf p.1 || inf p.2) && !zero p.1 && !zero p.2
  let sgn (p : FV × FV) : Bool := p.1.isNeg != p.2.isNeg
  let both := infs.any sgn && infs.any fun p => !sgn p
  let g : Byte := if bad || both then fInv else 0
  if bad || both || ps.any (fun p => p.1.isNan || p.2.isNan) then (.nan, g)
  else match infs with
    | p :: _ => (.inf (sgn p), g)
    | [] =>
      let total : Int := ps.foldl (fun a p => a + p.1.toInt * p.2.toInt) 0
      if total = 0 then (.fin (ps.all fun p => sgn p && (zero p.1 || zero p.2)) 0 1, g)
      else (.fin (decide (total < 0)) total.natAbs 1, g)

/-- AddStep of R181. -/
def addStep (acc : Nat) (x : XV) : Nat × Byte :=
  match fp32.decode acc, x with
  | .nan, _ => (fp32.nanCode, 0)
  | _, .nan => (fp32.nanCode, 0)
  | .inf a, .inf b => if a == b then (fp32.infinity a, 0) else (fp32.nanCode, fInv)
  | .inf a, .fin _ _ _ => (fp32.infinity a, 0)
  | .fin _ _, .inf b => (fp32.infinity b, 0)
  | .fin a m, .fin b n _ => fp32.sum .rne a (m * unit) b n

/-- Slices of n elements, in order. -/
def chunks {α : Type} (n : Nat) : Nat → List α → List (List α)
  | 0, _ => []
  | k + 1, l => l.take n :: chunks n k (l.drop n)

/-- One accumulator word of a float pair over all K steps. -/
def mxDot (step : Nat) (acc : Nat) (row col : List FV) : Nat × Byte :=
  let k := row.length / step
  ((chunks step k row).zip (chunks step k col)).foldl (fun (a, f) (xs, ys) =>
    let t := stepSum xs ys
    let r := addStep a t.1
    (r.1, f ||| t.2 ||| r.2)) (acc, 0)

/-- One accumulator word of the INT8 pair. -/
def mxDotInt (acc : Nat) (row col : List Nat) : Nat :=
  (((row.zip col).foldl (fun (a : Int) (p : Nat × Nat) => a + signedOf 8 p.1 * signedOf 8 p.2) (acc : Int)) % 2 ^ 32).toNat

def accWord (a : BitVec 32768) (r c : Nat) : Nat := (a.extractLsb' (32 * (32 * r + c)) 32).toNat
def accPut (a : BitVec 32768) (r c v : Nat) : BitVec 32768 :=
  BitVec.ofNat 32768 (a.toNat - accWord a r c * 2 ^ (32 * (32 * r + c)) + v % 2 ^ 32 * 2 ^ (32 * (32 * r + c)))

/-- The words of an MMA: (r, c, value, flags). -/
def mxProduct (x : MxCtx) (l : Latch) (a : BitVec 32768) (zfirst : Bool) (rows : List Nat) :
    List (Nat × Nat × Nat × Byte) :=
  let start (r c : Nat) : Nat := if zfirst then 0 else accWord a r c
  if x.a = .int8 then
    let cols := (List.range l.ncol).map fun j => unpackBits 8 l.klen (l.data.toNat >>> (j * l.klen * 8))
    rows.zipIdx.flatMap fun (row, r) => cols.zipIdx.map fun (col, c) =>
      (r, c, mxDotInt (start r c) (unpackBits 8 l.klen row) col, 0)
  else
    let cols := (List.range l.ncol).map l.column
    rows.zipIdx.flatMap fun (row, r) =>
      let vals := (unpackBits x.a.bits l.klen row).map (mxValue x.a x.atab)
      cols.zipIdx.map fun (col, c) =>
        let d := mxDot l.fmt.kstep (start r c) vals col.1
        (r, c, d.1, d.2 ||| col.2)

/-- MMA (R180, R181, R186): it starts once its latch is FULL; where that was not so when it reached the head of its queue, its
rows are checked with the latch's K now (log entry 28, DEDUCED). Where the row-count word itself is damaged, the rows that the
MMA would have written count as MBOUND (log entry 51, DEDUCED). -/
def execMma (cid : Nat) (s : State) : Result :=
  s.mxTurn cid .mma fun c =>
    let m := (s.core cid).mx
    let l := m.getLatch (c.field 320 1)
    let k := c.field 322 2
    let a : BitVec 32768 := vget m.acc k 0
    let bound := c.field 192 6
    let setAcc (ws : List (Nat × Nat × Nat)) (s : State) : State :=
      s.modMx cid fun m => { m with
        acc := vset m.acc k (ws.foldl (fun a w => accPut a w.1 w.2.1 w.2.2) a)
        accBad := m.accBad.filter fun b => !(b.1 == k && ws.any fun w => 32 * w.1 + w.2.1 == b.2) }
    let drop (s : State) : State :=
      if c.field 9 1 = 1 then s.modMx cid fun m => m.setLatch (c.field 320 1) Latch.reset else s
    let lost (n : Nat) : State :=
      let v := if m.ctx.a = .int8 then 0 else fp32.nanCode
      setAcc ((List.range n).flatMap fun r => (List.range l.ncol).map fun j => (r, j, v)) s
    if !l.full then .error none
    else if let some st := s.mxUnfit cid c then .error (some st)
    else
      let count : MxEff Nat := if c.addr 256 = 0 then .ok bound else s.mxRead cid c (c.addr 256, 4, 4)
      match count with
      | .error (some 5) => .ok (lost bound, 5, 0, 0)
      | .error e => .error e
      | .ok n =>
        let n1 := min n bound
        match s.mxReads cid c (mxRows (c.addr 128) (c.field 224 16) n1 (l.klen * m.ctx.a.size) m.ctx.a.size) with
        | .error (some 5) => .ok (lost n1, 5, 0, 0)
        | .error e => .error e
        | .ok rows =>
          let spoiled := c.field 8 1 != 1 && m.accBad.any fun b => b.1 == k && b.2 / 32 < n1 && b.2 % 32 < l.ncol
          if l.bad then .ok ((lost n1).loseLatch cid (c.field 320 1), 5, 0, 0)
          else if spoiled then .ok (lost n1, 5, 0, 0)
          else
          let ws := mxProduct m.ctx l a (c.field 8 1 == 1) rows
          .ok (drop (setAcc (ws.map fun w => (w.1, w.2.1, w.2.2.1)) s), if bound < n then 1 else 0,
            ws.foldl (fun f w => f ||| w.2.2.2) 0, n1)

/-- The stored form of an accumulator word in an output type (R182). -/
def accOut (ot v : Nat) : Nat × Byte :=
  match ot with
  | 1 => toFloat bf16 .rne 0 false (fp32.decode v).toXV
  | 2 => toFloat fp16 .rne 0 false (fp32.decode v).toXV
  | _ => (v, 0)

/-- ACCRD (R182, R186): rows in ascending order, then the record. A line in Q state at its destination or record makes it
wait, also where the pusher's own ticket holds it (log entry 51, DEDUCED). -/
def execAccrd (cid : Nat) (s : State) : Result :=
  s.mxTurn cid .accrd fun c =>
    let m := (s.core cid).mx
    let k := c.field 208 2
    let a : BitVec 32768 := vget m.acc k 0
    let ot := c.field 212 4
    let n := if ot = 1 ∨ ot = 2 then 2 else 4
    let rows := c.field 192 6
    let cols := c.field 200 6
    let spans := c.spans .accrd m.ctx 0
    if s.mxOutHeld cid c then .error none
    else if m.accBad.any fun b => b.1 == k && b.2 / 32 < rows && b.2 % 32 < cols then .error (some 5)
    else
      let outs := (List.range rows).map fun r => (List.range cols).map fun j => accOut ot (accWord a r j)
      let s1 := (spans.zip outs).foldl (fun s (x, ws) => match s.window cid x.1 with
        | some l => s.engineWrite cid l x.2.1 (packBits (8 * n) (ws.map (·.1)))
        | none => s) s
      let z := (List.range rows).foldl (fun a r => (List.range cols).foldl (fun a j => accPut a r j 0) a) a
      let s2 := if c.field 8 1 = 1 then s1.modMx cid fun m => { m with acc := vset m.acc k z } else s1
      .ok (s2, 0, outs.foldl (fun f ws => ws.foldl (fun f w => f ||| w.2) f) 0, 0)

/-- ACCZ (R183). -/
def execAccz (cid : Nat) (s : State) : Result :=
  s.mxTurn cid .accz fun c =>
    let clear (m : Mx) : Vector (BitVec 32768) 4 :=
      Vector.ofFn fun (i : Fin 4) => if c.field (128 + i.val) 1 = 1 then 0 else m.acc[i]
    .ok (s.modMx cid fun m => { m with
      acc := clear m, accBad := m.accBad.filter fun b => c.field (128 + b.1) 1 != 1 }, 0, 0, 0)

/-- MXFENCE (R183): every earlier command has completed when it is the head. -/
def execMxfence (cid : Nat) (s : State) : Result :=
  s.mxTurn cid .mxfence fun c =>
    let m := (s.core cid).mx
    let s1 := if c.field 8 1 = 1 then s.modMx cid fun m => { m with err := none } else s
    .ok (s1, if m.err.isSome then 7 else 0, 0, 0)

/-! ## The command window (R168 to R171) -/

def Mx.stat (m : Mx) : Word := m.pushed ++ m.done

def Mx.errWord (m : Mx) : Word :=
  match m.err with
  | none => 0
  | some (q, st) => q ++ 0#24 ++ st ++ 0#7 ++ 1#1

/-- A load of n bytes at an offset of the window. -/
def State.windowLoad (s : State) (a : Word) (n : Nat) : Eff Nat :=
  if n = 8 ∧ winOff a = 0x40 then .ok s.here.mx.stat.toNat
  else if n = 8 ∧ winOff a = 0x48 then .ok s.here.mx.errWord.toNat
  else .error (.trap .perm a)

/-- Push a command record (R171, R177). -/
def State.pushCommand (s : State) (bits : Line) : Eff State := do
  let m := s.here.mx
  await (decide (m.queue.length < 16)) .command
  let tab (lo : Nat) : CodeTable := vget s.here.cts (bits.extractLsb' lo 2).toNat (.preset false)
  let c : MxCmd :=
    { bits := bits, seq := m.pushed, slot := s.here.cur.val, act := s.task.actNo, atab := tab 136, btab := tab 138 }
  let s1 : State := { s with here := { s.here with mx := { m with queue := m.queue ++ [c], pushed := m.pushed + 1 } } }
  .ok (if m.queue.isEmpty then s1.mxArrive s1.hereCid else s1)

end Sys2Proof.Machine
end

