-- ==== Sys2Proof/Machine/Preempt.lean ====
section
/-! DEFINITION. Waking and completing parked tasks (R225, R272), and pre-emption: requests, listed points, saves and
resumption (R365 to R368), with the meanings of their steps. -/

namespace Sys2Proof.Machine

/-- Complete a parked instruction that waits for a value v (R224, R225): it does not issue again. A WAITA has seen the line
at its home. A REP body that returns to its start begins a block there (R74, R130), and a register that is written is lost
no more, and its word readable (R299, R375). -/
def State.completeWaita (s : State) (cid slot : Nat) (d : GReg) (acq : Option Scope) (v : Word) : State :=
  let s1 := (s.mendReg cid slot (((s.core cid).slot slot).ws.ctl.phys d).toNat).modSlot cid slot fun t =>
    let w := t.ws
    let r := w.ctl.afterBody t.chainLen
    { ({ t with
        block := if r.2 = 0 then t.block else none
        ws := { w.setReg (w.ctl.phys d) v with
          pc := w.pc + BitVec.ofNat 64 (2 * t.chainLen) - r.2
          ctl := r.1 } }).wake s.now with reply := none }
  let me := s.who cid slot
  let s2 := match ((s.core cid).slot slot).wait with
    | some (.waita (.phys pa) _ _ _ _ _) => s1.seeHome me (pa / 64)
    | _ => s1
  match acq with
  | some sc => s2.acquireFor me sc fun _ => true
  | none => s2

/-- Forget that a task waits at a home. -/
def State.unwait (s : State) (cid slot : Nat) : State :=
  { s with waiters := s.waiters.filter fun w => !(w.cid == cid && w.slot == slot) }

/-- Finish a wait at a home: WAITA completes with v, TOKC issues afresh after an acquire at system scope (R224, R317). -/
def State.endWait (s : State) (cid slot : Nat) (v : Word) : State :=
  match ((s.core cid).slot slot).wait with
  | some (.waita _ _ _ d acq _) => (s.completeWaita cid slot d acq v).unwait cid slot
  | some (.tokcFull pa _ _) =>
    let s1 := (s.modSlot cid slot fun t => { t.wake s.now with reply := none }).unwait cid slot
    (s1.seeHome (s.who cid slot) (pa / 64)).acquireFor (s.who cid slot) .system fun _ => true
  | _ => s

/-- Finish a wait at a home with what the home reads now; a WAITA whose word is damaged meanwhile traps MCHK (R225, R375). -/
def State.endWaitNow (s : State) (cid slot : Nat) : State :=
  match ((s.core cid).slot slot).wait with
  | none => s
  | some w =>
    match s.waitDamage cid w with
    | some info => ((s.unwait cid slot).trigger 128).deliver cid slot .mchk info ((s.core cid).slot slot).chainLen
    | none => let r := s.waitRead w; r.2.endWait cid slot r.1

/-- A task parked in WAITA completes it now, as a pre-emption request or a reclaim asks (R225, R290, R366). -/
def State.finishWaita (s : State) (cid slot : Nat) : State :=
  match ((s.core cid).slot slot).wait with
  | some (.waita _ _ _ _ _ _) => s.endWaitNow cid slot
  | _ => s

/-- The pre-emption map entry of an address: word 1 of a listed point (R365). Where two maps of a context list the address the
first registered one counts (log entry 60, DESIGN CHOICE). -/
def State.listed (s : State) (cx : Nat) (a : Word) : Option Word :=
  match s.ctxCfg cx with
  | none => none
  | some c =>
    ((c.maps.filter fun m => decide (m.1 ≤ a.toNat ∧ a.toNat < m.2.1)).flatMap fun m => m.2.2).findSome? fun e =>
      if e.1 = a then some e.2 else none

/-- A wait that no instruction repeats: an EXITS successor's, for its channel (R275). -/
def Wait.lasts : Wait → Bool
  | .blocked _ => true
  | _ => false

/-- Save a task at A: the live state, or the full state where mask is none (R366, R367, R253, R296). A successor that waits for
its channel still does when it resumes (R275); its stores are performed at system scope (R195). -/
def State.saveTask (s : State) (cid slot : Nat) (mask : Option Word) : State :=
  let live : BitVec 16 := match mask with
    | some m => m.extractLsb' 32 16
    | none => 0xFFFF
  let s1 := ((s.handBack cid slot live).unwait cid slot).performStores (s.who cid slot)
  let s2 := ((s.core cid).ownTickets slot).foldl (fun s i => s.lapseTicket cid i) s1
  let s3 := s2.saveTiles cid slot live
  s3.modSlot cid slot fun t =>
    { t with
      wait := t.wait.filter Wait.lasts
      reply := none
      preempt := none
      woken := none
      liveAt := mask
      ws := { t.ws with
        ctl := { t.ws.ctl with pres := if mask.isSome then 2 else 3 }
        tsw := { t.ws.tsw with state := .saved } } }

/-- A task that waits for the reply of KVLOOK, KVMAP, SPTLOOK or SPTINS is not met (R366). -/
def Slot.awaitsReply (t : Slot) : Bool :=
  match t.wait with | some (.reply _ _) => true | _ => false

/-- A task whose reply has arrived completes KVLOOK, KVMAP, SPTLOOK or SPTINS; a pending request is then met at the next
instruction (R348, R351, R353). A reply of KVLOOK that carries an entry is an acquire at package scope (R350). -/
def State.endReply (s : State) (cid slot : Nat) : State :=
  let t := (s.core cid).slot slot
  match t.wait, t.reply with
  | some (.reply d acq), some v =>
    let s1 := s.completeWaita cid slot d (if acq && decide (v.toNat % 16 < 3) then some .package else none) v
    if t.preempt.isSome then
      s1.saveTask cid slot (s1.listed ((s1.cxOf cid).getD 0) ((s1.core cid).slot slot).ws.pc)
    else s1
  | _, _ => s

/-- Meet a request now (R366): a parked WAITA first completes. -/
def State.meetRequest (s : State) (cid slot : Nat) : State :=
  let s1 := s.finishWaita cid slot
  s1.saveTask cid slot (s1.listed ((s1.cxOf cid).getD 0) ((s1.core cid).slot slot).ws.pc)

/-- The request is met before the instruction at A issues: A is listed, or the bound has passed (R366). -/
def State.requestDue (s : State) (cid slot : Nat) : Bool :=
  let t := (s.core cid).slot slot
  match t.preempt with
  | none => false
  | some at' =>
    (s.listed ((s.cxOf cid).getD 0) t.ws.pc).isSome || decide (at' + Config.forcedSaveAfter ≤ s.now)

/-- Meet a request at an instruction boundary of a runnable task; trigger 132 is a forced save (R366, R377). -/
def State.meetAtBoundary (s : State) (cid slot : Nat) : State :=
  match s.listed ((s.cxOf cid).getD 0) ((s.core cid).slot slot).ws.pc with
  | some m => s.saveTask cid slot (some m)
  | none => (s.saveTask cid slot none).trigger 132

/-! ## Steps -/

/-- PREEMPTION_REQUEST: for one task, or for every task of a core; no effect where PRES is not 0 (R366, R368). -/
def execPreemptionRequest (cid : Nat) (slot : Option Nat) (s : State) : Result :=
  let ask (t : Slot) : Slot :=
    if t.held && t.ws.ctl.pres == 0 && t.preempt.isNone then
      { t with preempt := some s.now, ws := { t.ws with ctl := { t.ws.ctl with pres := 1 } } }
    else t
  match slot with
  | some i => .next (s.modSlot cid i ask)
  | none => .next ((List.range 8).foldl (fun s i => s.modSlot cid i ask) s)

/-- PREEMPTION_SAVE: a pending request is met at a listed point, or at once at a parked or trapped task (R366). -/
def execPreemptionSave (cid slot : Nat) (s : State) : Result :=
  let t := (s.core cid).slot slot
  if t.preempt.isNone || !t.held then .next s
  else match t.ws.tsw.state with
    | .runnable =>
      if (s.listed ((s.cxOf cid).getD 0) t.ws.pc).isSome then .next (s.meetAtBoundary cid slot) else .next s
    | .parked => if t.awaitsReply then .next s else .next (s.meetRequest cid slot)
    | .trapped => .next (s.meetRequest cid slot)
    | .saved => .next s

/-- PREEMPTION_FORCED_SAVE: 65,536 cc have passed without a listed point (R366). -/
def execPreemptionForcedSave (cid slot : Nat) (s : State) : Result :=
  let t := (s.core cid).slot slot
  if t.held && t.ws.tsw.state == .runnable && s.requestDue cid slot then .next (s.meetAtBoundary cid slot) else .next s

/-- A task's workspace and save area read clean (R376). -/
def State.taskClean (s : State) (cid slot : Nat) : Bool :=
  let a := ((s.core cid).slot slot).ws.vsd.area
  !s.lmHit cid [(512 * slot, 512), a]

/-- SAVED_TASK_SLOT_RELEASE: the workspace, the save area and the queue words are copied out, the slot is freed (R367).
Firmware first waits for the matrix commands that the task pushed; a task that it cannot read clean stays, for R376. -/
def execSavedTaskSlotRelease (cid slot : Nat) (s : State) : Result :=
  let c := s.core cid
  let t := c.slot slot
  let handled := t.handlerDue || c.runList.any fun r => r.kind == .handler slot
  let busy := s.linkedBy cid slot || handled || c.mx.queue.any fun m => m.slot == slot && m.act == t.actNo
  if t.held && t.ws.tsw.state == .saved && !busy && s.taskClean cid slot then
    let a := t.ws.vsd.area
    let area := c.lm.within a.1 (a.1 + a.2)
    let x : SavedTask := { cid := cid, slot := slot, cx := (s.cxOf cid).getD 0, task := t, area := area }
    let s1 := { s with savedTasks := s.savedTasks ++ [x] }
    .next (s1.modSlot cid slot fun t => { Slot.reset with actNo := t.actNo })
  else .next s

/-- Registers that a listed point does not mark live read zero (R367). -/
def Workspace.clearDead (w : Workspace) (m : Word) : Workspace :=
  { w with
    g := Vector.ofFn fun (i : Fin 32) => if m.getLsbD i.val then w.g[i] else 0
    mb := Vector.ofFn fun (i : Fin 8) => if m.getLsbD (48 + i.val) then w.mb[i] else 0 }

/-- The registers that a listed point does not mark live, numbered as in R360. -/
def deadRegs (m : Word) : List Nat :=
  ((List.range 32).filter fun i => !m.getLsbD i) ++ ((List.range 8).filter fun i => !m.getLsbD (48 + i)).map (32 + ·)

/-- What a plain FENCE before a resuming task's first access does (R195): the REDs of its cluster are performed, what it has
made or seen is covered by a release, no older copy stays, and it sees every store of the cluster that it joins. -/
def State.fenceFor (s : State) (w : Nat × Nat) : State :=
  let all (_ : Nat) : Bool := true
  ((s.releaseFor w .system all).acquireFor w .system all).barLate w all

/-- Resume the saved task in a slot (R367, R297): the registers that the entry it was saved under marks dead are written zero, whole
(R375). An EXITS
successor that waited for its channel resumes in STATE 0 too, and parks again before it issues where BLK is still 1 (R275). -/
def State.resume (s : State) (cid slot : Nat) : State :=
  let t := (s.core cid).slot slot
  let mask := if t.ws.ctl.pres = 2 then t.liveAt else none
  let w1 := match mask with
    | some m => t.ws.clearDead m
    | none => t.ws
  let w2 := { w1 with ctl := { w1.ctl with pres := 0 } }
  let s0 := ((mask.map deadRegs).getD []).foldl (fun s r => s.mendReg cid slot r) (s.fenceFor (s.who cid slot))
  let s1 := s0.modSlot cid slot fun t => { t with liveAt := none, ws := w2 }
  if t.ws.tsw.cause = .none then (s1.modSlot cid slot fun t => { t.wake s.now with wait := t.wait }).recomposeDue cid slot
  else s1.modSlot cid slot fun t => { t with ws := { t.ws with tsw := { t.ws.tsw with state := .trapped } } }

/-- A released task may return to a slot of its core: its own, or another while no channel is bound to its own. -/
def State.returnsTo (s : State) (cid slot : Nat) (x : SavedTask) : Bool :=
  x.cid == cid && s.cxOf cid == some x.cx &&
    (x.slot == slot || !(s.core cid).tt.any fun e => e.2.valid && e.2.bound && e.2.slot.toNat == x.slot)

/-- The task, its save area and its queue words back in a slot (R367). The slot's activation number goes on, so that no
earlier task's commands count as its own (R171, R176) (log entry 52, DEDUCED). The words of both are written whole (R375). -/
def State.restore (s : State) (cid slot : Nat) (x : SavedTask) : State :=
  let a := x.task.ws.vsd.area
  let put (m : Memory) (b : Host.Cell) : Memory := m.put b.1 b.2
  (({ s with savedTasks := s.savedTasks.erase x } : State).mendLm cid [(512 * slot, 512), a]).modCore cid fun c =>
    ({ c with lm := x.area.foldl put (c.lm.clear a.1 (a.1 + a.2)) } : Core).setSlot slot
      { x.task with actNo := (c.slot slot).actNo + 1 }

/-- RESUMPTION: a saved task continues; where its slot was released it is first restored, into a slot of a core in service
that is not lent (R290, R367). Which of several released tasks firmware restores is free. -/
def execResumption (cid slot : Nat) (s : State) : Result :=
  let t := (s.core cid).slot slot
  if t.held then
    if t.ws.tsw.state = .saved then .next (s.resume cid slot) else .next s
  else if (s.core cid).lent.isSome || (s.core cid).retired || 8 ≤ slot then .next s
  else
    let l := s.savedTasks.filter (s.returnsTo cid slot)
    let (k, s1) := if l.length ≤ 1 then (0, s) else s.choose l.length
    match l[k]? with
    | none => .next s
    | some x => .next ((s1.restore cid slot x).resume cid slot)

end Sys2Proof.Machine
end

