-- ==== Sys2Proof/Machine/Atomics.lean ====
section
/-! DEFINITION. Atomics at the home, reductions in U state, WAITA, TOPK and TOKC, and the steps of the home slices and
the cluster data caches (R216 to R225, R316 to R318). -/

namespace Sys2Proof.Machine

/-! ## AMO, TOPK (R216 to R220) -/

/-- An AMO that returns the old value. -/
def State.amo (s : State) (op : HomeOp) (n : Nat) (signed : Bool) (o : Ordering) (sc : Scope) (d a b : GReg) :
    Eff State := do
  let (l, s1) ← s.atomicAt (s.g a) n
  let (old, f, s2) := (s1.releaseIf o sc).request l op (s.g b).toNat (s.g d).toNat
  .ok (((s2.addFpf f).setG d (extendBytes signed n old)).acquireIf o sc)

def execAmo (op : AmoOp) (signed : Bool) (o : Ordering) (sc : Scope) (d a b : GReg) (s : State) : Result :=
  s.finish (s.amo (.amo op true signed) 8 false o sc d a b)

def execAmoN32 (op : AmoOp) (signed : Bool) (o : Ordering) (sc : Scope) (d a b : GReg) (s : State) : Result :=
  s.finish (s.amo (.amo op false signed) 4 signed o sc d a b)

def execAmoFadd (o : Ordering) (sc : Scope) (d a b : GReg) (s : State) : Result :=
  s.finish (s.amo .fadd 4 false o sc d a b)

def execTopk (o : Ordering) (sc : Scope) (a b : GReg) (s : State) : Result :=
  s.finish (do
    let (l, s1) ← s.atomicAt (s.g a) 64
    .ok ((s1.releaseIf o sc).request l .topk (s.g b).toNat 0).2.2)

/-! ## RED (R221 to R223) -/

/-- A contribution to a word of a U line: integers combine at once, floats are kept in the order of their REDs. -/
def UKind.combine (k : UKind) (old : List Word) (v : Word) : List Word :=
  match k.op, old with
  | some op, x :: _ => [BitVec.ofNat 64 (redValue op k.signed k.width x.toNat v.toNat)]
  | _, l => l ++ [v]

/-- Room in a CDC for a line more: a copy leaves, or the U line allocated or used longest ago is combined (R3, R222). -/
def State.makeRoom (s : State) (c : Nat) : State :=
  let x := s.cluster c
  if x.copies.length + x.ulines.length < Config.cdcLines then s
  else match x.copies, x.ulines.getLast? with
    | _ :: _, _ => s.modCluster c fun x => { x with copies := x.copies.dropLast }
    | [], some u => s.combineU c u
    | [], none => s

/-- RED in the issuing cluster's CDC: the line is allocated in U state, or the value combines into it. -/
def State.redLocal (s : State) (pa : Nat) (k : UKind) (v : Word) : State :=
  let c := clusterOf s.hereCid
  let line := pa / 64
  let s1 := match (s.cluster c).ulines.find? fun u => u.line == line with
    | some u => if u.kind = k then s else s.combineU c u
    | none => s
  let s2 := s1.seeHome s.me line
  let s3 := match (s2.cluster c).ulines.find? fun u => u.line == line with
    | some _ => s2
    | none => s2.makeRoom c
  let old := ((s3.cluster c).ulines.find? fun u => u.line == line).getD
    { line := line, kind := k, contrib := [], src := s.hereCid }
  let u := { old with contrib := old.contrib.put (pa % 64) (k.combine ((old.contrib.get (pa % 64)).getD []) v) }
  s3.modCluster c fun x => { x with ulines := u :: x.ulines.filter fun y => y.line ≠ line }

/-- RED of n bytes: in the CDC, or at the slice for a DSW address (R222). -/
def State.redAt (s : State) (k : UKind) (op : HomeOp) (n : Nat) (a b : GReg) : Eff State := do
  aligned (s.g a) n
  let (l, s1) ← s.resolve .atomic (s.g a) n
  s1.lineCheck (s.g a) l n
  let v : Nat := (s.g b).toNat % 2 ^ (8 * n)
  match l with
  | .phys pa => .ok (s1.redLocal pa k (BitVec.ofNat 64 v))
  | l => do
    s1.readable (s.g a) l n
    s1.roomAtHome l
    .ok (s1.request l op v 0).2.2

def execRed (op : RedOp) (signed : Bool) (a b : GReg) (s : State) : Result :=
  s.finish (s.redAt { op := some op, w64 := true, signed := signed } (.red op true signed) 8 a b)

def execRedN32 (op : RedOp) (signed : Bool) (a b : GReg) (s : State) : Result :=
  s.finish (s.redAt { op := some op, w64 := false, signed := signed } (.red op false signed) 4 a b)

def execRedFadd (a b : GReg) (s : State) : Result :=
  s.finish (s.redAt { op := none, w64 := false, signed := false } .redFadd 4 a b)

/-! ## WAITA (R224, R225) -/

/-- WAITA sends its request and parks; WAITA_AT_HOME compares (log entry 27, DESIGN CHOICE). -/
def State.waita (s : State) (n : Nat) (o : Ordering) (sc : Scope) (d a b : GReg) : Result :=
  s.settle (do
    aligned (s.g a) n
    let (l, s1) ← s.resolve .atomic (s.g a) n
    s1.lineCheck (s.g a) l n
    s1.readable (s.g a) l n
    .error (.park (.waita l (n == 8) (BitVec.ofNat 64 ((s.g b).toNat % 2 ^ (8 * n))) d
      (if o = .acq then some sc else none) (s.g a))))

def execWaita (o : Ordering) (sc : Scope) (d a b : GReg) (s : State) : Result := s.waita 8 o sc d a b
def execWaitaN32 (o : Ordering) (sc : Scope) (d a b : GReg) (s : State) : Result := s.waita 4 o sc d a b

/-- Every waiter of a line gets its reply. -/
def State.overflow (s : State) (line : Loc) : State := s.wakeLine line

/-- WAITA_AT_HOME: a reply at once, or a waiter; a seventeenth wakes all and none is registered (R225). A WAITA whose word is
damaged traps MCHK (R375). -/
def execWaitaAtHome (cid slot : Nat) (s : State) : Result :=
  let t := (s.core cid).slot slot
  match t.wait with
  | none => .next s
  | some w =>
    match w.homeLine with
    | none => .next s
    | some (line, e) =>
      if t.reply.isSome || s.waiters.any (fun x => x.cid == cid && x.slot == slot) then .next s
      else if (s.waitDamage cid w).isSome then .next (s.endWaitNow cid slot)
      else
        let r := s.waitRead w
        if r.1 ≠ e then .next (r.2.answer cid slot)
        else if (r.2.waiters.filter fun x => x.line == line).length < 16 then
          .next { r.2 with waiters := r.2.waiters ++ [{ line := line, cid := cid, slot := slot }] }
        else .next ((r.2.overflow line).answer cid slot)

/-- WAITA_TIMEOUT: 2^20 cc after the park. -/
def execWaitaTimeout (cid slot : Nat) (s : State) : Result :=
  let t := (s.core cid).slot slot
  match t.wait with
  | none => .next s
  | some w =>
    if w.homeLine.isSome && decide (t.waitSince + Config.waitaBound ≤ s.now) then .next (s.endWaitNow cid slot)
    else .next s

/-- The slot of a core whose reply from a home has arrived, the longest parked first. -/
def Core.repliedSlot (c : Core) : Option Nat :=
  let l := (List.range 8).filter fun i =>
    (c.slot i).reply.isSome && (match (c.slot i).wait with | some w => w.homeLine.isSome | none => false)
  match l with
  | [] => none
  | x :: t => some (t.foldl (fun m y => if (c.slot y).waitNo < (c.slot m).waitNo then y else m) x)

/-- ACCESS_REPLY: a reply reaches its core: the waiting task completes, or the oldest unanswered request without a value
is answered (R218). -/
def execAccessReply (cid : Nat) (s : State) : Result :=
  match (s.core cid).repliedSlot with
  | some i => .next (s.endWait cid i (((s.core cid).slot i).reply.getD 0))
  | none => .next (s.modCore cid fun c => { c with unanswered := c.unanswered.drop 1 })

/-! ## Requests at the home -/

/-- The bytes a request acts on. -/
def homeBytes : HomeOp → Nat
  | .amo _ w _ => if w then 8 else 4
  | .red _ w _ => if w then 8 else 4
  | .fadd => 4 | .redFadd => 4 | .topk => 64 | .tokc => 64

/-- A request that the home performs: aligned, and of a readable line (R216, R375). -/
def State.homeOk (s : State) (r : HomeReq) : Bool :=
  decide ((homePlace r.loc).off % homeBytes r.op = 0) &&
    (s.damagedByte (s.redirected (homePlace r.loc)) (homeBytes r.op)).isNone

/-- The request is one that its source has issued and whose answer it still awaits, or one that the home has performed
(R218). -/
def State.issued (s : State) (r : HomeReq) : Bool :=
  let key := (homePlace r.loc).slice
  (s.core r.src).unanswered.contains (key, r.seq) ||
    s.replies.any fun e => e.slice == key && e.src == r.src && e.seq == r.seq

def State.performReq (s : State) (r : HomeReq) : State :=
  if s.homeOk r && s.issued r then (s.perform r.src r.seq (homePlace r.loc) r.op r.val.toNat r.cmp.toNat).2.2 else s

/-- ATOMIC_AT_HOME: a request is performed once, or answered from the reply cache (R218). -/
def execAtomicAtHome (r : HomeReq) (s : State) : Result :=
  match r.op with
  | .amo _ _ _ => .next (s.performReq r)
  | .fadd => .next (s.performReq r)
  | _ => .next s

/-- RED_DSW_APPLY (R222). -/
def execRedDswApply (r : HomeReq) (s : State) : Result :=
  match r.op, r.loc with
  | .red _ _ _, .dsw _ _ => .next (s.performReq r)
  | .redFadd, .dsw _ _ => .next (s.performReq r)
  | _, _ => .next s

/-- TOPK_AT_HOME (R219). -/
def execTopkAtHome (r : HomeReq) (s : State) : Result :=
  match r.op with
  | .topk => .next (s.performReq r)
  | _ => .next s

/-- CDC_COPY_EXPIRY: a copy of 65,536 cc of age leaves the CDC (R200). -/
def execCdcCopyExpiry (cluster line : Nat) (s : State) : Result :=
  let stays (y : Copy) : Bool := y.line != line || decide (s.now < y.since + Config.cdcAge)
  let seen (y : Late) : Bool := y.line != line || decide (s.now < y.since + Config.cdcAge)
  .next (s.modCluster cluster fun x => { x with copies := x.copies.filter stays, late := x.late.filter seen })

/-! ## TOKC (R316 to R318) -/

inductive TokcReply where
  | done (c : Word)
  | full (pa : Nat) (u va : Word)
  | bad (e : Stop)
  deriving DecidableEq, Repr

/-- A global address that TOKC's record names: 8-aligned, in this X40's device memory, on a page with RD and W, else PERM
(R317, R338). -/
def State.tokcAddr (s : State) (cid : Nat) (a : Word) : Eff Nat :=
  if a.toNat % 8 ≠ 0 ∨ !isGlobal a then .error (.trap .perm a)
  else match s.translate cid .atomic a.toNat with
    | .error .xlate => .error (.trap .xlate a)
    | .error .malformed => .error (.malformed a)
    | .error .perm => .error (.trap .perm a)
    | .ok (pa, _) =>
      if paKind pa = .device ∧ paDevice pa = Config.ownDevice then .ok pa else .error (.trap .perm a)

/-- TOKC's event at the home of the record at pa, for a core's request. A ring whose base stands where R317 allows and whose
entry slot does not traps as a bad RINGA does, with the slot's address (log entry 56, DESIGN CHOICE). -/
def State.tokcHome (s : State) (src seq asked : Nat) (entry : Word) : TokcReply × State :=
  let key := (Loc.phys asked).slice
  match s.replies.find? fun e => e.slice == key && e.src == src && e.seq == seq with
  | some e => (.done e.old, s)
  | none =>
    let l := s.redirected (.phys asked)
    let pa := l.off
    let s1 := s.combineLine (pa / 64)
    let r : Line := BitVec.ofNat 512 (s1.peek l 64)
    let logn := (r.extractLsb' 192 5).toNat
    if r.extractLsb' 197 315 ≠ 0 ∨ 20 < logn then (.bad (.trap .illop 0), s)
    else
      let c : Word := r.extractLsb' 0 64
      let ringa : Word := r.extractLsb' 64 64
      let slot : Word := ringa + BitVec.ofNat 64 (8 * (c.toNat % 2 ^ logn))
      match s1.tokcAddr src (r.extractLsb' 128 64) with
      | .error e => (.bad e, s)
      | .ok cons =>
        match s1.tokcAddr src ringa, s1.tokcAddr src slot with
        | .error e, _ => (.bad e, s)
        | _, .error e => (.bad e, s)
        | .ok _, .ok place =>
          match s1.readable (r.extractLsb' 128 64) (.phys cons) 8 with
          | .error e => (.bad e, s)
          | .ok _ =>
            let s2 := s1.combineLine (cons / 64)
            let u : Word := BitVec.ofNat 64 (s2.peek (.phys cons) 8)
            if 2 ^ logn ≤ (c - u).toNat then (.full cons u (r.extractLsb' 128 64), s2)
            else match s2.writable slot (.phys place) 8 with
              | .error e => (.bad e, s)
              | .ok _ =>
                let s3 := (s2.mend (.phys place) 8).storeHome place 8 entry.toNat
                let s4 := s3.storeHome pa 8 (c + 1).toNat
                (.done c, { s4 with replies := keepReplies key src s4.replies ++
                  [{ slice := key, src := src, seq := seq, line := l.line, old := c, flags := 0, moved := false,
                     cx := (s.cxOf src).getD 0 }] })

/-- The record, the ring entry last placed and the consumed counter, which a TOKC has observed or written at their homes,
leave the issuing cluster's CDC (R198, R217). -/
def State.tokcSeen (s : State) (pa : Nat) : State :=
  let r : Line := BitVec.ofNat 512 (s.peek (.phys pa) 64)
  let line (va : Word) : Option Nat := match s.walk s.cx va.toNat with
    | .leaf l => some ((l.pa + (va.toNat - l.va)) / 64)
    | _ => none
  let logn := (r.extractLsb' 192 5).toNat
  let last : Word := r.extractLsb' 64 64 + BitVec.ofNat 64 (8 * (((r.extractLsb' 0 64).toNat + (2 ^ logn - 1)) % 2 ^ logn))
  let seen (x : Nat) : Bool := x == pa / 64 || line (r.extractLsb' 128 64) == some x || line last == some x
  (s.dropCopies (clusterOf s.hereCid) seen).barLate s.me seen

/-- TOKC (R317): a full ring parks the task after its release, on the consumed counter. -/
def execTokc (d a b : GReg) (s : State) : Result :=
  let r : Eff (State ⊕ (State × Wait)) := (do
    let at' := s.g a
    let (l, s1) ← s.atomicAt at' 64
    match l with
    | .phys pa =>
      if paKind pa = .device ∧ paDevice pa = Config.ownDevice then
        let s2 := (s1.releaseTo .system).acknowledge s1.hereCid l.slice (s1.here.seqFor l.slice)
        let seq := s2.here.seqFor l.slice
        match s2.tokcHome s2.hereCid seq pa (s.g b) with
        | (.bad e, _) => .error e
        | (.full cons u va, s3) => .ok (.inr (s3.tokcSeen pa, .tokcFull cons u va))
        | (.done c, s3) =>
          let s4 : State := { s3 with here := { s3.here with nextSeq := s3.here.nextSeq.put l.slice (seq + 1) } }
          .ok (.inl ((s4.tokcSeen pa).setG d c))
      else .error (.trap .perm at')
    | _ => .error (.trap .perm at'))
  match r with
  | .ok (.inl t) => .next t.advance
  | .ok (.inr (t, w)) => .next (t.park w)
  | .error e => s.settle (.error e)

/-- TOKC_AT_HOME: a request that reaches the home, or reaches it again (R317). -/
def execTokcAtHome (r : HomeReq) (s : State) : Result :=
  match r.op, r.loc with
  | .tokc, .phys pa =>
    if s.homeOk r && s.issued r && (s.cxOf r.src).isSome && decide (paKind pa = .device ∧ paDevice pa = Config.ownDevice) then
      match s.tokcHome r.src r.seq pa r.val with
      | (.done _, t) => .next t
      | (.full _ _ _, t) => .next t
      | (.bad _, _) => .next s
    else .next s
  | _, _ => .next s

end Sys2Proof.Machine
end

