-- ==== Sys2Proof/Machine/Messages.lean ====
section
/-! DEFINITION. The message plane: SEND, SENDD, SMAX and DEC as senders (R262, R263, R280, R311), and arrival,
refusal, waiting and delivery (R264, R265, R312, R343). -/

namespace Sys2Proof.Machine

/-! ## Sending -/

/-- Place one message in the issuing core's send queue, or park (R263). -/
def State.post (s : State) (dev : Option Nat) (dst : Nat) (chan : Byte) (load : Payload) : Eff State := do
  await (decide (s.here.sendQ.length < 8)) .sendQueue
  let m : Msg :=
    { src := s.hereCid, cx := s.cx, dev := dev, dst := dst, chan := chan, load := load, refused := none }
  .ok { s with here := { s.here with sendQ := s.here.sendQ ++ [m] } }

def execSend (a : GReg) (s : State) : Result :=
  s.finish (do
    let d := s.g a
    let n := (d.extractLsb' 24 4).toNat
    demand (remoteOk d && d.extractLsb' 28 20 == 0#20 && decide (1 ≤ n ∧ n ≤ 8) && rowOk (d.extractLsb' 0 16))
    let words := (List.range n).map fun i => vget s.ws.mb i 0
    s.post (remoteOf d) (d.extractLsb' 0 16).toNat (d.extractLsb' 16 8) (.send words))

def execSendd (a b : GReg) (s : State) : Result :=
  s.finish (do
    let d := s.g a
    let mb := d.getLsbD 37
    let r : BitVec 5 := d.extractLsb' 32 5
    demand (remoteOk d && d.extractLsb' 38 10 == 0#10 && d.extractLsb' 24 8 == 0#8 && (!mb || decide (r.toNat < 8))
      && rowOk (d.extractLsb' 0 16))
    s.post (remoteOf d) (d.extractLsb' 0 16).toNat (d.extractLsb' 16 8) (.sendd mb r (s.g b)))

/-- DEC (R280): a release at package scope, then the decrement as a message. -/
def execDec (a b : GReg) (s : State) : Result :=
  s.finish (do
    let r := s.g a
    let n := s.g b
    demand (n != 0#64 && decide (n.toNat < 2 ^ 32) && counterRefOk r)
    (s.releaseTo .package).post (remoteOf r) (r.extractLsb' 0 16).toNat 0 (.dec (r.extractLsb' 16 16).toNat n))

/-- SMAX (R311). -/
def execSmax (a b : GReg) (s : State) : Result :=
  s.finish (do
    let d := s.g a
    let cnt : BitVec 16 := d.extractLsb' 40 16
    demand (d.extractLsb' 56 8 == 0#8 && cnt != 0#16 && rowOk (d.extractLsb' 0 16))
    s.post none (d.extractLsb' 0 16).toNat (d.extractLsb' 16 8)
      (.smax cnt (d.extractLsb' 24 16) ((s.g b).extractLsb' 32 32) ((s.g b).extractLsb' 0 32) 1))

/-! ## Handling at the receiver (R264) -/

/-- What becomes of an accepted SEND or SENDD. -/
inductive Fate where
  | drop | handle | wait
  deriving DecidableEq, Repr

def Core.entry (c : Core) (chan : Byte) : TTEntry := (c.tt.get chan.toNat).getD TTEntry.reset

/-- The sender's context is the destination's, and the core is in service. -/
def State.welcome (s : State) (cid cx : Nat) : Bool := s.cxOf cid == some cx && !(s.core cid).retired

/-- The core takes a message: one from another X40 has passed the export table, which stands for the context (R343). -/
def State.admits (s : State) (cid : Nat) (m : Msg) : Bool :=
  if m.origin.isSome then (s.cxOf cid).isSome && !(s.core cid).retired else s.welcome cid m.cx

/-- The fate of a message at a core; earlier waiting messages of its channel are not looked at. -/
def State.fate (s : State) (cid : Nat) (m : Msg) : Fate :=
  let c := s.core cid
  let e := c.entry m.chan
  let t := c.slot e.slot.toNat
  if !s.admits cid m || !e.valid then .drop
  else if e.blk then .wait
  else if !e.bound then
    match m.load with
    | .send _ => if c.hasRoom then .handle else .wait
    | _ => .drop
  else if !t.held || t.ws.tsw.state == .saved then .wait
  else match m.load with
    | .send ws => if (vget t.queues e.qsel.toNat []).length + ws.length ≤ 16 then .handle else .wait
    | _ => .handle

/-- The message is dropped and entered in the fault list of the receiving core's die. -/
def State.dropMsg (s : State) (cid : Nat) (m : Msg) : State :=
  s.report (dieOf cid) (faultRec m.cx 0 3 .none m.chan.toNat m.src)

/-- Carry out an accepted message: a run-list record, words for a receive queue, or a deposit (R264, R265). -/
def State.handleMsg (s : State) (cid : Nat) (m : Msg) : State :=
  let e := (s.core cid).entry m.chan
  let i := e.slot.toNat
  match m.load with
  | .send ws =>
    if e.bound then
      s.modSlot cid i fun t =>
        { t with queues := vset t.queues e.qsel.toNat (vget t.queues e.qsel.toNat [] ++ ws) }
    else s.modCore cid fun c => c.enlist
      { chan := m.chan, prio := e.prio, since := s.now, kind := .message ws m.src m.origin }
  | .sendd mb r w =>
    (s.mendReg cid i (if mb then 32 + r.toNat else r.toNat)).modSlot cid i fun t => { t with
      ws := if mb then { t.ws with mb := vset t.ws.mb r.toNat w } else t.ws.setReg r w }
  | _ => s

/-- A SEND or SENDD reaches its core: dropped, handled, waiting, or refused (none) (log entry 47, DEDUCED). -/
def State.receive (s : State) (cid : Nat) (m : Msg) : Option State :=
  let c := s.core cid
  let behind := c.inbound.any fun x => x.chan == m.chan
  let hold : Option State := if c.inbound.length < 48 then
      some { s.modCore cid fun c => { c with inbound := c.inbound ++ [{ m with refused := none, began := s.parkNo }] } with
        parkNo := s.parkNo + 1 } else none
  match s.fate cid m with
  | .drop => some (s.dropMsg cid m)
  | .handle => if behind then hold else some (s.handleMsg cid m)
  | .wait => hold

/-! ## The combine of SMAX at its owner (R312, R313) -/

def canonVal (v : BitVec 32) : BitVec 32 :=
  if (fp32.decode v.toNat).isNan then BitVec.ofNat 32 fp32.nanCode else v

/-- a beats b. -/
def beats (av ai bv bi : BitVec 32) : Bool :=
  let x := fp32.decode av.toNat
  let y := fp32.decode bv.toNat
  if x.isNan != y.isNan then !x.isNan
  else if x.isNan then decide (ai.toNat < bi.toNat)
  else y.lt x || (!x.lt y && decide (ai.toNat < bi.toNat))

/-- The message a closed combine delivers. -/
def Combine.message (x : Combine) (cid : Nat) : Msg :=
  { src := cid, cx := x.cx, dev := none, dst := cid, chan := x.chan, refused := none
    load := .send [canonVal x.val ++ x.idx, 0#16 ++ BitVec.ofNat 32 x.total ++ x.tag] }

/-- A packet reaches its owner: none refuses it. Four points that R312 leaves open are fixed here and at
execSmaxRouterCombine (log entry 57, DESIGN CHOICE): a packet that closes its combine at once opens none, so the bound of 32
does not refuse it; where the inbound buffer has no room for the delivered message the closing packet is refused and the combine
stays open; of two values that neither beats, the held one's bits stay. -/
def State.combinePacket (s : State) (cid : Nat) (m : Msg) (cnt tag : BitVec 16) (val idx : BitVec 32) (n : Nat) :
    Option State :=
  if !s.welcome cid m.cx then some (s.dropMsg cid m)
  else
    let c := s.core cid
    let same (x : Combine) : Bool := x.cx == m.cx && x.chan == m.chan && x.tag == tag && x.cnt == cnt
    let x := match c.combines.find? same with
      | some y =>
        let w := beats val idx y.val y.idx
        { y with val := if w then val else y.val, idx := if w then idx else y.idx, total := y.total + n }
      | none => { cx := m.cx, chan := m.chan, tag := tag, cnt := cnt, val := val, idx := idx, total := n }
    let rest := c.combines.filter fun y => !same y
    if cnt.toNat ≤ x.total then
      (s.receive cid (x.message cid)).map fun t => t.modCore cid fun c => { c with combines := rest }
    else if rest.length < 32 then some (s.setCore cid { c with combines := rest ++ [x] })
    else none

/-! ## Arrival (R264) -/

def State.outbox (s : State) (src : Nat) : List Msg := if src = 0xFFFF then s.fwMsgs else (s.core src).sendQ
def State.setOutbox (s : State) (src : Nat) (l : List Msg) : State :=
  if src = 0xFFFF then { s with fwMsgs := l } else s.modCore src fun c => { c with sendQ := l }

/-- Message k leaves its send queue. -/
def State.leave (s : State) (src k : Nat) : State := s.setOutbox src ((s.outbox src).eraseIdx k)

/-- Message k is refused now. -/
def State.refuse (s : State) (src k : Nat) : State :=
  s.setOutbox src ((s.outbox src).zipIdx.map fun (m, i) => if i = k then { m with refused := some s.now } else m)

/-- Messages that keep the order of one sender, receiver and channel (R24, R264, R312). -/
def Msg.ordered (m : Msg) : Bool :=
  match m.load with | .send _ => true | .sendd _ _ _ => true | .smax _ _ _ _ _ => true | _ => false

def Msg.sameWay (m x : Msg) : Bool := m.ordered && x.ordered && x.dst == m.dst && x.dev == m.dev && x.chan == m.chan

/-- An earlier message of the sender for the same channel has not been accepted (R24, R264). -/
def State.behindOwn (s : State) (src k : Nat) (m : Msg) : Bool :=
  ((s.outbox src).take k).any m.sameWay

/-- The export table of another X40 admits a message to one of its cores (R343). -/
def State.exported (s : State) (dev cx dst : Nat) : Bool :=
  s.grants.any fun g => g.gives true dev cx dst

/-- The reply of a directory agent or prefix unit reaches the task that waits for one. -/
def State.replyTo (s : State) (cid slot : Nat) (v : Word) : State :=
  s.modSlot cid slot fun t => if t.held && t.awaitsReply then { t with reply := some v } else t

/-- Message k reaches its destination, or leaves for another X40. -/
def State.offer (s : State) (src k : Nat) (m : Msg) : State :=
  match m.dev with
  | some d =>
    if s.exported d m.cx m.dst then s.leave src k
    else (s.leave src k).report (if src = 0xFFFF then 0 else dieOf src) (faultRec m.cx 0 3 .none m.chan.toNat m.src)
  | none =>
    match m.load with
    | .kv r =>
      if s.welcome m.dst m.cx then (s.leave src k).modCore m.dst fun c => { c with dirQ := c.dirQ ++ [r] }
      else (s.leave src k).replyTo r.src r.slot 4
    | .spt r =>
      match s.contexts.get m.cx with
      | some x => let s1 := s.leave src k; { s1 with contexts := s1.contexts.put m.cx { x with sptQ := x.sptQ ++ [r] } }
      | none => s.leave src k
    | .smax cnt tag v i n =>
      match (s.leave src k).combinePacket m.dst m cnt tag v i n with
      | some t => t
      | none => s.refuse src k
    | .dec _ _ => s
    | _ =>
      match (s.leave src k).receive m.dst m with
      | some t => t
      | none => s.refuse src k

/-- MESSAGE_ARRIVAL: the first offer of a message; SMAX packets and decrements have steps of their own. -/
def execMessageArrival (src k : Nat) (s : State) : Result :=
  match (s.outbox src)[k]? with
  | none => .next s
  | some m =>
    match m.load, m.dev with
    | .smax _ _ _ _ _, _ => .next s
    | .dec _ _, none => .next s
    | _, _ => if m.refused.isSome || s.behindOwn src k m then .next s else .next (s.offer src k m)

/-- MESSAGE_REOFFER: a refused message is offered again 64 cc later. -/
def execMessageReoffer (src k : Nat) (s : State) : Result :=
  match (s.outbox src)[k]? with
  | none => .next s
  | some m =>
    match m.refused with
    | some t => if t + Config.reofferAfter ≤ s.now then .next (s.offer src k m) else .next s
    | none => .next s

/-- A task that parked on the blocked channel before a place in the order (R261, R275). -/
def Core.blockedBefore (c : Core) (chan : Byte) (n : Nat) : Bool :=
  (List.range 8).any fun i => (c.slot i).held && (c.slot i).awaits (.blocked chan) && decide ((c.slot i).waitNo < n)

/-- WAITING_MESSAGE_RELEASE: waiting message k of a core is handled, or dropped, when its condition has passed; what waits
on one channel goes in the order in which it began to wait (R261, R264). -/
def execWaitingMessageRelease (cid k : Nat) (s : State) : Result :=
  let q := (s.core cid).inbound
  match q[k]? with
  | none => .next s
  | some m =>
    if ((q.take k).any fun x => x.chan == m.chan) || (s.core cid).blockedBefore m.chan m.began then .next s
    else
      let s1 := s.modCore cid fun c => { c with inbound := c.inbound.eraseIdx k }
      match s.fate cid m with
      | .wait => .next s
      | .handle => .next (s1.handleMsg cid m)
      | .drop => .next (s1.dropMsg cid m)

/-- SMAX_PACKET_AT_OWNER (R312): the first offer of a packet to its owner. -/
def execSmaxPacketAtOwner (src k : Nat) (s : State) : Result :=
  match (s.outbox src)[k]? with
  | none => .next s
  | some m =>
    match m.load with
    | .smax _ _ _ _ _ => if m.refused.isSome || s.behindOwn src k m then .next s else .next (s.offer src k m)
    | _ => .next s

/-- SMAX_ROUTER_COMBINE (R312): two packets of one combine meet in a router and become one. A packet behind another message
of its sender and channel has not set out (R264). The merged packet counts as the first's sender's, the second leaves its send
queue at the merge, and of two values that neither beats the second's bits stay (log entry 57, DESIGN CHOICE). -/
def execSmaxRouterCombine (src k src' k' : Nat) (s : State) : Result :=
  match (s.outbox src)[k]?, (s.outbox src')[k']? with
  | some m, some m' =>
    match m.load, m'.load with
    | .smax c g v i n, .smax c' g' v' i' n' =>
      let ahead := ((s.outbox src').take k').zipIdx.any fun (x, i) => (src ≠ src' || i ≠ k) && m'.sameWay x
      if m.cx = m'.cx ∧ m.dst = m'.dst ∧ m.chan = m'.chan ∧ c = c' ∧ g = g' ∧ (src ≠ src' ∨ k < k') ∧
          !s.behindOwn src k m ∧ !ahead then
        let w := beats v i v' i'
        let x : Msg := { m with load := .smax c g (if w then v else v') (if w then i else i') (n + n') }
        let s1 := s.setOutbox src ((s.outbox src).zipIdx.map fun (y, j) => if j = k then x else y)
        .next (s1.leave src' k')
      else .next s
    | _, _ => .next s
  | _, _ => .next s

end Sys2Proof.Machine
end

