-- ==== Sys2Proof/Machine/Engines.lean ====
section
/-! DEFINITION. Copy channels (R235 to R240, R364, R396), predictor tables (R241 to R244) and premove tickets (R245 to
R258), with the steps of the engines and of the fault gatherer (R361). -/

namespace Sys2Proof.Machine

/-! ## Addresses of engines -/

/-- A range of LM from which an engine may read for the issuing task: byte for byte where the task may load, so that it may run
on past the workspaces (R19, R144). -/
def State.lmSource (s : State) (o n : Nat) : Bool :=
  let ws := min (o + n) Config.slotBytes
  (decide (Config.slotBytes ≤ o) || decide (o / 512 = s.here.cur.val ∧ (ws - 1) / 512 = s.here.cur.val)) &&
    !s.here.inArea (max o Config.slotBytes) (o + n - max o Config.slotBytes)

/-- Check 3 of R237: a local range lies in a window that engines may use; a global range is not checked, and a range of
length 0 has no byte to check (log entry 25, DEDUCED). A destination in LM lies in no workspace slot, save area or counter
block; a source lies where the task may load (R19, R144). -/
def State.engineCheck (s : State) (store : Bool) (a : Word) (n : Nat) : Eff Unit :=
  if isGlobal a || n == 0 then .ok ()
  else if !isLocal a || decide (s.extent s.hereCid (winSel a) < winOff a + n) then .error (.trap .xlate a)
  else match winSel a with
    | 0 => demandOr (if store then !s.here.reserved (winOff a) n && !s.here.onCounter (winOff a) n
        else s.lmSource (winOff a) n) .perm a
    | 2 => .error (.trap .perm a)
    | _ => .ok ()

/-- The place of 4 bytes that an engine of a core reads or writes (R338). -/
def State.engineLoc (s : State) (cid : Nat) (acc : Acc) (a : Word) : Except XErr (Loc × State) :=
  if isLocal a then
    match s.window cid a with
    | some l => .ok (l, s)
    | none => .error .xlate
  else if isGlobal a then (s.translate cid acc a.toNat).map fun x => (.phys x.1, x.2)
  else .error .xlate

def XErr.cause : XErr → Cause
  | .perm => .perm | _ => .xlate

/-- The page number of an address: VA<55:16>. -/
def pageNo (a : Word) : Nat := (a.extractLsb' 16 40).toNat

/-- An engine's translation or permission fault (R237, R363) (log entry 36, DEDUCED). -/
def State.engineFault (s : State) (cid detail : Nat) (a : Word) (e : XErr) : State :=
  let cx := (s.cxOf cid).getD 0
  let s1 := if e = .malformed then
      (s.report (dieOf cid) (faultRec cx (pageNo a) 7 .xlate 0 0xFFFF)).trigger 131 else s
  s1.report (dieOf cid) (faultRec cx (pageNo a) 1 e.cause detail cid)

/-- Read n bytes at a place as an engine of a core does: at the home. What it writes after may release what it has read, so
no older copy of the line stays in its cluster (R198, R202). -/
def State.engineRead (s : State) (cid : Nat) (l : Loc) (n : Nat) : Nat × State :=
  match l with
  | .phys pa =>
    let s1 := s.combineLine (pa / 64)
    (s1.peek l n, (s1.dropCopy (clusterOf cid) (pa / 64)).dropLate (clusterOf cid) fun x => x == pa / 64)
  | l => (s.peek l n, s)

/-- Where a local address may not be used: XLATE where no window or no byte of it lies there, else PERM (R15, R237). -/
def State.windowCause (s : State) (a : Word) (n : Nat) : Cause :=
  if !isLocal a || decide (s.extent s.hereCid (winSel a) < winOff a + n) then .xlate else .perm

/-! ## CPY, CPYG, CPYW -/

def Core.chan (c : Core) (ch : Nat) : Channel := vget c.chans ch Channel.reset
def Core.setChan (c : Core) (ch : Nat) (x : Channel) : Core := { c with chans := vset c.chans ch x }

/-- Check 4 of R237, and room in the channel (R235). -/
def State.startTransfer (s : State) (ch : BitVec 3) (t : Transfer) : Eff State := do
  let q := match s.window s.hereCid t.dst with
    | some l => s.ownQ s.hereCid s.here.cur.val (l.lines t.len)
    | none => false
  demandOr (!q) .qzacc t.dst
  if t.len = 0 then .ok s
  else do
    let x := s.here.chan ch.toNat
    await (decide (x.flight.length < 32)) (.channel ch)
    .ok { s with here := s.here.setChan ch.toNat { x with flight := x.flight ++ [t] } }

def execCpy (ch : BitVec 3) (d a b : GReg) (s : State) : Result :=
  s.finish (do
    let len := (s.g d).toNat
    demand (decide (len ≤ 2 ^ 24 ∧ len % 4 = 0))
    aligned (s.g a) 4
    aligned (s.g b) 4
    s.engineCheck false (s.g a) len
    s.engineCheck true (s.g b) len
    s.startTransfer ch
      { gather := false, src := s.g a, dst := s.g b, len := len, row := 0, limit := 0, list := 0, pos := 0, cur := none,
        fault := none, reported := false, listReported := false, slot := s.here.cur.val })

def execCpyg (ch : BitVec 3) (d a b : GReg) (s : State) : Result :=
  s.finish (do
    demand (evenPair a && evenPair b)
    let base := s.g a
    let row := ((s.g (GReg.next a)).extractLsb' 0 32).toNat
    let limit := ((s.g (GReg.next a)).extractLsb' 32 32).toNat
    let dst := s.g b
    let list := s.g (GReg.next b)
    let n := (s.g d).toNat
    demand (decide (row % 4 = 0 ∧ row ≠ 0 ∧ row ≤ 65536 ∧ n ≤ 65536 ∧ n * row ≤ 2 ^ 24))
    aligned base 4
    aligned dst 4
    aligned list 4
    demandOr (isGlobal base) (s.windowCause base 1) base
    s.engineCheck true dst (n * row)
    demandOr (isLocal list && decide (winSel list ≤ 1)) (if isGlobal list then .perm else s.windowCause list (4 * n)) list
    s.engineCheck false list (4 * n)
    s.startTransfer ch
      { gather := true, src := base, dst := dst, len := n * row, row := row, limit := limit, list := list, pos := 0,
        cur := none, fault := none, reported := false, listReported := false, slot := s.here.cur.val })

/-- CPYW (R240). -/
def execCpyw (ch : BitVec 3) (d a : GReg) (s : State) : Result :=
  s.finish (do
    let target : BitVec 48 := (s.g a).extractLsb' 0 48
    demand ((s.g a).extractLsb' 48 16 == 0#16)
    let x := s.here.chan ch.toNat
    await (decide ((x.bytes - target).toNat < 2 ^ 47)) (.cpyw ch target)
    .ok (s.setG d (x.drops ++ x.bytes)))

/-! ## Delivery -/

/-- What became of one word of a transfer; bad if its source is damaged. -/
inductive Deliv where
  | wait
  | fault (a : Word) (e : XErr)
  | word (bad : Bool) (s : State)

/-- Write a word of a transfer. A damaged line is read again once the transfer has delivered all 64 bytes of it; if the
transfer covers only a part, the write is not performed and KIND 2 names its page, once for the line (R375). -/
def State.deliverTo (s : State) (cid ch : Nat) (t : Transfer) (dst : Word) (l : Loc) (v : Nat) : State :=
  match l with
  | .phys pa =>
    if s.isDamaged l then
      if pa % 64 ≤ t.pos && decide (t.pos + 64 ≤ t.len + pa % 64) then
        let s1 := s.storeEngine cid l 4 v
        if pa % 64 = 60 then s1.mend (.phys (pa - 60)) 64 else s1
      else if t.pos = 0 ∨ pa % 64 = 0 then
        s.report (dieOf cid) (faultRec ((s.cxOf cid).getD 0) (pageNo dst) 2 .mchk ch cid)
      else s
    else s.storeEngine cid l 4 v
  | l => s.engineWrite cid l 4 v ch

/-- Deliver one word: from src, or zero, to dst (R212, R238, R246, R396) (log entry 32, DEDUCED). -/
def State.deliverWord (s : State) (cid ch : Nat) (t : Transfer) (src : Option Word) (dst : Word) : Deliv :=
  let put (s : State) (bad : Bool) (v : Nat) : Deliv :=
    match s.engineLoc cid .store dst with
    | .error e => .fault dst e
    | .ok (l, s1) => if !(s1.holders (l.lines 4)).isEmpty then .wait else .word bad (s1.deliverTo cid ch t dst l v)
  match src with
  | none => put s false 0
  | some a =>
    match s.engineLoc cid .load a with
    | .error e => .fault a e
    | .ok (l, s1) =>
      if !(s1.holders (l.lines 4)).isEmpty then .wait
      else if (s1.damagedByte l 4).isSome then
        let s2 := if t.reported then s1 else
          s1.report (dieOf cid) (faultRec ((s.cxOf cid).getD 0) (pageNo a) 2 .mchk ch cid)
        put (s2.failLm l) true 0
      else
        let r := s1.engineRead cid l 4
        put r.2 false r.1

/-- Record a word of the head transfer as delivered, and drop a complete transfer. -/
def State.counted (s : State) (cid ch : Nat) (t : Transfer) (drop : Bool) : State :=
  s.modCore cid fun c =>
    let x := c.chan ch
    let t1 := { t with pos := t.pos + 4 }
    c.setChan ch { x with
      bytes := x.bytes + 4
      drops := if drop then x.drops + 1 else x.drops
      flight := if t.len ≤ t.pos + 4 then x.flight.drop 1 else t1 :: x.flight.drop 1 }

def State.setHead (s : State) (cid ch : Nat) (t : Transfer) : State :=
  s.modCore cid fun c => let x := c.chan ch; c.setChan ch { x with flight := t :: x.flight.drop 1 }

/-- The transfer waits at a page (R237). -/
def State.stall (s : State) (cid ch : Nat) (t : Transfer) (a : Word) (e : XErr) : State :=
  (s.engineFault cid ch a e).setHead cid ch { t with fault := some (pageNo a, e.cause) }

/-- COPY_DELIVERY: the channel's head transfer, a copy, delivers its next word (log entry 22, DEDUCED). -/
def execCopyDelivery (cid ch : Nat) (s : State) : Result :=
  match ((s.core cid).chan ch).flight with
  | [] => .next s
  | t :: _ =>
    if t.gather || t.fault.isSome then .next s
    else
      let o := BitVec.ofNat 64 t.pos
      match s.deliverWord cid ch t (some (t.src + o)) (t.dst + o) with
      | .wait => .next s
      | .fault a e => .next (s.stall cid ch t a e)
      | .word bad s1 => .next (s1.counted cid ch { t with reported := t.reported || bad } false)

/-- The index of a gather's row: read once, at the row's first word; a damaged index counts as no valid one
(log entry 35, DEDUCED). -/
def State.gatherIndex (s : State) (cid : Nat) (t : Transfer) : Option Nat :=
  match t.cur with
  | some x => some x
  | none =>
    let a := t.list + BitVec.ofNat 64 (4 * (t.pos / t.row))
    match s.window cid a with
    | none => some (2 ^ 32)
    | some l =>
      if !(s.holders (l.lines 4)).isEmpty then none
      else if (s.damagedByte l 4).isSome then some (2 ^ 32) else some (s.peek l 4)

/-- The index of a gather's row is damaged: KIND 2 with the page of the list, once for the transfer, whatever its source has met
(R375, R396). -/
def State.listRecord (s : State) (cid ch : Nat) (t : Transfer) : Bool × State :=
  let a := t.list + BitVec.ofNat 64 (4 * (t.pos / t.row))
  match t.cur, s.window cid a with
  | none, some l =>
    if (s.damagedByte l 4).isSome then
      let s1 := if t.listReported then s else
        s.report (dieOf cid) (faultRec ((s.cxOf cid).getD 0) (pageNo a) 2 .mchk ch cid)
      (true, s1.failLm l)
    else (t.listReported, s)
  | _, _ => (t.listReported, s)

/-- GATHER_DELIVERY: the channel's head transfer, a gather, delivers its next word (R239). -/
def execGatherDelivery (cid ch : Nat) (s : State) : Result :=
  match ((s.core cid).chan ch).flight with
  | [] => .next s
  | t :: _ =>
    if !t.gather || t.fault.isSome then .next s
    else match s.gatherIndex cid t with
      | none => .next s
      | some x =>
        let j := t.pos % t.row
        let valid := decide (x < t.limit)
        let src : Option Word := if valid then some (t.src + BitVec.ofNat 64 (x * t.row + j)) else none
        let y := s.listRecord cid ch t
        match y.2.deliverWord cid ch t src (t.dst + BitVec.ofNat 64 t.pos) with
        | .wait => .next s
        | .fault a e => .next (y.2.stall cid ch { t with cur := some x, listReported := y.1 } a e)
        | .word bad s1 =>
          let cur := if j + 4 = t.row then none else some x
          .next (s1.counted cid ch { t with cur := cur, listReported := y.1, reported := t.reported || bad } (j == 0 && !valid))

/-! ## Fault lists and resolutions (R361, R364) -/

/-- FAULT_LIST_CLOSE: 2,048 cc after a window opened (R361). -/
def execFaultListClose (die : Nat) (s : State) : Result :=
  match (s.die die).window with
  | none => .next s
  | some t => if t + Config.faultWindow ≤ s.now then .next (s.modDie die fun d => d.closeFaults) else .next s

/-- The cores of a die whose cluster belongs to a context. -/
def State.coresOf (s : State) (die cx : Nat) : List Nat :=
  s.coreIds.filter fun c => dieOf c == die && s.cxOf c == some cx

/-- An exposing ticket waits at this page. -/
def Ticket.waitsAt (t : Ticket) (page : Nat) : Bool :=
  t.state == .exposing && t.fault != .none && pageNo (t.src + BitVec.ofNat 64 t.got) == page

/-- Zero the words from pos to len of a destination; a page that cannot be written is skipped (R364). -/
def State.zeroFill (s : State) (cid ch : Nat) (t : Transfer) : Nat → State
  | 0 => s
  | n + 1 =>
    let dst := t.dst + BitVec.ofNat 64 t.pos
    let s1 := match s.engineLoc cid .store dst with
      | .error _ => s
      | .ok (l, u) => u.deliverTo cid ch t dst l 0
    State.zeroFill s1 cid ch { t with pos := t.pos + 4 } n

/-- The core that a message for a retired core goes to (R376, R282). -/
def State.standIn (s : State) (cid : Nat) : Nat :=
  let base := 8 * clusterOf cid
  (((List.range 8).map fun i => base + (cid % 8 + i) % 8).find? fun k => !(s.core k).retired).getD cid

/-- The abandonment message of firmware (R364). -/
def State.abandonMsg (s : State) (cid page bytes : Nat) (ch : Word) : State :=
  let cx := (s.cxOf cid).getD 0
  match (s.ctxCfg cx).bind (·.handler) with
  | none => s
  | some h =>
    let m : Msg :=
      { src := 0xFFFF, cx := cx, dev := none, dst := s.standIn cid, chan := BitVec.ofNat 8 h, refused := none
        load := .send [11 ||| ((ch &&& 7) <<< 8), BitVec.ofNat 64 (page * 65536), BitVec.ofNat 64 bytes] }
    { s with fwMsgs := s.fwMsgs ++ [m] }

/-- Every byte that is still to be delivered lies in no held line. -/
def State.openTail (s : State) (cid : Nat) (t : Transfer) : Bool :=
  match s.window cid (t.dst + BitVec.ofNat 64 t.pos) with
  | none => true
  | some l => (s.holders (l.lines (t.len - t.pos))).isEmpty

/-- Abandon the head transfer of a channel: zeros, the counts, the message. -/
def State.abandon (s : State) (cid ch page : Nat) : State :=
  match ((s.core cid).chan ch).flight with
  | [] => s
  | t :: _ =>
    if (t.fault.map (·.1)) = some page && s.openTail cid t then
      let n := t.len - t.pos
      let s1 := s.zeroFill cid ch t (n / 4)
      let s2 := s1.modCore cid fun c =>
        let x := c.chan ch
        c.setChan ch { x with bytes := x.bytes + BitVec.ofNat 48 n, flight := x.flight.drop 1 }
      s2.abandonMsg cid page n (BitVec.ofNat 64 ch)
    else s

/-! ## Predictor tables (R241 to R244) -/

def Core.pred (c : Core) (t i : Nat) : Pred := vget (vget c.preds t (Vector.replicate 16 Pred.reset)) i Pred.reset
def Core.setPred (c : Core) (t i : Nat) (p : Pred) : Core :=
  { c with preds := vset c.preds t (vset (vget c.preds t (Vector.replicate 16 Pred.reset)) i p) }

/-- The layout of R241. -/
def Pred.word (p : Pred) : Word := 0#20 ++ BitVec.ofBool p.valid ++ p.conf ++ 0#4 ++ p.tag ++ p.index
def predOk (w : Word) : Bool := w.extractLsb' 44 20 == 0#20 && w.extractLsb' 36 4 == 0#4
def Pred.ofWord (w : Word) (cx : Nat) : Pred :=
  { valid := w.getLsbD 43, conf := w.extractLsb' 40 3, tag := w.extractLsb' 24 12, index := w.extractLsb' 0 24, cx := cx }

/-- A key hits an entry of the task's context. -/
def Pred.hits (p : Pred) (cx : Nat) (key : BitVec 16) : Bool :=
  p.valid && p.cx == cx && p.tag == key.extractLsb' 4 12

def execPrld (t : BitVec 2) (d a : GReg) (s : State) : Result :=
  s.finish (do
    demand ((s.g a).extractLsb' 4 60 == 0#60)
    let p := s.here.pred t.toNat (s.g a).toNat
    .ok (s.setG d (if p.valid && p.cx == s.cx then p.word else 0)))

def execPrst (t : BitVec 2) (a b : GReg) (s : State) : Result :=
  s.finish (do
    demand ((s.g a).extractLsb' 4 60 == 0#60 && predOk (s.g b))
    .ok { s with here := s.here.setPred t.toNat (s.g a).toNat (Pred.ofWord (s.g b) s.cx) })

/-- Training (R244). -/
def Pred.train (p : Pred) (cx : Nat) (key : BitVec 16) (x : BitVec 24) : Pred :=
  if !p.hits cx key then { valid := true, conf := 1, tag := key.extractLsb' 4 12, index := x, cx := cx }
  else if p.index = x then { p with conf := if p.conf = 7 then 7 else p.conf + 1 }
  else if 2 ≤ p.conf.toNat then { p with conf := p.conf - 2 }
  else { p with index := x, conf := 1 }

def State.train (s : State) (t : Ticket) (x : BitVec 24) : State :=
  let k := t.key.toNat % 16
  { s with here := s.here.setPred t.tbl.toNat k ((s.here.pred t.tbl.toNat k).train s.cx t.key x) }

/-! ## Tickets -/

/-- The address of the row of an index (R248). -/
def Ticket.rowOf (t : Ticket) (x : BitVec 24) : Word := t.base + x.setWidth 64 * t.stride.setWidth 64

/-- The first address of a range in each page it touches, as numbers that do not wrap. -/
def pageStarts (a n : Nat) : List Nat :=
  (List.range ((a % 65536 + n + 65535) / 65536)).map fun i => if i = 0 then a else (a / 65536 + i) * 65536

/-- What SpecCheck found. -/
inductive Spec where
  | clear | marked | fault (c : Cause)
  deriving DecidableEq, Repr

/-- A page was absent when its entry was replaced, and no TLBI has covered it since. -/
def State.wasAbsent (s : State) (cid va : Nat) : Bool :=
  (s.oldWalks.filter fun o => o.covers (clusterOf cid) ((s.cxOf cid).getD 0) va).any fun o => o.at va == .absent

/-- SpecCheck (R248, R254, R256): the first page that is not plainly readable decides. A walk that must be made while a demand
walk of the context waits for a walker yields to it (R340). Of the translations that R339 allows it uses an absence that may
still answer, since a page that firmware maps in between changes nothing in R386 (log entry 6, DEDUCED). -/
def State.specCheck (s : State) (cid : Nat) : List Nat → Spec × State
  | [] => (.clear, s)
  | va :: rest =>
    if 2 ^ 56 ≤ va || s.wasAbsent cid va then (.fault .xlate, s)
    else match s.leafOf cid va with
      | (.leaf l, s1) =>
        let pa := l.pa + (va - l.va)
        let walks := ((s.die (dieOf cid)).walks.get ((s.cxOf cid).getD 0)).getD 0 ≠ 0 ∧
          !((s.core cid).l1 ++ (s.cluster (clusterOf cid)).l2).any fun x => x.covers ((s.cxOf cid).getD 0) va
        if walks || !l.sp || paKind pa == .host || paKind pa == .firmware then (.marked, s1)
        else if !l.rd || !s.granted ((s.cxOf cid).getD 0) pa then (.fault .perm, s1)
        else State.specCheck s1 cid rest
      | (_, s1) => (.fault .xlate, s1)

/-- DemandCheck (R249): translation and read permission of every page, else the trap of the lowest address. -/
def State.demandCheck (s : State) : List Nat → Eff State
  | [] => .ok s
  | va :: rest =>
    let a : Word := BitVec.ofNat 64 va
    if 2 ^ 56 ≤ va then .error (.trap .xlate a)
    else match s.translate s.hereCid .load va with
      | .error .malformed => .error (.malformed a)
      | .error e => .error (.trap e.cause a)
      | .ok (_, s1) => State.demandCheck s1 rest

/-- The destination checks of R248 and R258 (log entry 34, DEDUCED). -/
def State.ticketDst (s : State) (a : Word) (n : Nat) : Eff Loc :=
  if isGlobal a then .error (.trap .perm a)
  else do
    s.engineCheck true a n
    match s.window s.hereCid a with
    | some l => .ok l
    | none => .error (.trap .xlate a)

/-- A ticket's handle (R245). -/
def ticketHandle (gen : BitVec 16) (i : Nat) : Word := 0#43 ++ gen ++ BitVec.ofNat 5 i

/-- The ticket of a handle, held by the issuing task; none: stale (R245). -/
def State.ticketOf (s : State) (h : Word) : Option (Nat × Ticket) :=
  let i := (h.extractLsb' 0 5).toNat
  let t := s.here.ticket i
  if h.extractLsb' 21 43 = 0 ∧ t.state ≠ .free ∧ t.owner = s.task.taskId ∧ t.orphan = false ∧
      t.gen = h.extractLsb' 5 16 then some (i, t) else none

/-- The free ticket entries. -/
def Core.freeTickets (c : Core) : List Nat := (List.range 32).filter fun i => (c.ticket i).state == .free

/-- PMOVE (R248); which of several free entries is taken is free (log entry 33, DESIGN CHOICE). -/
def execPmove (t : BitVec 2) (d a b : GReg) (s : State) : Result :=
  s.finish (do
    demand (evenPair a && evenPair b)
    let w := s.g (GReg.next a)
    let kw := s.g (GReg.next b)
    let len := (w.extractLsb' 0 17).toNat
    demand (w.extractLsb' 17 15 == 0#15 && kw.extractLsb' 16 48 == 0#48)
    demand (decide (len ≠ 0 ∧ len ≤ 65536 ∧ len % 4 = 0))
    aligned (s.g a) 4
    aligned (s.g b) 4
    let l ← s.ticketDst (s.g b) len
    let me := s.task.taskId
    let held := s.holders (l.lines len)
    let own := s.here.ownTickets s.here.cur.val
    demandOr (!own.any fun i => (s.ticketLines s.hereCid (s.here.ticket i)).any fun x => (l.lines len).contains x) .qzacc (s.g b)
    demandOr (decide (own.length < 32)) .perm 0
    let free := s.here.freeTickets
    await (!free.isEmpty && held.isEmpty) (.ticket (l.lines len))
    let (k, s1) := if free.length ≤ 1 then (0, s) else s.choose free.length
    let i := free.getD k 0
    let key : BitVec 16 := kw.extractLsb' 0 16
    let p := s.here.pred t.toNat (key.toNat % 16)
    let base : Ticket := { Ticket.reset with
      state := .dry, gen := (s.here.ticket i).gen + 1, owner := me, tbl := t, key := key, base := s.g a,
      stride := w.extractLsb' 32 32, len := len, dst := s.g b, no := s.here.pmoves }
    let (x, s2) : Ticket × State :=
      if !p.hits s.cx key then ({ base with dryKind := 1 }, s1)
      else if p.conf.toNat < (vget s.here.pth t.toNat 0).toNat then ({ base with dryKind := 2 }, s1)
      else
        let src := base.rowOf p.index
        let y : Ticket := { base with pidx := p.index, src := src }
        match s1.specCheck s.hereCid (pageStarts src.toNat len) with
        | (.marked, s2) => ({ y with dryKind := 3 }, s2)
        | (.fault f, s2) => ({ y with state := .spec, fault := f }, s2)
        | (.clear, s2) => ({ y with state := .spec }, s2)
    let s3 := s2.modSum s2.hereCid me fun q =>
      { q with
        town := q.town ||| (1#32 <<< i)
        dryn := if x.state = .dry then q.dryn + 1 else q.dryn }
    .ok (({ s3 with here := { s3.here.setTicket i x with pmoves := s3.here.pmoves + 1 } } : State).setG d (ticketHandle x.gen i)))

/-- Put n bytes of v at an offset of the ticket's data. -/
def Ticket.fill (t : Ticket) (pos n v : Nat) : Ticket := { t with data := t.data.writeN pos n v }

/-- Why a demand fetch stops. -/
inductive FetchStop where
  | fault (a : Word) (e : XErr)
  | damaged (a : Word)
  deriving DecidableEq, Repr

/-- Read k bytes of a source as demand; where they cannot be read, the state that has noticed it and why. -/
def State.demandLine (s : State) (cid : Nat) (a : Word) (k : Nat) : Except (State × FetchStop) (Nat × State) :=
  if !isGlobal a then .error (s, .fault a .xlate)
  else match s.translate cid .load a.toNat with
    | .error e => .error (s, .fault a e)
    | .ok (pa, s1) =>
      if (s1.damagedByte (.phys pa) k).isSome then .error (s1, .damaged a) else .ok (s1.engineRead cid (.phys pa) k)

/-- Read the rest of a ticket's source as demand, line by line from got, until a line stops it; a line that its confirm has
read is not read again (R257). -/
def State.demandRead (s : State) (cid : Nat) : Nat → Ticket → Ticket × State × Option FetchStop
  | 0, t => (t, s, none)
  | n + 1, t =>
    let k := t.chunk t.got
    let past (t : Ticket) : Ticket := { t with got := t.got + k, asked := t.got + k }
    if t.len ≤ t.got then (t, s, none)
    else if t.ahead.contains t.got then State.demandRead s cid n (past t)
    else match s.demandLine cid (t.src + BitVec.ofNat 64 t.got) k with
      | .error (s1, e) => (t, s1, some e)
      | .ok r => State.demandRead r.2 cid n (past (t.fill t.got k r.1))

/-- Read every line of a ticket's source from an offset that can be read now and has not been read (R257). -/
def State.readAhead (s : State) (cid : Nat) : Nat → Nat → Ticket → Ticket × State
  | 0, _, t => (t, s)
  | n + 1, pos, t =>
    let k := t.chunk pos
    if t.len ≤ pos then (t, s)
    else if t.ahead.contains pos then State.readAhead s cid n (pos + k) t
    else match s.demandLine cid (t.src + BitVec.ofNat 64 pos) k with
      | .error (s1, _) => State.readAhead s1 cid n (pos + k) t
      | .ok r => State.readAhead r.2 cid n (pos + k) { t.fill pos k r.1 with ahead := pos :: t.ahead }

/-- The lines a fetch may have. -/
def Ticket.fuel (t : Ticket) : Nat := t.len / 64 + 2

/-- The offsets of a ticket's lines from an offset. -/
def Ticket.lineOffs (t : Ticket) : Nat → Nat → List Nat
  | 0, _ => []
  | n + 1, pos => if t.len ≤ pos then [] else pos :: Ticket.lineOffs t n (pos + t.chunk pos)

/-- A ticket that its confirm hits: the demand read begins at the first line that was left to it or has not arrived, and what has
arrived beyond it counts as read (R249, R256, R257). -/
def Ticket.confirmed (t : Ticket) : Ticket :=
  match (t.lineOffs t.fuel 0).find? t.skipped.contains with
  | some o => { t with
      state := .exposing, got := min o t.got, skipped := []
      ahead := (t.lineOffs t.fuel 0).filter fun x => decide (o < x ∧ x < t.got) && !t.skipped.contains x }
  | none => { t with state := .exposing }

/-- Bytes of a ticket's source that have not been read, from an offset. -/
def Ticket.missing (t : Ticket) : Nat → Nat → Nat
  | 0, _ => 0
  | n + 1, pos =>
    if t.len ≤ pos then 0
    else (if t.ahead.contains pos then 0 else t.chunk pos) + Ticket.missing t n (pos + t.chunk pos)

/-- End an exposing ticket whose fetch is abandoned: what has not arrived is zero (log entry 37, DEDUCED). -/
def State.abandonTicket (s : State) (cid i page : Nat) : State :=
  let t := (s.core cid).ticket i
  if t.waitsAt page then
    let s1 : State := { s with tick := s.tick + 1 }
    (s1.abandonMsg cid page (t.missing t.fuel t.got) (Config.freeWord s.tick)).modCore cid fun c =>
      c.setTicket i { t with fault := .none, got := t.len }
  else s

/-- PCONF (R249). On a hit the bytes not yet read are read as demand at once where they can be (R257). -/
def execPconf (a b : GReg) (s : State) : Result :=
  s.finish (do
    match s.ticketOf (s.g a) with
    | none => illop
    | some (i, t) =>
      demand (t.state != .exposing)
      demand ((s.g b).extractLsb' 24 40 == 0#40)
      let x : BitVec 24 := (s.g b).extractLsb' 0 24
      if t.state = .spec ∧ t.pidx = x ∧ t.fault = .none then
        let s1 := s.train t x
        let t1 := t.confirmed
        let r := s1.readAhead s.hereCid t.fuel t1.got t1
        .ok { r.2 with here := (r.2.here.endSpec i).setTicket i r.1 }
      else do
        let src := t.rowOf x
        let s1 ← s.demandCheck (pageStarts src.toNat t.len)
        let s2 := if t.state = .spec then s1.modSum s.hereCid t.owner fun q =>
            if t.fault = .none then { q with pdisc := q.pdisc + 1 }
            else if t.pidx ≠ x then { q with fdisc := q.fdisc + 1 } else q
          else s1
        let s3 := s2.train t x
        let t1 : Ticket := { t with state := .exposing, fault := .none, src := src, asked := 0, got := 0, data := [], skipped := [] }
        .ok { s3 with here := (s3.here.endSpec i).setTicket i t1 })

/-- PCANC (R250). -/
def execPcanc (a : GReg) (s : State) : Result :=
  s.finish (match s.ticketOf (s.g a) with
    | none => illop
    | some (i, t) => do
      demand (t.state != .exposing)
      .ok (s.cancelTicket s.hereCid i))

/-- The status word of a ticket (R251). DRY of a ticket that started dry stays while it exposes: the table bounds HCAUSE and
ARRIVED to state 1 and says nothing of DRY (log entry 25, DEDUCED). -/
def Ticket.status (t : Ticket) : Word :=
  let spec := t.state == .spec
  let pidx : BitVec 24 := if t.dryKind = 1 ∨ t.dryKind = 2 then 0 else t.pidx
  let hc : BitVec 4 := if spec then t.fault.code else 0
  let st : BitVec 3 := match t.state with
    | .free => 0 | .spec => 1 | .dry => 2 | .lapsed => 3 | .exposing => 4
  0#8 ++ pidx ++ 0#8 ++ hc ++ t.tbl ++ 0#7 ++ t.dryKind.setWidth 3 ++ 0#4 ++
    BitVec.ofBool (spec && t.fault == .none && decide (t.len ≤ t.got) && t.skipped.isEmpty) ++ st

/-- PSTAT (R251). -/
def execPstat (d a : GReg) (s : State) : Result :=
  .next (s.setG d (match s.ticketOf (s.g a) with
    | none => 0
    | some (_, t) => t.status)).advance

/-! ## Speculative reads and exposure -/

/-- Bytes that a core has requested speculatively and not received, for tickets whose speculation has ended too (R255). -/
def Core.inFlight (c : Core) : Nat :=
  (List.range 32).foldl (fun n i => let t := c.ticket i; if t.state = .spec then n + t.underWay else n)
    (c.strays.foldl (fun n x => n + x.2) 0)

/-- A ticket has a request to make that its core's budget can ever hold. -/
def Core.wants (c : Core) (t : Ticket) : Bool :=
  t.state == .spec && t.fault == .none && decide (t.asked < t.len ∧ t.chunk t.asked ≤ c.specbud.toNat)

/-- An older ticket of the core waits for its next request (R255). -/
def Core.olderWants (c : Core) (t : Ticket) : Bool := (List.range 32).any fun j => c.wants (c.ticket j) && decide ((c.ticket j).no < t.no)

/-- A line in U state at some cluster. -/
def State.uHeld (s : State) (line : Nat) : Bool := s.clusters.any fun x => x.2.ulines.any fun u => u.line == line

/-- A line that no speculative read takes: it is in U state, or its page does not permit speculation (R254, R256). -/
def State.unspeculative (s : State) (l : Leaf) (va : Nat) : Bool :=
  let pa := l.pa + (va - l.va)
  s.uHeld (pa / 64) || !l.sp || paKind pa == .host || paKind pa == .firmware

/-- SPECULATIVE_REQUEST: the next line of a speculating ticket is requested when it fits the budget, older tickets first
(R255); a line in U state is left unread, and the lines after it are not (R256). -/
def execSpeculativeRequest (cid i : Nat) (s : State) : Result :=
  let c := s.core cid
  let t := c.ticket i
  let k := t.chunk t.asked
  let a := t.src + BitVec.ofNat 64 t.asked
  if c.wants t ∧ !c.olderWants t ∧ c.inFlight + k ≤ c.specbud.toNat ∧ isGlobal a then
    match s.leafOf cid a.toNat with
    | (.leaf l, s1) =>
      if s.unspeculative l a.toNat then .next (s.modCore cid fun c => c.setTicket i
          { t with asked := t.asked + k, skipped := t.skipped ++ [t.asked] })
      else .next (s1.modCore cid fun c => c.setTicket i { t with asked := t.asked + k })
    | (_, s1) => .next (s1.modCore cid fun c => c.setTicket i { t with asked := t.asked + k })
  else .next s

/-- SPECULATIVE_ARRIVAL: the next requested bytes arrive; a source that can no longer be read holds its fault (R253,
R254), and a line that may no longer be read speculatively is left unread (R256). Bytes of an ended speculation are dropped
(R258). -/
def execSpeculativeArrival (cid i : Nat) (s : State) : Result :=
  let t := (s.core cid).ticket i
  let k := t.chunk t.got
  let a := t.src + BitVec.ofNat 64 t.got
  let hold (s : State) (f : Cause) : State :=
    s.modCore cid fun c => (c.endSpec i).setTicket i { t with fault := f, data := [], asked := 0, got := 0, skipped := [] }
  if ((s.core cid).strays.get i).isSome then .next (s.modCore cid fun c => { c with strays := c.strays.erase i })
  else if t.state = .spec ∧ t.fault = .none ∧ t.got < t.asked then
    if t.skipped.contains t.got then .next (s.modCore cid fun c => c.setTicket i { t with got := t.got + k }) else
    match s.leafOf cid a.toNat with
    | (.leaf l, s1) =>
      let pa := l.pa + (a.toNat - l.va)
      if s.unspeculative l a.toNat then
        .next (s1.modCore cid fun c => c.setTicket i { t with got := t.got + k, skipped := t.skipped ++ [t.got] })
      else if !l.rd || !s.granted ((s.cxOf cid).getD 0) pa then .next (hold s1 .perm)
      else if (s1.damagedByte (.phys pa) k).isSome then .next (hold s1 .mchk)
      else
        let t1 : Ticket := { t.fill t.got k (s1.peek (.phys pa) k) with got := t.got + k }
        .next (s1.modCore cid fun c => c.setTicket i t1)
    | (_, s1) => .next (hold s1 .xlate)
  else .next s

/-- Write the data of a ticket over its range: words become full, DSW waiters wake (R210, R214, R225). -/
def State.exposeAt (s : State) (cid : Nat) (l : Loc) (t : Ticket) : State :=
  let s1 := if s.damaged.isEmpty then (s.poke l t.len (t.data.readN 0 t.len)).setFullRange l t.len true
    else (List.range (t.len / 4)).foldl (fun s i => s.engineWrite cid (l.add (4 * i)) 4 (t.data.readN (4 * i) 4)) s
  match l with
  | .dsw _ _ => (l.lines t.len).foldl (fun s x => s.wakeLine x) s1
  | _ => s1

/-- The entry of an ended ticket is freed and its bit of TOWN cleared. -/
def State.freeTicket (s : State) (cid i : Nat) : State :=
  let t := (s.core cid).ticket i
  let s1 := if t.orphan then s else s.modSum cid t.owner fun q => q.drop i
  s1.modCore cid fun c => c.setTicket i t.freed

/-- Another ticket keeps an exposing one from writing its lines: one that speculates, or one that exposes too and was
allocated before it, so that of several one goes first (R246, R249). -/
def State.exposesAfter (s : State) (cid i : Nat) (h : Nat × Nat × Bool) : Bool :=
  let a := ((s.core cid).ticket i).no
  let b := ((s.core h.1).ticket h.2.1).no
  !(h.1 == cid && h.2.1 == i) && (h.2.2 || decide (b < a ∨ (b = a ∧ h.1 < cid)))

/-- EXPOSURE: an exposing ticket fetches what it lacks as demand, then writes its range and is freed (R249, R253). -/
def execExposure (cid i : Nat) (s : State) : Result :=
  let t := (s.core cid).ticket i
  if t.state ≠ .exposing ∨ t.fault ≠ .none then .next s
  else match s.window cid t.dst with
    | none => .next (s.freeTicket cid i)
    | some l =>
      if (s.holders (l.lines t.len)).any (s.exposesAfter cid i) then .next s
      else match s.demandRead cid t.fuel t with
        | (t1, s1, none) => .next ((s1.exposeAt cid l t1).freeTicket cid i)
        | (t1, s1, some (.fault a e)) =>
          .next ((s1.engineFault cid 0 a e).modCore cid fun c => c.setTicket i { t1 with fault := e.cause })
        | (_, s1, some (.damaged a)) =>
          .next (((s1.report (dieOf cid) (faultRec ((s.cxOf cid).getD 0) (pageNo a) 2 .mchk 0 cid)).ticketEmpty cid
            t).freeTicket cid i)

end Sys2Proof.Machine
end

