-- ==== Sys2Proof/Machine/Inference.lean ====
section
/-! DEFINITION. BHASH (R315), the KV directory: KVLOOK, KVMAP, its agents and page-ins (R344 to R352), and the prefix
unit: SPTLOOK, SPTINS and their requests (R353 to R355). -/

namespace Sys2Proof.Machine

/-! ## Hashes -/

/-- One fold of BHASH (R315). -/
def foldToken (h t : BitVec 32) : BitVec 32 := (h ^^^ t).rotateLeft 5 * 0x2F0B3A49#32

/-- The hash that the first block of a sequence starts from (R315). -/
def hashSeed : BitVec 32 := 0x5A17C0DE

def execBhash (d a b : GReg) (s : State) : Result :=
  s.finish (do
    demand (evenPair a)
    let n := (s.g (GReg.next a)).toNat
    demand ((s.g a).extractLsb' 32 32 == 0#32 && decide (n ≤ 16))
    if n = 0 then .ok (s.setG d ((s.g a).extractLsb' 0 32 |>.setWidth 64))
    else do
      aligned (s.g b) 4
      let (ts, s1) ← s.loadWords 4 n (s.g b)
      .ok (s1.setG d ((ts.foldl (fun h t => foldToken h (BitVec.ofNat 32 t)) ((s.g a).extractLsb' 0 32)).setWidth 64)))

/-! ## KVLOOK and KVMAP (R344, R345, R348) -/

/-- The key of a block (R345). -/
def kvKey (sq blk : BitVec 32) : BitVec 32 := foldToken (foldToken hashSeed sq) blk

/-- The point at or after the key: the least distance, then the lowest index (R345). -/
def nearestPoint (key : BitVec 32) (ps : List Nat) : Nat :=
  let dist (p : Nat) : Nat := (BitVec.ofNat 32 p - key).toNat
  (ps.foldl (fun (m : Option Nat) p => match m with
    | none => some p
    | some q => if dist p < dist q then some p else some q) none).getD 0

/-- A ring descriptor as it is read (R344): its header, home CIDs and points. -/
structure Ring where
  head  : Nat
  homes : Nat
  points : List Nat
  deriving DecidableEq, Repr

def Ring.npt (r : Ring) : Nat := r.head % 512
def Ring.logt (r : Ring) : Nat := r.head / 2 ^ 12 % 16
def Ring.toff (r : Ring) : Nat := r.head / 2 ^ 16 % 2 ^ 16
def Ring.near (r : Ring) : Word := BitVec.ofNat 64 (r.head / 2 ^ 64)
def Ring.far (r : Ring) : Word := BitVec.ofNat 64 (r.head / 2 ^ 128)
def Ring.home (r : Ring) (h : Nat) : Nat := r.homes / 2 ^ (16 * h) % 2 ^ 16

/-- The header and the points hold no reserved bit and no value out of range (R348). -/
def Ring.ok (r : Ring) : Bool :=
  decide (1 ≤ r.npt ∧ r.npt ≤ 256 ∧ r.head / 2 ^ 9 % 8 = 0 ∧ 4 ≤ r.logt ∧ r.logt ≤ 10 ∧ r.toff % 16 = 0 ∧
    r.head / 2 ^ 32 % 2 ^ 32 = 0 ∧ r.near.toNat % 65536 = 0 ∧ r.far.toNat % 65536 = 0 ∧ r.head / 2 ^ 192 = 0) &&
    r.points.all fun p => decide (p < 2 ^ 38)

/-- The plain loads of a descriptor; with NPT out of range no point is read (log entry 25, DEDUCED). A descriptor in a local
window, which R344 gives no place and no trap, is loaded from it (log entry 60, DESIGN CHOICE). -/
def State.readRing (s : State) (a : Word) : Eff (Ring × State) := do
  let (h, s1) ← s.loadMem false a 64
  let n := h % 512
  if n = 0 ∨ 256 < n then .ok ({ head := h, homes := 0, points := [] }, s1)
  else do
    let (hs, s2) ← s1.loadWords 64 2 (a + 64)
    let (ps, s3) ← s2.loadWords 8 n (a + 192)
    .ok ({ head := h, homes := hs.getD 0 0 + 2 ^ 512 * hs.getD 1 0, points := ps }, s3)

/-- The operands of both instructions (R348). -/
structure KvOps where
  desc : Word
  seq  : Word
  pos  : Word
  arg  : Word
  deriving DecidableEq, Repr

/-- KVLOOK and KVMAP up to the send: the checks in the order of R348, then a completion with status 4, or the request. -/
def State.kvIssue (s : State) (map : Bool) (d : GReg) (o : KvOps) : Eff (Bool × State) := do
  let ovr := map && o.seq.getLsbD 63
  demand (o.seq.extractLsb' 48 15 == 0#15 && (ovr || (o.seq.extractLsb' 32 16 == 0#16 && !o.seq.getLsbD 63)) &&
    decide (o.pos.toNat < 2 ^ 36))
  demand (!map || (o.arg.extractLsb' 62 2 != 0#2 && !o.arg.getLsbD 61))
  aligned o.desc 64
  if !map then aligned o.arg 4 else .ok ()
  let (r, s1) ← s.readRing o.desc
  demand r.ok
  let sq : BitVec 32 := o.seq.extractLsb' 0 32
  let blk : BitVec 32 := o.pos.extractLsb' 4 32
  let key := kvKey sq blk
  let home := if ovr then (o.seq.extractLsb' 32 16).toNat else r.home (nearestPoint key r.points / 2 ^ 32 % 64)
  demand (ovr || rowOk (BitVec.ofNat 16 home))
  let off := winOff o.arg
  demandOr (map || o.arg == 0#64 || (isLocal o.arg && winSel o.arg == 0 && decide (off + 4 ≤ Config.lmSize) &&
    !s1.here.reserved off 4)) .perm o.arg
  let s2 := if map then s1.releaseTo .package else s1
  if !rowOk (BitVec.ofNat 16 home) || !s2.welcome home s2.cx then .ok (false, s2.setG d 4)
  else do
    let q : KvReq :=
      { map := map, src := s2.hereCid, slot := s2.here.cur.val, sq := sq, blk := blk, key := key, ovr := ovr,
        toff := r.toff, logt := r.logt, near := r.near, far := r.far, arg := o.arg, hops := 0 }
    let s3 ← s2.post none home 0 (.kv q)
    .ok (true, s3)

/-- An instruction that either completes, or waits for the reply to the request it has sent. -/
def State.sent (s : State) (d : GReg) (acq : Bool) (r : Eff (Bool × State)) : Result :=
  match r with
  | .ok (true, t) => .next (t.park (.reply d acq))
  | .ok (false, t) => .next t.advance
  | .error e => s.settle (.error e)

def State.kvOps (s : State) (a b : GReg) : KvOps :=
  { desc := s.g a, seq := s.g (GReg.next a), pos := s.g b, arg := s.g (GReg.next b) }

def execKvlook (d a b : GReg) (s : State) : Result :=
  s.sent d true (do
    demand (evenPair a && evenPair b)
    s.kvIssue false d (s.kvOps a b))

def execKvmap (d a b : GReg) (s : State) : Result :=
  s.sent d false (do
    demand (evenPair a && evenPair b)
    s.kvIssue true d (s.kvOps a b))

/-! ## The directory agent (R346, R347, R349, R350) -/

/-- What a probe found: the entry's index, the first removed or empty slot met, and the slots looked at. -/
structure Probe where
  found : Option Nat
  room  : Option Nat
  seen  : List Nat
  deriving DecidableEq, Repr

def KvReq.word0 (r : KvReq) : Word := r.sq ++ r.blk
def KvReq.slots (r : KvReq) : Nat := 2 ^ r.logt
/-- The LM offset of an entry. -/
def KvReq.entry (r : KvReq) (i : Nat) : Nat := r.toff + 16 * i

def Core.dirWord (c : Core) (off : Nat) : Word := BitVec.ofNat 64 (c.lm.readN off 8)

/-- The STATE and TIER of word 1. -/
def dirState (w : Word) : BitVec 2 := w.extractLsb' 62 2
def dirTier (w : Word) : BitVec 2 := w.extractLsb' 60 2
def dirVersion (w : Word) : BitVec 12 := w.extractLsb' 48 12

/-- The probe of R346 from slot i, looking at no more than n entries. -/
def Core.probe (c : Core) (r : KvReq) : Nat → Nat → Option Nat → List Nat → Probe
  | 0, _, room, seen => { found := none, room := room, seen := seen }
  | n + 1, i, room, seen =>
    let k := i % r.slots
    let w := c.dirWord (r.entry k + 8)
    let seen1 := seen ++ [k]
    if dirState w = 0 then { found := none, room := some (room.getD k), seen := seen1 }
    else if dirState w = 1 then Core.probe c r n (i + 1) (some (room.getD k)) seen1
    else if c.dirWord (r.entry k) = r.word0 then { found := some k, room := room, seen := seen1 }
    else Core.probe c r n (i + 1) room seen1

def Core.lookup (c : Core) (r : KvReq) : Probe := c.probe r r.slots (r.key.toNat % r.slots) none []

/-- Write an entry's words. -/
def State.putEntry (s : State) (cid off : Nat) (w0 w1 : Word) : State :=
  s.storeAt cid (.lm cid off) 16 (w0.toNat + 2 ^ 64 * w1.toNat)

/-- The reply of R349. -/
def kvReply (page w : Word) (status : BitVec 4) : Word := page.extractLsb' 16 48 ++ dirVersion w ++ status

def nearPage (r : KvReq) (w : Word) : Word := r.near + (w.extractLsb' 0 24).setWidth 64 * 65536
def farPage (r : KvReq) (w : Word) : Word := r.far + (w.extractLsb' 24 24).setWidth 64 * 65536

/-- A valid entry with its TIER replaced. -/
def setTier (w : Word) (t : BitVec 2) : Word := w.extractLsb' 62 2 ++ t ++ w.extractLsb' 0 60

/-- The answer to KVLOOK from a valid entry at slot k (R349) (log entry 45, DEDUCED). -/
def State.kvAnswer (s : State) (cid : Nat) (r : KvReq) (k : Nat) (w : Word) : State :=
  let off := r.entry k
  let word := winOff r.arg
  if dirTier w = 0 then s.replyTo r.src r.slot (kvReply (nearPage r w) w 0)
  else if r.arg = 0 then s.replyTo r.src r.slot (kvReply (farPage r w) w 2)
  else
    let reply (s : State) : State := s.replyTo r.src r.slot (kvReply (nearPage r w) w 1)
    if dirTier w = 1 then
      let x : PageIn := { slotOff := off, src := farPage r w, dst := nearPage r w, words := [(r.src, word)], fault := none }
      let s1 := s.putEntry cid off r.word0 (setTier w 2)
      let s2 := s1.modCore cid fun c => { c with pageIns := (c.pageIns.filter fun y => y.slotOff ≠ off) ++ [x] }
      reply (s2.report (dieOf cid) (faultRec ((s.cxOf cid).getD 0) (pageNo (nearPage r w)) 6 .none 0 cid))
    else
      match (s.core cid).pageIns.find? fun y => y.slotOff == off with
      | none => reply s
      | some y =>
        if y.words.length < 16 then
          reply (s.modCore cid fun c => { c with pageIns := c.pageIns.map fun z =>
            if z.slotOff = off then { z with words := z.words ++ [(r.src, word)] } else z })
        else s.modCore cid fun c => { c with aside := c.aside ++ [r] }

/-- The version after v (R350). -/
def nextVersion (v : BitVec 12) : BitVec 12 := if v = 4095 then 1 else v + 1

/-- KVMAP at the agent (R350): the reply, and the entry to write as slot and word 1. -/
def kvApply (r : KvReq) (p : Probe) (w : Word) : Word × Option (Nat × Word) :=
  let v := dirVersion r.arg
  let cur := dirVersion w
  let body : BitVec 48 := r.arg.extractLsb' 0 48
  let status (x : BitVec 12) (st : BitVec 4) : Word := 0#48 ++ x ++ st
  match p.found with
  | none =>
    if dirState r.arg = 2 then
      if v ≠ 0 then (status 0 1, none)
      else match p.room with
        | none => (status 0 3, none)
        | some k => (status 1 0, some (k, 2#2 ++ dirTier r.arg ++ 1#12 ++ body))
    else (status 0 1, none)
  | some k =>
    if dirState w = 2 ∧ dirTier w = 2 then (status 0 2, none)
    else if v ≠ cur then (status cur 1, none)
    else if dirState r.arg = 2 then
      (status (nextVersion cur) 0, some (k, 2#2 ++ dirTier r.arg ++ nextVersion cur ++ body))
    else if dirState r.arg = 1 then (status cur 0, some (k, 1#2 ++ w.extractLsb' 0 62))
    else (status cur 0, some (k, 3#2 ++ w.extractLsb' 16 46 ++ r.arg.extractLsb' 0 16))

/-- The table lies in the usable LM of its home (R347). -/
def Core.tableOk (c : Core) (r : KvReq) : Bool :=
  decide (0x1000 ≤ r.toff ∧ r.toff + 16 * r.slots ≤ Config.lmSize) && !c.reserved r.toff (16 * r.slots)

/-- The directory agent of a core meets an uncorrectable error in its table (R375, R376). -/
def State.agentError (s : State) (cid : Nat) : State :=
  (s.report (dieOf cid) (faultRec ((s.cxOf cid).getD 0) 0 2 .mchk 0 cid)).failLm (.lm cid 0)

/-- Serve one request at its agent (R347): none while a line it needs is in Q or X state (R246). -/
def State.kvServe (s : State) (cid : Nat) (r : KvReq) : Option State :=
  let c := s.core cid
  let reply (v : Word) : Option State := some (s.replyTo r.src r.slot v)
  if c.retired || !c.tableOk r then reply 4
  else
    let p := c.lookup r
    let places := p.seen.map fun k => Loc.lm cid (r.entry k)
    if !(s.holders ((places.map Loc.line).eraseDups)).isEmpty then none
    else if places.any fun l => (s.damagedByte l 16).isSome then
      some ((s.agentError cid).replyTo r.src r.slot 4)
    else
      let w := (p.found.map fun k => c.dirWord (r.entry k + 8)).getD 0
      if p.found.isSome && dirState w == 3#2 && !r.ovr then
        let goal : BitVec 16 := w.extractLsb' 0 16
        if r.hops = 4 ∨ !rowOk goal ∨ !s.welcome goal.toNat ((s.cxOf cid).getD 0) then reply 4
        else
          let m : Msg :=
            { src := 0xFFFF, cx := (s.cxOf cid).getD 0, dev := none, dst := goal.toNat, chan := 0,
              load := .kv { r with hops := r.hops + 1 }, refused := none }
          some { s with fwMsgs := s.fwMsgs ++ [m] }
      else if r.map then
        let x := kvApply r p w
        let s1 := match x.2 with
          | some (k, w1) => s.putEntry cid (r.entry k) r.word0 w1
          | none => s
        some (s1.replyTo r.src r.slot x.1)
      else match p.found with
        | none => reply 3
        | some k => some (s.kvAnswer cid r k w)

/-- Serve the head of an agent's queue when it is of the kind asked for. -/
def State.kvHead (s : State) (cid : Nat) (map : Bool) : Result :=
  match (s.core cid).dirQ with
  | [] => .next s
  | r :: rest =>
    if r.map ≠ map then .next s
    else .next (((s.modCore cid fun c => { c with dirQ := rest }).kvServe cid r).getD s)

/-- KV_LOOKUP_REQUEST (R349). -/
def execKvLookupRequest (cid : Nat) (s : State) : Result := s.kvHead cid false

/-- KV_MAP_REQUEST (R350). -/
def execKvMapRequest (cid : Nat) (s : State) : Result := s.kvHead cid true

/-! ## Page-ins (R349, R357, R364) -/

/-- The lines of a page. -/
def pageLines (pa : Nat) : List Nat := (List.range 1024).map fun i => pa + 64 * i

/-- Copy a page line by line. -/
def State.copyPage (s : State) (cid src dst : Nat) : State :=
  (List.range 1024).foldl (fun s i =>
    let r := s.engineRead cid (.phys (src + 64 * i)) 64
    r.2.engineWrite cid (.phys (dst + 64 * i)) 64 r.1) s

/-- A waiting word is written and set full; page is the near page that has arrived, if it has. -/
def State.arrive (s : State) (cid off v : Nat) (page : Option Nat) : State :=
  let s1 := s.engineWrite cid (.lm cid off) 4 v
  match page with
  | some p => if s1.isFull (.lm cid off) then s1.modCore cid fun c => { c with arrivals := c.arrivals.put (off / 4) p } else s1
  | none => s1

/-- The entry leaves TIER 2, and its waiting words are written with v and set full, in order. -/
def State.pageInDone (s : State) (cid : Nat) (x : PageIn) (tier : BitVec 2) (v : Nat) (page : Option Nat) : State :=
  let c := s.core cid
  let w := c.dirWord (x.slotOff + 8)
  let s1 := if (s.damagedByte (.lm cid x.slotOff) 16).isSome then s.agentError cid
    else s.putEntry cid x.slotOff (c.dirWord x.slotOff) (setTier w tier)
  let back := c.aside.filter fun r => r.word0 == c.dirWord x.slotOff
  let s2 := x.words.foldl (fun s a => s.arrive a.1 a.2 v page) s1
  s2.modCore cid fun c =>
    { c with
      pageIns := c.pageIns.filter fun y => y.slotOff ≠ x.slotOff
      aside := c.aside.filter fun r => !back.contains r
      dirQ := back ++ c.dirQ }

/-- Nothing older than the page that has arrived stays in the readers' clusters (R349). -/
def State.dropPage (s : State) (x : PageIn) (pa : Nat) : State :=
  let page (l : Nat) : Bool := decide (pa / 64 ≤ l ∧ l < pa / 64 + 1024)
  x.words.foldl (fun s a => (s.dropCopies (clusterOf a.1) page).dropLate (clusterOf a.1) page) s

/-- The words that a page-in writes lie in no held line. -/
def State.wordsOpen (s : State) (cid : Nat) (x : PageIn) : Bool :=
  ((cid, x.slotOff) :: x.words).all fun a => (s.holders ((Loc.lm a.1 a.2).lines 4)).isEmpty

/-- PAGE_IN_COMPLETE: the copy of page-in k of an agent ends, whole or with an uncorrectable error; a page that cannot
be translated makes it wait (R357). -/
def execPageInComplete (cid k : Nat) (ok : Bool) (s : State) : Result :=
  match (s.core cid).pageIns[k]? with
  | none => .next s
  | some x =>
    let stall (s : State) (a : Word) (e : XErr) : State :=
      (s.engineFault cid 0 a e).modCore cid fun c => { c with pageIns := c.pageIns.map fun y =>
        if y.slotOff = x.slotOff then { y with fault := some (pageNo a) } else y }
    if x.fault.isSome || !s.wordsOpen cid x then .next s
    else match s.engineLoc cid .load x.src with
      | .error e => .next (stall s x.src e)
      | .ok (src, s1) => match s1.engineLoc cid .store x.dst with
        | .error e => .next (stall s1 x.dst e)
        | .ok (dst, s2) =>
          if ok = (s2.damagedByte src 65536).isSome then .next s
          else if ok then .next (((s2.copyPage cid src.off dst.off).dropPage x dst.off).pageInDone cid x 0 0 (some dst.off))
          else .next ((s2.report (dieOf cid)
            (faultRec ((s.cxOf cid).getD 0) (pageNo x.src) 2 .mchk 0 cid)).pageInDone cid x 1 1 none)

/-! ## Fault resolutions (R364) -/

/-- FAULT_RESOLUTION_RESUME: the transfers that wait at the page translate again. -/
def execFaultResolutionResume (die cxid page : Nat) (s : State) : Result :=
  let clear (t : Transfer) : Transfer := if (t.fault.map (·.1)) = some page then { t with fault := none } else t
  .next ((s.coresOf die cxid).foldl (fun s cid => s.modCore cid fun c => { c with
    chans := c.chans.map fun x => { x with flight := x.flight.map clear }
    pageIns := c.pageIns.map fun x => if x.fault = some page then { x with fault := none } else x
    tickets := c.tickets.map fun t => if t.waitsAt page then { t with fault := .none } else t }) s)

/-- Abandon the page-ins of a core that wait at a page: zeros over a near page that can be written, and the end of the
copy (log entry 37, DEDUCED). -/
def State.abandonPageIns (s : State) (cid page : Nat) : State :=
  ((s.core cid).pageIns.filter fun x => x.fault == some page).foldl (fun s x =>
    let t : Transfer := { gather := false, src := x.src, dst := x.dst, len := 65536, row := 0, limit := 0, list := 0, pos := 0,
                          cur := none, fault := none, reported := false, listReported := false, slot := 0 }
    let s1 := s.zeroFill cid 0 t 16384
    let s2 : State := { s1 with tick := s1.tick + 1 }
    (s2.abandonMsg cid page 65536 (Config.freeWord s1.tick)).pageInDone cid x 0 0 none) s

/-- FAULT_RESOLUTION_ABANDON. -/
def execFaultResolutionAbandon (die cxid page : Nat) (s : State) : Result :=
  .next ((s.coresOf die cxid).foldl (fun s cid =>
    ((List.range 32).foldl (fun s i => s.abandonTicket cid i page)
      ((List.range 8).foldl (fun s ch => s.abandon cid ch page) s)).abandonPageIns cid page) s)

/-! ## Shared prefixes (R353 to R355) -/

/-- SPTLOOK up to the send: the checks of R355; n = 0 completes with 0. -/
def State.sptLook (s : State) (d a b : GReg) : Eff (Bool × State) := do
  demand (evenPair a)
  let n := (s.g (GReg.next a)).toNat
  demand (decide (n ≤ 64))
  if n = 0 then .ok (false, s.setG d 0)
  else do
    let out := s.g b
    let off := winOff out
    aligned (s.g a) 4
    aligned out 4
    let (hs, s1) ← s.loadWords 4 n (s.g a)
    demandOr (isLocal out && decide (winSel out ≤ 1 ∧ off + 4 * n ≤ s1.extent s1.hereCid (winSel out)) &&
      !(winSel out == 0 && (s1.here.reserved off (4 * n) || s1.here.onCounter off (4 * n)))) .perm out
    let l : Loc := if winSel out = 0 then .lm s1.hereCid off else .csp (clusterOf s1.hereCid) off
    s1.lineCheck out l (4 * n)
    let home := ((s1.ctxCfg s1.cx).map (·.homeDie)).getD 0
    let q : SptReq :=
      { ins := false, src := s1.hereCid, slot := s1.here.cur.val, hashes := hs.map (BitVec.ofNat 32), out := l, word := 0,
        page := 0 }
    let s2 ← s1.post none (8192 * home) 0 (.spt q)
    .ok (true, s2)

def execSptlook (d a b : GReg) (s : State) : Result := s.sent d false (s.sptLook d a b)

/-- SPTINS up to the send. -/
def State.sptIns (s : State) (a : GReg) : Eff (Bool × State) := do
  demand (evenPair a)
  let w := s.g a
  let p := s.g (GReg.next a)
  demand (w.extractLsb' 62 2 != 3#2 && w.extractLsb' 48 14 == 0#14 && w.extractLsb' 32 16 != 0#16 &&
    p.extractLsb' 24 40 == 0#40)
  let home := ((s.ctxCfg s.cx).map (·.homeDie)).getD 0
  let q : SptReq :=
    { ins := true, src := s.hereCid, slot := s.here.cur.val, hashes := [], out := .lm s.hereCid 0, word := w,
      page := p.extractLsb' 0 24 }
  let s1 ← s.post none (8192 * home) 0 (.spt q)
  .ok (true, s1)

def execSptins (d a : GReg) (s : State) : Result := s.sent d false (s.sptIns a)

/-- The entries that match a chain of hashes from depth m + 1 on, in order. -/
def matchChain (l : List Prefix) : Nat → List (BitVec 32) → List Prefix
  | _, [] => []
  | m, h :: t =>
    match l.find? fun e => e.hash == h && e.depth.toNat == m + 1 && decide (e.pin.toNat < 65535) with
    | some e => e :: matchChain l (m + 1) t
    | none => []

/-- PREFIX_LOOKUP_REQUEST (R354): match and pin as one event; the output words are stores of the task
(log entry 41, DEDUCED). -/
def execPrefixLookupRequest (cxid : Nat) (s : State) : Result :=
  match s.contexts.get cxid with
  | none => .next s
  | some x =>
    match x.sptQ with
    | [] => .next s
    | r :: rest =>
      let hit := matchChain x.prefixes 0 r.hashes
      if r.ins || !(s.holders (r.out.lines (4 * hit.length))).isEmpty then .next s
      else
        let pinned := hit.map fun e => { e with pin := e.pin + 1 }
        let table := (x.prefixes.filter fun e => !hit.contains e) ++ pinned
        let s1 : State := { s with contexts := s.contexts.put cxid { x with prefixes := table, sptQ := rest } }
        let s2 := (hit.zipIdx).foldl (fun s (e, i) => s.storeAt r.src (r.out.add (4 * i)) 4 e.page.toNat) s1
        .next (s2.replyTo r.src r.slot (BitVec.ofNat 64 hit.length))

/-- The result of SPTINS at the unit: status and table (R354). -/
def sptApply (l : List Prefix) (word : Word) (page : BitVec 24) : Nat × List Prefix :=
  let hash : BitVec 32 := word.extractLsb' 0 32
  let depth : BitVec 16 := word.extractLsb' 32 16
  let same (e : Prefix) : Bool := e.hash == hash && e.depth == depth
  let fresh : Prefix := { hash := hash, depth := depth, page := page, pin := 0 }
  match (word.extractLsb' 62 2).toNat, l.find? same with
  | 0, none =>
    if l.length < 64 then (0, l ++ [fresh])
    else if l.any fun e => e.pin == 0#16 then (0, (l.eraseP fun e => e.pin == 0#16) ++ [fresh])
    else (2, l)
  | 0, some e => if e.page = page then (0, l) else (3, l)
  | _, none => (1, l)
  | 1, some e =>
    if e.pin = 0 then (4, l) else (0, l.map fun x => if same x then { x with pin := x.pin - 1 } else x)
  | _, some e => if e.pin = 0 then (0, l.filter fun x => !same x) else (4, l)

/-- PREFIX_INSERT_REQUEST (R354). -/
def execPrefixInsertRequest (cxid : Nat) (s : State) : Result :=
  match s.contexts.get cxid with
  | none => .next s
  | some x =>
    match x.sptQ with
    | [] => .next s
    | r :: rest =>
      if !r.ins then .next s
      else
        let y := sptApply x.prefixes r.word r.page
        let s1 : State := { s with contexts := s.contexts.put cxid { x with prefixes := y.2, sptQ := rest } }
        .next (s1.replyTo r.src r.slot (BitVec.ofNat 64 y.1))

end Sys2Proof.Machine
end

