-- ==== Sys2Proof/Machine/Barriers.lean ====
section
/-! DEFINITION. Barriers of a launch (R226, R227, R284; log entry 21, DEDUCED). -/

namespace Sys2Proof.Machine

def barScope : BScope → Scope
  | .package => .package | .cluster => .cluster | .die => .die

/-- The scope instance that a core lies in. -/
def barInst (b : BScope) (cid : Nat) : Nat :=
  match b with
  | .package => 0 | .cluster => clusterOf cid | .die => dieOf cid

/-- The barrier that a task names: its launch's, in the instance of its core. -/
def State.barrier (s : State) (cid : Nat) (launch : Option Nat) (id : BarId) : Option Barrier :=
  match launch with
  | none => none
  | some l => match s.launches.find? fun x => x.id == l with
    | none => none
    | some x => x.barriers.find? fun b => b.id == id && b.inst == barInst id.scope cid

/-- One arrival: at the expected count the phase completes, the bit toggles and the count restarts. -/
def Barrier.arrive (b : Barrier) : Barrier :=
  if b.expected ≤ b.arrived + 1 then { b with arrived := 0, odd := !b.odd } else { b with arrived := b.arrived + 1 }

def State.arriveAt (s : State) (cid : Nat) (launch : Option Nat) (id : BarId) : State :=
  let hit (b : Barrier) : Bool := b.id == id && b.inst == barInst id.scope cid
  { s with launches := s.launches.map fun x =>
      if some x.id = launch then { x with barriers := x.barriers.map fun b => if hit b then b.arrive else b } else x }

/-- PERM with a TRINFO that no rule gives (log entry 31, DESIGN CHOICE). -/
def State.noBarrier (s : State) : Result :=
  ({ s with tick := s.tick + 1 } : State).settle (.error (.trap .perm (Config.freeWord s.tick)))

/-- BARV: a release at the barrier's scope, and one arrival. -/
def execBarv (sc : BScope) (n : Byte) (s : State) : Result :=
  let id : BarId := { scope := sc, num := n.toNat }
  match s.barrier s.hereCid s.task.launch id with
  | none => s.noBarrier
  | some _ => .next (((s.releaseTo (barScope sc)).arriveAt s.hereCid s.task.launch id).advance)

/-- BARW: wait until the done-parity bit has a value; its return is an acquire. -/
def State.barw (s : State) (sc : BScope) (n : Byte) (odd : Bool) : Result :=
  let id : BarId := { scope := sc, num := n.toNat }
  match s.barrier s.hereCid s.task.launch id with
  | none => s.noBarrier
  | some b => s.finish (do
      await (b.odd == odd) (.barrier id odd)
      .ok (s.acquire (barScope sc)))

def execBarwEven (sc : BScope) (n : Byte) (s : State) : Result := s.barw sc n false
def execBarwOdd (sc : BScope) (n : Byte) (s : State) : Result := s.barw sc n true

end Sys2Proof.Machine
end

