-- ==== Sys2Proof/Machine/Tasks.lean ====
section
/-! DEFINITION. Tasks: the task table, records, EXIT, YIELD, EXITS, deques, counters, activation, waking, ageing and
stealing (R260, R261, R267 to R280). -/

namespace Sys2Proof.Machine

/-! ## The task table (R260, R261) -/

/-- The control word of an entry. -/
def TTEntry.word (e : TTEntry) : Word :=
  0#33 ++ e.vcap ++ e.vsa ++ 0#5 ++ e.qsel ++ e.slot ++ BitVec.ofBool e.bound ++ BitVec.ofBool e.blk ++ e.prio
    ++ BitVec.ofBool e.valid

def TTEntry.ofWords (addr w : Word) : TTEntry :=
  { addr := addr, vcap := w.extractLsb' 26 5, vsa := w.extractLsb' 16 10, qsel := w.extractLsb' 9 2,
    slot := w.extractLsb' 6 3, bound := w.getLsbD 5, blk := w.getLsbD 4, prio := w.extractLsb' 1 3,
    valid := w.getLsbD 0 }

/-- A save area named by VSA and VCAP lies in 0x1000 to 0xBFFF (R261). -/
def areaOk (vsa : BitVec 10) (vcap : BitVec 5) : Bool :=
  vsa == 0#10 || decide (0x1000 ≤ 64 * vsa.toNat ∧ 64 * vsa.toNat + 512 + 1024 * vcap.toNat ≤ Config.lmSize)

/-- What TTSET and a launch's channel table accept: the reserved bits, the address, VCAP and the area; bits 63:56 are
looked at by neither. -/
def entryOk (addr w : Word) : Bool :=
  w.extractLsb' 31 25 == 0#25 && w.extractLsb' 11 5 == 0#5 && addr.extractLsb' 56 8 == 0#8 && !addr.getLsbD 0 &&
    decide ((w.extractLsb' 26 5).toNat ≤ 16) && areaOk (w.extractLsb' 16 10) (w.extractLsb' 26 5)

def Core.setEntry (c : Core) (chan : Nat) (e : TTEntry) : Core := { c with tt := c.tt.put chan e }

/-- The channel in g[a]<7:0>; bits 63:8 must be zero. -/
def State.chanOf (s : State) (a : GReg) : Eff Byte := do
  demand ((s.g a).extractLsb' 8 56 == 0#56)
  .ok ((s.g a).extractLsb' 0 8)

def execTtset (d a b : GReg) (s : State) : Result :=
  s.finish (do
    let ch ← s.chanOf a
    let addr := s.g b
    let w := s.g (GReg.next b)
    demand (evenPair b && entryOk addr w)
    let old := (s.here.entry ch).word
    let s1 : State := { s with here := s.here.setEntry ch.toNat (TTEntry.ofWords addr w) }
    .ok (s1.setG d old))

/-- Set or clear BLK. -/
def State.setBlk (s : State) (a : GReg) (v : Bool) : Eff State := do
  let ch ← s.chanOf a
  .ok { s with here := s.here.setEntry ch.toNat { s.here.entry ch with blk := v } }

def execTblk (a : GReg) (s : State) : Result := s.finish (s.setBlk a true)
def execTublk (a : GReg) (s : State) : Result := s.finish (s.setBlk a false)

/-! ## Retirement, yielding, hand-over (R271, R273, R275) -/

def execExit (s : State) : Result :=
  match s.noRep with
  | .error e => s.settle (.error e)
  | .ok _ => .next (s.retire s.hereCid s.here.cur.val)

def execYield (s : State) : Result :=
  s.finish (do
    s.noRep
    .ok (s.modTask fun t => { t with yielded := some s.now }))

/-- The successor's slot (R275): what it keeps stays, the rest is 0; it takes no place of its predecessor's in a line of waiting
tasks (R261). Two points that R73, R136 and R275 leave open: the CINVs of
level 3 of its predecessor, and the time from which that fetched code, count as its own (log entry 7, DESIGN CHOICE); a handler's
successor keeps the link, TRPC and TRACT, and any successor keeps the TRINFO bytes of its predecessor, which R275 leaves in
the workspace and R107 sets to 0 at an activation (log entry 58, DESIGN CHOICE). -/
def Slot.successor (t : Slot) (e : TTEntry) (now : Nat) : Slot :=
  { t with
    actNo := t.actNo + 1
    runSince := now
    yielded := none
    place := none
    ws := { t.ws with
      pc := e.addr
      ctl := { Ctl.reset with pres := t.ws.ctl.pres }
      fpf := 0
      srctr := 0
      srkey := 0
      resid := 0
      tsw := { t.ws.tsw with chan := 0, prio := e.prio, cause := .none, origin := .exits } } }

def execExits (a : GReg) (s : State) : Result :=
  s.settle (do
    s.noRep
    let ch ← s.chanOf a
    let e := s.here.entry ch
    demand (e.valid && !e.bound)
    let s1 := (s.handBack s.hereCid s.here.cur.val 0xFFFF#16).modTask fun t => t.successor e s.now
    .ok (if e.blk then s1.park (.blocked ch) else s1))

/-! ## Records and the deque (R267, R276) -/

def TaskRec.word0 (r : TaskRec) : Word := r.opx ++ r.reserved ++ r.chan
def TaskRec.ofWords (a b c d : Word) : TaskRec :=
  { chan := a.extractLsb' 0 8, reserved := a.extractLsb' 8 24, opx := a.extractLsb' 32 32, op1 := b, op2 := c, op3 := d }

/-- The record in mb0 to mb3. -/
def State.mbRecord (s : State) : TaskRec := TaskRec.ofWords (s.mb 0) (s.mb 1) (s.mb 2) (s.mb 3)

def execSpawn (d : GReg) (s : State) : Result :=
  if s.here.deque.length < 64 then
    let s1 : State := { s with here := { s.here with deque := s.here.deque ++ [s.mbRecord] } }
    s1.finish (.ok (s1.setG d 1))
  else s.finish (.ok (s.setG d 0))

def execPopd (d : GReg) (s : State) : Result :=
  match s.here.deque.getLast? with
  | none => s.finish (.ok (s.setG d 0))
  | some r =>
    let s1 : State := { s with here := { s.here with deque := s.here.deque.dropLast } }
    s1.finish (.ok (((((s1.setMb 0 r.word0).setMb 1 r.op1).setMb 2 r.op2).setMb 3 r.op3).setG d 1))

/-! ## Dependence counters (R279, R280) -/

/-- The record of a counter block. -/
def Core.counterRec (c : Core) (off : Nat) : TaskRec :=
  let w (i : Nat) : Word := BitVec.ofNat 64 (c.lm.readN (off + 16 + 8 * i) 8)
  TaskRec.ofWords (w 0) (w 1) (w 2) (w 3)

/-- Bits 66:64 of a block: UNDER, PEND, ARMED, in byte 8. -/
def Core.counterBits (c : Core) (off : Nat) : Byte := c.lm.get (off + 8)
def Core.pending (c : Core) (off : Nat) : Bool := (c.counterBits off).getLsbD 1

/-- A counter block's home meets an uncorrectable error in it: KIND 2, and the core leaves service (R375, R376). -/
def State.counterError (s : State) (cid : Nat) : State :=
  (s.report (dieOf cid) (faultRec ((s.cxOf cid).getD 0) 0 2 .mchk 0 cid)).failLm (.lm cid 0)

/-- The record of a fired counter enters the run list; PEND is cleared and the block is no longer counted. Firing is an
acquire: every DEC was a release at package scope (R280). A record that an uncorrectable error has hit is not activated: the
block is no longer counted (log entry 17, DESIGN CHOICE). -/
def State.enqueueCounter (s : State) (cid off : Nat) : State :=
  if (s.damagedByte (.lm cid (off + 8)) 40).isSome then
    (s.counterError cid).modCore cid fun c => { c with counters := eraseNat c.counters off }
  else ((s.dropCopies (clusterOf cid) fun _ => true).settleLate (clusterOf cid)).modCore cid fun c =>
    let r := c.counterRec off
    { (c.enlist { chan := r.chan, prio := (c.entry r.chan).prio, since := s.now, kind := .counter r }) with
      lm := c.lm.put (off + 8) (c.counterBits off &&& 0xFD#8)
      counters := eraseNat c.counters off }

/-- The counter fires: PEND until its record has entered the run list. -/
def State.fireCounter (s : State) (cid off : Nat) (under : Bool) : State :=
  let s1 := s.modCore cid fun c => { c with lm := c.lm.put (off + 8) (if under then 6 else 2) }
  if (s.core cid).hasRoom then s1.enqueueCounter cid off else s1

/-- A decrement finds an armed counter here: not one that pends, as far as the block can be read (R280, R375). -/
def State.armed (s : State) (cid off : Nat) : Bool :=
  (s.core cid).counters.contains off && ((s.damagedByte (.lm cid off) 12).isSome || !(s.core cid).pending off)

/-- ApplyDec of R280 to an armed block; where its count or its bits are damaged it is not performed (R375). -/
def State.applyDec (s : State) (cid off : Nat) (n : Word) : State :=
  if (s.damagedByte (.lm cid off) 12).isSome then s.counterError cid else
  let old : Word := BitVec.ofNat 64 ((s.core cid).lm.readN off 8)
  let new := old - n
  let s1 := s.modCore cid fun c => { c with lm := c.lm.writeN off 8 new.toNat }
  if 0 < new.toInt then s1 else s1.fireCounter cid off (decide (new.toInt < 0))

def execCnti (d a b : GReg) (s : State) : Result :=
  s.finish (do
    let addr := s.g a
    let n := s.g b
    let off := winOff addr
    demand (!n.msb && isLocal addr && winSel addr == 0 && decide (0x1000 ≤ off ∧ off ≤ 0xBFC0 ∧ off % 64 = 0))
    demand (!s.here.reserved off 64)
    s.lineCheck addr (.lm s.hereCid off) 64
    if s.here.counters.contains off then .ok (s.setG d 1)
    else if 64 ≤ s.here.counters.length then .ok (s.setG d 2)
    else
      let r := s.mbRecord
      let words : List Nat := [n.toNat, 1, r.word0.toNat, r.op1.toNat, r.op2.toNat, r.op3.toNat, 0, 0]
      let s1 := s.mend (.lm s.hereCid off) 64
      let s2 : State := { s1 with here := { s1.here with
        lm := (words.zipIdx).foldl (fun m (v, i) => m.writeN (off + 8 * i) 8 v) s1.here.lm
        counters := insertNat s1.here.counters off } }
      .ok ((if n = 0 then s2.fireCounter s2.hereCid off false else s2).setG d 0))

/-- DEC_APPLY: decrement k of a sender reaches its counter's home; none armed there, or no home: dropped (R280). -/
def execDecApply (src k : Nat) (s : State) : Result :=
  match (s.outbox src)[k]? with
  | none => .next s
  | some m =>
    match m.load, m.dev with
    | .dec off n, none =>
      let s1 := s.leave src k
      if !s.welcome m.dst m.cx then .next (s1.dropMsg m.dst m)
      else if s.armed m.dst off then
        .next (s1.applyDec m.dst off n)
      else .next (s1.report (dieOf m.dst) (faultRec m.cx 0 5 .none 0 m.src))
    | _, _ => .next s

/-- PENDING_COUNTER_ENQUEUE: a fired counter's record enters the run list once there is room (R280). -/
def execPendingCounterEnqueue (cid off : Nat) (s : State) : Result :=
  let c := s.core cid
  if c.counters.contains off && c.pending off && c.hasRoom then .next (s.enqueueCounter cid off) else .next s

/-! ## Activation (R267 to R269, R136, R358) -/

/-- Effective priority of a run-list record (R269). -/
def RunRec.priority (r : RunRec) (now : Nat) : Nat :=
  if r.since + Config.runListAge ≤ now then 7 else r.prio.toNat

/-- The record that goes first: the highest priority, first in first out; index and record. -/
def bestRec (now : Nat) : List (Nat × RunRec) → Option (Nat × RunRec)
  | [] => none
  | x :: t => match bestRec now t with
    | none => some x
    | some y => if x.2.priority now < y.2.priority now then some y else some x

/-- The records of a run list on channels that are not blocked. -/
def Core.openRecs (c : Core) : List (Nat × RunRec) :=
  (c.runList.zipIdx.map fun (r, i) => (i, r)).filter fun x => !(c.entry x.2.chan).blk

/-- The newest record of the deque on a channel that is not blocked, as an index. -/
def Core.newestOpen (c : Core) : Option Nat :=
  (List.range c.deque.length).reverse.find? fun i =>
    match c.deque[i]? with | some r => !(c.entry r.chan).blk | none => false

/-- What fills the next slot. -/
inductive Fill where
  | run (i : Nat) (r : RunRec)
  | deque (i : Nat) (r : TaskRec)
  deriving DecidableEq, Repr

/-- The choice of R269. -/
def Core.nextFill (c : Core) (now : Nat) : Option Fill :=
  let fromDeque : Option Fill := c.newestOpen.bind fun i => (c.deque[i]?).map fun r => .deque i r
  let fromRun : Option Fill := (bestRec now c.openRecs).map fun x => .run x.1 x.2
  if 16 ≤ c.fillRow then fromDeque.or fromRun else fromRun.or fromDeque

/-- The registers of a record (R268). -/
def regsOf (l : List (Nat × Word)) : Vector Word 32 := l.foldl (fun v p => vset v p.1 p.2) (Vector.replicate 32 0)

def words1 (l : List Word) : List (Nat × Word) := l.zipIdx.map fun (w, i) => (i + 1, w)

/-- g9 of a message activation (R268). -/
def senderWord (src len : Nat) (dev : Option Nat) : Word :=
  match dev with
  | none => 0#44 ++ BitVec.ofNat 4 len ++ BitVec.ofNat 16 src
  | some d => 0#6 ++ 1#1 ++ BitVec.ofNat 9 d ++ 0#28 ++ BitVec.ofNat 4 len ++ BitVec.ofNat 16 src

/-- Task number `task` of a core, freshly activated in a slot (R268); CHAN is kept for a message only (R109). It fetches no
code older than `code` (R73). -/
def Slot.activated (old : Slot) (task code : Nat) (e : TTEntry) (chan : Byte) (o : Origin) (g : Vector Word 32) (now : Nat) :
    Slot :=
  { Slot.reset with
    held := true
    actNo := old.actNo + 1
    runSince := now
    taskId := task
    codeFrom := code
    ws := { Workspace.reset with
      g := g
      pc := e.addr
      tsw := { Tsw.reset with chan := if o = .message then chan else 0, prio := e.prio, origin := o }
      vsd := { Vsd.reset with vcap := e.vcap, vsa := e.vsa } } }

/-- The task that a run-list record makes in slot i. After a CORE_MOVE the g9 of a handler names the core that activates it,
not the one where its task trapped (R358; log entry 60, DESIGN CHOICE). -/
def Core.taskOf (c : Core) (cid i code now : Nat) (r : RunRec) : Slot :=
  let e := c.entry r.chan
  let start := (c.slot i).activated (c.taskNo + 1) code e r.chan
  match r.kind with
  | .message ws src dev =>
    start .message (regsOf ((9, senderWord src ws.length dev) :: words1 ws)) now
  | .handler t =>
    let x := c.slot t
    let cause := x.ws.tsw.cause
    let trpc := if cause = .svc ∨ cause = .trap then x.ws.pc + BitVec.ofNat 64 (2 * x.chainLen) else x.ws.pc
    { start .message (regsOf [(1, BitVec.ofNat 64 (512 * t)), (2, cause.code.setWidth 64),
        (9, senderWord cid 0 none)]) now with link := some t, trpc := trpc, tract := false }
  | .counter x => start .counter (regsOf [(1, x.op1), (2, x.op2), (3, x.op3), (4, x.opx.setWidth 64)]) now
  | .launch id lcrd lext a0 a1 addr =>
    { start .launch (regsOf [(1, a0), (2, a1), (3, addr)]) now with
      launch := some id, lcrd := Vector.ofFn fun (j : Fin 8) => lcrd.getD j.val 0
      lext := Vector.ofFn fun (j : Fin 8) => lext.getD j.val 0 }

def Core.dequeTask (c : Core) (i now : Nat) (r : TaskRec) : Slot :=
  (c.slot i).activated (c.taskNo + 1) c.codeFrom (c.entry r.chan) r.chan .deque
    (regsOf [(1, r.op1), (2, r.op2), (3, r.op3), (4, r.opx.setWidth 64)]) now

/-- A record that is dropped when it is about to be activated (R267). -/
def Core.refuses (c : Core) (chan : Byte) (reserved : BitVec 24) : Bool :=
  let e := c.entry chan
  !e.valid || e.bound || reserved != 0#24

def RunKind.reserved : RunKind → BitVec 24
  | .counter r => r.reserved
  | _ => 0

/-- A dropped record: KIND 4; a launch's counts as retired, a handler's leaves its task unhandled (R267, R284, R359). -/
def State.dropRec (s : State) (cid : Nat) (chan : Byte) (kind : Option RunKind) : State :=
  let s1 := s.report (dieOf cid) (faultRec ((s.cxOf cid).getD 0) 0 4 .none chan.toNat cid)
  match kind with
  | some (.launch id _ _ _ _ _) => s1.launchEnded id
  | some (.handler t) => s1.unhandled cid t
  | _ => s1

/-- Handler records that waited for room enter the run list (R358). -/
def State.placeHandlers (s : State) (cid : Nat) : State :=
  (List.range 8).foldl (fun s i =>
    let t := (s.core cid).slot i
    if t.held && t.handlerDue && (s.core cid).hasRoom then s.raise cid i else s) s

/-- When the launch that creates a task started; a task that no launch record makes takes its core's latest (R73)
(log entry 7, DEDUCED). -/
def State.launchBegan (s : State) (c : Core) (k : RunKind) : Nat :=
  match k with
  | .launch id _ _ _ _ _ => ((s.launches.find? fun x => x.id == id).map (·.began)).getD c.codeFrom
  | _ => c.codeFrom

/-- ACTIVATION: the lowest free slot is filled by the record that R269 chooses, or that record is dropped. Every word of the
slot's workspace is written (R268, R375). -/
def execActivation (cid : Nat) (s : State) : Result :=
  let c := s.core cid
  let free := (List.range 8).find? fun i => !(c.slot i).held
  if c.lent.isSome || c.retired || (s.die (dieOf cid)).thermal == .tripped then .next s
  else match free, c.nextFill s.now with
    | some i, some (.run k r) =>
      let c1 : Core := { c with runList := c.runList.eraseIdx k }
      if c.refuses r.chan r.kind.reserved then .next (((s.setCore cid c1).dropRec cid r.chan (some r.kind)).placeHandlers cid)
      else
        let c2 : Core := { c1 with fillRow := c.fillRow + 1, taskNo := c.taskNo + 1 }
        .next (((s.setCore cid (c2.setSlot i (c.taskOf cid i (s.launchBegan c r.kind) s.now r))).mend (.lm cid (512 * i)) 512).placeHandlers
          cid)
    | some i, some (.deque k r) =>
      let c1 : Core := { c with deque := c.deque.eraseIdx k }
      if c.refuses r.chan r.reserved then .next ((s.setCore cid c1).dropRec cid r.chan none)
      else
        let c2 : Core := { c1 with fillRow := 0, taskNo := c.taskNo + 1 }
        .next ((s.setCore cid (c2.setSlot i (c.dequeTask i s.now r))).mend (.lm cid (512 * i)) 512)
    | _, _ => .next s

/-- RUN_LIST_AGING: a record that has waited 65,536 cc has priority 7 (R269). -/
def execRunListAging (cid k : Nat) (s : State) : Result :=
  let aged (r : RunRec) : RunRec := if r.since + Config.runListAge ≤ s.now then { r with prio := 7 } else r
  .next (s.modCore cid fun c =>
    { c with runList := c.runList.zipIdx.map fun (r, i) => if i = k then aged r else r })

/-- ISSUE_AGE_PROMOTION: from an age of 4,096 a runnable task has priority 7 (R270). The issue choice reads the age
(Slot.priority), so the promotion itself changes no state. -/
def execIssueAgePromotion (_cid _slot : Nat) (s : State) : Result := .next s

/-- YIELD_EXPIRY: 64 cc after its YIELD a task may be chosen again (R271). -/
def execYieldExpiry (cid slot : Nat) (s : State) : Result :=
  match ((s.core cid).slot slot).yielded with
  | none => .next s
  | some t =>
    if t + Config.yieldBound ≤ s.now then .next (s.modSlot cid slot fun t => { t with yielded := none }) else .next s

/-! ## Waking (R272) -/

/-- The condition a task parked on has ended, so that it may issue again. WAITA, TOKC's wait, CASTLE and COMPOSE end by
steps of their own. -/
def State.waitOver (s : State) (cid slot : Nat) (w : Wait) : Bool :=
  let c := s.core cid
  let t := c.slot slot
  let queue (q : QReg) : List Word :=
    if q.toNat < 4 then vget t.queues q.toNat [] else vget c.local4 (q.toNat - 4) []
  match w with
  | .queueEmpty q => !(queue q).isEmpty
  | .queueFull q => decide ((queue q).length < 8)
  | .word l => s.isFull l
  | .waita _ _ _ _ _ _ => false
  | .tokcFull _ _ _ => false
  | .barrier id odd => match s.barrier cid t.launch id with | some b => b.odd == odd | none => true
  | .sendQueue => decide (c.sendQ.length < 8)
  | .channel n => decide ((vget c.chans n.toNat Channel.reset).flight.length < 32)
  | .cpyw n target => decide (((vget c.chans n.toNat Channel.reset).bytes - target).toNat < 2 ^ 47)
  | .ticket ls =>
    ((List.range 32).any fun i => (c.ticket i).state == .free) && (s.holders ls).isEmpty
  | .line ls => (s.holders ls).isEmpty
  | .command => decide (c.mx.queue.length < 16)
  | .castle _ _ _ => false
  | .compose _ _ => false
  | .launchQueue d => decide ((s.die d).launchQ.length < 32)
  | .atomics sl => decide ((c.unanswered.filter fun u => u.1 == sl).length < 32)
  | .reply _ _ => t.reply.isSome
  | .blocked ch => !(c.entry ch).blk

/-- The waits whose tasks go in the order in which they parked: on a queue of the core, a full/empty word, the command window,
a copy channel, the send queue or a blocked channel (R115, R171, R211, R235, R261, R263) (log entry 39, DEDUCED). -/
def Wait.inOrder : Wait → Bool
  | .queueEmpty q | .queueFull q => decide (4 ≤ q.toNat)
  | .word _ | .command | .channel _ | .sendQueue | .blocked _ => true
  | _ => false

/-- The waits whose instructions also issue again in that order (R171, R235, R263). -/
def Wait.issuesInOrder : Wait → Bool
  | .command | .channel _ | .sendQueue => true
  | _ => false

/-- A task parked on a wait before a place in the order, or was woken from it and has not issued since where that counts. -/
def Slot.before (x : Slot) (w : Wait) (n : Nat) : Bool :=
  x.held && ((x.awaits w && decide (x.waitNo < n)) || match x.woken with
    | some (w', k) => w.issuesInOrder && w' == w && decide (k < n)
    | none => false)

/-- A message that began to wait on the channel before a place in the order and may now be handled (R261). -/
def State.messageBefore (s : State) (cid : Nat) (w : Wait) (n : Nat) : Bool :=
  match w with
  | .blocked ch => ((s.core cid).inbound.find? fun m => m.chan == ch).any fun m =>
      decide (m.began < n) && s.fate cid m != .wait
  | _ => false

/-- Something that began earlier waits on the same thing, where an order is kept: on a CSP word also at the cluster's other
cores. Else no task waits for another (R259, R272). -/
def State.waitsBehind (s : State) (cid slot : Nat) (w : Wait) : Bool :=
  let t := (s.core cid).slot slot
  let here := w.inOrder && (List.range 8).any fun i => i != slot && ((s.core cid).slot i).before w t.waitNo
  let near := match w with
    | .word (.csp k _) => (List.range 8).any fun j => 8 * k + j != cid && (List.range 8).any fun i =>
        let x := (s.core (8 * k + j)).slot i
        x.held && x.ws.tsw.state == .parked && x.wait == some w && decide (x.waitSince < t.waitSince)
    | _ => false
  here || near || s.messageBefore cid w t.waitNo

/-- TASK_WAKE_UP: the condition holds, and those who parked on it before have been woken and have issued. -/
def execTaskWakeUp (cid slot : Nat) (s : State) : Result :=
  let t := (s.core cid).slot slot
  match t.wait with
  | none => .next s
  | some w =>
    if t.held && t.ws.tsw.state == .parked && s.waitOver cid slot w && !s.waitsBehind cid slot w then
      if t.awaitsReply then .next (s.endReply cid slot) else .next (s.modSlot cid slot fun t => { t.wake s.now with woken := some (w, t.waitNo) })
    else .next s

/-! ## Stealing (R277, R278) -/

/-- Idle in the sense of R277; a lent or retired core is not. -/
def Core.idle (c : Core) : Bool :=
  c.lent.isNone && !c.retired && c.runList.isEmpty && c.deque.isEmpty &&
    ((List.range 8).any fun i => !(c.slot i).held) &&
    (List.range 8).all fun i => !((c.slot i).held && (c.slot i).ws.tsw.state == .runnable)

/-- The order of a round: 1 east, 2 north, 3 west, 4 south, 5 the director's. -/
def stealOrder : List Nat := [1, 2, 3, 4, 5]

/-- The neighbour of a cluster in a direction, on the same die (R11). -/
def neighbour (cluster dir : Nat) : Option Nat :=
  let col := cluster % 32
  let row := cluster / 32 % 32
  match dir with
  | 1 => if col < 31 then some (cluster + 1) else none
  | 2 => if row < 19 then some (cluster + 32) else none
  | 3 => if 0 < col then some (cluster - 1) else none
  | 4 => if 0 < row then some (cluster - 32) else none
  | _ => none

/-- The core that the director names: the most records by the latest report, then the lowest CID. -/
def State.director (s : State) (cid : Nat) : Option Nat :=
  let l := (s.die (dieOf cid)).reports.filter fun r => r.1 ≠ cid ∧ s.cxOf r.1 = s.cxOf cid ∧ 0 < r.2
  (l.foldl (fun m r => match m with
    | none => some r
    | some x => if x.2 < r.2 then some r else some x) none).map (·.1)

/-- The core that a target of the order stands for; none: it is skipped. -/
def State.stealTarget (s : State) (cid dir : Nat) : Option Nat :=
  if dir = 5 then s.director cid
  else match neighbour (clusterOf cid) dir with
    | some k => if (s.cluster k).owner = s.cxOf cid then some (8 * k + cid % 8) else none
    | none => none

/-- The first target of a list that is not skipped, and the rest. -/
def State.nextTarget (s : State) (cid : Nat) : List Nat → Option (Nat × Nat × List Nat)
  | [] => none
  | d :: t => match s.stealTarget cid d with
    | some v => some (d, v, t)
    | none => State.nextTarget s cid t

def State.setSteal (s : State) (cid : Nat) (x : Steal) : State := s.modCore cid fun c => { c with steal := x }

/-- STEAL_ROUND_START: a core that has become idle waits to ask, at east. -/
def execStealRoundStart (cid : Nat) (s : State) : Result :=
  let c := s.core cid
  if c.steal == .busy && c.idle then .next (s.setSteal cid (.waiting stealOrder s.now)) else .next s

/-- A thief that finds itself idle no more without a record on its run list, as where a resident task has woken, gives its round up
and is busy: R278's table lists no such event (log entry 25, DEDUCED). -/
def Core.gaveUp (c : Core) : Bool := !c.idle

/-- STEAL_REQUEST: the request reaches its target, which yields half of its records from the oldest end. -/
def execStealRequest (thief : Nat) (s : State) : Result :=
  match (s.core thief).steal with
  | .waiting targets _ =>
    if (s.core thief).gaveUp then .next (s.setSteal thief .busy)
    else match s.nextTarget thief targets with
      | none => .next (s.setSteal thief (.backoff s.now))
      | some (d, v, rest) =>
        let c := s.core v
        let n := if c.lent.isSome || c.retired then 0 else c.deque.length / 2
        let s1 := s.modCore v fun c => { c with deque := c.deque.drop n }
        .next (s1.setSteal thief (.asking d rest (some (c.deque.take n))))
  | _ => .next s

/-- STEAL_ANSWER: the yielded records enter the thief's deque, also where it has become busy meanwhile; none: the next
target, or backing off. The deque of a lent core stays empty (R290); a retired core takes nothing, and what is under way to it goes
on to the core that its deque moves to (R376) (log entry 60, DESIGN CHOICE). -/
def execStealAnswer (thief : Nat) (s : State) : Result :=
  let c := s.core thief
  if c.lent.isSome || c.retired || decide (64 < c.deque.length + c.owed.length) then .next s
  else if !c.owed.isEmpty then .next (s.setCore thief { c with deque := c.deque ++ c.owed, owed := [] })
  else match c.steal with
  | .asking d rest (some l) =>
    if 64 < c.deque.length + l.length then .next s
    else
      let next : Steal := if !l.isEmpty then .busy else if c.gaveUp then .busy
        else if d = 5 ∨ rest.isEmpty then .backoff s.now else .waiting rest s.now
      .next (s.modCore thief fun c => { c with deque := c.deque ++ l, steal := next })
  | _ => .next s

/-- STEAL_BACKOFF_EXPIRY: 256 cc after a round without records the core asks again while it is idle. -/
def execStealBackoffExpiry (cid : Nat) (s : State) : Result :=
  match (s.core cid).steal with
  | .backoff t =>
    if (s.core cid).gaveUp then .next (s.setSteal cid .busy)
    else if t + 256 ≤ s.now then .next (s.setSteal cid (.waiting stealOrder s.now)) else .next s
  | _ => .next s

/-- DEQUE_COUNT_REPORT: the director's latest report of a core (R277). -/
def execDequeCountReport (cid : Nat) (s : State) : Result :=
  .next (s.modDie (dieOf cid) fun d => { d with reports := d.reports.put cid (s.core cid).deque.length })

end Sys2Proof.Machine
end

