-- ==== Sys2Proof/Machine/Launch.lean ====
section
/-! DEFINITION. Launches (R281 to R284): the record and its checks, LAUNCH, the host's enqueue, and the launch unit. -/

namespace Sys2Proof.Machine

/-! ## The record (R281) -/

abbrev LaunchBits := BitVec 2048

def lf (r : LaunchBits) (lo n : Nat) : Nat := (r.extractLsb' lo n).toNat
def lw (r : LaunchBits) (lo : Nat) : Word := r.extractLsb' lo 64

def launchNlev (r : LaunchBits) : Nat := lf r 16 4
def launchDom (r : LaunchBits) (i : Nat) : Nat := lf r (128 + 52 * i + 48) 4
def launchExt (r : LaunchBits) (i : Nat) : Nat := lf r (128 + 52 * i) 32
def launchChan (r : LaunchBits) : Nat := lf r 24 8
def launchChcnt (r : LaunchBits) : Nat := lf r 544 9
def launchPrdcnt (r : LaunchBits) : Nat := lf r 584 7

/-- Bits that are zero in every record. -/
def launchZeros : List (Nat × Nat) :=
  [(960, 1088), (625, 15), (615, 1), (605, 3), (591, 9), (578, 6), (576, 2), (567, 9), (560, 7), (553, 7)] ++
  [(123, 5), (117, 3), (109, 3), (101, 3), (93, 3), (83, 5), (64, 16), (32, 32), (20, 4), (9, 7)] ++
  (List.range 8).map fun i => (128 + 52 * i + 32, 16)

/-- The region: first die, row, column and the numbers of each; HERE counts from the launching core. -/
structure Region where
  die : Nat
  row : Nat
  col : Nat
  dies : Nat
  rows : Nat
  cols : Nat
  deriving DecidableEq, Repr

def launchRegion (r : LaunchBits) (here : Option Nat) : Region :=
  let o := if lf r 8 1 = 1 then here.getD 0 else 0
  { die := lf r 80 3 + dieOf o, row := lf r 88 5 + o / 256 % 32, col := lf r 96 5 + o / 8 % 32,
    dies := lf r 120 3 + 1, rows := lf r 104 5 + 1, cols := lf r 112 5 + 1 }

/-- The clusters of a region, in ascending order of die, row, column. -/
def Region.clusters (g : Region) : List Nat :=
  (List.range g.dies).flatMap fun d => (List.range g.rows).flatMap fun r => (List.range g.cols).map fun c =>
    (g.die + d) * 1024 + (g.row + r) * 32 + (g.col + c)

/-- Units of a domain inside a parent of another domain, restricted to the region (R282, R283). -/
def Region.units (g : Region) (dom parent : Nat) : Nat :=
  let clusters := match parent with
    | 1 => 1 | 2 => 4 | 3 => g.rows * g.cols | _ => g.dies * g.rows * g.cols
  match dom with
  | 0 => 8 * clusters
  | 1 => clusters
  | 2 => clusters / 4
  | 3 => if parent ≤ 3 then 1 else g.dies
  | _ => 1

/-! ## Statuses (R283) -/

def launchBad1 (r : LaunchBits) : Bool :=
  lf r 0 8 != 1 || launchZeros.any (fun z => lf r z.1 z.2 != 0) ||
    (List.range 8).any fun i => decide (launchNlev r ≤ i) && lf r (128 + 52 * i) 52 != 0

def launchBad2 (r : LaunchBits) : Bool :=
  let n := launchNlev r
  n == 0 || decide (8 < n) || launchDom r 0 != 0 || (List.range n).any fun i =>
    decide (6 < launchDom r i) || launchExt r i == 0 || (decide (4 ≤ launchDom r i) && decide (1 < launchExt r i)) ||
      (decide (0 < i) && (decide (launchDom r i < launchDom r (i - 1)) ||
        (launchDom r i == launchDom r (i - 1) && launchDom r i != 0)))

def State.launchBad3 (s : State) (cx : Nat) (r : LaunchBits) (g : Region) : Bool :=
  let quad := (List.range (launchNlev r)).any fun i => launchDom r i == 2
  decide (8 < g.die + g.dies ∨ 20 < g.row + g.rows ∨ 32 < g.col + g.cols) ||
    (quad && decide (g.row % 2 = 1 ∨ g.col % 2 = 1 ∨ g.rows % 2 = 1 ∨ g.cols % 2 = 1)) ||
    g.clusters.any fun k => (s.cluster k).owner != some cx

def launchBad4 (r : LaunchBits) (g : Region) : Bool :=
  let n := launchNlev r
  (List.range n).any fun i =>
    let parent := if i + 1 < n then launchDom r (i + 1) else 6
    !(launchDom r i == 0 && parent == 0 && decide (i + 1 < n)) &&
      decide (g.units (launchDom r i) parent < launchExt r i)

def launchBad6 (r : LaunchBits) : Bool :=
  decide (16 < lf r 600 5 ∨ 64 < lf r 608 7 ∨ 256 < lf r 616 9 ∨ 64 < launchPrdcnt r ∨ 256 < launchChcnt r)

/-- The lowest-numbered status of 1, 2, 3, 4 and 6 that applies, else 0. -/
def State.launchStatus (s : State) (cx : Nat) (r : LaunchBits) (here : Option Nat) : Nat :=
  let g := launchRegion r here
  if launchBad1 r then 1
  else if launchBad2 r then 2
  else if s.launchBad3 cx r g then 3
  else if launchBad4 r g then 4
  else if launchBad6 r then 6
  else 0

/-- A predictor-list word: R241's layout with the table in 49:48 and the entry number in 47:44. -/
def prdOk (w : Word) : Bool := w.extractLsb' 50 14 == 0#14 && w.extractLsb' 36 4 == 0#4

/-- Status 5: the entries, as words of the two tables. -/
def launchBad5 (ch prd : List Word) : Bool :=
  (List.range (ch.length / 2)).any (fun i => !entryOk (ch.getD (2 * i) 0) (ch.getD (2 * i + 1) 0)) ||
    prd.any fun w => !prdOk w

def chanTable (ch : List Word) : List (Byte × TTEntry) :=
  (List.range (ch.length / 2)).map fun i =>
    ((ch.getD (2 * i + 1) 0).extractLsb' 56 8, TTEntry.ofWords (ch.getD (2 * i) 0) (ch.getD (2 * i + 1) 0))

/-! ## LAUNCH -/

/-- n words of 8 bytes from an aligned address, as plain loads; n = 0: none, and no check of the address. -/
def State.loadTable (s : State) (a : Word) (align n : Nat) : Eff (List Word × State) :=
  if n = 0 then .ok ([], s)
  else do
    aligned a align
    let (l, s1) ← s.loadWords 8 n a
    .ok (l.map fun v => BitVec.ofNat 64 v, s1)

def execLaunch (d a : GReg) (s : State) : Result :=
  s.finish (do
    let at' := s.g a
    aligned at' 256
    let (ws, s1) ← (s.releaseTo .package).loadWords 8 32 at'
    let r : LaunchBits := BitVec.ofNat 2048 (packBits 64 ws)
    let here := some s.hereCid
    let st := s1.launchStatus s.cx r here
    if st ≠ 0 then .ok (s1.setG d (BitVec.ofNat 64 st))
    else do
      let (ch, s2) ← s1.loadTable (lw r 640) 16 (2 * launchChcnt r)
      let (prd, s3) ← s2.loadTable (lw r 704) 8 (launchPrdcnt r)
      if launchBad5 ch prd then .ok (s3.setG d 5)
      else do
        let die := (launchRegion r here).die
        await (decide ((s3.die die).launchQ.length < 32)) (.launchQueue die)
        let x : LaunchRec := { bits := r, cx := s.cx, here := here, addr := at', chtab := chanTable ch, prdtab := prd }
        .ok ((s3.modDie die fun d => { d with launchQ := d.launchQ ++ [x] }).setG d 0))

/-! ## The host's enqueue (R281) -/

/-- n bytes of a context's memory, read at their homes by its page tables, U copies combined first (R222); none where a page
cannot be read. -/
def State.walkBytes (s : State) (cx : Nat) : Nat → Nat → Option (Nat × State)
  | 0, _ => some (0, s)
  | n + 1, va =>
    match s.walk cx va with
    | .leaf l =>
      let pa := l.pa + (va - l.va)
      let s1 := s.combineLine (pa / 64)
      if l.rd then (State.walkBytes s1 cx n (va + 1)).map fun r => ((s1.byteAt (.phys pa)).toNat + 256 * r.1, r.2) else none
    | _ => none

/-- n words of a context's memory. -/
def State.walkWords (s : State) (cx : Nat) : Nat → Nat → Option (List Word × State)
  | 0, _ => some ([], s)
  | n + 1, va =>
    match s.walkBytes cx 8 va with
    | none => none
    | some (v, s1) => (State.walkWords s1 cx n (va + 8)).map fun r => (BitVec.ofNat 64 v :: r.1, r.2)

/-- HOST_LAUNCH_ENQUEUE: a record that passes the checks enters a launch queue with room, with the address at which the
host keeps it: its tasks find that in g3 (R268). R281 asks no alignment of a host's tables, and an odd place of CHTAB or PRDTAB
is read as it stands (log entry 59, DESIGN CHOICE). -/
def execHostLaunchEnqueue (die cxid : Nat) (addr : Word) (record : LaunchBits) (s : State) : Result :=
  if (s.ctxCfg cxid).isNone || s.launchStatus cxid record none != 0 || decide (32 ≤ (s.die die).launchQ.length) then
    .next s
  else
    match s.walkWords cxid (2 * launchChcnt record) (lw record 640).toNat with
    | none => .next s
    | some (ch, s1) =>
      match s1.walkWords cxid (launchPrdcnt record) (lw record 704).toNat with
      | none => .next s
      | some (prd, s2) =>
        if launchBad5 ch prd then .next s
        else
          let x : LaunchRec :=
            { bits := record, cx := cxid, here := none, addr := addr, chtab := chanTable ch, prdtab := prd }
          .next (s2.modDie die fun d => { d with launchQ := d.launchQ ++ [x] })

/-! ## Carrying out a launch (R282, R284) -/

/-- A unit chosen so far: its clusters in order, and its core. -/
structure Placed where
  clusters : List Nat
  core : Option Nat
  deriving DecidableEq, Repr

def evenPlace (k : Nat) : Bool := k % 2 == 0 && k / 32 % 2 == 0

/-- Level of domain dom takes unit i of the unit outside it. -/
def Placed.take (u : Placed) (dom i : Nat) : Placed :=
  match dom with
  | 0 => match u.core with
    | some _ => u
    | none => let k := u.clusters.getD (i / 8) 0; { clusters := [k], core := some (8 * k + i % 8) }
  | 1 => { u with clusters := [u.clusters.getD i 0] }
  | 2 =>
    let q := (u.clusters.filter evenPlace).getD i 0
    { u with clusters := u.clusters.filter fun k => quadOf k == quadOf q }
  | 3 =>
    let d := ((u.clusters.map dieOfCluster).eraseDups).getD i 0
    { u with clusters := u.clusters.filter fun k => dieOfCluster k == d }
  | _ => u

/-- The coordinates of flattened index x, level 0 first. -/
def coords (exts : List Nat) (x : Nat) : List Nat :=
  match exts with
  | [] => []
  | e :: t => x % e :: coords t (x / e)

/-- The core of a task: the levels from the outermost inwards. -/
def placeOf (g : Region) (doms cs : List Nat) : Nat :=
  (((doms.zip cs).reverse).foldl (fun (u : Placed) (x : Nat × Nat) => u.take x.1 x.2) (⟨g.clusters, none⟩ : Placed)).core.getD 0

def launchExts (r : LaunchBits) : List Nat := (List.range (launchNlev r)).map (launchExt r)
def launchDoms (r : LaunchBits) : List Nat := (List.range (launchNlev r)).map (launchDom r)

/-- The tasks of a launch in ascending flattened index: core and coordinates. -/
def State.launchTasks (s : State) (r : LaunchBits) (g : Region) : List (Nat × List Nat) :=
  (List.range ((launchExts r).foldl (· * ·) 1)).map fun x =>
    let cs := coords (launchExts r) x
    (s.standIn (placeOf g (launchDoms r) cs), cs)

/-- The scope instances of a region. -/
def Region.insts (g : Region) : BScope → List Nat
  | .package => [0] | .cluster => g.clusters | .die => (List.range g.dies).map (g.die + ·)

/-- Barriers of a scope instance that the launches of a context hold. -/
def State.barriersHeld (s : State) (cx : Nat) (b : BScope) (inst : Nat) : Nat :=
  (s.launches.filter fun x => x.cx == cx).foldl (fun n x =>
    n + (x.barriers.filter fun y => y.id.scope == b && y.inst == inst).length) 0

/-- Each scope with its number of barriers and the number a record asks for. -/
def launchBars (r : LaunchBits) : List (BScope × Nat × Nat) :=
  [(.cluster, 16, lf r 600 5), (.die, 64, lf r 608 7), (.package, 256, lf r 616 9)]

/-- Enough barriers are free in every instance (R284). -/
def State.barriersFree (s : State) (cx : Nat) (r : LaunchBits) (g : Region) : Bool :=
  (launchBars r).all fun x => (g.insts x.1).all fun i => decide (s.barriersHeld cx x.1 i + x.2.2 ≤ x.2.1)

/-- The launch's barriers, at parity 1, with their expected counts (R226, R284). -/
def launchBarriers (r : LaunchBits) (g : Region) (tasks : List (Nat × List Nat)) : List Barrier :=
  (launchBars r).flatMap fun x => (g.insts x.1).flatMap fun i => (List.range x.2.2).map fun n =>
    { id := { scope := x.1, num := n }, inst := i, arrived := 0, odd := true
      expected := (tasks.filter fun t => barInst x.1 t.1 == i).length }

/-- The tables of a record on one core (R284); the launch starts, so that code is fetched anew (R73). -/
def Core.tables (c : Core) (x : LaunchRec) (now : Nat) : Core :=
  let c1 := x.chtab.foldl (fun (c : Core) e => c.setEntry e.1.toNat e.2) c
  let c2 := x.prdtab.foldl (fun (c : Core) w =>
    c.setPred (w.extractLsb' 48 2).toNat (w.extractLsb' 44 4).toNat (Pred.ofWord w x.cx)) c1
  { c2 with icache := [], codeFrom := now }

/-- Place activation records: those of one core in order, wherever its run list has room. A task of the launch observes
every write that the LAUNCH released at package scope, so the core's cluster acquires here (R284). -/
def State.placePending (s : State) (l : List (Nat × RunRec)) : State × List (Nat × RunRec) :=
  l.foldl (fun (s, rest) (cid, r) =>
    let dest := s.standIn cid
    if (s.core dest).hasRoom && !rest.any (fun x => x.1 == cid) then
      let s1 := (s.dropCopies (clusterOf dest) fun _ => true).settleLate (clusterOf dest)
      (s1.modCore dest fun c => c.enlist { r with prio := (c.entry r.chan).prio, since := s.now }, rest)
    else (s, rest ++ [(cid, r)])) (s, [])

/-- Place what can be placed of a launch. -/
def State.placeLaunch (s : State) (id : Nat) : State :=
  match s.launches.find? fun x => x.id == id with
  | none => s
  | some x =>
    let (s1, rest) := s.placePending x.pending
    { s1 with launches := s1.launches.map fun y => if y.id = id then { y with pending := rest } else y }

/-- Start a record: barriers, tables, and its activation records. -/
def State.startLaunch (s : State) (die : Nat) (x : LaunchRec) : State :=
  let r := x.bits
  let g := launchRegion r x.here
  let tasks := s.launchTasks r g
  let id := s.nextLaunch
  let word (l : List Nat) : List Word := l.map fun n => BitVec.ofNat 64 n
  let recs : List (Nat × RunRec) := tasks.map fun t =>
    (t.1, { chan := BitVec.ofNat 8 (launchChan r), prio := 0, since := s.now
            kind := .launch id (word t.2) (word (launchExts r)) (lw r 768) (lw r 832) x.addr })
  let l : Launch :=
    { id := id, die := die, cx := x.cx, began := s.now, left := tasks.length, doneref := lw r 896
      barriers := launchBarriers r g tasks, pending := recs }
  let s1 := (g.clusters.flatMap fun k => (List.range 8).map fun i => 8 * k + i).foldl
    (fun s cid => s.modCore cid fun c => c.tables x s.now) s
  ({ s1 with launches := s1.launches ++ [l], nextLaunch := id + 1 } : State).placeLaunch id

/-- LAUNCH_EXECUTE: the launch unit of a die goes on with its launch, or starts the oldest record of its queue. -/
def execLaunchExecute (die : Nat) (s : State) : Result :=
  match s.launches.find? fun x => x.die == die && !x.pending.isEmpty with
  | some x => .next (s.placeLaunch x.id)
  | none =>
    match (s.die die).launchQ with
    | [] => .next s
    | x :: rest =>
      if s.barriersFree x.cx x.bits (launchRegion x.bits x.here) then
        .next ((s.modDie die fun d => { d with launchQ := rest }).startLaunch die x)
      else .next s

end Sys2Proof.Machine
end

