-- ==== Sys2Proof/WellFormed.lean ====
section
/-! DEFINITION. Which terms of Instr stand for an instruction of the page tables or for a step of the machine: the
immediate fits the longest chain R54 allows, a code admits its value, and a step names parts the X40 has (R9, R18). -/

namespace Sys2Proof

/-- v is the sign extension of its low n bits (R38). -/
def fitsSigned (n : Nat) (v : Word) : Bool :=
  decide (-(2 ^ (n - 1) : Int) ≤ v.toInt ∧ v.toInt < 2 ^ (n - 1))

/-- The number of prefix words beside PFX.I: a PFX.R for a register above 7, a PFX.P for another page. -/
def highRegs (rs : List (BitVec 5)) : Nat := if rs.all fun r => decide (r.toNat < 8) then 0 else 1

/-- An immediate of a w-bit field fits behind n other prefix words (R54: at most four in all). -/
def immFits (w n : Nat) (v : Word) : Bool := fitsSigned (w + 10 * (4 - n)) v

/-- A relaxed access has the default scope (R66). -/
def scopeOk (o : Ordering) (s : Scope) : Bool := o != .rlx || s == .package

/-- The core identifiers that occur (R9, R10): the row, bits 12 to 8, is at most 19. -/
def cidOk (c : Nat) : Bool := decide (c < 65536 ∧ c / 256 % 32 < 20)
/-- The cluster numbers that occur: a CID without its core bits. -/
def clusterOk (c : Nat) : Bool := cidOk (c * 8)
/-- A sender: a core, or 0xFFFF for firmware and launch units (R284, R364). -/
def srcOk (c : Nat) : Bool := cidOk c || c == 0xFFFF
def dieOk (d : Nat) : Bool := decide (d < 8)
def slotOk (s : Nat) : Bool := decide (s < 8)
def cxidOk (c : Nat) : Bool := decide (c < 4096)

/-- Every check of a term of Instr. -/
def Instr.wf : Instr → Bool
  | .ldi d imm => immFits 9 (highRegs [d]) imm
  | .lea d a disp => immFits 6 (highRegs [d, a]) disp
  | .brc _ off => immFits 8 0 off
  | .br off => immFits 12 0 off
  | .call off => immFits 12 0 off
  | .loop d off => immFits 9 (highRegs [d]) off
  | .cmpImm d imm => immFits 9 (highRegs [d]) imm
  | .ldk d imm => immFits 9 (highRegs [d]) imm
  | .hintNop _ w => w != 0#16 && w.extractLsb' 12 4 != 0xF#4
  | .unassignedEncoding => true
  | .vadd m _ _ _ => m.round != .sr
  | .vsub m _ _ _ => m.round != .sr
  | .vmul m _ _ _ => m.round != .sr
  | .vfma m _ _ _ => m.round != .sr
  | .vdiv m _ _ _ => m.round != .sr
  | .vredr _ m _ _ => m.round != .sr
  | .vredc _ m _ _ => m.round != .sr
  | .vld _ d a disp => immFits 6 (1 + highRegs [d.setWidth 5, a]) disp
  | .vst _ d a disp => immFits 6 (1 + highRegs [d.setWidth 5, a]) disp
  | .vldt _ d a disp => immFits 6 (1 + highRegs [d.setWidth 5, a]) disp
  | .vsetsImm imm => immFits 9 1 imm
  | .vqmax _ _ g => decide (g.toNat < 5)
  | .ctld _ a disp => immFits 6 (1 + highRegs [a]) disp
  | .ld _ o s _ d a disp => o != .rel && scopeOk o s && immFits 4 (1 + highRegs [d, a]) disp
  | .ldSigned z o s _ d a disp => z != .n64 && o != .rel && scopeOk o s && immFits 4 (1 + highRegs [d, a]) disp
  | .st _ o s _ d a disp => o != .acq && scopeOk o s && immFits 4 (1 + highRegs [d, a]) disp
  | .ldIndexed _ o s _ _ _ _ => o != .rel && scopeOk o s
  | .stIndexed _ o s _ _ _ _ => o != .acq && scopeOk o s
  | .lds d a disp => immFits 4 (1 + highRegs [d, a]) disp
  | .ldt d a disp => immFits 4 (1 + highRegs [d, a]) disp
  | .stf d a disp => immFits 4 (1 + highRegs [d, a]) disp
  | .ste a disp => immFits 4 (1 + highRegs [a]) disp
  | .ldmb o s _ a disp => o != .rel && scopeOk o s && immFits 4 (1 + highRegs [a]) disp
  | .stmb o s _ a disp => o != .acq && scopeOk o s && immFits 4 (1 + highRegs [a]) disp
  | .fence o s => scopeOk o s
  | .ccln l _ _ => l != .ic
  | .cflu l _ _ => l != .ic
  | .amo op g o s _ _ _ => scopeOk o s && (!g || op == .min || op == .max)
  | .amoN32 op g o s _ _ _ => scopeOk o s && (!g || op == .min || op == .max)
  | .amoFadd o s _ _ _ => scopeOk o s
  | .topk o s _ _ => o != .acq && scopeOk o s
  | .waita o s _ _ _ => o != .rel && scopeOk o s
  | .waitaN32 o s _ _ _ => o != .rel && scopeOk o s
  | .red op g _ _ => !g || op == .min || op == .max
  | .redN32 op g _ _ => !g || op == .min || op == .max
  | .barv s n => decide (n.toNat ≤ match s with | .package => 255 | .cluster => 15 | .die => 63)
  | .barwEven s n => decide (n.toNat ≤ match s with | .package => 255 | .cluster => 15 | .die => 63)
  | .barwOdd s n => decide (n.toNat ≤ match s with | .package => 255 | .cluster => 15 | .die => 63)
  | .firmwareFaultDecision c s _ => cidOk c && slotOk s
  | .fmtset c => cidOk c
  | .bload c => cidOk c
  | .brot c => cidOk c
  | .mma c => cidOk c
  | .accrd c => cidOk c
  | .accz c => cidOk c
  | .mxfence c => cidOk c
  | .copyDelivery c h => cidOk c && decide (h < 8)
  | .gatherDelivery c h => cidOk c && decide (h < 8)
  | .faultListClose d => dieOk d
  | .faultResolutionResume d x _ => dieOk d && cxidOk x
  | .faultResolutionAbandon d x _ => dieOk d && cxidOk x
  | .speculativeRequest c t => cidOk c && decide (t < 32)
  | .speculativeArrival c t => cidOk c && decide (t < 32)
  | .exposure c t => cidOk c && decide (t < 32)
  | .atomicAtHome r => cidOk r.src
  | .redDswApply r => cidOk r.src
  | .accessReply c => cidOk c
  | .cdcCopyExpiry c _ => clusterOk c
  | .waitaAtHome c s => cidOk c && slotOk s
  | .waitaTimeout c s => cidOk c && slotOk s
  | .topkAtHome r => cidOk r.src
  | .tokcAtHome r => cidOk r.src
  | .messageArrival c _ => srcOk c
  | .messageReoffer c _ => srcOk c
  | .waitingMessageRelease c _ => cidOk c
  | .activation c => cidOk c
  | .runListAging c _ => cidOk c
  | .issueAgePromotion c s => cidOk c && slotOk s
  | .yieldExpiry c s => cidOk c && slotOk s
  | .taskWakeUp c s => cidOk c && slotOk s
  | .stealRoundStart c => cidOk c
  | .stealRequest c => cidOk c
  | .stealAnswer c => cidOk c
  | .stealBackoffExpiry c => cidOk c
  | .dequeCountReport c => cidOk c
  | .decApply c _ => srcOk c
  | .pendingCounterEnqueue c _ => cidOk c
  | .hostLaunchEnqueue d x _ _ => dieOk d && cxidOk x
  | .launchExecute d => dieOk d
  | .preemptionRequest c s => cidOk c && slotOk (s.getD 0)
  | .preemptionSave c s => cidOk c && slotOk s
  | .preemptionForcedSave c s => cidOk c && slotOk s
  | .savedTaskSlotRelease c s => cidOk c && slotOk s
  | .resumption c s => cidOk c && slotOk s
  | .coreMove c c' => cidOk c && cidOk c'
  | .clusterContextSwitch c x => clusterOk c && cxidOk (x.getD 0)
  | .composeGrant c => clusterOk c
  | .composeTimeout c s => cidOk c && slotOk s
  | .reclaim c => cidOk c
  | .recomposeGrant c => clusterOk c
  | .kvLookupRequest c => cidOk c
  | .kvMapRequest c => cidOk c
  | .pageInComplete c _ _ => cidOk c
  | .prefixLookupRequest x => cxidOk x
  | .prefixInsertRequest x => cxidOk x
  | .smaxRouterCombine c _ c' _ => cidOk c && cidOk c'
  | .smaxPacketAtOwner c _ => cidOk c
  | .walkerGrant d => dieOk d
  | .pageMigration x _ _ => cxidOk x
  | .coreRetirement c => cidOk c
  | .hostSnapTrigger n => decide (n < 128)
  | .thermalThrottle d => dieOk d
  | .thermalTrip d => dieOk d
  | .marhelRemoteAccess _ x _ _ _ => cxidOk x
  | .contextCreation cfg => cxidOk cfg.cxid && dieOk cfg.homeDie
  | .contextTeardown x => cxidOk x
  | _ => true

/-- The instance of a memory that an error hits (R12, R375). -/
def spaceOk (sp : Space) (key : Nat) : Bool :=
  match sp with
  | .lm => cidOk key | .csp => clusterOk key | .dsw => dieOk key | .mem => decide (key ≤ 1)

/-- The instance of a block (R3, R374). -/
def blockOk (b : Block) (key : Nat) : Bool :=
  match b with
  | .csp => clusterOk key | .cdc => clusterOk key | .tlb2 => clusterOk key | .dsw => dieOk key
  | .homeSlice => decide (key < 512) | .mem => decide (key = 0) | _ => cidOk key

/-- An act names parts that the X40 has (R3, R9, R10, R18). -/
def Act.wf : Act → Bool
  | .handBack c s => cidOk c && slotOk s
  | .askMove x _ _ => cxidOk x
  | .setExport _ _ x _ _ _ => cxidOk x
  | .setGrant _ _ x _ _ _ => cxidOk x
  | .remoteAtomic _ x _ _ _ _ _ _ => cxidOk x
  | .remoteWaita _ x _ s _ _ _ => cxidOk x && slotOk s
  | .remoteWaitaEnd _ _ s => slotOk s
  | .remoteSend _ x _ d _ _ => cxidOk x && cidOk d
  | .remoteSendd _ x _ d _ _ _ _ => cxidOk x && cidOk d
  | .remoteDec _ x _ d _ _ => cxidOk x && cidOk d
  | .replaceLine c _ => clusterOk c
  | .replaceL1 c _ => cidOk c
  | .replaceL2 c _ => clusterOk c
  | .startWalk d x => dieOk d && cxidOk x
  | .endWalk d x => dieOk d && cxidOk x
  | .corrected b k => blockOk b k
  | .damage sp k _ => spaceOk sp k
  | .loseULine c _ => clusterOk c
  | .loseLatch c _ => cidOk c
  | .loseAcc c _ _ => cidOk c
  | .losePredictor c _ _ => cidOk c
  | .loseTicket c _ => cidOk c
  | .loseEntry c _ => cidOk c
  | .loseCode c _ _ => cidOk c
  | .loseDequeRec c _ => cidOk c
  | .loseRunRec c _ => cidOk c
  | .loseQueueWord c _ _ _ => cidOk c
  | .loseMessage c _ => cidOk c
  | .loseRegister c s _ => cidOk c && slotOk s
  | _ => true

/-- A turn of the agenda names parts that the X40 has, and a step of one of its agents. -/
def Turn.wf : Turn → Bool
  | .issue c => cidOk c
  | .event i => Instr.wf i
  | .act a => Act.wf a
  | .pass _ => true

end Sys2Proof
end

