-- ==== Sys2Proof/Decode.lean ====
section
/-! DEFINITION. The decoder (R44 to R70), total on any half-words and rejecting by name, and after it the encoder
that writes the canonical chain of R38 from the same tables. -/

namespace Sys2Proof

/-- Why a chain of half-words is no instruction. Only `short` is not ILLOP: there a further word is needed (R55). -/
inductive DecodeErr where
  | short            -- the list ends before the base word (R55 event 1)
  | fifthPrefix      -- a fifth prefix word (R54)
  | secondPage       -- a second PFX.P (R54)
  | secondReg        -- a second PFX.R (R54)
  | badSelector      -- a selector of 5 to 15 (R51)
  | badPrefix        -- bits 11:10 = 0b11 with bits 9:0 not zero (R48)
  | blkendAfterPrefix -- a prefix before BLKEND (R53)
  | reservedPage     -- pages 8 to 14 (R56)
  | zeroWord         -- base word 0x0000 (R57)
  | unassigned       -- a major or minor without an instruction (R59)
  | immRefused       -- PFX.I before a format or instruction that takes none (R50)
  | regRefused       -- PFX.R before a format that takes none, or high bits it lacks (R51)
  | selRefused       -- a class selector the entry does not admit (R51)
  | badModifier      -- a modifier bit or value the page table does not give (R52)
  | unusedField      -- a field the instruction does not use is not zero (R47)
  | badCode          -- a code field value that is not listed (R47)
  | badRegister      -- a register number beyond its class (R47)
  deriving DecidableEq, Repr

/-- What a chain's prefix words gave, and its base word. -/
structure Chain where
  pfxP : Option (BitVec 10)
  pfxR : Option (BitVec 10)
  imms : List (BitVec 10)
  base : Half
  len  : Nat
  deriving DecidableEq, Repr

/-- R54, R55: read the words in address order; k counts the prefixes read so far. -/
def readChain : List Half → Option (BitVec 10) → Option (BitVec 10) → List (BitVec 10) → Nat → Except DecodeErr Chain
  | [], _, _, _, _ => .error .short
  | w :: ws, p, r, is, k =>
    if w.extractLsb' 12 4 ≠ 0xF#4 then
      .ok { pfxP := p, pfxR := r, imms := is, base := w, len := k + 1 }
    else if w.extractLsb' 10 2 = 3#2 then
      if w.extractLsb' 0 10 ≠ 0#10 then .error .badPrefix
      else if k = 0 then .ok { pfxP := none, pfxR := none, imms := [], base := w, len := 1 }
      else .error .blkendAfterPrefix
    else if 4 ≤ k then .error .fifthPrefix
    else if w.extractLsb' 10 2 = 0#2 then readChain ws p r (is ++ [w.extractLsb' 0 10]) (k + 1)
    else if w.extractLsb' 10 2 = 1#2 then
      if r.isSome then .error .secondReg
      else if 5 ≤ (w.extractLsb' 0 4).toNat then .error .badSelector
      else readChain ws p (some (w.extractLsb' 0 10)) is (k + 1)
    else
      if p.isSome then .error .secondPage
      else readChain ws (some (w.extractLsb' 0 10)) r is (k + 1)

/-- The fields of a base word with the prefix bits beside them (R46, R51). -/
structure Fields where
  md    : BitVec 6
  base  : Half
  hd    : BitVec 2
  ha    : BitVec 2
  hb    : BitVec 2
  cls   : BitVec 4
  hasR  : Bool
  imms  : List (BitVec 10)
  deriving DecidableEq, Repr

def Fields.major (f : Fields) : BitVec 4 := f.base.extractLsb' 12 4
def Fields.d3 (f : Fields) : BitVec 3 := f.base.extractLsb' 9 3
def Fields.a3 (f : Fields) : BitVec 3 := f.base.extractLsb' 6 3
def Fields.b3 (f : Fields) : BitVec 3 := f.base.extractLsb' 3 3
def Fields.minor (f : Fields) : BitVec 3 := f.base.extractLsb' 0 3
/-- R51: register number = high·8 + field. -/
def Fields.d (f : Fields) : BitVec 5 := f.hd ++ f.d3
def Fields.a (f : Fields) : BitVec 5 := f.ha ++ f.a3
def Fields.b (f : Fields) : BitVec 5 := f.hb ++ f.b3
def Fields.imm8 (f : Fields) : Byte := f.base.extractLsb' 0 8
def Fields.minorZ (f : Fields) : BitVec 4 := f.base.extractLsb' 8 4

/-- Sign-extend the low n bits of v to 64 bits (R49). -/
def signExt (n v : Nat) : Word :=
  BitVec.ofInt 64 (if v < 2 ^ (n - 1) then (v : Int) else (v : Int) - 2 ^ n)

/-- R49: the PFX.I payloads in stored order, then the base field of w bits, sign-extended from the top bit. -/
def immValue (w : Nat) (imms : List (BitVec 10)) (field : Nat) : Word :=
  signExt (w + 10 * imms.length) (imms.foldl (fun acc p => acc * 1024 + p.toNat) 0 * 2 ^ w + field)

/-- The chain's fields (R48, R51, R52). -/
def Chain.fields (c : Chain) : Fields :=
  { md := (c.pfxP.getD 0#10).extractLsb' 0 6
    base := c.base
    hd := (c.pfxR.getD 0#10).extractLsb' 8 2
    ha := (c.pfxR.getD 0#10).extractLsb' 6 2
    hb := (c.pfxR.getD 0#10).extractLsb' 4 2
    cls := (c.pfxR.getD 0#10).extractLsb' 0 4
    hasR := c.pfxR.isSome
    imms := c.imms }

/-- R52: the page that PFX.P names, or page 0. -/
def Chain.page (c : Chain) : BitVec 4 := (c.pfxP.getD 0#10).extractLsb' 6 4

/-- The result of decoding one page. -/
abbrev Dec := Except DecodeErr Instr

/-- Go on when b holds, else refuse with e. -/
def need (b : Bool) (e : DecodeErr) (r : Dec) : Dec := if b then r else .error e

/-- The modifier must be zero (R52). -/
def noMod (f : Fields) (r : Dec) : Dec := need (f.md == 0#6) .badModifier r
/-- Selector 0 is required where no field is class-selectable (R51). -/
def noSel (f : Fields) (r : Dec) : Dec := need (f.cls == 0#4) .selRefused r
/-- Format Z takes neither PFX.I nor PFX.R (R50, R51). -/
def fmtZ (f : Fields) (r : Dec) : Dec :=
  need f.imms.isEmpty .immRefused (need (!f.hasR) .regRefused r)
/-- Formats BR and BC take PFX.I but no PFX.R (R50, R51). -/
def fmtB (f : Fields) (r : Dec) : Dec := need (!f.hasR) .regRefused r
/-- Format RR takes PFX.R but no PFX.I (R50, R51). -/
def fmtRR (f : Fields) (r : Dec) : Dec := need f.imms.isEmpty .immRefused r
/-- Format RI: the A and B bits of a PFX.R are zero (R51). -/
def fmtRI (f : Fields) (r : Dec) : Dec :=
  need (f.ha == 0#2 && f.hb == 0#2) .regRefused (noSel f r)
/-- Formats RRI and M: the B bits of a PFX.R are zero (R51). -/
def fmtRRI (f : Fields) (r : Dec) : Dec := need (f.hb == 0#2) .regRefused (noSel f r)
/-- An immediate the entry declares unsigned refuses PFX.I (R50). -/
def noImm (f : Fields) (r : Dec) : Dec := need f.imms.isEmpty .immRefused r
/-- The field is not used and must be zero (R47). -/
def zero5 (x : BitVec 5) (r : Dec) : Dec := need (x == 0#5) .unusedField r
/-- A tile number is at most 15 (R47). -/
def vreg (x : BitVec 5) (k : VReg → Dec) : Dec :=
  need (decide (x.toNat < 16)) .badRegister (k (x.setWidth 4))
/-- A mask number is at most 3 (R47). -/
def kreg (x : BitVec 5) (k : KReg → Dec) : Dec :=
  need (decide (x.toNat < 4)) .badRegister (k (x.setWidth 2))
/-- A queue or mb number is at most 7 (R47). -/
def reg8 (x : BitVec 5) (k : BitVec 3 → Dec) : Dec :=
  need (decide (x.toNat < 8)) .badRegister (k (x.setWidth 3))
/-- A code field has no high bits (R47). -/
def code (x : BitVec 5) (k : BitVec 3 → Dec) : Dec :=
  need (decide (x.toNat < 8)) .badCode (k (x.setWidth 3))

/-- Look a code up, refusing an unlisted value with e. -/
def listed {α : Type} (o : Option α) (e : DecodeErr) (k : α → Dec) : Dec :=
  match o with
  | some x => k x
  | none => .error e

/-- RR with three used fields and selector 0. -/
def rr (f : Fields) (k : BitVec 5 → BitVec 5 → BitVec 5 → Dec) : Dec :=
  fmtRR f (noSel f (k f.d f.a f.b))

def Cond.ofCode (c : BitVec 4) : Option Cond :=
  match c.toNat with
  | 0 => some .eq | 1 => some .ne | 2 => some .lt | 3 => some .ge | 4 => some .le | 5 => some .gt
  | 6 => some .ltu | 7 => some .geu | 8 => some .leu | 9 => some .gtu | 10 => some .mi | 11 => some .pl
  | 12 => some .vs | 13 => some .vc | 14 => some .al | _ => none

def Scope.ofCode (c : BitVec 3) : Option Scope :=
  match c.toNat with
  | 0 => some .package | 1 => some .core | 2 => some .cluster | 3 => some .quad | 4 => some .die
  | 5 => some .domain | 6 => some .system | _ => none

def Ordering.ofCode (c : BitVec 2) : Option Ordering :=
  match c.toNat with
  | 0 => some .rlx | 1 => some .acq | 2 => some .rel | _ => none

def Size.ofCode (c : BitVec 2) : Size :=
  match c.toNat with
  | 0 => .n64 | 1 => .n8 | 2 => .n16 | _ => .n32

def ExtTy.ofCode (c : BitVec 3) : Option ExtTy :=
  match c.toNat with
  | 0 => some .i8 | 1 => some .i16 | 2 => some .i32 | 3 => some .n8 | 4 => some .n16 | 5 => some .n32 | _ => none

def LdTy.ofCode (c : BitVec 3) : Option LdTy :=
  match c.toNat with
  | 0 => some .n64 | 1 => some .n8 | 2 => some .n16 | 3 => some .n32 | 4 => some .i8 | 5 => some .i16
  | 6 => some .i32 | _ => none

def AmoOp.ofCode (c : BitVec 3) : AmoOp :=
  match c.toNat with
  | 0 => .swap | 1 => .cas | 2 => .add | 3 => .and | 4 => .or | 5 => .xor | 6 => .min | _ => .max

def RedOp.ofCode (c : BitVec 3) : Option RedOp :=
  match c.toNat with
  | 0 => some .add | 1 => some .and | 2 => some .or | 3 => some .xor | 4 => some .min | 5 => some .max | _ => none

def Round.ofCode2 (c : BitVec 2) : Round :=
  match c.toNat with
  | 0 => .rne | 1 => .rtz | 2 => .rup | _ => .rdn

def Round.ofCode3 (c : BitVec 3) : Option Round :=
  match c.toNat with
  | 0 => some .rne | 1 => some .rtz | 2 => some .rup | 3 => some .rdn | 4 => some .sr | _ => none

def Sat.ofCode (c : BitVec 2) : Option Sat :=
  match c.toNat with
  | 0 => some .sat | 1 => some .wrap | 2 => some .inf | _ => none

def VPred.ofCode (c : BitVec 3) : VPred :=
  match c.toNat with
  | 0 => .eq | 1 => .ne | 2 => .lt | 3 => .le | 4 => .gt | 5 => .ge | 6 => .un | _ => .ord

def VRedOp.ofCode (c : BitVec 3) : Option VRedOp :=
  match c.toNat with
  | 0 => some .add | 1 => some .max | 2 => some .min | _ => none

def VTarget.ofCode (c : BitVec 3) : VTarget :=
  match c.toNat with
  | 0 => .f32 | 1 => .f16 | 2 => .bf16 | 3 => .w19 | 4 => .fp4 | 5 => .c8 | 6 => .i8 | _ => .i32

def BScope.ofCode (c : BitVec 6) : Option BScope :=
  match c.toNat with
  | 0 => some .package | 2 => some .cluster | 4 => some .die | _ => none

/-- The numbers a barrier scope admits: 15, 63 or 255 at most (R68). -/
def BScope.limit : BScope → Nat
  | .package => 255 | .cluster => 15 | .die => 63

def IntTy.ofBit (b : Bool) : IntTy := if b then .n64 else .i64

/-- R62: for MULH, DIV, REM, MIN and MAX modifier bit 0 selects the type. -/
def intTy (f : Fields) (k : IntTy → Dec) : Dec :=
  need (f.md.extractLsb' 1 5 == 0#5) .badModifier (k (IntTy.ofBit (f.md.getLsbD 0)))

/-- R66: ordering, scope and bit 0 of a page-4 modifier; a relaxed access has scope 0. -/
def ordMod (f : Fields) (bit0 : Bool) (k : Ordering → Scope → Bool → Dec) : Dec :=
  listed (Ordering.ofCode (f.md.extractLsb' 4 2)) .badModifier fun o =>
  listed (Scope.ofCode (f.md.extractLsb' 1 3)) .badModifier fun s =>
  need (o != .rlx || f.md.extractLsb' 1 3 == 0#3) .badModifier
  (need (bit0 || !f.md.getLsbD 0) .badModifier (k o s (f.md.getLsbD 0)))

/-- A load, or an acquire form of WAITA, takes .rlx or .acq (R204, R215, R224). -/
def acqMod (f : Fields) (bit0 : Bool) (k : Ordering → Scope → Bool → Dec) : Dec :=
  ordMod f bit0 fun o s h => need (o != .rel) .badModifier (k o s h)
/-- A store or a TOPK takes .rlx or .rel (R204, R215, R219). -/
def relMod (f : Fields) (bit0 : Bool) (k : Ordering → Scope → Bool → Dec) : Dec :=
  ordMod f bit0 fun o s h => need (o != .acq) .badModifier (k o s h)

/-- R64, R145: the page-2 modifier where mask, rounding and saturation are all accepted. -/
def vmod (f : Fields) (k : VMod → Dec) : Dec :=
  need (!f.md.getLsbD 0) .badModifier
    (k { mask := f.md.extractLsb' 4 2, round := Round.ofCode2 (f.md.extractLsb' 2 2), sat := f.md.getLsbD 1 })
/-- R145: mask only. -/
def maskMod (f : Fields) (k : KReg → Dec) : Dec :=
  need (f.md.extractLsb' 0 4 == 0#4) .badModifier (k (f.md.extractLsb' 4 2))
/-- R145: mask and saturation. -/
def maskSatMod (f : Fields) (k : KReg → Bool → Dec) : Dec :=
  need (f.md.extractLsb' 2 2 == 0#2 && !f.md.getLsbD 0) .badModifier (k (f.md.extractLsb' 4 2) (f.md.getLsbD 1))
/-- R65: rounding and saturation of page 3. -/
def convMod (f : Fields) (k : Round → Sat → Dec) : Dec :=
  need (!f.md.getLsbD 5) .badModifier
  (listed (Round.ofCode3 (f.md.extractLsb' 0 3)) .badModifier fun r =>
   listed (Sat.ofCode (f.md.extractLsb' 3 2)) .badModifier fun s => k r s)

/-- Page 0 (R62). -/
def decodePage0 (f : Fields) : Dec :=
  match f.major.toNat with
  | 0x0 => fmtZ f <| noMod f <|
      match f.minorZ.toNat with
      | 1 => need (f.imm8 == 0#8) .unusedField (.ok .ret)
      | _ => .error .unassigned
  | 0x1 => rr f fun d a b =>
      match f.minor.toNat with
      | 0 => noMod f (.ok (.add d a b))
      | 1 => noMod f (.ok (.sub d a b))
      | 2 => noMod f (.ok (.mul d a b))
      | 3 => intTy f fun t => .ok (.mulh t d a b)
      | 4 => intTy f fun t => .ok (.div t d a b)
      | 5 => intTy f fun t => .ok (.rem t d a b)
      | 6 => intTy f fun t => .ok (.min t d a b)
      | _ => intTy f fun t => .ok (.max t d a b)
  | 0x2 => fmtRI f <| noMod f <| .ok (.ldi f.d (immValue 9 f.imms (f.base.extractLsb' 0 9).toNat))
  | 0x3 => rr f fun d a b => noMod f <|
      match f.minor.toNat with
      | 0 => .ok (.and d a b)
      | 1 => .ok (.or d a b)
      | 2 => .ok (.xor d a b)
      | 3 => .ok (.andn d a b)
      | 4 => .ok (.shl d a b)
      | 5 => .ok (.shr d a b)
      | 6 => .ok (.sar d a b)
      | _ => .ok (.rol d a b)
  | 0x4 => fmtRR f <|
      match f.minor.toNat with
      | 0 => noMod f <| zero5 f.b <|
          match f.cls.toNat with
          | 0 => .ok (.mov f.d (.g f.a))
          | 2 => reg8 f.a fun r => .ok (.mov f.d (.mb r))
          | 3 => reg8 f.a fun r => .ok (.mov f.d (.q r))
          | _ => .error .selRefused
      | 1 => noMod f <| zero5 f.b <|
          match f.cls.toNat with
          | 0 => .ok (.movDestSelect (.g f.d) f.a)
          | 2 => reg8 f.d fun r => .ok (.movDestSelect (.mb r) f.a)
          | 3 => reg8 f.d fun r => .ok (.movDestSelect (.q r) f.a)
          | _ => .error .selRefused
      | 2 => noSel f <| noMod f <| zero5 f.b <| .ok (.clz f.d f.a)
      | 3 => noSel f <| noMod f <| zero5 f.b <| .ok (.ctz f.d f.a)
      | 4 => noSel f <| noMod f <| zero5 f.b <| .ok (.popc f.d f.a)
      | 5 => noSel f <| noMod f <| zero5 f.d <| .ok (.cmp f.a f.b)
      | 6 => noSel f <| noMod f <| zero5 f.d <| .ok (.tst f.a f.b)
      | _ => noSel f <| need (f.md.extractLsb' 4 2 == 0#2) .badModifier <|
          listed (Cond.ofCode (f.md.extractLsb' 0 4)) .badModifier fun c => .ok (.sel c f.d f.a f.b)
  | 0x5 => fmtRRI f <| noMod f <| .ok (.lea f.d f.a (immValue 6 f.imms (f.base.extractLsb' 0 6).toNat))
  | 0x6 => rr f fun d a b => noMod f <|
      match f.minor.toNat with
      | 0 => code b fun c => listed (ExtTy.ofCode c) .badCode fun t => .ok (.ext t d a)
      | 1 => zero5 b (.ok (.jmpr d a))
      | _ => .error .unassigned
  | 0x7 => fmtB f <| noMod f <| listed (Cond.ofCode (f.base.extractLsb' 8 4)) .badCode fun c =>
      .ok (.brc c (immValue 8 f.imms f.imm8.toNat))
  | 0x8 => fmtB f <| noMod f <| .ok (.br (immValue 12 f.imms (f.base.extractLsb' 0 12).toNat))
  | 0x9 => fmtB f <| noMod f <| .ok (.call (immValue 12 f.imms (f.base.extractLsb' 0 12).toNat))
  | 0xA => fmtRI f <| noMod f <| .ok (.loop f.d (immValue 9 f.imms (f.base.extractLsb' 0 9).toNat))
  | 0xB => fmtRI f <| noMod f <| .ok (.cmpImm f.d (immValue 9 f.imms (f.base.extractLsb' 0 9).toNat))
  | 0xC => fmtRI f <| noMod f <| .ok (.ldk f.d (immValue 9 f.imms (f.base.extractLsb' 0 9).toNat))
  | _ => .error .unassigned

/-- Page 1 (R63). -/
def decodePage1 (f : Fields) : Dec :=
  match f.major.toNat with
  | 0x0 => fmtZ f <| noMod f <|
      match f.minorZ.toNat with
      | 1 => .ok (.trap f.imm8)
      | 2 => .ok (.svc f.imm8)
      | 3 => need (f.imm8 == 0#8) .unusedField (.ok .rft)
      | 4 => .ok (.snap f.imm8)
      | _ => .error .unassigned
  | 0x1 => rr f fun d a b => zero5 b <|
      match f.minor.toNat with
      | 0 => .ok (.shlImm f.md d a)
      | 1 => .ok (.shrImm f.md d a)
      | 2 => .ok (.sarImm f.md d a)
      | 3 => .ok (.rolImm f.md d a)
      | _ => .error .unassigned
  | 0x2 => fmtRRI f <| noImm f <| .ok (.bfx f.md f.d f.a (f.base.extractLsb' 0 6))
  | 0x3 => fmtRRI f <| noImm f <| .ok (.bfi f.md f.d f.a (f.base.extractLsb' 0 6))
  | 0x4 => fmtRI f <| noImm f <| need (f.md.extractLsb' 3 3 == 0#3) .badModifier <|
      .ok (.mfs f.d (f.md.extractLsb' 0 3 ++ f.base.extractLsb' 0 9))
  | 0x5 => fmtRI f <| noImm f <| need (f.md.extractLsb' 3 3 == 0#3) .badModifier <|
      .ok (.mts f.d (f.md.extractLsb' 0 3 ++ f.base.extractLsb' 0 9))
  | 0x6 => fmtRRI f <| noImm f <| noMod f <| code f.d fun c => .ok (.rep c f.a (f.base.extractLsb' 0 6))
  | 0x7 => rr f fun d a b => noMod f <|
      match f.minor.toNat with
      | 0 => code d fun c => need (decide (c.toNat < 2)) .badCode (.ok (.tlbi (c == 1#3) a b))
      | _ => .error .unassigned
  | _ => .error .unassigned

/-- Page 2 (R64, R145). -/
def decodePage2 (f : Fields) : Dec :=
  match f.major.toNat with
  | 0x1 => rr f fun d a b => vreg d fun d => vreg a fun a => vreg b fun b =>
      match f.minor.toNat with
      | 0 => vmod f fun m => .ok (.vadd m d a b)
      | 1 => vmod f fun m => .ok (.vsub m d a b)
      | 2 => vmod f fun m => .ok (.vmul m d a b)
      | 3 => vmod f fun m => .ok (.vfma m d a b)
      | 4 => maskMod f fun k => .ok (.vmax k d a b)
      | 5 => maskMod f fun k => .ok (.vmin k d a b)
      | 6 => vmod f fun m => .ok (.vdiv m d a b)
      | _ => maskMod f fun k => .ok (.vsel k d a b)
  | 0x2 => rr f fun d a b => kreg d fun d => vreg a fun a => vreg b fun b =>
      maskMod f fun k => .ok (.vcmp (VPred.ofCode f.minor) k d a b)
  | 0x3 => rr f fun d a b =>
      match f.minor.toNat with
      | 0 => vreg d fun d => vreg a fun a => zero5 b <| maskSatMod f fun k s => .ok (.vabs k s d a)
      | 1 => vreg d fun d => vreg a fun a => zero5 b <| maskSatMod f fun k s => .ok (.vneg k s d a)
      | 2 => vreg d fun d => zero5 b <| maskMod f fun k => .ok (.vbcast k d a)
      | 3 => vreg d fun d => zero5 a <| zero5 b <| noMod f <| .ok (.vclr d)
      | 4 => vreg d fun d => vreg a fun a => code b fun c => listed (VRedOp.ofCode c) .badCode fun o =>
          vmod f fun m => .ok (.vredr o m d a)
      | 5 => vreg d fun d => vreg a fun a => code b fun c => listed (VRedOp.ofCode c) .badCode fun o =>
          vmod f fun m => .ok (.vredc o m d a)
      | 6 => vreg d fun d => reg8 a fun q => noMod f <| .ok (.vrdq d q b)
      | _ => zero5 d <| zero5 b <| noMod f <| .ok (.vsets a)
  | 0x4 => fmtRRI f <| vreg f.d fun d => maskMod f fun k =>
      .ok (.vld k d f.a (immValue 6 f.imms (f.base.extractLsb' 0 6).toNat))
  | 0x5 => fmtRRI f <| vreg f.d fun d => maskMod f fun k =>
      .ok (.vst k d f.a (immValue 6 f.imms (f.base.extractLsb' 0 6).toNat))
  | 0x6 => fmtRRI f <| vreg f.d fun d => maskMod f fun k =>
      .ok (.vldt k d f.a (immValue 6 f.imms (f.base.extractLsb' 0 6).toNat))
  | 0x7 => fmtRI f <| noMod f <| zero5 f.d <|
      .ok (.vsetsImm (immValue 9 f.imms (f.base.extractLsb' 0 9).toNat))
  | _ => .error .unassigned

/-- Page 3 (R65, R157, R189, R191). -/
def decodePage3 (f : Fields) : Dec :=
  match f.major.toNat with
  | 0x1 => rr f fun d a b => vreg d fun d => vreg a fun a => code b fun t =>
      convMod f fun r s => .ok (.vcvt (VTarget.ofCode t) (f.minor.getLsbD 2) (f.minor.extractLsb' 0 2) r s d a)
  | 0x2 => rr f fun d a b => vreg d fun d =>
      match f.minor.toNat with
      | 0 => vreg a fun a => zero5 b <| noMod f <| .ok (.vexp2 d a)
      | 1 => vreg a fun a => vreg b fun b => noMod f <| .ok (.vsmx d a b)
      | 2 => zero5 b <| noMod f <| .ok (.vrng d a)
      | 3 => vreg a fun a => code b fun g => need (decide (g.toNat < 5)) .badCode <| noMod f <| .ok (.vqmax d a g)
      | 4 => vreg a fun a => vreg b fun b => convMod f fun r s => .ok (.vqz r s d a b)
      | 5 => vreg a fun a => zero5 b <| noMod f <| .ok (.lqz d a)
      | 6 => vreg a fun a => vreg b fun b => noMod f <| .ok (.ldec d a b)
      | _ => .error .unassigned
  | 0x3 => fmtRRI f <| noMod f <| code f.d fun t => need (decide (t.toNat < 4)) .badCode <|
      .ok (.ctld (t.extractLsb' 0 2) f.a (immValue 6 f.imms (f.base.extractLsb' 0 6).toNat))
  | 0x4 => fmtRI f <| noImm f <| noMod f <| code f.d fun t => need (decide (t.toNat < 4)) .badCode <|
      .ok (.ctldPreset (t.extractLsb' 0 2) (f.base.extractLsb' 0 9))
  | 0x5 => rr f fun d a b => noMod f <|
      match f.minor.toNat with
      | 0 => zero5 d (.ok (.castle a b))
      | _ => .error .unassigned
  | _ => .error .unassigned

/-- The displacement of format M, in units of the access size (R46, R66). -/
def dispM (f : Fields) : Word := immValue 4 f.imms (f.base.extractLsb' 0 4).toNat

/-- Page 4 (R66). -/
def decodePage4 (f : Fields) : Dec :=
  match f.major.toNat with
  | 0x1 => fmtRRI f <| acqMod f true fun o s h =>
      .ok (.ld (Size.ofCode (f.base.extractLsb' 4 2)) o s h f.d f.a (dispM f))
  | 0x2 => fmtRRI f <| need (f.base.extractLsb' 4 2 != 0) .unassigned <| acqMod f true fun o s h =>
      .ok (.ldSigned (Size.ofCode (f.base.extractLsb' 4 2)) o s h f.d f.a (dispM f))
  | 0x3 => fmtRRI f <| relMod f true fun o s h =>
      .ok (.st (Size.ofCode (f.base.extractLsb' 4 2)) o s h f.d f.a (dispM f))
  | 0x4 => rr f fun d a b => listed (LdTy.ofCode f.minor) .unassigned fun t => acqMod f true fun o s h =>
      .ok (.ldIndexed t o s h d a b)
  | 0x5 => rr f fun d a b => need (decide (f.minor.toNat < 4)) .unassigned <| relMod f true fun o s h =>
      .ok (.stIndexed (Size.ofCode (f.minor.extractLsb' 0 2)) o s h d a b)
  | 0x6 => fmtRRI f <| noMod f <|
      match (f.base.extractLsb' 4 2).toNat with
      | 0 => .ok (.lds f.d f.a (dispM f))
      | 1 => .ok (.ldt f.d f.a (dispM f))
      | 2 => .ok (.stf f.d f.a (dispM f))
      | _ => zero5 f.d (.ok (.ste f.a (dispM f)))
  | 0x7 => fmtRRI f <| zero5 f.d <|
      match (f.base.extractLsb' 4 2).toNat with
      | 0 => acqMod f true fun o s h => .ok (.ldmb o s h f.a (dispM f))
      | 1 => relMod f true fun o s h => .ok (.stmb o s h f.a (dispM f))
      | _ => .error .unassigned
  | 0x8 => rr f fun d a b =>
      match f.minor.toNat with
      | 0 => zero5 d <| zero5 a <| zero5 b <| ordMod f false fun o s _ => .ok (.fence o s)
      | 1 => zero5 d <| ordMod f false fun o s _ => need (o == .acq) .badModifier (.ok (.acqr s a b))
      | 2 => zero5 d <| ordMod f false fun o s _ => need (o == .rel) .badModifier (.ok (.relr s a b))
      | 3 => noMod f <| code d fun l =>
          match l.toNat with
          | 0 => .ok (.ccln .cdc a b) | 1 => .ok (.ccln .hs a b) | 2 => .ok (.ccln .dm a b) | _ => .error .badCode
      | 4 => noMod f <| code d fun l =>
          match l.toNat with
          | 0 => .ok (.cinv .cdc a b) | 1 => .ok (.cinv .hs a b) | 2 => .ok (.cinv .dm a b) | 3 => .ok (.cinv .ic a b)
          | _ => .error .badCode
      | 5 => noMod f <| code d fun l =>
          match l.toNat with
          | 0 => .ok (.cflu .cdc a b) | 1 => .ok (.cflu .hs a b) | 2 => .ok (.cflu .dm a b) | _ => .error .badCode
      | _ => .error .unassigned
  | 0x9 => rr f fun d a b =>
      ordMod f (decide (6 ≤ f.minor.toNat)) fun o s h => .ok (.amo (AmoOp.ofCode f.minor) h o s d a b)
  | 0xA => rr f fun d a b =>
      ordMod f (decide (6 ≤ f.minor.toNat)) fun o s h => .ok (.amoN32 (AmoOp.ofCode f.minor) h o s d a b)
  | 0xB => rr f fun d a b =>
      match f.minor.toNat with
      | 0 => ordMod f false fun o s _ => .ok (.amoFadd o s d a b)
      | 1 => zero5 d <| noMod f <| .ok (.redFadd a b)
      | 2 => zero5 d <| relMod f false fun o s _ => .ok (.topk o s a b)
      | 3 => acqMod f false fun o s _ => .ok (.waita o s d a b)
      | 4 => acqMod f false fun o s _ => .ok (.waitaN32 o s d a b)
      | _ => .error .unassigned
  | 0xC => rr f fun d a b => zero5 d <| listed (RedOp.ofCode f.minor) .unassigned fun op =>
      need (f.md.extractLsb' 1 5 == 0#5 && (!f.md.getLsbD 0 || decide (4 ≤ f.minor.toNat))) .badModifier
        (.ok (.red op (f.md.getLsbD 0) a b))
  | 0xD => rr f fun d a b => zero5 d <| listed (RedOp.ofCode f.minor) .unassigned fun op =>
      need (f.md.extractLsb' 1 5 == 0#5 && (!f.md.getLsbD 0 || decide (4 ≤ f.minor.toNat))) .badModifier
        (.ok (.redN32 op (f.md.getLsbD 0) a b))
  | _ => .error .unassigned

/-- R67: the copy channel of CPY, CPYG and CPYW. -/
def chanMod (f : Fields) (k : BitVec 3 → Dec) : Dec :=
  need (f.md.extractLsb' 3 3 == 0#3) .badModifier (k (f.md.extractLsb' 0 3))
/-- R67: the predictor table of PMOVE, PRLD and PRST. -/
def tableMod (f : Fields) (k : BitVec 2 → Dec) : Dec :=
  need (f.md.extractLsb' 2 4 == 0#4) .badModifier (k (f.md.extractLsb' 0 2))

/-- Page 5 (R67). -/
def decodePage5 (f : Fields) : Dec :=
  match f.major.toNat with
  | 0x1 => rr f fun d a b =>
      match f.minor.toNat with
      | 0 => chanMod f fun c => .ok (.cpy c d a b)
      | 1 => chanMod f fun c => .ok (.cpyg c d a b)
      | 2 => zero5 b <| chanMod f fun c => .ok (.cpyw c d a)
      | 3 => tableMod f fun t => .ok (.pmove t d a b)
      | 4 => zero5 d <| noMod f <| .ok (.pconf a b)
      | 5 => zero5 d <| zero5 b <| noMod f <| .ok (.pcanc a)
      | 6 => zero5 b <| noMod f <| .ok (.pstat d a)
      | _ => .error .unassigned
  | 0x2 => rr f fun d a b =>
      match f.minor.toNat with
      | 0 => zero5 b <| tableMod f fun t => .ok (.prld t d a)
      | 1 => zero5 d <| tableMod f fun t => .ok (.prst t a b)
      | _ => .error .unassigned
  | _ => .error .unassigned

/-- R68: the scope of a barrier and its number within the scope's limit. -/
def barMod (f : Fields) (k : BScope → Dec) : Dec :=
  listed (BScope.ofCode f.md) .badModifier fun s =>
  need (decide (f.imm8.toNat ≤ s.limit)) .badCode (k s)

/-- Page 6 (R68). -/
def decodePage6 (f : Fields) : Dec :=
  match f.major.toNat with
  | 0x0 => fmtZ f <|
      match f.minorZ.toNat with
      | 1 => noMod f <| need (f.imm8 == 0#8) .unusedField (.ok .exit)
      | 2 => noMod f <| need (f.imm8 == 0#8) .unusedField (.ok .yield)
      | 3 => noMod f <| need (f.imm8 == 0#8) .unusedField (.ok .dcmp)
      | 4 => barMod f fun s => .ok (.barv s f.imm8)
      | 5 => barMod f fun s => .ok (.barwEven s f.imm8)
      | 6 => barMod f fun s => .ok (.barwOdd s f.imm8)
      | 7 => noMod f (.ok (.compose f.imm8))
      | _ => .error .unassigned
  | 0x1 => rr f fun d a b => noMod f <|
      match f.minor.toNat with
      | 0 => zero5 d <| zero5 b <| .ok (.send a)
      | 1 => zero5 d <| .ok (.sendd a b)
      | 2 => zero5 a <| zero5 b <| .ok (.spawn d)
      | 3 => zero5 a <| zero5 b <| .ok (.popd d)
      | 4 => .ok (.cnti d a b)
      | 5 => zero5 d <| .ok (.dec a b)
      | 6 => zero5 d <| zero5 b <| .ok (.exits a)
      | _ => zero5 b <| .ok (.launch d a)
  | 0x2 => rr f fun d a b => noMod f <|
      match f.minor.toNat with
      | 0 => .ok (.ttset d a b)
      | 1 => zero5 d <| zero5 b <| .ok (.tblk a)
      | 2 => zero5 d <| zero5 b <| .ok (.tublk a)
      | _ => .error .unassigned
  | _ => .error .unassigned

/-- Page 7 (R69). -/
def decodePage7 (f : Fields) : Dec :=
  match f.major.toNat with
  | 0x1 => rr f fun d a b => noMod f <|
      match f.minor.toNat with
      | 0 => .ok (.kvlook d a b)
      | 1 => .ok (.kvmap d a b)
      | 2 => .ok (.sptlook d a b)
      | 3 => zero5 b (.ok (.sptins d a))
      | 4 => .ok (.bhash d a b)
      | 5 => zero5 d (.ok (.smax a b))
      | 6 => .ok (.tokc d a b)
      | _ => .error .unassigned
  | _ => .error .unassigned

/-- The page selects the table (R45, R56); 0x0000 is refused on every page first (R57). -/
def decodeBase (page : BitVec 4) (f : Fields) : Dec :=
  if f.base = 0#16 then .error .zeroWord else
  match page.toNat with
  | 0 => decodePage0 f
  | 1 => decodePage1 f
  | 2 => decodePage2 f
  | 3 => decodePage3 f
  | 4 => decodePage4 f
  | 5 => decodePage5 f
  | 6 => decodePage6 f
  | 7 => decodePage7 f
  | 15 => .ok (.hintNop f.md f.base)
  | _ => .error .reservedPage

/-- The instruction at the head of ws and its length in half-words. -/
def decode (ws : List Half) : Except DecodeErr (Instr × Nat) :=
  match readChain ws none none [] 0 with
  | .error e => .error e
  | .ok c =>
    if c.base.extractLsb' 12 4 = 0xF#4 then .ok (.blkend, 1)
    else
      match decodeBase c.page c.fields with
      | .ok i => .ok (i, c.len)
      | .error e => .error e

/-- The half-words of an n-bit number in the table's numbering, where a PFX.P stands in the upper half. -/
def tableHalves (nbits w : Nat) : List Half :=
  if nbits ≤ 16 then [BitVec.ofNat 16 w]
  else if w / 2 ^ 28 % 16 = 15 then [BitVec.ofNat 16 (w / 2 ^ 16), BitVec.ofNat 16 w]
  else [BitVec.ofNat 16 w, BitVec.ofNat 16 (w / 2 ^ 16)]

/-- What the decoder reads from an instruction written as spec/opcode_table.json numbers it. A word that the
page tables give no instruction reads as UNASSIGNED_ENCODING; a chain that has not ended reads as none
(log entry 11, DEDUCED). -/
def decodeTableWord (nbits w : Nat) : Option Instr :=
  match decode (tableHalves nbits w) with
  | .ok (i, _) => some i
  | .error .short => none
  | .error _ => some .unassignedEncoding

/-! ## The encoder -/

def IntTy.bit : IntTy → BitVec 6
  | .i64 => 0 | .n64 => 1
def Cond.code : Cond → BitVec 4
  | .eq => 0 | .ne => 1 | .lt => 2 | .ge => 3 | .le => 4 | .gt => 5 | .ltu => 6 | .geu => 7 | .leu => 8
  | .gtu => 9 | .mi => 10 | .pl => 11 | .vs => 12 | .vc => 13 | .al => 14
def Scope.code : Scope → BitVec 3
  | .package => 0 | .core => 1 | .cluster => 2 | .quad => 3 | .die => 4 | .domain => 5 | .system => 6
def Ordering.code : Ordering → BitVec 2
  | .rlx => 0 | .acq => 1 | .rel => 2
def Size.code : Size → BitVec 2
  | .n64 => 0 | .n8 => 1 | .n16 => 2 | .n32 => 3
def ExtTy.code : ExtTy → BitVec 5
  | .i8 => 0 | .i16 => 1 | .i32 => 2 | .n8 => 3 | .n16 => 4 | .n32 => 5
def LdTy.code : LdTy → BitVec 3
  | .n64 => 0 | .n8 => 1 | .n16 => 2 | .n32 => 3 | .i8 => 4 | .i16 => 5 | .i32 => 6
def AmoOp.code : AmoOp → BitVec 3
  | .swap => 0 | .cas => 1 | .add => 2 | .and => 3 | .or => 4 | .xor => 5 | .min => 6 | .max => 7
def RedOp.code : RedOp → BitVec 3
  | .add => 0 | .and => 1 | .or => 2 | .xor => 3 | .min => 4 | .max => 5
def Round.code : Round → BitVec 3
  | .rne => 0 | .rtz => 1 | .rup => 2 | .rdn => 3 | .sr => 4
def Sat.code : Sat → BitVec 2
  | .sat => 0 | .wrap => 1 | .inf => 2
def VPred.code : VPred → BitVec 3
  | .eq => 0 | .ne => 1 | .lt => 2 | .le => 3 | .gt => 4 | .ge => 5 | .un => 6 | .ord => 7
def VRedOp.code : VRedOp → BitVec 5
  | .add => 0 | .max => 1 | .min => 2
def VTarget.code : VTarget → BitVec 5
  | .f32 => 0 | .f16 => 1 | .bf16 => 2 | .w19 => 3 | .fp4 => 4 | .c8 => 5 | .i8 => 6 | .i32 => 7
def Level.code : Level → BitVec 5
  | .cdc => 0 | .hs => 1 | .dm => 2 | .ic => 3
def BScope.code : BScope → BitVec 6
  | .package => 0 | .cluster => 2 | .die => 4

def bit1 (b : Bool) : BitVec 1 := BitVec.ofBool b

/-- The page-4 modifier (R66). -/
def ordBits (o : Ordering) (s : Scope) (h : Bool) : BitVec 6 := o.code ++ s.code ++ bit1 h
/-- The page-2 modifier (R64). -/
def VMod.bits (m : VMod) : BitVec 6 := m.mask ++ m.round.code.setWidth 2 ++ bit1 m.sat ++ 0#1
def maskBits (k : KReg) : BitVec 6 := k ++ 0#4
def maskSatBits (k : KReg) (s : Bool) : BitVec 6 := k ++ 0#2 ++ bit1 s ++ 0#1
/-- The page-3 modifier (R65). -/
def convBits (r : Round) (s : Sat) : BitVec 6 := 0#1 ++ s.code ++ r.code

/-- A base word in its format (R46), with 5-bit register numbers. -/
inductive BaseForm where
  | z (major minor : BitVec 4) (imm8 : Byte)
  | rr (major : BitVec 4) (d a b : BitVec 5) (minor : BitVec 3) (sel : BitVec 4)
  | ri (major : BitVec 4) (d : BitVec 5) (imm : Word)
  | riu (major : BitVec 4) (d : BitVec 5) (imm9 : BitVec 9)
  | rri (major : BitVec 4) (d a : BitVec 5) (imm : Word)
  | rriu (major : BitVec 4) (d a : BitVec 5) (imm6 : BitVec 6)
  | m (major : BitVec 4) (d a : BitVec 5) (sz : BitVec 2) (imm : Word)
  | br (major : BitVec 4) (off : Word)
  | bc (major cond : BitVec 4) (off : Word)
  | raw (w : Half)
  deriving DecidableEq, Repr

/-- Page, modifier and base word of an instruction. -/
structure Form where
  page : BitVec 4
  md   : BitVec 6
  base : BaseForm
  deriving DecidableEq, Repr

def MovReg.num : MovReg → BitVec 5
  | .g r => r | .mb r => r.setWidth 5 | .q r => r.setWidth 5
def MovReg.sel : MovReg → BitVec 4
  | .g _ => 0 | .mb _ => 2 | .q _ => 3

/-- RR on a page with selector 0. -/
def rrForm (page : BitVec 4) (md : BitVec 6) (major : BitVec 4) (minor : BitVec 3) (d a b : BitVec 5) : Option Form :=
  some ⟨page, md, .rr major d a b minor 0⟩
/-- RR with tile fields. -/
def vvForm (page : BitVec 4) (md : BitVec 6) (major : BitVec 4) (minor : BitVec 3) (d a b : VReg) : Option Form :=
  some ⟨page, md, .rr major (d.setWidth 5) (a.setWidth 5) (b.setWidth 5) minor 0⟩
def zForm (page : BitVec 4) (md : BitVec 6) (minor : BitVec 4) (imm8 : Byte) : Option Form :=
  some ⟨page, md, .z 0 minor imm8⟩

/-- The encoding the page tables give an instruction; none for a row without words. -/
def Instr.form : Instr → Option Form
  | .ret => zForm 0 0 1 0
  | .add d a b => rrForm 0 0 1 0 d a b
  | .sub d a b => rrForm 0 0 1 1 d a b
  | .mul d a b => rrForm 0 0 1 2 d a b
  | .mulh t d a b => rrForm 0 t.bit 1 3 d a b
  | .div t d a b => rrForm 0 t.bit 1 4 d a b
  | .rem t d a b => rrForm 0 t.bit 1 5 d a b
  | .min t d a b => rrForm 0 t.bit 1 6 d a b
  | .max t d a b => rrForm 0 t.bit 1 7 d a b
  | .ldi d imm => some ⟨0, 0, .ri 2 d imm⟩
  | .and d a b => rrForm 0 0 3 0 d a b
  | .or d a b => rrForm 0 0 3 1 d a b
  | .xor d a b => rrForm 0 0 3 2 d a b
  | .andn d a b => rrForm 0 0 3 3 d a b
  | .shl d a b => rrForm 0 0 3 4 d a b
  | .shr d a b => rrForm 0 0 3 5 d a b
  | .sar d a b => rrForm 0 0 3 6 d a b
  | .rol d a b => rrForm 0 0 3 7 d a b
  | .mov d a => some ⟨0, 0, .rr 4 d a.num 0 0 a.sel⟩
  | .movDestSelect d a => some ⟨0, 0, .rr 4 d.num a 0 1 d.sel⟩
  | .clz d a => rrForm 0 0 4 2 d a 0
  | .ctz d a => rrForm 0 0 4 3 d a 0
  | .popc d a => rrForm 0 0 4 4 d a 0
  | .cmp a b => rrForm 0 0 4 5 0 a b
  | .tst a b => rrForm 0 0 4 6 0 a b
  | .sel c d a b => rrForm 0 (c.code.setWidth 6) 4 7 d a b
  | .lea d a disp => some ⟨0, 0, .rri 5 d a disp⟩
  | .ext t d a => rrForm 0 0 6 0 d a t.code
  | .jmpr d a => rrForm 0 0 6 1 d a 0
  | .brc c off => some ⟨0, 0, .bc 7 c.code off⟩
  | .br off => some ⟨0, 0, .br 8 off⟩
  | .call off => some ⟨0, 0, .br 9 off⟩
  | .loop d off => some ⟨0, 0, .ri 0xA d off⟩
  | .cmpImm d imm => some ⟨0, 0, .ri 0xB d imm⟩
  | .ldk d imm => some ⟨0, 0, .ri 0xC d imm⟩
  | .blkend => some ⟨0, 0, .raw 0xFC00⟩
  | .hintNop m w => some ⟨15, m, .raw w⟩
  | .trap n => zForm 1 0 1 n
  | .svc n => zForm 1 0 2 n
  | .rft => zForm 1 0 3 0
  | .snap n => zForm 1 0 4 n
  | .shlImm n d a => rrForm 1 n 1 0 d a 0
  | .shrImm n d a => rrForm 1 n 1 1 d a 0
  | .sarImm n d a => rrForm 1 n 1 2 d a 0
  | .rolImm n d a => rrForm 1 n 1 3 d a 0
  | .bfx p d a w => some ⟨1, p, .rriu 2 d a w⟩
  | .bfi p d a w => some ⟨1, p, .rriu 3 d a w⟩
  | .mfs d n => some ⟨1, (n.extractLsb' 9 3).setWidth 6, .riu 4 d (n.extractLsb' 0 9)⟩
  | .mts d n => some ⟨1, (n.extractLsb' 9 3).setWidth 6, .riu 5 d (n.extractLsb' 0 9)⟩
  | .rep s a l => some ⟨1, 0, .rriu 6 (s.setWidth 5) a l⟩
  | .tlbi c a b => rrForm 1 0 7 0 (if c then 1 else 0) a b
  | .vadd m d a b => vvForm 2 m.bits 1 0 d a b
  | .vsub m d a b => vvForm 2 m.bits 1 1 d a b
  | .vmul m d a b => vvForm 2 m.bits 1 2 d a b
  | .vfma m d a b => vvForm 2 m.bits 1 3 d a b
  | .vmax k d a b => vvForm 2 (maskBits k) 1 4 d a b
  | .vmin k d a b => vvForm 2 (maskBits k) 1 5 d a b
  | .vdiv m d a b => vvForm 2 m.bits 1 6 d a b
  | .vsel k d a b => vvForm 2 (maskBits k) 1 7 d a b
  | .vcmp p k d a b => rrForm 2 (maskBits k) 2 p.code (d.setWidth 5) (a.setWidth 5) (b.setWidth 5)
  | .vabs k s d a => vvForm 2 (maskSatBits k s) 3 0 d a 0
  | .vneg k s d a => vvForm 2 (maskSatBits k s) 3 1 d a 0
  | .vbcast k d a => rrForm 2 (maskBits k) 3 2 (d.setWidth 5) a 0
  | .vclr d => vvForm 2 0 3 3 d 0 0
  | .vredr o m d a => rrForm 2 m.bits 3 4 (d.setWidth 5) (a.setWidth 5) o.code
  | .vredc o m d a => rrForm 2 m.bits 3 5 (d.setWidth 5) (a.setWidth 5) o.code
  | .vrdq d q b => rrForm 2 0 3 6 (d.setWidth 5) (q.setWidth 5) b
  | .vsets a => rrForm 2 0 3 7 0 a 0
  | .vld k d a disp => some ⟨2, maskBits k, .rri 4 (d.setWidth 5) a disp⟩
  | .vst k d a disp => some ⟨2, maskBits k, .rri 5 (d.setWidth 5) a disp⟩
  | .vldt k d a disp => some ⟨2, maskBits k, .rri 6 (d.setWidth 5) a disp⟩
  | .vsetsImm imm => some ⟨2, 0, .ri 7 0 imm⟩
  | .vcvt t mx ct r s d a => rrForm 3 (convBits r s) 1 (bit1 mx ++ ct) (d.setWidth 5) (a.setWidth 5) t.code
  | .vexp2 d a => vvForm 3 0 2 0 d a 0
  | .vsmx d a b => vvForm 3 0 2 1 d a b
  | .vrng d a => rrForm 3 0 2 2 (d.setWidth 5) a 0
  | .vqmax d a g => rrForm 3 0 2 3 (d.setWidth 5) (a.setWidth 5) (g.setWidth 5)
  | .vqz r s d a b => vvForm 3 (convBits r s) 2 4 d a b
  | .lqz d a => vvForm 3 0 2 5 d a 0
  | .ldec d a b => vvForm 3 0 2 6 d a b
  | .ctld t a disp => some ⟨3, 0, .rri 3 (t.setWidth 5) a disp⟩
  | .ctldPreset t n => some ⟨3, 0, .riu 4 (t.setWidth 5) n⟩
  | .castle a b => rrForm 3 0 5 0 0 a b
  | .ld z o s h d a disp => some ⟨4, ordBits o s h, .m 1 d a z.code disp⟩
  | .ldSigned z o s h d a disp => some ⟨4, ordBits o s h, .m 2 d a z.code disp⟩
  | .st z o s h d a disp => some ⟨4, ordBits o s h, .m 3 d a z.code disp⟩
  | .ldIndexed t o s h d a b => rrForm 4 (ordBits o s h) 4 t.code d a b
  | .stIndexed z o s h d a b => rrForm 4 (ordBits o s h) 5 (z.code.setWidth 3) d a b
  | .lds d a disp => some ⟨4, 0, .m 6 d a 0 disp⟩
  | .ldt d a disp => some ⟨4, 0, .m 6 d a 1 disp⟩
  | .stf d a disp => some ⟨4, 0, .m 6 d a 2 disp⟩
  | .ste a disp => some ⟨4, 0, .m 6 0 a 3 disp⟩
  | .ldmb o s h a disp => some ⟨4, ordBits o s h, .m 7 0 a 0 disp⟩
  | .stmb o s h a disp => some ⟨4, ordBits o s h, .m 7 0 a 1 disp⟩
  | .fence o s => rrForm 4 (ordBits o s false) 8 0 0 0 0
  | .acqr s a b => rrForm 4 (ordBits .acq s false) 8 1 0 a b
  | .relr s a b => rrForm 4 (ordBits .rel s false) 8 2 0 a b
  | .ccln l a b => rrForm 4 0 8 3 l.code a b
  | .cinv l a b => rrForm 4 0 8 4 l.code a b
  | .cflu l a b => rrForm 4 0 8 5 l.code a b
  | .amo op g o s d a b => rrForm 4 (ordBits o s g) 9 op.code d a b
  | .amoN32 op g o s d a b => rrForm 4 (ordBits o s g) 0xA op.code d a b
  | .amoFadd o s d a b => rrForm 4 (ordBits o s false) 0xB 0 d a b
  | .redFadd a b => rrForm 4 0 0xB 1 0 a b
  | .topk o s a b => rrForm 4 (ordBits o s false) 0xB 2 0 a b
  | .waita o s d a b => rrForm 4 (ordBits o s false) 0xB 3 d a b
  | .waitaN32 o s d a b => rrForm 4 (ordBits o s false) 0xB 4 d a b
  | .red op g a b => rrForm 4 (ordBits .rlx .package g) 0xC op.code 0 a b
  | .redN32 op g a b => rrForm 4 (ordBits .rlx .package g) 0xD op.code 0 a b
  | .cpy c d a b => rrForm 5 (c.setWidth 6) 1 0 d a b
  | .cpyg c d a b => rrForm 5 (c.setWidth 6) 1 1 d a b
  | .cpyw c d a => rrForm 5 (c.setWidth 6) 1 2 d a 0
  | .pmove t d a b => rrForm 5 (t.setWidth 6) 1 3 d a b
  | .pconf a b => rrForm 5 0 1 4 0 a b
  | .pcanc a => rrForm 5 0 1 5 0 a 0
  | .pstat d a => rrForm 5 0 1 6 d a 0
  | .prld t d a => rrForm 5 (t.setWidth 6) 2 0 d a 0
  | .prst t a b => rrForm 5 (t.setWidth 6) 2 1 0 a b
  | .exit => zForm 6 0 1 0
  | .yield => zForm 6 0 2 0
  | .dcmp => zForm 6 0 3 0
  | .barv s n => zForm 6 s.code 4 n
  | .barwEven s n => zForm 6 s.code 5 n
  | .barwOdd s n => zForm 6 s.code 6 n
  | .compose n => zForm 6 0 7 n
  | .send a => rrForm 6 0 1 0 0 a 0
  | .sendd a b => rrForm 6 0 1 1 0 a b
  | .spawn d => rrForm 6 0 1 2 d 0 0
  | .popd d => rrForm 6 0 1 3 d 0 0
  | .cnti d a b => rrForm 6 0 1 4 d a b
  | .dec a b => rrForm 6 0 1 5 0 a b
  | .exits a => rrForm 6 0 1 6 0 a 0
  | .launch d a => rrForm 6 0 1 7 d a 0
  | .ttset d a b => rrForm 6 0 2 0 d a b
  | .tblk a => rrForm 6 0 2 1 0 a 0
  | .tublk a => rrForm 6 0 2 2 0 a 0
  | .kvlook d a b => rrForm 7 0 1 0 d a b
  | .kvmap d a b => rrForm 7 0 1 1 d a b
  | .sptlook d a b => rrForm 7 0 1 2 d a b
  | .sptins d a => rrForm 7 0 1 3 d a 0
  | .bhash d a b => rrForm 7 0 1 4 d a b
  | .smax a b => rrForm 7 0 1 5 0 a b
  | .tokc d a b => rrForm 7 0 1 6 d a b
  | _ => none

/-- The rows of the table that are steps of the machine and no instruction of a task. -/
def Instr.isStep (i : Instr) : Bool := i.form.isNone && i != .unassignedEncoding

/-- R38: the least number of PFX.I words for which the immediate fits a w-bit field, at most 4. -/
def pfxCount (w : Nat) (imm : Word) : Nat :=
  if fitsSigned w imm then 0 else if fitsSigned (w + 10) imm then 1 else if fitsSigned (w + 20) imm then 2
  else if fitsSigned (w + 30) imm then 3 else 4

/-- The PFX.I words of an immediate, the first carrying the most significant ten bits (R38, R49). -/
def pfxWords (w : Nat) (imm : Word) : Nat → List Half
  | 0 => []
  | k + 1 => (0xF#4 ++ 0#2 ++ (imm.extractLsb' (w + 10 * k) 10)) :: pfxWords w imm k

/-- The immediate of a form, its field width, and the class selector and register numbers of its PFX.R. -/
def BaseForm.immOf : BaseForm → Option (Nat × Word)
  | .ri _ _ i => some (9, i)
  | .rri _ _ _ i => some (6, i)
  | .m _ _ _ _ i => some (4, i)
  | .br _ i => some (12, i)
  | .bc _ _ i => some (8, i)
  | _ => none

/-- The payload of the PFX.R a form needs: D, A, B and the selector. -/
def BaseForm.regBits : BaseForm → BitVec 10
  | .rr _ d a b _ s => d.extractLsb' 3 2 ++ a.extractLsb' 3 2 ++ b.extractLsb' 3 2 ++ s
  | .ri _ d _ => d.extractLsb' 3 2 ++ 0#8
  | .riu _ d _ => d.extractLsb' 3 2 ++ 0#8
  | .rri _ d a _ => d.extractLsb' 3 2 ++ a.extractLsb' 3 2 ++ 0#6
  | .rriu _ d a _ => d.extractLsb' 3 2 ++ a.extractLsb' 3 2 ++ 0#6
  | .m _ d a _ _ => d.extractLsb' 3 2 ++ a.extractLsb' 3 2 ++ 0#6
  | _ => 0#10

/-- The base half-word (R46). -/
def BaseForm.word : BaseForm → Half
  | .z mj mn i => mj ++ mn ++ i
  | .rr mj d a b mn _ => mj ++ d.extractLsb' 0 3 ++ a.extractLsb' 0 3 ++ b.extractLsb' 0 3 ++ mn
  | .ri mj d i => mj ++ d.extractLsb' 0 3 ++ i.extractLsb' 0 9
  | .riu mj d i => mj ++ d.extractLsb' 0 3 ++ i
  | .rri mj d a i => mj ++ d.extractLsb' 0 3 ++ a.extractLsb' 0 3 ++ i.extractLsb' 0 6
  | .rriu mj d a i => mj ++ d.extractLsb' 0 3 ++ a.extractLsb' 0 3 ++ i
  | .m mj d a sz i => mj ++ d.extractLsb' 0 3 ++ a.extractLsb' 0 3 ++ sz ++ i.extractLsb' 0 4
  | .br mj i => mj ++ i.extractLsb' 0 12
  | .bc mj c i => mj ++ c ++ i.extractLsb' 0 8
  | .raw w => w

/-- The canonical chain P, R, I, base of R38. -/
def Form.words (f : Form) : List Half :=
  (if f.page = 0#4 ∧ f.md = 0#6 then [] else [0xF#4 ++ 2#2 ++ (f.page ++ f.md)]) ++
  (if f.base.regBits = 0#10 then [] else [0xF#4 ++ 1#2 ++ f.base.regBits]) ++
  (match f.base.immOf with
   | some (w, i) => pfxWords w i (pfxCount w i)
   | none => []) ++
  [f.base.word]

/-- The words of an instruction; the empty list for a row without words. -/
def encode (i : Instr) : List Half :=
  match i.form with
  | some f => f.words
  | none => []

end Sys2Proof
end

