-- ==== Sys2Proof/Machine/Fetch.lean ====
section
/-! DEFINITION. The issue choice (R270, R271), instruction fetch (R55, R71 to R73) and blocks (R74). -/

namespace Sys2Proof.Machine

/-- A slot's task may be chosen: resident and runnable. -/
def Slot.ready (t : Slot) : Bool := t.held && t.ws.tsw.state == .runnable

/-- Effective priority: 7 once the age is 4,096 (R270). -/
def Slot.priority (t : Slot) (now : Nat) : Nat :=
  if t.runSince + Config.issueAge ≤ now then 7 else t.ws.tsw.prio.toNat

/-- A yielding task is passed over while another runnable task of equal or higher effective priority exists, until
64 cc have passed (R271); the mark is cleared when such a task issues. -/
def Core.heldOff (c : Core) (now i : Nat) : Bool :=
  match (c.slot i).yielded with
  | none => false
  | some at' =>
    decide (now < at' + Config.yieldBound) && (List.range 8).any fun j =>
      j != i && (c.slot j).ready && decide ((c.slot i).priority now ≤ (c.slot j).priority now)

/-- The core issues: it is in service, not lent, and its die has not tripped (R290, R376, R382). -/
def State.mayIssue (s : State) (cid : Nat) : Bool :=
  let c := s.core cid
  !c.retired && c.lent.isNone && (s.die (dieOf cid)).thermal != .tripped

/-- The slot that the focus core issues next (R270) (log entry 24, DESIGN CHOICE). -/
def State.pick (s : State) : Option (Fin 8) :=
  let c := s.here
  if !s.mayIssue s.hereCid then none
  else
    let cand : List (Fin 8) := (List.finRange 8).filter fun (i : Fin 8) => (c.slot i.val).ready && !c.heldOff s.now i.val
    match cand with
    | [] => none
    | _ =>
      let top := cand.foldl (fun (m : Nat) (i : Fin 8) => max m ((c.slot i.val).priority s.now)) 0
      let best : List (Fin 8) := cand.filter fun (i : Fin 8) => (c.slot i.val).priority s.now == top
      let last : Fin 8 := vget c.lastAt top 7
      (best.find? fun i => decide (last < i)).orElse fun _ => best.head?

/-- Issue slot i: its age returns to 0, and yielding tasks of equal or lower priority may be chosen again (R270, R271). A woken
task keeps its place in the order of parking while its instruction issues again (R171, R235, R263). -/
def State.beginIssue (s : State) (i : Fin 8) : State :=
  let top := (s.here.slot i).priority s.now
  { s with here := { s.here with
      cur := i
      lastAt := vset s.here.lastAt top i
      slots := Vector.ofFn fun (j : Fin 8) =>
        let t := s.here.slots[j]
        if j = i then { t with runSince := s.now, yielded := none, place := t.woken, woken := none }
        else if t.priority s.now ≤ top then { t with yielded := none } else t } }

/-- The time from which a task's fetch at an address may return what memory held: the start of its launch, or its latest
CINV of level 3 over the address (R73). -/
def Slot.codeSince (t : Slot) (va : Nat) : Nat :=
  (t.cinvs.filter fun x => decide (x.1 ≤ va ∧ va < x.1 + x.2.1)).foldl (fun m x => max m x.2.2) t.codeFrom

/-- The older values that a fetch of the half-word at va, in memory at pa, may return instead of m (R73). -/
def State.oldHalves (s : State) (va pa : Nat) (m : Half) : List Half :=
  let held := (s.oldCode.filter fun x => x.1 == pa / 2 && decide (s.task.codeSince va ≤ x.2.2)).map (·.2.1)
  (((s.here.icache.get (va / 2)).toList ++ held).eraseDups).filter (· != m)

/-- Fetch one half-word: a value that memory held before, or an instruction-cache copy, may answer (R71, R73)
(log entry 7, DEDUCED). -/
def State.fetchHalf (s : State) (a : Word) : Eff (Half × State) :=
  if !isGlobal a then .error (.trap .xlate a)
  else match s.translate s.hereCid .fetch a.toNat with
    | .error .xlate => .error (.trap .xlate a)
    | .error .malformed => .error (.malformed a)
    | .error .perm => .error (.trap .perm a)
    | .ok (pa, s1) => do
      s1.readable a (.phys pa) 2
      let s2 := s1.combineLine (pa / 64)
      let m : Half := BitVec.ofNat 16 (s2.peek (.phys pa) 2)
      let s3 := match s2.here.icache.get (a.toNat / 2) with
        | none => { s2 with here := { s2.here with icache := s2.here.icache.put (a.toNat / 2) m } }
        | some _ => s2
      match s2.oldHalves a.toNat pa m with
      | [] => .ok (m, s3)
      | l =>
        let (k, s4) := s3.choose (l.length + 1)
        .ok (l.getD k m, s4)

/-- Fetch a chain: words until one ends it, or an event of R55 does; fuel is the words a chain may have. -/
def State.fetchChain : Nat → State → Word → List Half → Eff (List Half × State)
  | 0, s, _, ws => .ok (ws, s)
  | n + 1, s, a, ws =>
    match s.fetchHalf a with
    | .error e => .error e
    | .ok (h, s1) =>
      match readChain (ws ++ [h]) none none [] 0 with
      | .error .short => State.fetchChain n s1 (a + 2) (ws ++ [h])
      | _ => .ok (ws ++ [h], s1)

/-- The instruction of a chain and its length; a chain the page tables refuse is UNASSIGNED_ENCODING (R55, R59). -/
def decodeChain (ws : List Half) : Instr × Nat :=
  match decode ws with
  | .ok r => r
  | .error _ => (.unassignedEncoding, ws.length)

/-! ## Blocks (R74) -/

/-- The instructions that end a block. -/
def Instr.endsBlock : Instr → Bool
  | .br _ | .brc _ _ | .call _ | .ret | .jmpr _ _ | .loop _ _ | .trap _ | .svc _ | .rft | .exit | .exits _ | .yield
  | .compose _ | .dcmp | .blkend => true
  | _ => false

/-- The start of the block of an instruction of n half-words at a: an instruction that would cross the end begins the next
block. -/
def Slot.blockOf (t : Slot) (a : Word) (n : Nat) : Word :=
  match t.block with
  | some b => if (a - b).toNat + 2 * n ≤ 64 then b else a
  | none => a

/-- A completed instruction of a REP body has returned to the body start, or goes on there: REPOFF is 0 again while the body
repeats (R129, R130). -/
def Slot.atBody (x : Slot) (was : Bool) : Bool := was && x.ready && x.ws.ctl.repA && x.ws.ctl.repOff == 0#6

/-- Note the block of instruction i, issued in state s with outcome t, for a task that is composed or is to be: the return to a
body start is a control transfer, whose target begins a block (R74, R130). -/
def State.noteBlock (s : State) (i : Instr) (t : State) : State :=
  if s.ws.ctl.cw = 0 then t
  else
    let me := s.here.cur.val
    let b := s.task.blockOf s.addr s.ilen
    t.modSlot s.hereCid me fun x =>
      if !x.held then x
      else if (x.ready && Instr.endsBlock i) || x.atBody s.ws.ctl.repA then { x with block := none }
      else { x with block := some b }

/-- The next instruction of a task begins a block. -/
def State.atBlockStart (s : State) (cid slot : Nat) : Bool :=
  let t := (s.core cid).slot slot
  let n := match State.fetchChain 6 (s.focus cid) t.ws.pc [] with
    | .ok (ws, _) => (decodeChain ws).2
    | .error _ => 1
  t.block.isNone || t.blockOf t.ws.pc n == t.ws.pc

/-! ## Time -/

/-- One cc passes, or n (log entry 13, DESIGN CHOICE). -/
def State.passed (s : State) (n : Nat) : State := { s with now := s.now + n }

def Result.passed (r : Result) : Result :=
  match r with
  | .next s => .next (s.passed 1)
  | .fault f => .fault f
  | .refused x => .refused x

end Sys2Proof.Machine
end

