-- ==== Sys2Proof/Machine/Phalanx.lean ====
section
/-! DEFINITION. Composition (R286 to R299): COMPOSE, DCMP, grants, the time-out, reclaims and recomposition. A phalanx
is one stream of instructions on its leader (log entry 15, DEDUCED). -/

namespace Sys2Proof.Machine

/-- log2 of a width, and the widths of R287. -/
def widthCode (n : Nat) : BitVec 3 :=
  if n = 2 then 1 else if n = 4 then 2 else if n = 8 then 3 else if n = 16 then 4 else 0

/-- Put a request in the cluster's queue (R289). -/
def State.askCompose (s : State) (cid slot n : Nat) (again : Bool) : State :=
  s.modCluster (clusterOf cid) fun x =>
    { x with composeQ := x.composeQ ++ [{ cid := cid, slot := slot, n := n, again := again }] }

def State.unask (s : State) (cid slot : Nat) : State :=
  s.modCluster (clusterOf cid) fun x => { x with composeQ := x.composeQ.filter fun r => !(r.cid == cid && r.slot == slot) }

/-- COMPOSE (R287): at the width in force it only clears C (R299), and a recomposition that is pending for that width stays pending
(R297; log entry 53, DEDUCED); else it hands back, asks and parks. -/
def execCompose (n : Byte) (s : State) : Result :=
  match (do s.noRep; demand (widthCode n.toNat != 0#3) : Eff Unit) with
  | .error e => s.settle (.error e)
  | .ok _ =>
    if s.ws.ctl.cw = widthCode n.toNat then .next (s.modCtl fun c => { c with c := false }).advance
    else
      let me := s.here.cur.val
      let s1 := if s.ws.ctl.cw = 0 then s else (s.handBack s.hereCid me 0xFFFF#16).modCtl fun c => { c with cw := 0 }
      .next ((s1.askCompose s.hereCid me n.toNat false).park (.compose n.toNat s.now))

/-- DCMP (R287). -/
def execDcmp (s : State) : Result :=
  s.finish (do
    s.noRep
    .ok (if s.ws.ctl.cw = 0 then s
      else (s.handBack s.hereCid s.here.cur.val 0xFFFF#16).modCtl fun c => { c with cw := 0 }))

/-! ## Grants (R288, R289) -/

/-- A core is free for a grant to a context. -/
def State.freeCore (s : State) (cx : Option Nat) (cid : Nat) : Bool :=
  let c := s.core cid
  (List.range 8).all (fun i => !(c.slot i).held) && c.runList.isEmpty && c.deque.isEmpty && c.lent.isNone &&
    !c.retired && s.cxOf cid == cx && cx.isSome

/-- The members 1 to n − 1 that a grant of width n to a leader would take; none: it does not succeed. -/
def State.members (s : State) (leader n : Nat) : Option (List Nat) :=
  let cx := s.cxOf leader
  let k := clusterOf leader
  let own := ((List.range 7).map fun i => 8 * k + (leader % 8 + i + 1) % 8).filter (s.freeCore cx)
  if n = 16 then
    if own.length < 7 then none
    else
      let near := [1, 2, 3, 4].filterMap fun d => neighbour k d
      match near.find? fun m => (List.range 8).all fun j => s.freeCore cx (8 * m + j) with
      | some m => some (own ++ (List.range 8).map fun j => 8 * m + j)
      | none => none
  else if n - 1 ≤ own.length then some (own.take (n - 1)) else none

/-- A request may be granted now: a recomposition only where its task begins a block; until then it stops no later request
(R297) (log entry 53, DEDUCED). -/
def State.grantable (s : State) (r : ComposeReq) : Bool := !r.again || s.atBlockStart r.cid r.slot

/-- The oldest request of a cluster's queue that the free cores satisfy, with its members. -/
def State.nextGrant (s : State) : List ComposeReq → Option (ComposeReq × List Nat)
  | [] => none
  | r :: t => match if s.grantable r then s.members r.cid r.n else none with
    | some l => some (r, l)
    | none => State.nextGrant s t

/-- Lend the members to the task of a request. -/
def State.lend (s : State) (r : ComposeReq) (l : List Nat) : State :=
  let s1 := l.foldl (fun s m => s.modCore m fun c => { c with lent := some (r.cid, r.slot) }) s
  (s1.unask r.cid r.slot).modSlot r.cid r.slot fun t => { t with members := l, recompose := false }

/-- The parked COMPOSE completes with C and CW; the next instruction begins a block (R74). -/
def Slot.composed (t : Slot) (c : Bool) (cw : BitVec 3) (now : Nat) : Slot :=
  { t with block := none, ws := { t.ws with
      pc := t.ws.pc + BitVec.ofNat 64 (2 * t.chainLen)
      ctl := { t.ws.ctl with c := c, cw := cw } } }.wake now

/-- COMPOSE_GRANT: the oldest request that can be met is met, if it is a COMPOSE's. -/
def execComposeGrant (cluster : Nat) (s : State) : Result :=
  match s.nextGrant (s.cluster cluster).composeQ with
  | some (r, l) =>
    if r.again then .next s
    else .next ((s.lend r l).modSlot r.cid r.slot fun t => t.composed false (widthCode r.n) s.now)
  | none => .next s

/-- RECOMPOSE_GRANT: the same for a recomposition, which writes no register and no flag (R297). -/
def execRecomposeGrant (cluster : Nat) (s : State) : Result :=
  match s.nextGrant (s.cluster cluster).composeQ with
  | some (r, l) => if r.again then .next (s.lend r l) else .next s
  | none => .next s

/-- COMPOSE_TIMEOUT: 1,024 cc without a grant, and none succeeds now: C is 1 and CW stays 0. -/
def execComposeTimeout (cid slot : Nat) (s : State) : Result :=
  match ((s.core cid).slot slot).wait with
  | some (.compose n t0) =>
    if t0 + Config.composeBound ≤ s.now ∧ (s.members cid n).isNone then
      .next ((s.unask cid slot).modSlot cid slot fun t => t.composed true 0 s.now)
    else .next s
  | _ => .next s

/-- Hand a phalanx back while its task goes on: a parked WAITA completes, and unless that trapped the task
recomposes (R290, R299, R375). Every used tile is saved, also where A is a listed point: R296 keeps the live ones alone for a
pre-emption, and none has been requested (log entry 53, DEDUCED). -/
def State.reclaim (s : State) (cid slot : Nat) : State :=
  let s1 := s.finishWaita cid slot
  if ((s1.core cid).slot slot).ws.tsw.state = .trapped then s1
  else (s1.handBack cid slot 0xFFFF#16).recomposeDue cid slot

/-- RECLAIM: a record in a lent core's run list takes the core back (R290). -/
def execReclaim (cid : Nat) (s : State) : Result :=
  match (s.core cid).lent with
  | some (ld, sl) => if (s.core cid).runList.isEmpty then .next s else .next (s.reclaim ld sl)
  | none => .next s

end Sys2Proof.Machine
end

