-- ==== Sys2Proof/Machine/Tile.lean ====
section
/-! DEFINITION. Tile shapes and elements (R138 to R140), masks, and the rules common to the vector instructions (R143 to
R146). -/

namespace Sys2Proof.Machine

/-- The element types of R139. -/
inductive Elem where
  | f32 | f16 | bf16 | w19 | i8 | n8 | i16 | n16 | i32 | n32 | fp4 | c8 | lx8 | e8m0
  deriving DecidableEq, Repr

def Elem.ofCode : Nat → Option Elem
  | 0 => some .f32 | 1 => some .f16 | 2 => some .bf16 | 3 => some .w19 | 4 => some .i8 | 5 => some .n8
  | 6 => some .i16 | 7 => some .n16 | 8 => some .i32 | 9 => some .n32 | 10 => some .fp4 | 11 => some .c8
  | 12 => some .lx8 | 13 => some .e8m0 | _ => none

/-- Bits of an element; for .lx8 the 16-bit code of its group counts apart. -/
def Elem.bits : Elem → Nat
  | .f32 => 32 | .w19 => 32 | .i32 => 32 | .n32 => 32
  | .f16 => 16 | .bf16 => 16 | .i16 => 16 | .n16 => 16
  | .fp4 => 4 | .lx8 => 2 | _ => 8

/-- The binary format of a type of class float. -/
def Elem.fmt : Elem → Option Fmt
  | .f32 => some Machine.fp32 | .f16 => some Machine.fp16 | .bf16 => some Machine.bf16 | _ => none

/-- Width and signedness of a type of class integer. -/
def Elem.int : Elem → Option (Nat × Bool)
  | .i8 => some (8, true) | .n8 => some (8, false) | .i16 => some (16, true) | .n16 => some (16, false)
  | .i32 => some (32, true) | .n32 => some (32, false) | _ => none

/-- A shape: VSHAPE's fields (R138). -/
structure Shape where
  ty   : Elem
  cols : Nat
  rows : Nat
  deriving DecidableEq, Repr

def Shape.count (h : Shape) : Nat := h.rows * h.cols

/-- Bytes of n elements in the tile layout (R139). -/
def Elem.bytes (t : Elem) (n : Nat) : Nat := if t = .lx8 then 2 * ((n + 7) / 8) else (n * t.bits + 7) / 8

/-- The byte extent S. -/
def Shape.extent (h : Shape) : Nat := h.ty.bytes h.count

/-- The legal shape of a VSHAPE value (R139, R140). -/
def shapeOf (v : BitVec 24) : Option Shape :=
  match Elem.ofCode (v.extractLsb' 20 4).toNat with
  | none => none
  | some t =>
    let h : Shape := { ty := t, cols := (v.extractLsb' 10 10).toNat + 1, rows := (v.extractLsb' 0 10).toNat + 1 }
    if h.extent ≤ 1024 then some h else none

/-- The task's shape; VSHAPE is always legal (R138, R140). -/
def State.shape (s : State) : Shape := (shapeOf s.ws.vshape).getD { ty := .f32, cols := 1, rows := 1 }

/-- A new VSHAPE, or ILLOP (R138, R140). -/
def State.setShape (s : State) (v : Word) : Eff State :=
  if v.toNat < 2 ^ 24 ∧ (shapeOf (v.setWidth 24)).isSome then
    .ok (s.modWs fun w => { w with vshape := v.setWidth 24 })
  else illop

/-- Element e of w bits of a tile (R139). -/
def tileElem (t : Tile) (w e : Nat) : Nat := t.toNat >>> (w * e) % 2 ^ w

/-- Replace element e of w bits. -/
def tileSet (t : Tile) (w e v : Nat) : Tile :=
  BitVec.ofNat 8192 (t.toNat - (tileElem t w e) <<< (w * e) + (v % 2 ^ w) <<< (w * e))

/-- Write several elements of w bits. -/
def tilePut (t : Tile) (w : Nat) (l : List (Nat × Nat)) : Tile := l.foldl (fun t p => tileSet t w p.1 p.2) t

/-- The stored width and index of element e: an .lx8 element lies in its group's code. -/
def Elem.place (t : Elem) (e : Nat) : Nat × Nat := if t = .lx8 then (16, e / 8) else (t.bits, e)

/-- What bringing the tiles of task i into the vector unit writes: the areas of the task whose tiles it held (R144). -/
def Core.claimSaves (c : Core) (i : Nat) : List (Nat × Nat) :=
  if (c.slot i).ws.vsd.vhome then []
  else (List.range 8).flatMap fun j => if (c.slot j).held && (c.slot j).ws.vsd.vhome then (c.slot j).ws.vsd.places else []

/-- Bring the issuing task's tiles into the vector unit (R144). -/
def State.claim (s : State) : State :=
  { s.mendLm s.hereCid (s.here.claimSaves s.here.cur) with here := s.here.claimUnit s.here.cur }

def State.tile (s : State) (v : VReg) : Tile := s.here.tiles[v.toNat]
def State.mask (s : State) (k : KReg) : Mask := s.here.masks[k.toNat]

/-- TRINFO of the PERM of R144. -/
def Vsd.limit (v : Vsd) : Word := BitVec.ofNat 64 (64 * v.vsa.toNat + 512 + 1024 * v.vcap.toNat)

/-- A tile may be written: there is an area, and room for a new tile (R144). -/
def Vsd.tileOk (v : Vsd) (i : Nat) : Bool :=
  v.vsa != 0 && (v.vused.getLsbD i || decide (popcount 16 v.vused.toNat < v.vcap.toNat))

/-- Write tile d whole and mark it used, or trap PERM (R144, R146). -/
def State.setTile (s : State) (d : VReg) (t : Tile) : Eff State := do
  let v := s.ws.vsd
  demandOr (v.tileOk d.toNat) .perm v.limit
  let s1 := s.modWs fun w => { w with vsd := { v with vused := v.vused ||| (1#16 <<< d.toNat) } }
  .ok { s1 with here := { s1.here with tiles := s1.here.tiles.set d.toNat t } }

/-- Write mask k whole, or trap PERM where there is no area (R144, R146). -/
def State.setMask (s : State) (k : KReg) (m : Mask) : Eff State := do
  let v := s.ws.vsd
  demandOr (v.vsa != 0) .perm v.limit
  let s1 := s.modWs fun w => { w with vsd := { v with kused := v.kused ||| (1#4 <<< k.toNat) } }
  .ok { s1 with here := { s1.here with masks := s1.here.masks.set k.toNat m } }

/-- The active elements under a mask operand; mask 0 is none. A masked shape has N ≤ 1,024 (R145). -/
def State.active (s : State) (mask : KReg) (n : Nat) : List Nat :=
  if mask = 0 then List.range n else (List.range n).filter fun e => (s.mask mask).getLsbD e

def maskFits (mask : KReg) (n : Nat) : Eff Unit := demand (mask == 0#2 || decide (n ≤ 1024))

/-- The first group of eight lanes below n that the active elements touch and do not cover (R104). -/
def openGroup (act : List Nat) (n : Nat) : Option Nat :=
  (List.range ((n + 7) / 8)).find? fun g =>
    let lanes := (List.range 8).map (8 * g + ·) |>.filter (· < n)
    lanes.any (act.contains ·) && !lanes.all (act.contains ·)

/-- The shape has class float or integer (R139). -/
def Elem.arith (t : Elem) : Bool := t.fmt.isSome || t.int.isSome

/-- Fit of R147: clamp under .sat, keep the low bits under .wrap. -/
def fit (w : Nat) (signed sat : Bool) (v : Int) : Nat :=
  let lo : Int := if signed then -(2 ^ (w - 1)) else 0
  let hi : Int := if signed then 2 ^ (w - 1) - 1 else 2 ^ w - 1
  let x := if sat then (if hi < v then hi else if v < lo then lo else v) else v
  (x % 2 ^ w).toNat

/-- An integer element as a number. -/
def intElem (w : Nat) (signed : Bool) (v : Nat) : Int := if signed then signedOf w v else v

/-- Write elements of w bits of tile d. Without an element nothing is written: no tile is marked used, and none needs room
(R144, R146). -/
def State.putElems (s : State) (d : VReg) (w : Nat) (l : List (Nat × Nat)) : Eff State :=
  if l.isEmpty then .ok s else s.setTile d (tilePut (s.tile d) w l)

/-- Write results to the active elements of d: each element gives its bits and its flags. -/
def State.writeElems (s : State) (d : VReg) (l : List (Nat × Nat × Byte)) : Eff State := do
  let s1 ← s.putElems d s.shape.ty.bits (l.map fun x => (x.1, x.2.1))
  .ok (s1.addFpf (l.foldl (fun f x => f ||| x.2.2) 0))

end Sys2Proof.Machine
end

