-- ==== Sys2Proof/Machine/System.lean ====
section
/-! DEFINITION. System registers (R131 to R133, R88, R89, R236, R242, R306, R378), SNAP (R379) and TLBI (R380). -/

namespace Sys2Proof.Machine

/-- The system registers of R132; each indexed one carries its index. -/
inductive SysReg where
  | pc | wp | fl | rrb | resid | tsw | cwid | fpf | rmode | vshape | cid | capf | specbud
  | pth (i : Nat) | qstat | cwp (i : Nat) | lcrd (i : Nat) | lext (i : Nat)
  | trcause | tra | trinfo | trpc | tract | snapctl
  deriving DecidableEq, Repr

/-- The register of a number (R132); none: the number names no register of a task. -/
def sysReg (n : BitVec 12) : Option SysReg :=
  let k := n.toNat
  if k = 0x000 then some .pc
  else if k = 0x001 then some .wp
  else if k = 0x002 then some .fl
  else if k = 0x003 then some .rrb
  else if k = 0x004 then some .resid
  else if k = 0x005 then some .tsw
  else if k = 0x006 then some .cwid
  else if k = 0x008 then some .fpf
  else if k = 0x009 then some .rmode
  else if k = 0x00A then some .vshape
  else if k = 0x010 then some .cid
  else if k = 0x011 then some .capf
  else if k = 0x012 then some .specbud
  else if 0x014 ≤ k ∧ k ≤ 0x017 then some (.pth (k - 0x014))
  else if k = 0x018 then some .qstat
  else if 0x020 ≤ k ∧ k ≤ 0x027 then some (.cwp (k - 0x020))
  else if 0x030 ≤ k ∧ k ≤ 0x037 then some (.lcrd (k - 0x030))
  else if 0x038 ≤ k ∧ k ≤ 0x03F then some (.lext (k - 0x038))
  else if k = 0x040 then some .trcause
  else if k = 0x041 then some .tra
  else if k = 0x042 then some .trinfo
  else if k = 0x043 then some .trpc
  else if k = 0x044 then some .tract
  else if k = 0x080 then some .snapctl
  else none

/-- A number from 0x800 is a firmware register: PRIV (R131). -/
def sysRegOf (n : BitVec 12) : Eff SysReg := do
  demandOr (!n.msb) .priv 0
  match sysReg n with
  | some r => .ok r
  | none => illop

/-- QSTAT (R133). -/
def State.qstat (s : State) : Word :=
  let lo (i : Nat) : BitVec 5 := BitVec.ofNat 5 (vget s.task.queues i []).length
  let hi (i : Nat) : BitVec 4 := BitVec.ofNat 4 (vget s.here.local4 i []).length
  0#28 ++ hi 3 ++ hi 2 ++ hi 1 ++ hi 0 ++ lo 3 ++ lo 2 ++ lo 1 ++ lo 0

/-- CWPn (R236). -/
def Channel.word (c : Channel) : Word := c.drops ++ c.bytes

/-- SNAPCTL (R378). -/
def State.snapctl (s : State) : Word :=
  let en := match s.ctxCfg s.cx with | some c => c.snapEn | none => false
  0#24 ++ s.lastTrig ++ s.falls ++ 0#14 ++ BitVec.ofBool s.snapHeld ++ BitVec.ofBool en

/-- The task that the issuing handler is linked to (R136). -/
def State.linked (s : State) : Eff Slot :=
  match s.task.link with
  | some i => .ok (s.here.slot i)
  | none => illop

def State.readSys (s : State) (r : SysReg) : Eff Word :=
  match r with
  | .pc => .ok s.addr
  | .wp => .ok (BitVec.ofNat 64 (512 * s.here.cur.val))
  | .fl => .ok (s.ws.ctl.fl.setWidth 64)
  | .rrb => .ok (0#59 ++ BitVec.ofBool s.ws.ctl.rot ++ s.ws.ctl.rrb)
  | .resid => .ok s.ws.resid
  | .tsw => .ok s.ws.tsw.toWord
  | .cwid => .ok (s.ws.ctl.cw.setWidth 64)
  | .fpf => .ok (s.ws.fpf.setWidth 64)
  | .rmode => .ok (s.ws.srctr ++ s.ws.srkey)
  | .vshape => .ok (s.ws.vshape.setWidth 64)
  | .cid => .ok (BitVec.ofNat 64 s.hereCid)
  | .capf => .ok (s.task.capf.setWidth 64)
  | .specbud => .ok (s.here.specbud.setWidth 64)
  | .pth i => .ok ((vget s.here.pth i 0).setWidth 64)
  | .qstat => .ok s.qstat
  | .cwp i => .ok (vget s.here.chans i Channel.reset).word
  | .lcrd i => .ok (vget s.task.lcrd i 0)
  | .lext i => .ok (vget s.task.lext i 0)
  | .trcause => s.linked.map fun t => t.ws.tsw.cause.code.setWidth 64
  | .tra => s.linked.map fun t => t.ws.pc
  | .trinfo => s.linked.map fun t => t.ws.trinfo
  | .trpc => s.linked.map fun _ => s.task.trpc
  | .tract => s.linked.map fun _ => (BitVec.ofBool s.task.tract).setWidth 64
  | .snapctl => .ok s.snapctl

/-- MTS of v; a register marked RO traps ILLOP. -/
def State.writeSys (s : State) (r : SysReg) (v : Word) : Eff State :=
  match r with
  | .fl => .ok (s.modCtl fun c => c.setFl (v.extractLsb' 0 4))
  | .rrb => .ok (s.modCtl fun c => { c with rot := v.getLsbD 4, rrb := v.extractLsb' 0 4 })
  | .fpf => .ok (s.modWs fun w => { w with fpf := v.extractLsb' 0 8 })
  | .rmode => .ok (s.modWs fun w => { w with srctr := v.extractLsb' 32 32, srkey := v.extractLsb' 0 32 })
  | .vshape => s.setShape v
  | .capf => do
    demand (v.extractLsb' 16 48 == 0#48)
    .ok (s.modTask fun t => { t with capf := v.extractLsb' 0 16 })
  | .specbud => do
    demand (decide (v.toNat ≤ 1048576))
    .ok { s with here := { s.here with specbud := v.extractLsb' 0 21 } }
  | .pth i => do
    demand (decide (v.toNat ≤ 8))
    .ok { s with here := { s.here with pth := vset s.here.pth i (v.extractLsb' 0 4) } }
  | .trpc => do
    let _ ← s.linked
    demand (isGlobal v)
    .ok (s.modTask fun t => { t with trpc := v })
  | .tract => do
    let _ ← s.linked
    .ok (s.modTask fun t => { t with tract := v.getLsbD 0 })
  | _ => illop

def execMfs (d : GReg) (n : BitVec 12) (s : State) : Result :=
  s.finish (do
    let r ← sysRegOf n
    let v ← s.readSys r
    .ok (s.setG d v))

def execMts (d : GReg) (n : BitVec 12) (s : State) : Result :=
  s.finish (do
    let r ← sysRegOf n
    s.writeSys r (s.g d))

/-- SNAP (R379). -/
def execSnap (n : Byte) (s : State) : Result :=
  s.finish (do
    demand (decide (n.toNat < 128))
    .ok (if s.snapctl.getLsbD 0 then s.trigger n.toNat else s))

/-! ## TLBI (R380) -/

/-- Keep the entries of other contexts and those that cover no byte of the range; n = 0: every address. -/
def dropLeaves (cx lo n : Nat) (l : List Leaf) : List Leaf :=
  l.filter fun x => x.cx != cx || !(n == 0 || overlaps x.va x.size lo n)

/-- A cluster lies in the scope of a TLBI: one cluster, or every cluster. -/
def tlbiHit (cluster : Option Nat) (k : Nat) : Bool := match cluster with | none => true | some c => c == k

/-- Every leaf that an access of a context to n bytes from lo may have used, in the TLBs of the scope, the tables or the
translations they replaced; n = 0: every address. -/
def State.usedLeaves (s : State) (cluster : Option Nat) (cx lo n : Nat) : List Leaf :=
  let l1 := s.coreIds.flatMap fun c => if tlbiHit cluster (clusterOf c) then (s.core c).l1 else []
  let l2 := s.clusters.flatMap fun x => if tlbiHit cluster x.1 then x.2.l2 else []
  let old := s.oldWalks.flatMap fun o => o.leaves
  let hi := if n = 0 then 2 ^ 56 else lo + n
  (l1 ++ l2 ++ old ++ s.leaves cx lo hi).filter fun x => x.cx == cx && (n == 0 || overlaps x.va x.size lo n)

/-- What stays of a replaced translation after a TLBI over n bytes from lo (R339, R380). -/
def OldWalk.after (o : OldWalk) (cluster : Option Nat) (cx lo n : Nat) : List OldWalk :=
  let a := max o.va lo
  let b := min (o.va + o.size) (lo + n)
  let part (va hi : Nat) (ended : List Nat) : List OldWalk :=
    if va < hi then [{ o with va := va, size := hi - va, ended := ended }] else []
  let mid (va hi : Nat) : List OldWalk := match cluster with | none => [] | some k => part va hi (k :: o.ended)
  if o.cx ≠ cx then [o]
  else if n = 0 then mid o.va (o.va + o.size)
  else if b ≤ a then [o]
  else part o.va a o.ended ++ mid a b ++ part b (o.va + o.size) o.ended

/-- Drop the TLB entries of a context that cover a byte of a range, in one cluster or in every cluster (R380). -/
def State.dropTlb (s : State) (cluster : Option Nat) (cx lo n : Nat) : State :=
  let core (cid : Nat) (c : Core) : Core :=
    if tlbiHit cluster (clusterOf cid) then { c with l1 := dropLeaves cx lo n c.l1 } else c
  { s with
    here := core s.hereCid s.here
    others := s.others.map fun (k, c) => (k, core k c)
    clusters := s.clusters.map fun (k, c) => (k, if tlbiHit cluster k then { c with l2 := dropLeaves cx lo n c.l2 } else c) }

/-- A task waits at the home of a place that its address no longer names: its WAITA, or TOKC's wait, used a translation that has been
replaced, and no reply has been sent (R224, R317, R339). -/
def State.waitsAstray (s : State) (cx : Nat) (t : Slot) : Bool :=
  let astray (pa : Nat) (va : Word) : Bool := match s.walk cx va.toNat with
    | .leaf l => l.pa + (va.toNat - l.va) != pa
    | _ => true
  t.held && t.reply.isNone && match t.wait with
    | some (.waita (.phys pa) _ _ _ _ va) => astray pa va
    | some (.tokcFull pa _ va) => astray pa va
    | _ => false

/-- An access of the context within the scope of a TLBI has used a replaced translation and is not performed yet: a WAITA, since
every other access of the model is performed in its own step (R380). -/
def State.astray (s : State) (cluster : Option Nat) (cx : Nat) : Bool :=
  s.coreIds.any fun c => tlbiHit cluster (clusterOf c) && s.cxOf c == some cx &&
    (List.range 8).any fun i => s.waitsAstray cx ((s.core c).slot i)

/-- End the old translations of a context in one cluster, or in every cluster: the accesses that used them are performed at
package scope first (R380). -/
def State.tlbi (s : State) (cluster : Option Nat) (cx lo n : Nat) : State :=
  let ls := s.usedLeaves cluster cx lo n
  let used (line : Nat) : Bool := ls.any fun l => decide (l.pa ≤ 64 * line ∧ 64 * line < l.pa + l.size)
  let mine := s.clusters.filterMap fun x => if tlbiHit cluster x.1 && x.2.owner == some cx then some x.1 else none
  let s1 := mine.foldl (fun s k => (s.combineWhere k used).dropLate k used) s
  let s2 := s1.dropTlb cluster cx lo n
  { s2 with oldWalks := s2.oldWalks.flatMap fun o => o.after cluster cx lo n }

/-- TLBI (R380). While a WAITA of the context that used a replaced translation has not returned, which it does by 2^20 cc, TLBI has
dropped its entries and is not complete: its task stays runnable at A and issues it again (log entry 61, DESIGN CHOICE). -/
def execTlbi (cluster : Bool) (a b : GReg) (s : State) : Result :=
  let base := s.g a
  let len := s.g b
  let scope := if cluster then some (clusterOf s.hereCid) else none
  if !(isGlobal base && decide (base.toNat + len.toNat ≤ 2 ^ 64)) then s.settle illop
  else if s.astray scope s.cx then .next (s.dropTlb scope s.cx base.toNat len.toNat)
  else s.finish (.ok (s.tlbi scope s.cx base.toNat len.toNat))

end Sys2Proof.Machine
end

