-- ==== Sys2Proof/Machine/Firmware.lean ====
section
/-! DEFINITION. Steps of firmware and of the world outside (R331, R332, R340 to R343, R357, R359, R369 to R382): fault
decisions, moved cores, cluster switches, walkers, page migration, scrubbing, retirement, the flag fall, heat, reset and
start, host and remote accesses, contexts. -/

namespace Sys2Proof.Machine

/-! ## Fault decisions (R357, R359) -/

/-- The policy of a context for a cause that firmware does not resolve: pass it to the handler. -/
def policyPasses (c : ContextCfg) : Cause → Bool
  | .xlate => c.passXlate | .perm => c.passPerm | .mchk => c.passMchk | _ => false

/-- A trapped task that no handler has been given to: firmware retires it (R359). -/
def State.noHandler (s : State) (cid slot : Nat) : Bool :=
  let c := s.core cid
  let t := c.slot slot
  t.held && t.ws.tsw.state == .trapped && t.fwFault.isNone && !t.handlerDue &&
    !(c.runList.any fun r => r.kind == .handler slot) && !s.linkedBy cid slot

/-- The fault is resolved: the task issues again at A, its state as it was, once the page's old translations have ended
(R359, R297). -/
def State.resolveFault (s : State) (cid slot : Nat) (old : Word) : State :=
  let va := ((s.core cid).slot slot).ws.trinfo.toNat
  let s1 := s.modSlot cid slot fun t =>
    { ({ t with ws := { t.ws with trinfo := old, tsw := { t.ws.tsw with cause := .none } } } : Slot).wake s.now with
      fwFault := none }
  (s1.recomposeDue cid slot).tlbi none ((s.cxOf cid).getD 0) (va / 65536 * 65536) 65536

/-- FIRMWARE_FAULT_DECISION: a fault that firmware took first is resolved, once its TLBI can complete (log entry 61, DESIGN CHOICE), or passed or declined as the context's policy says;
a trapped task that no handler takes is retired (log entry 19, DESIGN CHOICE). -/
def execFirmwareFaultDecision (cid slot : Nat) (dec : FwDecision) (s : State) : Result :=
  let t := (s.core cid).slot slot
  let pass := ((s.cxOf cid).bind s.ctxCfg).any fun g => policyPasses g t.ws.tsw.cause
  if !t.held || t.ws.tsw.state != .trapped then .next s
  else match t.fwFault, dec with
    | some old, .resolved =>
      if t.ws.tsw.cause = .mchk ∨ isGlobal t.ws.trinfo = false ∨ s.astray none ((s.cxOf cid).getD 0) then .next s else .next (s.resolveFault cid slot old)
    | some _, .passed =>
      if pass then .next ((s.modSlot cid slot fun t => { t with fwFault := none }).raise cid slot) else .next s
    | some _, .declined => if pass then .next s else .next (s.unhandled cid slot)
    | none, .declined => if s.noHandler cid slot then .next (s.unhandled cid slot) else .next s
    | none, _ => .next s

/-! ## Moving a core (R369, R376) -/

/-- LM bytes without those of damaged words: firmware cannot copy these, and they read zero where it has copied the rest (log
entry 60, DESIGN CHOICE). -/
def State.cleanLm (s : State) (cid : Nat) : Memory :=
  (s.core cid).lm.filter fun b => !s.isDamaged (.lm cid b.1)

/-- Firmware may copy what a core holds: every task of it reads clean, and a core with a damaged LM word has left service
before (R376). -/
def State.copyable (s : State) (cid : Nat) : Bool :=
  (!(s.lmHit cid [(0, Config.lmSize)]) || (s.core cid).retired) &&
    (List.range 8).all fun i => !((s.core cid).slot i).held || s.taskClean cid i

/-- The damaged words outside the workspace slots that firmware could not copy from an LM are lost: KIND 2 of the core (R375,
R376) (log entry 60, DESIGN CHOICE). -/
def State.leaveWords (s : State) (cid : Nat) : State :=
  if s.lmHit cid [(Config.slotBytes, Config.lmSize - Config.slotBytes)] then
    s.report (dieOf cid) (faultRec ((s.cxOf cid).getD 0) 0 2 .mchk 0 cid)
  else s

/-- Every resident task is saved, and nothing of the core is under way, no request at a home among it (R218). A command that can never complete keeps its queue
from draining, and so keeps the core from being quiet (R167, R184) (log entry 51, DEDUCED). -/
def Core.quiet (c : Core) : Bool :=
  (List.range 8).all (fun i => !(c.slot i).held || (c.slot i).ws.tsw.state == .saved) && c.lent.isNone &&
    c.chans.all (fun x => x.flight.isEmpty) && c.mx.queue.isEmpty && c.mx.records.isEmpty &&
    c.pageIns.isEmpty && c.unanswered.isEmpty

/-- Nothing speculates or is being exposed: a ticket that exposes first completes its exposure (R253). -/
def Core.exposed (c : Core) : Bool := c.tickets.all fun t => t.state != .spec && t.state != .exposing

/-- Besides that, q4 to q7 are empty (R369). -/
def Core.settled (c : Core) : Bool := c.exposed && c.local4.all fun q => q.isEmpty

/-- A core holds no task and nothing that a move would overwrite. Its q4 to q7 are empty too: R369 asks that of the moved core
and says nothing of the target's, whose words a moved task would read as its own (log entry 60, DESIGN CHOICE). -/
def State.vacant (s : State) (cid : Nat) : Bool :=
  let b := s.core cid
  (List.range 8).all (fun i => !(b.slot i).held) && b.quiet && b.tickets.all (fun t => t.state == .free) && !b.retired &&
    b.local4.all (fun q => q.isEmpty) && b.runList.isEmpty && b.deque.isEmpty && b.counters.isEmpty &&
    !s.savedTasks.any fun x => x.cid == cid && s.cxOf cid == some x.cx

/-- The target with what moves to it. The counts of CWPn are values that the moved tasks read; the orders in which tasks start and
premove go on from the later of both cores'. Stolen records under way to the moved core go on to the target (R278; log entry 60, DESIGN CHOICE,
DESIGN CHOICE). -/
def Core.receiveFrom (b a : Core) (lm : Memory) : Core :=
  { b with
    lm := lm, full := a.full, slots := a.slots, cts := a.cts, mx := a.mx, preds := a.preds, pth := a.pth
    specbud := a.specbud, tickets := a.tickets, tt := a.tt, deque := a.deque, runList := a.runList
    counters := a.counters, chans := a.chans, arrivals := a.arrivals, icache := [], codeFrom := a.codeFrom
    owed := a.owed ++ a.steal.due ++ b.owed, taskNo := max a.taskNo b.taskNo, pmoves := max a.pmoves b.pmoves }

/-- The places of the target's LM that a move writes: all but the workspaces of free slots. -/
def Core.movedPlaces (a : Core) : List (Nat × Nat) :=
  (Config.slotBytes, Config.lmSize - Config.slotBytes) ::
    ((List.range 8).filter fun i => (a.slot i).held).map fun i => (512 * i, 512)

/-- The source afterwards: what has moved is at its reset value, generations and activation numbers go on. -/
def Core.vacated (a : Core) : Core :=
  { a with
    lm := [], full := [], slots := a.slots.map fun t => { Slot.reset with actNo := t.actNo }
    cts := Core.reset.cts, mx := Mx.reset, preds := Core.reset.preds, pth := Core.reset.pth
    specbud := Core.reset.specbud, tickets := a.tickets.map Ticket.freed, tt := [], deque := [], runList := []
    counters := [], chans := Core.reset.chans, arrivals := [], owed := [], steal := .busy }

/-- The arrival words of the page-ins of one core that name another, whose LM has moved (R349). -/
def Core.repointWords (c : Core) (src dst : Nat) : Core :=
  { c with pageIns := c.pageIns.map fun x =>
      { x with words := x.words.map fun w => if w.1 = src then (dst, w.2) else w } }

/-- CORE_MOVE: a whole core moves to a vacant core of the same context (log entry 46, DEDUCED), once every task on it reads
clean (R376). The words of the target's LM are written whole (R375). What its tasks have seen of their cluster's stores stays theirs. The REDs of the cluster it
leaves are performed, and the copies of the receiving cluster are dropped: a moved task reads nothing older than what it has
observed (R195, R200). -/
def execCoreMove (src dst : Nat) (s : State) : Result :=
  let a := s.core src
  let b := s.core dst
  let placing := s.launches.any fun l => l.pending.any fun x => x.1 == src
  if src != dst && (s.cxOf src).isSome && s.cxOf src == s.cxOf dst && s.vacant dst && a.quiet && a.settled && !placing &&
      s.copyable src then
    let lm := s.cleanLm src
    let s1 := (((s.leaveWords src).mendLm dst a.movedPlaces).moveSeen src dst).combineWhere (clusterOf src) fun _ => true
    let s2 := (s1.setCore src a.vacated).setCore dst (b.receiveFrom a lm)
    let s3 := s2.coreIds.foldl (fun s c => s.modCore c fun x => x.repointWords src dst)
      (s2.dropCopies (clusterOf dst) fun _ => true)
    .next { s3 with savedTasks := s3.savedTasks.map fun x =>
      if x.cid = src ∧ s.cxOf src = some x.cx then { x with cid := dst } else x }
  else .next s

/-! ## A cluster passes to another context (R332, R370) -/

/-- What a core keeps when its cluster passes on: what is no context's. R332 and R370 name no open combine of SMAX: it is
dropped, and none comes back with its context (log entry 57, DESIGN CHOICE). -/
def Core.cleared (c : Core) (now : Nat) : Core :=
  { Core.reset with
    slots := c.slots.map fun t => { Slot.reset with actNo := t.actNo }
    tickets := c.tickets.map Ticket.freed
    retired := c.retired, nextSeq := c.nextSeq, unanswered := c.unanswered, codeFrom := now
    taskNo := c.taskNo, pmoves := c.pmoves }

/-- What firmware restores of an incoming context: its tasks, LM bytes, and the state of R93, R167 and R253. -/
def Core.restored (c x : Core) : Core :=
  { c with lm := x.lm, full := x.full, slots := x.slots, cts := x.cts, mx := x.mx, tickets := x.tickets,
           counters := x.counters, arrivals := x.arrivals, codeFrom := x.codeFrom }

/-- The cores of a cluster. -/
def clusterCores (k : Nat) : List Nat := (List.range 8).map fun i => 8 * k + i

/-- A launch of the cluster's context is queued or being placed there. -/
def State.launching (s : State) (k : Nat) : Bool :=
  (s.dies.any fun d => d.2.launchQ.any fun x => (launchRegion x.bits x.here).clusters.contains k) ||
    s.launches.any fun l => l.pending.any fun x => clusterOf x.1 == k

/-- Requests that wait at a core's directory agent are answered with status 4. -/
def State.refuseKv (s : State) (cid : Nat) : State :=
  ((s.core cid).dirQ ++ (s.core cid).aside).foldl (fun s r => s.replyTo r.src r.slot 4) s

/-- Hand back every phalanx with a member in a cluster (R295, R370). -/
def State.handBackIn (s : State) (cluster : Nat) : State :=
  (clusterCores cluster).foldl (fun s c => match (s.core c).lent with
    | some (ld, sl) => s.reclaim ld sl
    | none => s) s

/-- A page-in of another home has an arrival word in the cluster (R349). -/
def State.wordsInto (s : State) (cluster : Nat) : Bool :=
  s.coreIds.any fun c => (s.core c).pageIns.any fun x => x.words.any fun w => clusterOf w.1 == cluster

/-- A damaged unit of the LMs or the CSP of a cluster. -/
def clusterSram (cluster : Nat) (d : Space × Nat × Nat) : Bool :=
  (d.1 == .lm && clusterOf d.2.1 == cluster) || (d.1 == .csp && d.2.1 == cluster)

/-- CSP bytes without those of damaged words (log entry 60, DESIGN CHOICE). -/
def State.cleanCsp (s : State) (k : Nat) : Memory := (s.cluster k).csp.filter fun b => !s.isDamaged (.csp k b.1)

/-- The damaged words of a cluster that firmware could not save are lost: KIND 2 of each core, and of the service cores for the
CSP (log entry 60, DESIGN CHOICE). -/
def State.leaveCluster (s : State) (k : Nat) : State :=
  match (s.cluster k).owner with
  | none => s
  | some o =>
    let s1 := (clusterCores k).foldl (fun s c => s.leaveWords c) s
    if s.damaged.any fun d => d.1 == .csp && d.2.1 == k then s1.report (dieOfCluster k) (faultRec o 0 2 .mchk 0 0xFFFF) else s1

/-- CLUSTER_CONTEXT_SWITCH: the cluster passes to a context, or to none, once its tasks are saved, the phalanxes with members
in it are handed back, it is quiet, and what firmware saves of it reads clean (R370, R376). The clearing of R332 writes every
word of its LMs and its CSP, and so mends them (R375). -/
def execClusterContextSwitch (cluster : Nat) (cxid : Option Nat) (s : State) : Result :=
  let s0 := s.handBackIn cluster
  let k := s0.cluster cluster
  let ids := clusterCores cluster
  let live := match cxid with | some x => (s.contexts.get x).isSome && !ids.all (fun c => (s.core c).retired) | none => true
  if live && k.owner != cxid && ids.all (fun c => (s0.core c).quiet && (s0.core c).exposed && (k.owner.isNone || s0.copyable c)) &&
      !s.launching cluster && !s.wordsInto cluster then
    let s1 := ((ids.foldl (fun s c => s.refuseKv c) s0).combineWhere cluster fun _ => true).leaveCluster cluster
    let saved (c : Nat) : Core := { s1.core c with lm := s1.cleanLm c }
    let keep : List SavedCluster := match k.owner with
      | some o => [{ cluster := cluster, cx := o, cores := ids.map saved, csp := s1.cleanCsp cluster,
                     full := (s1.cluster cluster).full }]
      | none => []
    let mine (x : SavedCluster) : Bool := x.cluster == cluster && some x.cx == cxid
    let back := s1.savedClusters.find? mine
    let s2 := ids.foldl (fun (s : State) c => s.modCore c fun c => c.cleared s.now) s1
    let s3 := match back with
      | some x => (ids.zip x.cores).foldl (fun (s : State) (p : Nat × Core) => s.modCore p.1 fun c => c.restored p.2) s2
      | none => s2
    let y : Cluster := match back with
      | some x => { Cluster.reset with owner := cxid, csp := x.csp, full := x.full }
      | none => { Cluster.reset with owner := cxid }
    .next (({ s3 with
      savedClusters := (s3.savedClusters.filter fun x => !mine x) ++ keep
      damaged := s3.damaged.filter fun d => !clusterSram cluster d } : State).setCluster cluster y)
  else .next s

/-! ## Page walkers (R340) -/

/-- The first context after the last one served, in round-robin order of CXID. -/
def nextContext (last : Nat) (l : List Nat) : Option Nat :=
  (l.find? fun x => decide (last < x)).orElse fun _ => l.head?

/-- Walks that a die has under way (R340). -/
def Die.walksRunning (d : Die) : Nat := d.walkers.foldl (fun n x => n + x.2) 0

/-- WALKER_GRANT: a freed walker goes to a context with demand walks waiting, those that hold fewer than 8 first. An access
of the model translates in its own step, so the walks counted here divide time only (R26) (log entry 38, DESIGN CHOICE). -/
def execWalkerGrant (die : Nat) (s : State) : Result :=
  let d := s.die die
  let waiting := (d.walks.filter fun x => 0 < x.2).map (·.1)
  let few := waiting.filter fun x => decide ((d.walkers.get x).getD 0 < 8)
  match nextContext d.lastWalk (if few.isEmpty then waiting else few) with
  | none => .next s
  | some x =>
    if d.walksRunning < 128 then
      .next (s.setDie die { d with
        walks := d.walks.put x ((d.walks.get x).getD 0 - 1)
        walkers := d.walkers.put x ((d.walkers.get x).getD 0 + 1)
        lastWalk := x })
    else .next s

/-! ## Page migration (R371 to R373) -/

/-- The place of the level 0 entry of an address. -/
def pteFrom (m : Memory) (va : Nat) : Nat → Nat → Option Nat
  | 0, table => some (table + 8 * (va / 2 ^ 16 % 32))
  | level + 1, table =>
    let idx := match level with
      | 0 => va / 2 ^ 21 % 512 | 1 => va / 2 ^ 30 % 512 | _ => va / 2 ^ 39 % 131072
    match readEntry (m.readN (table + 8 * idx) 8) (level + 1) 0 va with
    | .inl _ => none
    | .inr t => pteFrom m va level t

/-- Every leaf of every context that maps a byte of a 64 KiB physical page. -/
def State.mappers (s : State) (pa : Nat) : List Leaf :=
  (s.contexts.flatMap fun x => s.leaves x.1 0 (2 ^ 56)).filter fun l => overlaps l.pa l.size pa 65536

/-- Point an entry to another page; F says whether that lies in the far tier (R337). -/
def State.repoint (s : State) (l : Leaf) (newPa : Nat) : State :=
  match s.ctxCfg l.cx with
  | none => s
  | some c => match pteFrom s.mem l.va 3 c.root with
    | none => s
    | some p =>
      let e : Word := BitVec.ofNat 64 (s.peek (.phys p) 8)
      let far := decide (paKind newPa = .far)
      let e1 : Word := BitVec.ofNat 64 newPa ||| (e &&& 0xBF#64) ||| (if far then 0x40#64 else 0)
      (s.poke (.phys p) 8 e1.toNat).tlbi none l.cx l.va 65536

/-- A waiting task's place in a moved page. -/
def Wait.moved (old new : Nat) (w : Wait) : Wait :=
  let f (pa : Nat) : Nat := if old ≤ pa ∧ pa < old + 65536 then new + (pa - old) else pa
  match w with
  | .waita (.phys pa) w64 e d acq va => .waita (.phys (f pa)) w64 e d acq va
  | .tokcFull pa u va => .tokcFull (f pa) u va
  | w => w

def Core.movedPage (c : Core) (old new : Nat) : Core :=
  { c with slots := c.slots.map fun t => { t with wait := t.wait.map (Wait.moved old new) } }

/-- The CDC copies and U lines of n bytes of memory end in every cluster; the U lines are combined first. -/
def State.freshLines (s : State) (pa n : Nat) : State :=
  let hit (l : Nat) : Bool := decide (pa / 64 ≤ l ∧ 64 * l < pa + n)
  s.clusters.foldl (fun s x => ((s.combineWhere x.1 hit).dropCopies x.1 hit).dropLate x.1 hit) s

/-- The bytes, reply entries, waiters and damage of one line move to its new place, with what its half-words were (R73). -/
def State.moveLine (s : State) (old new : Nat) : State :=
  let s1 := s.combineLine (old / 64)
  let s2 := (s1.poke (.phys new) 64 (s1.peek (.phys old) 64)).wakeLine (.phys (old / 64))
  let from' (x : Nat) : Bool := x / 32 == old / 64
  { s2 with
    replies := s2.replies.map fun e =>
      if e.line = .phys (old / 64) then { e with line := .phys (new / 64), moved := true } else e
    damaged := (s2.damaged.filter fun d => !(d.1 == .mem && d.2.2 == new / 64)).map fun d =>
      if d.1 = .mem ∧ d.2.2 = old / 64 then (.mem, d.2.1, new / 64) else d
    oldCode := (s2.oldCode.filter fun x => x.1 / 32 != new / 64).map fun x =>
      if from' x.1 then (new / 64 * 32 + x.1 % 32, x.2) else x }

/-- Entries that the side table of a slice holds (R372). -/
def State.sideEntries (s : State) (slice : Nat) : Nat :=
  (s.replies.filter fun e => e.moved && match e.line with
    | .phys l => (Loc.phys (64 * l)).slice == slice
    | _ => false).length

/-- The page tables of a context below a table of a level: base and bytes of each (R336). -/
def tablesFrom (m : Memory) : Nat → Nat → List (Nat × Nat)
  | 0, table => [(table, 256)]
  | level + 1, table =>
    (table, 8 * levelEntries (level + 1)) ::
      (tableEntries m table (levelEntries (level + 1))).flatMap fun i =>
        match readEntry (m.readN (table + 8 * i) 8) (level + 1) 0 0 with
        | .inr t => tablesFrom m level t
        | .inl _ => []

/-- The page tables of every context. -/
def State.tables (s : State) : List (Nat × Nat) := s.contexts.flatMap fun x => tablesFrom s.mem 3 x.2.cfg.root

/-- Every leaf of every context. -/
def State.allLeaves (s : State) : List Leaf := s.contexts.flatMap fun x => s.leaves x.1 0 (2 ^ 56)

/-- Every leaf that a TLB or a replaced translation still holds (R339). -/
def State.heldLeaves (s : State) : List Leaf :=
  (s.coreIds.flatMap fun c => (s.core c).l1) ++ (s.clusters.flatMap fun x => x.2.l2) ++ s.oldWalks.flatMap fun o => o.leaves

/-- No leaf of a list includes a page-table page. -/
def State.tablesClear (s : State) (l : List Leaf) : Bool :=
  let ts := s.tables
  l.all fun x => ts.all fun t => !overlaps x.pa x.size t.1 t.2

/-- No mapping includes a page-table page (R336). -/
def State.tablesApart (s : State) : Bool := s.tablesClear s.allLeaves

/-- An address of memory lies in a leaf. -/
def inLeaves (l : List Leaf) (pa : Nat) : Bool := l.any fun x => decide (x.pa ≤ pa ∧ pa < x.pa + x.size)

/-- Leaves may appear in the tables: none names a page from which accesses are still redirected (R371), and none a page that
another context can reach, or reaches by the same write of a table, but where the tenants asked (R329, R330, R338). -/
def State.mayMap (s : State) (fresh : List Leaf) (asked : Bool) : Bool :=
  let all := s.allLeaves ++ s.heldLeaves ++ fresh
  fresh.all fun l => !(s.redirects.any fun r => overlaps r.oldPa 65536 l.pa l.size) &&
    (asked || !all.any fun x => x.cx != l.cx && overlaps x.pa x.size l.pa l.size)

/-- The state t with leaves that have appeared since s: a page of this X40 that no context could reach is cleared first (R381),
no cache has a line of it, no older code of it is fetched, and the clearing wakes who waits there (R225). A page of another X40 is left to that one (R343). -/
def State.mapped (s t : State) (fresh : List Leaf) : State :=
  let before := s.allLeaves ++ s.heldLeaves
  let new (a : Nat) : Bool := paDevice a == Config.ownDevice && inLeaves fresh a && !inLeaves before a
  let u := fresh.foldl (fun s l => s.freshLines l.pa l.size) t
  let v : State := { u with
    mem := u.mem.filter fun c => !new c.1
    damaged := u.damaged.filter fun d => !(d.1 == .mem && new (64 * d.2.2))
    oldCode := u.oldCode.filter fun x => !new (2 * x.1) }
  let woken := (v.waiters.map (·.line)).eraseDups.filter fun l => match l with | .phys x => new (64 * x) | _ => false
  woken.foldl State.wakeLine v

/-- A context has asked that the page at an address be moved although it is pinned (R371). -/
def State.hasAsked (s : State) (cxid va : Nat) : Bool := (s.contexts.get cxid).any fun x => x.asks.contains (va / 65536)

/-- PAGE_MIGRATION: a 64 KiB page, pinned only where the context asks, moves to a physical page that nothing maps and no page
table lies in; every mapping of it is rewritten and its TLB entries end (log entry 44, DESIGN CHOICE). -/
def execPageMigration (cxid va newPa : Nat) (s : State) : Result :=
  match s.walk cxid va with
  | .leaf l =>
    let all := s.mappers l.pa
    let ok (x : Leaf) : Bool := x.size == 65536 && (!x.pin || s.hasAsked x.cx x.va)
    let known (x : Leaf) : Bool := !overlaps x.pa x.size l.pa 65536 ||
      all.any fun y => y.cx == x.cx && overlaps x.va x.size y.va y.size
    let fits := decide (newPa % 65536 = 0 ∧ paDevice newPa = Config.ownDevice) &&
      (paKind newPa == .device || paKind newPa == .far)
    let old := paKind l.pa == .device || paKind l.pa == .far
    let free := !((s.allLeaves ++ s.heldLeaves).any fun x => overlaps x.pa x.size newPa 65536) &&
      !(s.redirects.any fun r => overlaps r.oldPa 65536 newPa 65536) && !s.tables.any fun t => overlaps newPa 65536 t.1 t.2
    if fits && old && all.all ok && s.heldLeaves.all known && free then
      let s1 := (List.range 1024).foldl (fun s i => s.moveLine (l.pa + 64 * i) (newPa + 64 * i)) (s.freshLines newPa 65536)
      if (List.range 1024).any fun i => decide (512 < s1.sideEntries (Loc.phys (newPa + 64 * i)).slice) then .next s
      else
        let s2 := all.foldl (fun s x => s.repoint x newPa) s1
        let s3 := s2.coreIds.foldl (fun s c => s.modCore c fun c => c.movedPage l.pa newPa) s2
        .next { s3 with redirects := s3.redirects ++ [{ oldPa := l.pa, newPa := newPa, since := s.now }] }
    else .next s
  | _ => .next s

/-- REDIRECTION_END: 65,536 cc after the TLBI (R371). -/
def execRedirectionEnd (k : Nat) (s : State) : Result :=
  match s.redirects[k]? with
  | none => .next s
  | some r => if r.since + 65536 ≤ s.now then .next { s with redirects := s.redirects.eraseIdx k } else .next s

/-! ## Soft errors (R374 to R376) -/

/-- A damaged unit as a place, with its bytes (R375). -/
def unitPlace (sp : Space) (key unit : Nat) : Loc × Nat :=
  match sp with
  | .lm => (.lm key (4 * unit), 4)
  | .csp => (.csp key (4 * unit), 4)
  | .dsw => (.dsw key (4 * unit), 4)
  | .mem => (.phys (64 * unit), 64)

/-- n bytes that firmware chooses, as a number. -/
def scrubbed (tick : Nat) : Nat → Nat
  | 0 => 0
  | n + 1 => scrubbed tick n + (Config.scrubByte tick n).toNat * 256 ^ n

/-- The uncorrectable error that a scrub meets is recorded as an engine's: KIND 2, of the core for its LM, which leaves service, and
else of SRC 0xFFFF, with the context that owns the unit and the page that maps it (R362, R375, R376) (log entry 23, DEDUCED). -/
def State.scrubError (s : State) (sp : Space) (key unit : Nat) : State :=
  match sp with
  | .lm => s.counterError key
  | .csp => s.report (dieOfCluster key) (faultRec ((s.cluster key).owner.getD 0) 0 2 .mchk 0 0xFFFF)
  | .dsw =>
    let holds (x : Nat × Context) : Bool := x.2.cfg.dsw.any fun r =>
      r.1 == key && decide (65536 * r.2.1 ≤ 4 * unit ∧ 4 * unit < 65536 * (r.2.1 + r.2.2))
    s.report key (faultRec (((s.contexts.find? holds).map (·.1)).getD 0) 0 2 .mchk 0 0xFFFF)
  | .mem =>
    let pa := 64 * unit
    let r := match s.allLeaves.find? fun l => decide (l.pa ≤ pa ∧ pa < l.pa + l.size) with
      | some l => faultRec l.cx ((l.va + (pa - l.pa)) / 65536) 2 .mchk 0 0xFFFF
      | none => faultRec 0 0 2 .mchk 0 0xFFFF
    s.report (homeDieOf pa) r

/-- An LM word lies in the workspace or the save area of a task in a slot: firmware leaves it as it is until the task has been
seen to (R376). -/
def State.taskWord (s : State) (sp : Space) (key unit : Nat) : Bool :=
  sp == .lm && (List.range 8).any fun i =>
    let t := (s.core key).slot i
    t.held && (overlaps (4 * unit) 4 (512 * i) 512 || overlaps (4 * unit) 4 t.ws.vsd.area.1 t.ws.vsd.area.2)

/-- PATROL_SCRUB: a corrected word changes no value; a damaged unit is recorded, and firmware rewrites it, with what it chooses
(R374, R375). A word of a task's own state is not rewritten while the task is there (R356, R376). -/
def execPatrolScrub (sp : Space) (key unit : Nat) (s0 : State) : Result :=
  if s0.damaged.contains (sp, key, unit) then
    let s := s0.scrubError sp key unit
    if s.taskWord sp key unit then .next s else
    let p := unitPlace sp key unit
    let v := scrubbed s.tick p.2
    let s1 : State := { s with tick := s.tick + 1, damaged := s.damaged.filter fun d => d != (sp, key, unit) }
    .next (match p.1 with
      | .phys pa => s1.storeHome pa p.2 v
      | l => (s1.poke l p.2 v).wakeLine l.line)
  else .next s0

/-- The handlers of a task that firmware has retired lose their link to its slot, and its own handler record is dropped (log
entry 19, DESIGN CHOICE). -/
def State.unlink (s : State) (cid slot : Nat) : State :=
  let off (t : Slot) : Slot := if t.link = some slot then { t with link := none } else t
  let s1 := s.modCore cid fun c => { c with
    slots := c.slots.map off, runList := c.runList.filter fun r => r.kind != .handler slot }
  { s1 with savedTasks := s1.savedTasks.map fun x =>
      if x.cid = cid ∧ s.cxOf cid = some x.cx then { x with task := off x.task } else x }

/-- A task of a core that retires: saved for its move, at once or when its reply comes, or retired with a KIND 10 record. -/
def State.evict (s : State) (cid slot : Nat) : State :=
  let t := (s.core cid).slot slot
  if !t.held then s
  else if s.taskClean cid slot then
    if t.ws.tsw.state = .saved then s
    else if t.awaitsReply then s.modSlot cid slot fun t =>
      { t with preempt := some (t.preempt.getD s.now), ws := { t.ws with ctl := { t.ws.ctl with pres := 1 } } }
    else s.meetRequest cid slot
  else ((s.report (dieOf cid) (faultRec ((s.cxOf cid).getD 0) 0 10 .none 8 cid)).retire cid slot).unlink cid slot

/-- CORE_RETIREMENT: a core with an uncorrectable LM error leaves service, unless it has when the error was met (State.failLm), and
firmware sees to its tasks; a lent one is first reclaimed (R299). Its clean tasks move by CORE_MOVE. -/
def execCoreRetirement (cid : Nat) (s : State) : Result :=
  let c := s.core cid
  if c.retired || s.lmHit cid [(0, Config.lmSize)] then
    let s1 := match c.lent with
      | some (ld, sl) => s.reclaim ld sl
      | none => s
    let s2 := s1.failLm (.lm cid 0)
    let s3 := (s2.refuseKv cid).modCore cid fun c => { c with dirQ := [], aside := [] }
    .next ((List.range 8).foldl (fun s i => s.evict cid i) s3)
  else .next s

/-! ## The flag fall (R377) -/

/-- HOST_SNAP_TRIGGER: the host raises 0 to 127. -/
def execHostSnapTrigger (n : Nat) (s : State) : Result := .next (if n < 128 then s.trigger n else s)

/-- Occupancies of the blocks of a core: tasks, run list, deque, messages, matrix queue, directory, page-ins, unanswered atomics,
tickets, channels, queues, counter blocks, combines, translations, the task table, the predictor tables, the operand latches. -/
def Core.occupancy (c : Core) : List Nat :=
  [((List.range 8).filter fun i => (c.slot i).held).length, c.runList.length, c.deque.length, c.sendQ.length, c.inbound.length,
    c.mx.queue.length, c.mx.records.length, c.dirQ.length, c.aside.length, c.pageIns.length, c.unanswered.length,
    ((List.range 32).filter fun i => (c.ticket i).state != .free).length, c.counters.length, c.combines.length, c.l1.length] ++
    c.chans.toList.map (fun x => x.flight.length) ++ c.local4.toList.map (·.length) ++
    ((List.range 8).flatMap fun i => (c.slot i).queues.toList.map (·.length)) ++
    [(c.tt.filter fun e => e.2.valid).length] ++ c.preds.toList.map (fun t => (t.toList.filter fun p => p.valid).length) ++
    [(c.mx.latch.toList.filter fun l => l.full).length]

/-- Counters of a core: BYTES and DROPS of its copy channels, and PUSHED and DONE (R170, R236). -/
def Core.counts (c : Core) : List Nat :=
  c.chans.toList.flatMap (fun x => [x.bytes.toNat, x.drops.toNat]) ++ [c.mx.pushed.toNat, c.mx.done.toNat]

/-- The home slice of a line, numbered as Loc.line numbers it. -/
def lineSlice : Loc → Nat
  | .phys l => (Loc.phys (64 * l)).slice
  | .dsw d l => (Loc.dsw d (64 * l)).slice
  | _ => 0

/-- What the snapshot registers latch (R377) (log entry 30, DEDUCED). -/
def State.snapshotNow (s : State) : Snapshot :=
  { corrected := s.corrected
    lastErrs := s.lastErrs
    cores := s.coreIds.map fun c => (c, (s.core c).occupancy)
    counters := s.coreIds.map fun c => (c, (s.core c).counts)
    clusters := s.clusters.map fun x =>
      (x.1, [x.2.copies.length, x.2.ulines.length, x.2.l2.length, x.2.composeQ.length])
    dies := s.dies.map fun d => (d.1, [d.2.launchQ.length, d.2.faults.length, d.2.lists.length, d.2.walksRunning,
      d.2.walks.foldl (fun n x => n + x.2) 0])
    slices := ((s.replies.map (·.slice) ++ s.waiters.map fun w => lineSlice w.line).eraseDups).map fun k =>
      (k, [(s.replies.filter fun e => e.slice == k).length, (s.waiters.filter fun w => lineSlice w.line == k).length])
    prefixes := s.contexts.map fun x => (x.1, [x.2.prefixes.length, x.2.sptQ.length])
    records := s.dies.map fun d => (d.1, d.2.lastErr) }

/-- FLAG_FALL_LATCH: 40 cc after the oldest trigger under way; where an earlier one has been latched meanwhile the snapshot is
held, and this one is dropped and counted. -/
def execFlagFallLatch (s : State) : Result :=
  match s.fallAt with
  | [] => .next s
  | (n, t) :: rest =>
    if s.snapHeld then .next { s with trigDrops := s.trigDrops + 1, fallAt := rest }
    else if t + 40 ≤ s.now then
      .next { s with falls := s.falls + 1, lastTrig := BitVec.ofNat 8 n, snapHeld := true, fallAt := rest
                     snapshot := some s.snapshotNow }
    else .next s

/-- SNAPSHOT_REARM. -/
def execSnapshotRearm (s : State) : Result := .next { s with snapHeld := false }

/-! ## Heat (R382) -/

/-- THERMAL_THROTTLE: slower clocks alter time only. -/
def execThermalThrottle (die : Nat) (s : State) : Result :=
  .next (s.modDie die fun d => if d.thermal = .normal then { d with thermal := .throttled } else d)

/-- The contexts with tasks on a die. -/
def State.contextsOn (s : State) (die : Nat) : List Nat :=
  ((s.coreIds.filter fun c => dieOf c == die && (List.range 8).any fun i => ((s.core c).slot i).held).filterMap
    s.cxOf).eraseDups

/-- THERMAL_TRIP: the die stops issuing (log entry 42, DESIGN CHOICE). -/
def execThermalTrip (die : Nat) (s : State) : Result :=
  if (s.die die).thermal = .tripped then .next s
  else
    let s1 := (s.contextsOn die).foldl (fun s cx => s.report die (faultRec cx 0 10 .none 9 0xFFFF)) s
    .next ((s1.modDie die fun d => { d with thermal := .tripped }).trigger 133)

/-! ## Reset and start (R381) -/

/-- RESET: everything but memory, what other devices grant, and the model's own counters. Damaged words of SRAM are written, and
a damaged line that a home slice held dirty is there no more (R375, R381); what its bytes then are in device memory no rule says:
they stay (log entry 8, DEDUCED). -/
def execReset (s : State) : Result :=
  .next { State.reset with
    mem := s.mem, grants := s.grants, lastRead := s.lastRead, agenda := s.agenda, now := s.now, tick := s.tick
    damaged := s.damaged.filter fun d => d.1 == .mem && d.2.1 != dirtyLine }

/-- One bit of the IEEE 802.3 CRC. -/
def crcBit (c : BitVec 32) : BitVec 32 := if c.getLsbD 0 then (c >>> 1) ^^^ 0xEDB88320#32 else c >>> 1
def crcByte (c : BitVec 32) (b : Byte) : BitVec 32 := (List.range 8).foldl (fun c _ => crcBit c) (c ^^^ b.setWidth 32)

/-- The CRC-32 of n bytes from a. -/
def crc32 (m : Memory) (a n : Nat) : BitVec 32 :=
  ~~~((List.range n).foldl (fun c i => crcByte c (m.get (a + i))) 0xFFFFFFFF#32)

/-- FIRMWARE_START: the service cores check the image in its staging range. -/
def execFirmwareStart (base len : Nat) (crc : BitVec 32) (s : State) : Result :=
  if s.firmware = .ready then .next s
  else if len ≤ 64 * 2 ^ 20 ∧ base + len ≤ Config.devMemSize ∧ crc32 s.mem base len = crc then
    .next { s with firmware := .ready }
  else .next { s with firmware := .halted true }

/-! ## The host and other devices (R342, R343) -/

/-- An aligned access of n bytes from outside, performed at its home, which of a migrated page is the new one (R371): what has
been read there may be told to any task (log entry 29, DESIGN CHOICE). -/
def State.outside (s : State) (write : Bool) (asked n : Nat) (data : Line) : State :=
  let pa := (s.redirected (.phys asked)).off
  if write then
    if (s.damagedPart (.phys pa) n).isSome then s else ((s.mend (.phys pa) n).storeHome pa n (data.toNat % 2 ^ (8 * n))).outdateLate (pa / 64)
  else if (s.damagedByte (.phys pa) n).isSome then
    { s with
      lastRead := (List.range 8).foldl (fun x i => x <<< 64 ||| (Config.freeWord (s.tick + i)).setWidth 512) 0
      tick := s.tick + 8 }
  else
    let s1 := (s.combineLine (pa / 64)).dropLateAll fun x => x == pa / 64
    { s1 with lastRead := BitVec.ofNat 512 (s1.peek (.phys pa) n) }

/-- HOST_BAR_ACCESS: the host reaches the ranges that firmware exposes; before firmware is ready it loads an image into
device memory (R381). -/
def execHostBarAccess (write : Bool) (pa : Nat) (data : Word) (s : State) : Result :=
  let dev := decide (pa + 8 ≤ Config.devMemSize)
  let open1 := s.bars.any fun b => decide (b.1 ≤ pa ∧ pa + 8 ≤ b.1 + b.2.1) && (!write || b.2.2)
  if pa % 8 = 0 && dev && (open1 || s.firmware != .ready) then .next (s.outside write pa 8 (data.setWidth 512)) else .next s

/-- The export table gives n bytes of device memory or the far tier to another X40's context (R343). -/
def State.givesBytes (s : State) (dev cxid pa n : Nat) : Bool :=
  decide (pa % n = 0) && paDevice pa == Config.ownDevice && (paKind pa == .device || paKind pa == .far) &&
    s.exports.any (fun x => x.gives false dev cxid pa) && s.exports.any fun x => x.gives false dev cxid (pa + n - 1)

/-- The bytes of an access from another X40 (R197). -/
def remoteBytes (op : RemoteOp) : Nat := (op.size.map sizeBytes).getD 64

/-- MARHEL_REMOTE_ACCESS: a load or store of another X40, of any size of R204 or of R215's 64 bytes, to what the export table
gives its context: one event (R197, R343). -/
def execMarhelRemoteAccess (dev cxid : Nat) (op : RemoteOp) (pa : Nat) (data : Line) (s : State) : Result :=
  if s.givesBytes dev cxid pa (remoteBytes op) then .next (s.outside op.write pa (remoteBytes op) data) else .next s

/-! ## Contexts (R16, R331, R333, R353, R354, R365) -/

/-- A pre-emption map is sorted, its addresses differ, and no reserved bit is set (R365). -/
def mapOk (m : Nat × Nat × List (Word × Word)) : Bool :=
  m.2.2.all (fun e => e.1.extractLsb' 56 8 == 0#8 && e.2.extractLsb' 56 8 == 0#8) &&
    (m.2.2.zip (m.2.2.drop 1)).all fun p => decide (p.1.1.toNat < p.2.1.toNat)

/-- DSW ranges of two contexts never overlap, and they lie in the die's DSW bytes (R16). -/
def State.dswFree (s : State) (l : List (Nat × Nat × Nat)) : Bool :=
  l.all fun x => decide (x.1 < 8 ∧ x.2.1 + x.2.2 ≤ Config.dswSize / 65536) &&
    s.contexts.all fun c => c.2.cfg.dsw.all fun y => y.1 != x.1 || !overlaps x.2.1 x.2.2 y.2.1 y.2.2

/-- DSW bytes of a die that contexts hold, in 64 KiB units: as many KiB of each of its 64 slices (R12, R16). -/
def State.dswUnits (s : State) (die : Nat) (l : List (Nat × Nat × Nat)) : Nat :=
  ((l ++ s.contexts.flatMap fun c => c.2.cfg.dsw).filter fun x => x.1 == die).foldl (fun n x => n + x.2.2) 0

/-- The quotas of a slice sum to at most its cache bytes: 1 MiB less its DSW bytes, which lie evenly over the slices of the
die (R333) (log entry 54, DEDUCED). -/
def State.quotasFit (s : State) (cfg : ContextCfg) : Bool :=
  let all := cfg.quotas ++ s.contexts.flatMap fun c => c.2.cfg.quotas
  cfg.quotas.all (fun x => decide (x.1 < 8 * Config.slicesPerDie)) && all.all fun x =>
    decide ((all.filter fun q => q.1 == x.1).foldl (fun n q => n + q.2) 0 + s.dswUnits (x.1 / Config.slicesPerDie) cfg.dsw ≤ 1024)

/-- CONTEXT_CREATION: firmware creates a context with an identifier that is not live. What its tables map already is mapped as
by writeTable: no page-table page (R336), no page of another context, and every page cleared (R329, R338, R381). No table lies
in a page that a TLB still reaches (R329, R339). -/
def execContextCreation (cfg : ContextCfg) (s : State) : Result :=
  let fine := decide (cfg.cxid < 4096 ∧ cfg.root % 2 ^ 20 = 0 ∧ cfg.maps.length ≤ 64 ∧ cfg.handler.getD 0 < 256) &&
    cfg.maps.all mapOk && s.dswFree cfg.dsw && s.quotasFit cfg && cfg.classes.all fun x => decide (x.2 < 16)
  let t : State := { s with contexts := s.contexts.put cfg.cxid { cfg := cfg, prefixes := [], sptQ := [] } }
  let fresh := t.leaves cfg.cxid 0 (2 ^ 56)
  if s.firmware = .ready ∧ (s.contexts.get cfg.cxid).isNone ∧ fine ∧ t.tablesApart ∧ t.tablesClear s.heldLeaves ∧
      s.mayMap fresh false then
    .next (s.mapped t fresh)
  else .next s

/-- What a core holds of a context besides tasks is invalidated: predictor and TLB entries. -/
def Core.forget (c : Core) (cx : Nat) : Core :=
  { c with
    preds := c.preds.map fun t => t.map fun p => if p.cx = cx then Pred.reset else p
    l1 := c.l1.filter fun l => l.cx != cx
    combines := c.combines.filter fun x => x.cx != cx }

def Die.forget (d : Die) (cx : Nat) : Die :=
  { d with
    faults := d.faults.filter fun r => r.cx != cx
    lists := d.lists.map fun l => { l with entries := l.entries.filter fun r => r.cx != cx }
    launchQ := d.launchQ.filter fun x => x.cx != cx }

/-- A die without the DSW bytes of a context's ranges: the next context there reads none of them (R329). -/
def Die.clearDsw (d : Die) (die : Nat) (l : List (Nat × Nat × Nat)) : Die :=
  { d with dsw := (l.filter fun x => x.1 == die).foldl (fun m x => m.clear (65536 * x.2.1) (65536 * (x.2.1 + x.2.2))) d.dsw }

/-- CONTEXT_TEARDOWN: a context that owns no cluster ends; every entry tagged with its identifier is invalidated, and its DSW
bytes are cleared (R329, R331). -/
def execContextTeardown (cxid : Nat) (s : State) : Result :=
  let ranges := ((s.ctxCfg cxid).map (·.dsw)).getD []
  if (s.contexts.get cxid).isNone || s.clusters.any fun k => k.2.owner == some cxid then .next s
  else
    .next { s with
      contexts := s.contexts.erase cxid
      here := s.here.forget cxid
      others := s.others.map fun x => (x.1, x.2.forget cxid)
      clusters := s.clusters.map fun x => (x.1, { x.2 with l2 := x.2.l2.filter fun l => l.cx != cxid })
      dies := s.dies.map fun x => (x.1, (x.2.forget cxid).clearDsw x.1 ranges)
      damaged := s.damaged.filter fun d => !(d.1 == .dsw && ranges.any fun r =>
        r.1 == d.2.1 && decide (65536 * r.2.1 ≤ 4 * d.2.2 ∧ 4 * d.2.2 < 65536 * (r.2.1 + r.2.2)))
      oldWalks := s.oldWalks.filter fun o => o.cx != cxid
      replies := s.replies.filter fun e => e.cx != cxid
      launches := s.launches.filter fun l => l.cx != cxid
      fwMsgs := s.fwMsgs.filter fun m => m.cx != cxid
      savedTasks := s.savedTasks.filter fun x => x.cx != cxid
      savedClusters := s.savedClusters.filter fun x => x.cx != cxid }

end Sys2Proof.Machine
end

