-- ==== Sys2Proof/Machine/Events.lean ====
section
/-! DEFINITION. The acts of an agenda: firmware's tables (R336 to R343, R377), the outside world (R342, R343), replacement in
caches (R222, R339), and soft errors (R186, R299, R374, R375) (log entry 55, DESIGN CHOICE). -/

namespace Sys2Proof.Machine

/-! ## Page tables (R336 to R339) -/

/-- The virtual range that a page-table entry at a physical address maps, below a table of a level. -/
def entryRange (m : Memory) (pa : Nat) : Nat → Nat → Nat → Option (Nat × Nat)
  | 0, table, base => if table ≤ pa ∧ pa < table + 256 then some (base + 2 ^ 16 * ((pa - table) / 8), 2 ^ 16) else none
  | level + 1, table, base =>
    if table ≤ pa ∧ pa < table + 8 * levelEntries (level + 1) then
      some (base + levelSize (level + 1) * ((pa - table) / 8), levelSize (level + 1))
    else (tableEntries m table (levelEntries (level + 1))).findSome? fun i =>
      match readEntry (m.readN (table + 8 * i) 8) (level + 1) 0 0 with
      | .inr t => entryRange m pa level t (base + levelSize (level + 1) * i)
      | .inl _ => none

/-- The translations that a write of an entry replaces, in every context whose tables hold it; t is the state after it. -/
def State.replacedWalks (s t : State) (pa : Nat) : List OldWalk :=
  s.contexts.filterMap fun x =>
    match entryRange s.mem pa 3 x.2.cfg.root 0 with
    | some (va, n) =>
      let old := s.leaves x.1 va (va + n)
      if old = t.leaves x.1 va (va + n) then none else some { cx := x.1, va := va, size := n, leaves := old, ended := [] }
    | none => none

/-- Every 64 KiB of a leaf still has its physical page. -/
def State.keeps (s : State) (l : Leaf) : Bool :=
  (List.range (l.size / 65536)).all fun i => s.allLeaves.any fun x =>
    x.covers l.cx (l.va + 65536 * i) && x.pa + (l.va + 65536 * i - x.va) == l.pa + 65536 * i

/-- Firmware writes a page-table entry. No mapping may include a page-table page, nor may one that was there before or that a TLB
still holds (R336, R339), what appears may be mapped, and a pinned
page keeps its place unless its context asks (R337). Until a TLBI the old translation may answer (R339). -/
def State.writeTable (s : State) (pa : Nat) (e : Word) (asked : Bool) : State :=
  let t := s.poke (.phys pa) 8 e.toNat
  let fresh := t.allLeaves.filter fun l => !s.allLeaves.contains l
  let gone := s.allLeaves.filter fun l => !t.allLeaves.contains l
  let pinned := gone.all fun l => !l.pin || asked || s.hasAsked l.cx l.va || t.keeps l
  let held := s.allLeaves ++ s.heldLeaves
  let ok := decide (pa % 8 = 0) && (paKind pa == .device || paKind pa == .firmware) && !inLeaves held pa
  if ok && t.tablesApart && t.tablesClear held && s.mayMap fresh asked && pinned then
    let u := s.mapped t fresh
    { u with oldWalks := u.oldWalks ++ s.replacedWalks t pa }
  else s

/-! ## The outside world (R342, R343) -/

/-- Add an item to a table, or remove it. -/
def edited {α : Type} [BEq α] (l : List α) (add : Bool) (x : α) : List α :=
  if add then l ++ [x] else l.filter fun y => !(y == x)

/-- The export table gives a core to another X40's context. -/
def State.gives (s : State) (dev cxid cid : Nat) : Bool := s.exports.any fun x => x.gives true dev cxid cid

/-- An atomic of another X40: performed once for its source and number. It acknowledges the replies to the numbers 32 and more
below its own, since a source has at most 32 unanswered atomics at a slice (R218, R220, R343, R372) (log entry 29, DESIGN
CHOICE). What it has read may be told to any task. -/
def State.remoteAtomic (s : State) (dev cxid src seq pa : Nat) (op : HomeOp) (val cmp : Word) : State :=
  let n := homeBytes op
  let home := s.redirected (.phys pa)
  let source := 0x10000 * (dev + 1) + src
  if op != .tokc && s.givesBytes dev cxid pa n && (s.damagedByte home n).isNone then
    let s1 := (s.acknowledge source (Loc.phys pa).slice (seq - 31)).dropLateAll fun x => x == home.off / 64
    let r := s1.perform source seq (.phys pa) op val.toNat cmp.toNat
    { r.2.2 with lastRead := BitVec.ofNat 512 r.1 }
  else s

/-- A WAITA of another X40: its home compares, replies at once, or keeps it as a waiter of the line; a seventeenth wakes all (R224,
R225, R343). Of a word that it may not read, or a damaged one, nothing is performed. -/
def State.remoteWaita (s : State) (dev cxid src slot pa : Nat) (w64 : Bool) (expected : Word) : State :=
  let n := if w64 then 8 else 4
  let home := (s.redirected (.phys pa)).off
  let line := Loc.phys (home / 64)
  let x : FarWait := { dev := dev, cx := cxid, src := src, slot := slot, asked := pa, pa := home, w64 := w64 }
  if s.givesBytes dev cxid pa n && (s.damagedByte (.phys home) n).isNone && !s.waiters.any fun w => w.isFar dev src slot then
    let s1 := (s.combineLine (home / 64)).dropLateAll fun l => l == home / 64
    if s1.peek (.phys home) n ≠ expected.toNat % 2 ^ (8 * n) then s1.answerFar x
    else if (s1.waiters.filter fun w => w.line == line).length < 16 then
      { s1 with waiters := s1.waiters ++ [{ line := line, cid := 0x10000 * (dev + 1) + src, slot := slot, far := some x }] }
    else (s1.wakeLine line).answerFar x
  else s

/-- The WAITA of another X40 ends at its source, 2^20 cc after its park or by a pre-emption: the home replies with what it reads
now (R225). -/
def State.remoteWaitaEnd (s : State) (dev src slot : Nat) : State :=
  match s.waiters.find? fun w => w.isFar dev src slot with
  | some w =>
    let s1 : State := { s with waiters := s.waiters.filter fun w => !w.isFar dev src slot }
    match w.far with
    | some x => (s1.combineLine (x.pa / 64)).answerFar x
    | none => s
  | none => s

/-- A message of another X40 that the export table admits is received; one that is refused is offered again by its sender
(R264, R343). -/
def State.remoteMessage (s : State) (dev cxid src dst : Nat) (chan : Byte) (load : Payload) : State :=
  let m : Msg := { src := src, cx := cxid, dev := none, dst := dst, chan := chan, load := load, refused := none
                   origin := some dev }
  if s.gives dev cxid dst then (s.receive dst m).getD s else s

/-- A decrement of another X40: dropped as a message where the core takes none, and recorded where no counter is armed (R280,
R343). -/
def State.remoteDec (s : State) (dev cxid src dst off : Nat) (n : Word) : State :=
  let m : Msg := { src := src, cx := cxid, dev := none, dst := dst, chan := 0, load := .dec off n, refused := none
                   origin := some dev }
  if !s.gives dev cxid dst then s
  else if !s.admits dst m then s.dropMsg dst m
  else if s.armed dst off then s.applyDec dst off n
  else s.report (dieOf dst) (faultRec cxid 0 5 .none 0 src)

/-! ## Replacement and walkers -/

/-- The CDC replaces a line: a copy is dropped, a U line is combined at its home (R222). -/
def State.replaceLine (s : State) (cluster line : Nat) : State :=
  (s.combineWhere cluster (· == line)).dropCopy cluster line

/-- A demand walk takes a free walker of its die, or waits for one: a freed walker goes first to a walk that waits (R340). -/
def State.startWalk (s : State) (die cxid : Nat) : State :=
  s.modDie die fun d =>
    if d.walksRunning < 128 ∧ d.walks.all (fun x => x.2 == 0) then { d with walkers := d.walkers.put cxid ((d.walkers.get cxid).getD 0 + 1) }
    else { d with walks := d.walks.put cxid ((d.walks.get cxid).getD 0 + 1) }

/-- A walk of a context ends and frees its walker. -/
def State.endWalk (s : State) (die cxid : Nat) : State :=
  s.modDie die fun d => { d with walkers := d.walkers.put cxid ((d.walkers.get cxid).getD 0 - 1) }

/-! ## Soft errors (R374, R375) -/

/-- A corrected error of a block is counted. -/
def countError (l : List (Block × Nat × Nat)) (b : Block) (key : Nat) : List (Block × Nat × Nat) :=
  match l with
  | [] => [(b, key, 1)]
  | x :: t => if x.1 = b ∧ x.2.1 = key then (b, key, x.2.2 + 1) :: t else x :: countError t b key

/-- The last error of a block, uncorrectable where bad (R377). -/
def State.noteError (s : State) (b : Block) (key : Nat) (bad : Bool) : State :=
  { s with lastErrs := (s.lastErrs.filter fun x => !(x.1 == b && x.2.1 == key)) ++ [(b, key, bad)] }

/-- The block of a memory. -/
def Space.block : Space → Block
  | .lm => .lm | .csp => .csp | .dsw => .dsw | .mem => .mem

/-- The block instance that a damaged unit of a memory lies in; a dirty line lies in its home slice (R375). -/
def spaceBlock (sp : Space) (key unit : Nat) : Block × Nat :=
  if sp = .mem then (if key = dirtyLine then (.homeSlice, (Loc.phys (64 * unit)).slice) else (.mem, 0)) else (Space.block sp, key)

/-- The unit exists. -/
def unitExists (sp : Space) (key unit : Nat) : Bool :=
  match sp with
  | .lm => decide (4 * unit < Config.lmSize)
  | .csp => decide (4 * unit < Config.cspSize)
  | .dsw => decide (key < 8 ∧ 4 * unit < Config.dswSize)
  | .mem => decide (key ≤ dirtyLine)

/-- KIND 10: an item of a core is lost (R363, R375). -/
def State.lostItem (s : State) (cid detail : Nat) : State :=
  s.report (dieOf cid) (faultRec ((s.cxOf cid).getD 0) 0 10 .none detail cid)

/-- A U line's contributions are lost; the home keeps its value: KIND 8. -/
def State.loseULine (s : State) (cluster line : Nat) : State :=
  match (s.cluster cluster).ulines.find? fun u => u.line == line with
  | none => s
  | some u =>
    let cx := (s.cluster cluster).owner.getD 0
    (s.modCluster cluster fun x => { x with ulines := x.ulines.filter fun y => y.line ≠ line }).report
      (dieOfCluster cluster) (faultRec cx (s.pageOf cx (64 * line)) 8 .none 0 u.src)

/-- A lost ticket ends as LAPSED; its lines return to empty (R253). -/
def State.loseTicket (s : State) (cid i : Nat) : State :=
  let t := (s.core cid).ticket i
  let lapse (s : State) : State := s.modCore cid fun c => c.setTicket i { t with state := .lapsed, fault := .none, data := [], ahead := [], skipped := [] }
  match t.state with
  | .free => s
  | .spec => (s.lapseTicket cid i).lostItem cid 2
  | .exposing => (if t.orphan then (s.ticketEmpty cid t).freeTicket cid i else lapse (s.ticketEmpty cid t)).lostItem cid 2
  | _ => (lapse s).lostItem cid 2

/-- A code table with entry c zero. -/
def CodeTable.zeroAt (t : CodeTable) (c : Byte) : CodeTable :=
  let val (i : Nat) : BitVec 19 :=
    BitVec.ofNat 19 ((toFloat fp32 .rne 0 false (t.decode (BitVec.ofNat 8 i)).toXV).1 / 2 ^ 13)
  .image ((List.range 256).map fun i => if i = c.toNat then 0 else val i) t.attr

/-- A lost run-list record: a launch's counts as retired (R284), a handler's leaves its task to firmware (R359). -/
def State.loseRunRec (s : State) (cid k : Nat) : State :=
  match (s.core cid).runList[k]? with
  | none => s
  | some r =>
    let s1 := (s.modCore cid fun c => { c with runList := c.runList.eraseIdx k }).lostItem cid 5
    match r.kind with
    | .launch id _ _ _ _ _ => s1.launchEnded id
    | _ => s1

/-- A queue word reads zero. -/
def State.loseQueueWord (s : State) (cid slot q k : Nat) : State :=
  let zero (l : List Word) : List Word := l.set k 0
  (if q < 4 then s.modSlot cid slot fun t => { t with queues := vset t.queues q (zero (vget t.queues q [])) }
    else s.modCore cid fun c => { c with local4 := vset c.local4 (q - 4) (zero (vget c.local4 (q - 4) [])) }).lostItem cid 6

/-- A message in an inbound buffer is dropped: KIND 3. -/
def State.loseMessage (s : State) (cid k : Nat) : State :=
  match (s.core cid).inbound[k]? with
  | none => s
  | some m => (s.modCore cid fun c => { c with inbound := c.inbound.eraseIdx k }).dropMsg cid m

/-- A register in a lent core's bank is lost (R291, R299); R360 numbers the registers. -/
def State.loseRegister (s : State) (cid slot reg : Nat) : State :=
  let t := (s.core cid).slot slot
  let banked := decide (reg < 32 ∨ (64 ≤ reg ∧ reg < 84 ∧ t.ws.vsd.vhome = true)) && reg % (t.members.length + 1) != 0
  if banked then (s.modSlot cid slot fun t => { t with lost := insertNat t.lost reg }).noteError .registerBank cid true else s

/-- The block instance that an act hits with an uncorrectable error (R374, R375). -/
def Act.hits : Act → Option (Block × Nat)
  | .damage sp key unit => some (spaceBlock sp key unit)
  | .loseULine c _ => some (.cdc, c)
  | .loseLatch c _ => some (.latch, c)
  | .loseAcc c _ _ => some (.accumulator, c)
  | .losePredictor c _ _ => some (.predictorTable, c)
  | .loseTicket c _ => some (.ticketTable, c)
  | .loseEntry c _ => some (.taskTable, c)
  | .loseCode c _ _ => some (.codeTable, c)
  | .loseDequeRec c _ => some (.queue, c)
  | .loseRunRec c _ => some (.queue, c)
  | .loseQueueWord c _ _ _ => some (.queue, c)
  | .loseMessage c _ => some (.queue, c)
  | _ => none

/-! ## Acts -/

/-- What an act does; an act that cannot happen changes nothing. -/
def State.act1 (s : State) (a : Act) : State :=
  match a with
  | .writeTable pa e asked => s.writeTable pa e asked
  | .handBack cid slot => if ((s.core cid).slot slot).members.isEmpty then s else s.reclaim cid slot
  | .askMove cxid va on => match s.contexts.get cxid with
    | none => s
    | some x => { s with contexts := s.contexts.put cxid { x with
        asks := if on then insertNat x.asks (va / 65536) else eraseNat x.asks (va / 65536) } }
  | .enableTrigger n on => { s with trigEn := if on then insertNat s.trigEn n else eraseNat s.trigEn n }
  | .setExport add dev cxid cores lo hi =>
    if add = true ∧ 64 ≤ s.exports.length then s
    else { s with exports := edited s.exports add { dev := dev, cx := cxid, cores := cores, lo := lo, hi := hi } }
  | .setGrant add dev cxid cores lo hi =>
    { s with grants := edited s.grants add { dev := dev, cx := cxid, cores := cores, lo := lo, hi := hi } }
  | .setBar add base len writable => { s with bars := edited s.bars add (base, len, writable) }
  | .hostMemory pa data => if pa % 8 = 0 ∧ paKind pa = .host then (s.storeHome pa 8 data.toNat).outdateLate (pa / 64) else s
  | .remoteAtomic dev cxid src seq pa op val cmp => s.remoteAtomic dev cxid src seq pa op val cmp
  | .remoteWaita dev cxid src slot pa w64 e => s.remoteWaita dev cxid src slot pa w64 e
  | .remoteWaitaEnd dev src slot => s.remoteWaitaEnd dev src slot
  | .remoteSend dev cxid src dst chan ws =>
    if 1 ≤ ws.length ∧ ws.length ≤ 8 then s.remoteMessage dev cxid src dst chan (.send ws) else s
  | .remoteSendd dev cxid src dst chan mb reg w =>
    if mb = true ∧ 8 ≤ reg.toNat then s else s.remoteMessage dev cxid src dst chan (.sendd mb reg w)
  | .remoteDec dev cxid src dst off n => s.remoteDec dev cxid src dst off n
  | .replaceLine cluster line => s.replaceLine cluster line
  | .replaceL1 cid k => s.modCore cid fun c => { c with l1 := c.l1.eraseIdx k }
  | .replaceL2 cluster k => s.modCluster cluster fun x => { x with l2 := x.l2.eraseIdx k }
  | .startWalk die cxid => s.startWalk die cxid
  | .endWalk die cxid => s.endWalk die cxid
  | .corrected b key => { s with corrected := countError s.corrected b key }.noteError b key false
  | .damage sp key unit =>
    if unitExists sp key unit && !s.damaged.contains (sp, key, unit) then { s with damaged := s.damaged ++ [(sp, key, unit)] }
    else s
  | .loseULine cluster line => s.loseULine cluster line
  | .loseLatch cid i => s.modMx cid fun m => m.setLatch i { m.getLatch i with bad := true }
  | .loseAcc cid acc word => s.modMx cid fun m => { m with accBad := m.accBad ++ [(acc, word)] }
  | .losePredictor cid t i => (s.modCore cid fun c => c.setPred t i Pred.reset).lostItem cid 1
  | .loseTicket cid i => s.loseTicket cid i
  | .loseEntry cid chan => (s.modCore cid fun c => { c with tt := c.tt.erase chan }).lostItem cid 3
  | .loseCode cid ct c =>
    (s.modCore cid fun x => { x with cts := vset x.cts ct ((vget x.cts ct (.preset false)).zeroAt c) }).lostItem cid 4
  | .loseDequeRec cid k =>
    if (s.core cid).deque.length ≤ k then s
    else (s.modCore cid fun c => { c with deque := c.deque.eraseIdx k }).lostItem cid 5
  | .loseRunRec cid k => s.loseRunRec cid k
  | .loseQueueWord cid slot q k => s.loseQueueWord cid slot q k
  | .loseMessage cid k => s.loseMessage cid k
  | .loseRegister cid slot reg => s.loseRegister cid slot reg

/-- The state after an act; an error is the last one of its block (R377). -/
def State.act (s : State) (a : Act) : State :=
  match Act.hits a with
  | some (b, key) => if s.act1 a = s then s else (s.act1 a).noteError b key true
  | none => s.act1 a

end Sys2Proof.Machine
end

