-- ==== Sys2Proof/Machine/Place.lean ====
section
/-! DEFINITION. Placing one instruction where the next step fetches (log entry 3, DESIGN CHOICE): a context, a page of code, and a
runnable task in slot 0 of the focus core. -/

namespace Sys2Proof.Machine

/-- The address of the placed instruction; its page is mapped one to one. -/
def placeVa : Nat := 0x10000

/-- The root table of the placed context. -/
def placeRoot : Nat := 0x400000000000

/-- The context of a placed program. -/
def placeCfg : ContextCfg :=
  { cxid := 1, root := placeRoot, handler := none, passXlate := true, passPerm := true, passMchk := true, dsw := [],
    quotas := [], classes := [], homeDie := 0, snapEn := false, maps := [] }

/-- The page tables of one page at placeVa with RD, W and X (R336, R337). -/
def placeTables (m : Memory) : Memory :=
  (((m.writeN placeRoot 8 (placeRoot + 0x100001)).writeN (placeRoot + 0x100000) 8 (placeRoot + 0x101001)).writeN
    (placeRoot + 0x101000) 8 (placeRoot + 0x102001)).writeN (placeRoot + 0x102008) 8 (placeVa + 0x1F)

/-- Half-words in memory order. -/
def placeCode (m : Memory) : Nat → List Half → Memory
  | _, [] => m
  | a, h :: t => placeCode (m.writeN a 2 h.toNat) (a + 2) t

/-- The task that issues the placed instruction. -/
def Slot.placed (t : Slot) : Slot :=
  { t with
    held := true, wait := none, preempt := none, yielded := none, fwFault := none, reply := none, lost := []
    ws := { t.ws with
      pc := BitVec.ofNat 64 placeVa
      ctl := { t.ws.ctl with repA := false }
      tsw := { t.ws.tsw with cause := .none, state := .runnable } } }

/-- The core that issues it: no other task of it is ready, and no old code or translation is cached. -/
def Core.placed (c : Core) : Core :=
  { c with
    slots := Vector.ofFn fun (i : Fin 8) =>
      if i = 0 then c.slots[i].placed else if c.slots[i].ready then Slot.reset else c.slots[i]
    lent := none, retired := false, icache := [], l1 := [] }

/-- No RED is under way on the page of code. -/
def Cluster.placed (x : Cluster) : Cluster :=
  { x with ulines := x.ulines.filter fun u => u.line / 1024 != placeVa / 65536 }

/-- s with the instruction of the table's word placed for its next step. The five half-words of the longest chain are
written: those above nbits are zero. -/
def State.placed (s : State) (nbits w : Nat) : State :=
  let k := clusterOf s.hereCid
  let d := dieOf s.hereCid
  let code := (tableHalves nbits w ++ List.replicate 5 0#16).take 5
  { s with
    here := s.here.placed
    clusters := Table.put (s.clusters.map fun x => (x.1, x.2.placed)) k { s.cluster k with owner := some 1, l2 := [], ulines := [] }
    dies := if (s.die d).thermal = .tripped then s.dies.put d { s.die d with thermal := .normal } else s.dies
    contexts := s.contexts.put 1 { cfg := placeCfg, prefixes := [], sptQ := [] }
    mem := placeCode (placeTables s.mem) placeVa code
    firmware := .ready
    damaged := s.damaged.filter fun x => x.1 != .mem && !(x.1 == .lm && x.2.1 == s.hereCid)
    oldWalks := s.oldWalks.filter fun x => x.cx != 1
    oldCode := s.oldCode.filter fun x => x.1 / 32768 != placeVa / 65536
    agenda := [.issue s.hereCid] }

end Sys2Proof.Machine
end

