-- ==== Sys2Proof/Machine/Vector.lean ====
section
/-! DEFINITION. Element arithmetic, compares, broadcasts, reductions, VRDQ and VSETS of page 2 (R141, R147 to R150, R154
to R156). -/

namespace Sys2Proof.Machine

/-- A binary element operation: on floats with a mode, on integers exactly before Fit. -/
structure BinOp where
  float : Fmt → Round → Nat → Nat → Nat → Nat × Byte
  int   : Int → Int → Int → Int

def opAdd : BinOp := { float := fun f r x y _ => f.add r (f.decode x) (f.decode y), int := fun x y _ => x + y }
def opSub : BinOp := { float := fun f r x y _ => f.add r (f.decode x) (f.decode y).neg, int := fun x y _ => x - y }
def opMul : BinOp := { float := fun f r x y _ => f.mul r (f.decode x) (f.decode y), int := fun x y _ => x * y }
def opFma : BinOp :=
  { float := fun f r x y z => f.fma r (f.decode x) (f.decode y) (f.decode z), int := fun x y z => x * y + z }
def opMax : BinOp := { float := fun f _ x y _ => (f.maxOf x y, 0), int := fun x y _ => max x y }
def opMin : BinOp := { float := fun f _ x y _ => (f.minOf x y, 0), int := fun x y _ => min x y }

/-- One element of a binary operation on a shape of class float or integer. -/
def BinOp.elem (o : BinOp) (t : Elem) (r : Round) (sat : Bool) (x y z : Nat) : Nat × Byte :=
  match t.fmt, t.int with
  | some f, _ => o.float f r x y z
  | none, some (w, sg) => (fit w sg sat (o.int (intElem w sg x) (intElem w sg y) (intElem w sg z)), 0)
  | none, none => (0, 0)

/-- The element-wise group (R147): every source element is read before any is written (R146). -/
def State.elementwise (s : State) (o : BinOp) (mask : KReg) (r : Round) (sat : Bool) (d a b : VReg) : Eff State := do
  let h := s.shape
  demand h.ty.arith
  maskFits mask h.count
  let s1 := s.claim
  let w := h.ty.bits
  let l := (s1.active mask h.count).map fun e =>
    (e, o.elem h.ty r sat (tileElem (s1.tile a) w e) (tileElem (s1.tile b) w e) (tileElem (s1.tile d) w e))
  s1.writeElems d l

def execVadd (m : VMod) (d a b : VReg) (s : State) : Result := s.finish (s.elementwise opAdd m.mask m.round m.sat d a b)
def execVsub (m : VMod) (d a b : VReg) (s : State) : Result := s.finish (s.elementwise opSub m.mask m.round m.sat d a b)
def execVmul (m : VMod) (d a b : VReg) (s : State) : Result := s.finish (s.elementwise opMul m.mask m.round m.sat d a b)
def execVfma (m : VMod) (d a b : VReg) (s : State) : Result := s.finish (s.elementwise opFma m.mask m.round m.sat d a b)
def execVmax (mask : KReg) (d a b : VReg) (s : State) : Result :=
  s.finish (s.elementwise opMax mask .rne false d a b)
def execVmin (mask : KReg) (d a b : VReg) (s : State) : Result :=
  s.finish (s.elementwise opMin mask .rne false d a b)

/-- Integer VDIV of one element, and whether it sets V (R147). -/
def vdivInt (w : Nat) (sg sat : Bool) (x y : Nat) : Nat × Bool :=
  let a := intElem w sg x
  let b := intElem w sg y
  if b = 0 then (2 ^ w - 1, true)
  else if sg ∧ a = -(2 ^ (w - 1)) ∧ b = -1 then (fit w sg sat (2 ^ (w - 1)), true)
  else (fit w sg sat (a.tdiv b), false)

/-- VDIV (R147): on an integer shape it writes FL.V. -/
def execVdiv (m : VMod) (d a b : VReg) (s : State) : Result :=
  s.finish (do
    let h := s.shape
    demand h.ty.arith
    maskFits m.mask h.count
    let s1 := s.claim
    let w := h.ty.bits
    let act := s1.active m.mask h.count
    match h.ty.fmt, h.ty.int with
    | some f, _ =>
      s1.writeElems d (act.map fun e =>
        (e, f.div m.round (f.decode (tileElem (s1.tile a) w e)) (f.decode (tileElem (s1.tile b) w e))))
    | none, some (w, sg) =>
      let l := act.map fun e => (e, vdivInt w sg m.sat (tileElem (s1.tile a) w e) (tileElem (s1.tile b) w e))
      let s2 ← s1.writeElems d (l.map fun x => (x.1, x.2.1, 0))
      .ok (s2.modCtl fun c => { c with v := l.any fun x => x.2.2 })
    | none, none => illop)

/-- VSEL (R147): every element is active; the mask field names the selector. -/
def execVsel (k : KReg) (d a b : VReg) (s : State) : Result :=
  s.finish (do
    let h := s.shape
    demand h.ty.arith
    demand (decide (h.count ≤ 1024))
    let s1 := s.claim
    let w := h.ty.bits
    s1.writeElems d ((List.range h.count).map fun e =>
      (e, (if (s1.mask k).getLsbD e then tileElem (s1.tile a) w e else tileElem (s1.tile b) w e), 0)))

/-- The predicates of VCMP on one element (R149); none: ILLOP. -/
def vpred (p : VPred) (t : Elem) (x y : Nat) : Option Bool :=
  match t.fmt, t.int with
  | some f, _ =>
    let a := f.decode x; let b := f.decode y
    let nan := a.isNan || b.isNan
    some (match p with
      | .eq => !nan && !a.lt b && !b.lt a
      | .ne => nan || a.lt b || b.lt a
      | .lt => a.lt b
      | .le => !nan && !b.lt a
      | .gt => b.lt a
      | .ge => !nan && !a.lt b
      | .un => nan
      | .ord => !nan)
  | none, some (w, sg) =>
    let a := intElem w sg x; let b := intElem w sg y
    match p with
    | .eq => some (decide (a = b))
    | .ne => some (decide (a ≠ b))
    | .lt => some (decide (a < b))
    | .le => some (decide (a ≤ b))
    | .gt => some (decide (b < a))
    | .ge => some (decide (b ≤ a))
    | .un => none
    | .ord => none
  | none, none => none

/-- VCMP writes mask d (R149): inactive bits, and bits at or beyond N, become 0. -/
def execVcmp (p : VPred) (mask : KReg) (d : KReg) (a b : VReg) (s : State) : Result :=
  s.finish (do
    let h := s.shape
    demand (h.ty.arith && (h.ty.fmt.isSome || (p != .un && p != .ord)))
    maskFits mask h.count
    demand (decide (h.count ≤ 1024))
    let s1 := s.claim
    let w := h.ty.bits
    let on := (s1.active mask h.count).filter fun e =>
      (vpred p h.ty (tileElem (s1.tile a) w e) (tileElem (s1.tile b) w e)).getD false
    s1.setMask d (BitVec.ofNat 1024 (on.foldl (fun m e => m ||| 1 <<< e) 0)))

/-- VABS and VNEG of one element (R148). -/
def vabsElem (t : Elem) (sat : Bool) (x : Nat) : Nat :=
  match t.fmt, t.int with
  | some f, _ => if (f.decode x).isNan then f.nanCode else x % 2 ^ (f.width - 1)
  | none, some (w, sg) => fit w sg sat (intElem w sg x).natAbs
  | none, none => x

def vnegElem (t : Elem) (sat : Bool) (x : Nat) : Nat :=
  match t.fmt, t.int with
  | some f, _ => if (f.decode x).isNan then f.nanCode else (x + 2 ^ (f.width - 1)) % 2 ^ f.width
  | none, some (w, sg) => fit w sg sat (-(intElem w sg x))
  | none, none => x

def State.unary (s : State) (f : Elem → Nat → Nat) (mask : KReg) (d a : VReg) : Eff State := do
  let h := s.shape
  demand h.ty.arith
  maskFits mask h.count
  let s1 := s.claim
  let w := h.ty.bits
  s1.writeElems d ((s1.active mask h.count).map fun e => (e, f h.ty (tileElem (s1.tile a) w e), 0))

def execVabs (mask : KReg) (sat : Bool) (d a : VReg) (s : State) : Result :=
  s.finish (s.unary (fun t => vabsElem t sat) mask d a)
def execVneg (mask : KReg) (sat : Bool) (d a : VReg) (s : State) : Result :=
  s.finish (s.unary (fun t => vnegElem t sat) mask d a)

/-- The active elements of a masked write of .lx8 data into a tile cover whole groups, else ALIGN (R104). -/
def groupsCovered (t : Elem) (mask : KReg) (act : List Nat) (n : Nat) : Eff Unit :=
  if t = .lx8 ∧ mask ≠ 0 then
    match openGroup act n with
    | some g => .error (.trap .align (BitVec.ofNat 64 (8 * g)))
    | none => .ok ()
  else .ok ()

/-- VBCAST (R150): every type; for .lx8 the 16-bit code goes to every touched group. -/
def execVbcast (mask : KReg) (d : VReg) (a : GReg) (s : State) : Result :=
  s.finish (do
    let h := s.shape
    maskFits mask h.count
    let s1 := s.claim
    let act := s1.active mask h.count
    groupsCovered h.ty mask act h.count
    let w := (h.ty.place 0).1
    s1.putElems d w (act.map fun e => ((h.ty.place e).2, (s.g a).toNat)))

/-- VCLR (R150). -/
def execVclr (d : VReg) (s : State) : Result := s.finish (s.claim.setTile d 0)

/-! ## Reductions (R154) -/

/-- Tree of R154 on FP32 values, with the flags of its adds (log entry 26, DEDUCED); fuel bounds the depth. -/
def sumTree : Nat → List FV → FV × Byte
  | 0, l => (l.headD (.fin false 0), 0)
  | n + 1, l =>
    match l with
    | [] => (.fin false 0, 0)
    | [x] => (x, 0)
    | l =>
      let h := 2 ^ Nat.log2 (l.length - 1)
      let x := sumTree n (l.take h)
      let y := sumTree n (l.drop h)
      let r := fp32.add .rne x.1 y.1
      (fp32.decode r.1, x.2 ||| y.2 ||| r.2)

/-- The result of one row or column from its active source elements in ascending index. -/
def reduce (op : VRedOp) (t : Elem) (r : Round) (sat : Bool) (l : List Nat) : Nat × Byte :=
  match t.fmt, t.int with
  | some f, _ =>
    match op, l with
    | .add, [] => (0, 0)
    | .add, l =>
      let x := sumTree 11 (l.map f.decode)
      let y := toFloat f r 0 false x.1.toXV
      (y.1, x.2 ||| y.2)
    | .max, [] => (f.infinity true, 0)
    | .max, x :: l => (l.foldl f.maxOf (f.maxOf x x), 0)
    | .min, [] => (f.infinity false, 0)
    | .min, x :: l => (l.foldl f.minOf (f.minOf x x), 0)
  | none, some (w, sg) =>
    let v := l.map (intElem w sg)
    match op with
    | .add => (fit w sg sat (v.foldl (· + ·) 0), 0)
    | .max => (fit w sg false (v.foldl max (if sg then -(2 ^ (w - 1)) else 0)), 0)
    | .min => (fit w sg false (v.foldl min (if sg then 2 ^ (w - 1) - 1 else 2 ^ w - 1)), 0)
  | none, none => (0, 0)

def execVredr (op : VRedOp) (m : VMod) (d a : VReg) (s : State) : Result :=
  s.finish (do
    let h := s.shape
    demand h.ty.arith
    maskFits m.mask h.count
    let s1 := s.claim
    let act := s1.active m.mask h.count
    s1.writeElems d ((List.range h.rows).map fun i =>
      (i * h.cols, reduce op h.ty m.round m.sat ((act.filter fun e => e / h.cols == i).map fun e =>
        tileElem (s1.tile a) h.ty.bits e))))

def execVredc (op : VRedOp) (m : VMod) (d a : VReg) (s : State) : Result :=
  s.finish (do
    let h := s.shape
    demand h.ty.arith
    maskFits m.mask h.count
    let s1 := s.claim
    let act := s1.active m.mask h.count
    s1.writeElems d ((List.range h.cols).map fun i =>
      (i, reduce op h.ty m.round m.sat ((act.filter fun e => e % h.cols == i).map fun e =>
        tileElem (s1.tile a) h.ty.bits e))))

/-! ## VRDQ (R155, R156) -/

/-- Add one queue word into elements 2·(i mod H) and 2·(i mod H) + 1 of a tile. -/
def vrdqWord (t : Tile) (half i : Nat) (w : Word) : Tile × Byte :=
  let j := 2 * (i % half)
  let add (t : Tile) (j v : Nat) : Tile × Byte :=
    let r := fp32.add .rne (fp32.decode (tileElem t 32 j)) (fp32.decode v)
    (tileSet t 32 j r.1, r.2)
  let x := add t j (w.toNat % 2 ^ 32)
  let y := add x.1 (j + 1) (w.toNat / 2 ^ 32)
  (y.1, x.2 ||| y.2)

/-- Take words while there are any left to take and the queue holds one. -/
def vrdqLoop (half : Nat) : Nat → Nat → List Word → Tile → Byte → Nat × List Word × Tile × Byte
  | 0, i, q, t, f => (i, q, t, f)
  | _ + 1, i, [], t, f => (i, [], t, f)
  | left + 1, i, w :: q, t, f =>
    let r := vrdqWord t half i w
    vrdqLoop half left (i + 1) q r.1 (f ||| r.2)

/-- VRDQ is restartable: its progress is kept in RESID, the partial sums in v[d]. -/
def execVrdq (d : VReg) (a : QReg) (b : GReg) (s : State) : Result :=
  let h := s.shape
  if h.ty ≠ .f32 ∨ h.count % 2 = 1 then s.settle illop
  else if ¬ s.ws.resid.msb ∧ (s.g b).toNat / 2 ^ 31 ≠ 0 then s.settle illop
  else
    let resid : Word := if s.ws.resid.msb then s.ws.resid else 2 ^ 63 + s.g b
    let s1 := s.claim
    let left := (resid.extractLsb' 0 32).toNat
    let taken := (resid.extractLsb' 32 31).toNat
    if left = 0 then .next ((s1.modWs fun w => { w with resid := 0 }).advance)
    else match s1.setTile d (s1.tile d) with
      | .error e => s.settle (.error e)
      | .ok s2 =>
        let r := vrdqLoop (h.count / 2) left taken (s2.queue a) (s2.tile d) 0
        let s3 := (s2.setQueue a r.2.1).addFpf r.2.2.2
        let s4 := { s3 with here := { s3.here with tiles := s3.here.tiles.set d.toNat r.2.2.1 } }
        let left' := left - (r.1 - taken)
        if left' = 0 then .next ((s4.modWs fun w => { w with resid := 0 }).advance)
        else .next (((if left' = left then s1 else s4).modWs fun w => { w with
          resid := 1#1 ++ BitVec.ofNat 31 r.1 ++ BitVec.ofNat 32 left' }).park (.queueEmpty a))

/-! ## VSETS (R141) -/

def execVsets (a : GReg) (s : State) : Result := s.finish (s.claim.setShape (s.g a))
def execVsetsImm (imm : Word) (s : State) : Result := s.finish (s.claim.setShape imm)

end Sys2Proof.Machine
end

