-- ==== Sys2Proof/Machine/VMem.lean ====
section
/-! DEFINITION. Tile loads and stores: VLD, VST, VLDT (R151 to R153). -/

namespace Sys2Proof.Machine

/-- The accesses of a tile move: address, bytes, and the tile elements they carry, in element order. -/
structure TileAcc where
  addr  : Word
  bytes : Nat
  elems : List Nat
  deriving DecidableEq, Repr

/-- Elements that one access of a type carries: 2 for .fp4, 8 for .lx8. -/
def Elem.pack : Elem → Nat
  | .fp4 => 2 | .lx8 => 8 | _ => 1

def Elem.accBytes (t : Elem) : Nat := match t with | .fp4 => 1 | .lx8 => 2 | t => t.bits / 8

/-- B(r) of R151. -/
def rowBase (base stride disp : Word) (r : Nat) : Word := base + disp + BitVec.ofNat 64 r * stride

/-- Accesses row by row (VLD, VST). -/
def rowAccesses (h : Shape) (base stride disp : Word) : List TileAcc :=
  let p := h.ty.pack
  (List.range h.rows).flatMap fun r => (List.range (h.cols / p)).map fun j =>
    { addr := rowBase base stride disp r + BitVec.ofNat 64 (j * h.ty.accBytes)
      bytes := h.ty.accBytes
      elems := (List.range p).map fun k => r * h.cols + p * j + k }

/-- Accesses of VLDT: memory element (j, i) is tile element (i, j), in element order of the tile. -/
def transposedAccesses (h : Shape) (base stride disp : Word) : List TileAcc :=
  (List.range h.rows).flatMap fun i => (List.range h.cols).map fun j =>
    { addr := rowBase base stride disp j + BitVec.ofNat 64 (i * h.ty.accBytes)
      bytes := h.ty.accBytes
      elems := [i * h.cols + j] }

/-- A local address in a workspace slot (R17, R19). -/
def inWorkspace (a : Word) : Bool := isLocal a && winSel a == 0 && decide (winOff a < Config.slotBytes)

/-- The fault of the lowest address among accesses that R14 to R19, R144 and R338 refuse. An element in any workspace, the
task's own among them, traps PERM (R152). -/
def State.lowestFault (s : State) (l : List (Acc × Word × Nat)) : Eff Unit :=
  let bad := l.filterMap fun (acc, a, n) =>
    if inWorkspace a then some (a, .trap .perm a)
    else match s.resolve acc a n with
      | .error e => some (a, e)
      | .ok (.mqw _, _) => some (a, .trap .perm a)
      | .ok _ => none
  match bad with
  | [] => .ok ()
  | x :: t => .error (t.foldl (fun m y => if y.1.toNat < m.1.toNat then y else m) x).2

/-- The operand checks of the three (R151, R152): the pair register, and rows that fill whole bytes or codes. -/
def tileMoveOk (a : GReg) (h : Shape) (transposed : Bool) : Eff Unit := do
  demand (evenPair a)
  demand (!(transposed && (h.ty == .fp4 || h.ty == .lx8)))
  demand (decide (h.cols % h.ty.pack = 0))

/-- The row bases are aligned to the element size, else ALIGN at the first that is not, in row order, whether or not the row
holds an active element (R152) (log entry 50, DEDUCED). -/
def rowsAligned (h : Shape) (base stride disp : Word) (n : Nat) : Eff Unit :=
  match (List.range n).find? fun r => (rowBase base stride disp r).toNat % h.ty.accBytes ≠ 0 with
  | some r => .error (.trap .align (rowBase base stride disp r))
  | none => .ok ()

/-- Load the accesses in order and put their active elements into a tile: a move copies every bit of an element, bits 12:0 of
a .w19 among them (R146) (log entry 49, DEDUCED). -/
def State.loadTileAccs (s : State) (t : Elem) (act : Nat → Bool) : List TileAcc → Tile → Eff (Tile × State)
  | [], d => .ok (d, s)
  | x :: rest, d => do
    let (v, s1) ← s.loadMem false x.addr x.bytes
    let d1 := if t = .lx8 then tileSet d 16 ((x.elems.headD 0) / 8) v
      else tilePut d t.bits ((x.elems.filter act).map fun e => (e, v >>> (t.bits * (e - x.elems.headD 0))))
    s1.loadTileAccs t act rest d1

/-- Store the accesses in element order; a half-active .fp4 byte is read, which needs RD, and written back (R151, R338)
(log entry 50, DEDUCED). -/
def State.storeTileAccs (s : State) (t : Elem) (act : Nat → Bool) (d : Tile) : List TileAcc → Eff State
  | [] => .ok s
  | x :: rest => do
    let e0 := x.elems.headD 0
    let s1 ←
      if t = .fp4 ∧ !x.elems.all act then do
        let (old, s0) ← s.loadMem false x.addr 1
        let lo := if act e0 then tileElem d 4 e0 else old % 16
        let hi := if act (e0 + 1) then tileElem d 4 (e0 + 1) else old / 16
        s0.storeMem x.addr 1 (lo + 16 * hi)
      else
        s.storeMem x.addr x.bytes (if t = .lx8 then tileElem d 16 (e0 / 8) else tileElem d (8 * x.bytes) (e0 / t.pack))
    s1.storeTileAccs t act d rest

/-- The accesses of an element group that VST stores: a half-active .fp4 byte is read and written (R151, R152). -/
def TileAcc.storeAccs (x : TileAcc) (t : Elem) (act : Nat → Bool) : List (Acc × Word × Nat) :=
  (if t = .fp4 ∧ !x.elems.all act then [(.load, x.addr, 1)] else []) ++ [(.store, x.addr, x.bytes)]

/-- Accesses that carry an active element. -/
def activeAccs (act : List Nat) (l : List TileAcc) : List TileAcc := l.filter fun x => x.elems.any (act.contains ·)

/-- VLD and VLDT. Where the tile may not be written and an element's address faults too, the trap is R144's (log entry 25, DEDUCED,
DEDUCED). -/
def State.loadTile (s : State) (mask : KReg) (d : VReg) (a : GReg) (disp : Word) (transposed : Bool) : Eff State := do
  let h := s.shape
  tileMoveOk a h transposed
  maskFits mask h.count
  let base := s.g a
  let stride := s.g (GReg.next a)
  rowsAligned h base stride disp (if transposed then h.cols else h.rows)
  let s1 := s.claim
  let act := s1.active mask h.count
  groupsCovered h.ty mask act h.count
  let v := s.ws.vsd
  demandOr (act.isEmpty || v.tileOk d.toNat) .perm v.limit
  let accs := activeAccs act (if transposed then transposedAccesses h base stride disp
    else rowAccesses h base stride disp)
  s1.lowestFault (accs.map fun x => (.load, x.addr, x.bytes))
  let (t, s2) ← s1.loadTileAccs h.ty (act.contains ·) accs (s1.tile d)
  if act.isEmpty then .ok s2 else s2.setTile d t

def execVld (mask : KReg) (d : VReg) (a : GReg) (disp : Word) (s : State) : Result :=
  s.finish (s.loadTile mask d a disp false)
def execVldt (mask : KReg) (d : VReg) (a : GReg) (disp : Word) (s : State) : Result :=
  s.finish (s.loadTile mask d a disp true)

/-- VST. Of a touched group of .lx8 codes that is not covered R104's lowest code is the one of the lowest index, also where a
negative stride puts it at a higher address (log entry 25, DEDUCED). -/
def execVst (mask : KReg) (d : VReg) (a : GReg) (disp : Word) (s : State) : Result :=
  s.finish (do
    let h := s.shape
    tileMoveOk a h false
    maskFits mask h.count
    let base := s.g a
    let stride := s.g (GReg.next a)
    rowsAligned h base stride disp h.rows
    let s1 := s.claim
    let act := s1.active mask h.count
    let accs := activeAccs act (rowAccesses h base stride disp)
    match (if h.ty = .lx8 ∧ mask ≠ 0 then openGroup act h.count else none) with
    | some g => .error (.trap .align
        (((accs.find? fun x => x.elems.headD 0 / 8 == g).map fun x => x.addr).getD base))
    | none =>
      s1.lowestFault (accs.flatMap fun x => x.storeAccs h.ty (act.contains ·))
      s1.storeTileAccs h.ty (act.contains ·) (s1.tile d) accs)

end Sys2Proof.Machine
end

