-- ==== Sys2Proof/Machine/Special.lean ====
section
/-! DEFINITION. Page 3: VEXP2, VSMX, VRNG, VCVT, VQMAX, VQZ, LQZ, LDEC, CTLD and CASTLE (R157 to R165, R189 to R193). -/

namespace Sys2Proof.Machine

def execVexp2 (d a : VReg) (s : State) : Result :=
  s.finish (do
    let h := s.shape
    demand (h.ty == .f32)
    let s1 := s.claim
    s1.writeElems d ((List.range h.count).map fun e => (e, vexp2 (fp32.decode (tileElem (s1.tile a) 32 e)))))

/-- 1.0 as an FP32 code. -/
def one32 : Nat := 0x3F800000

/-- The factor 1, or VExp2 of the rounded difference x − m (R158). -/
def smxScale (x m : Nat) : Nat × Byte :=
  let same := match fp32.decode x, fp32.decode m with
    | .nan, _ => false
    | _, .nan => false
    | p, q => !p.lt q && !q.lt p
  if same then (one32, 0)
  else
    let df := fp32.add .rne (fp32.decode x) (fp32.decode m).neg
    let r := vexp2 (fp32.decode df.1)
    (r.1, df.2 ||| r.2)

/-- RoundRNE32(x·s + RoundRNE32(y·t)) of R158. -/
def smxMix (x sx y sy : Nat) : Nat × Byte :=
  let p := fp32.mul .rne (fp32.decode y) (fp32.decode sy)
  let r := fp32.fma .rne (fp32.decode x) (fp32.decode sx) (fp32.decode p.1)
  (r.1, p.2 ||| r.2)

/-- VSmx of R158 on two rows of FP32 codes. -/
def vsmxRow (ra rb : List Nat) : List (Nat × Byte) :=
  let ma := ra.getD 0 0
  let mb := rb.getD 0 0
  let m := fp32.maxOf ma mb
  let sa := smxScale ma m
  let sb := smxScale mb m
  (m, sa.2 ||| sb.2) :: ((ra.zip rb).drop 1).map fun (x, y) => smxMix x sa.1 y sb.1

def execVsmx (d a b : VReg) (s : State) : Result :=
  s.finish (do
    let h := s.shape
    demand (h.ty == .f32 && decide (3 ≤ h.cols))
    let s1 := s.claim
    let row (t : Tile) (r : Nat) : List Nat := (List.range h.cols).map fun c => tileElem t 32 (r * h.cols + c)
    s1.writeElems d ((List.range h.rows).flatMap fun r =>
      ((vsmxRow (row (s1.tile a) r) (row (s1.tile b) r)).zipIdx).map fun (x, c) => (r * h.cols + c, x)))

/-- VRNG writes all 256 words, whatever the shape (R159). -/
def execVrng (d : VReg) (a : GReg) (s : State) : Result :=
  s.finish (do
    let s1 := s.claim
    let key := (s.g a).extractLsb' 0 32
    let ctr := (s.g a).extractLsb' 32 32
    s1.setTile d (BitVec.ofNat 8192 ((List.range 256).foldl (fun t e =>
      t + (rng key ctr (BitVec.ofNat 32 e)).toNat <<< (32 * e)) 0)))

/-! ## Conversion (R160, R161, R99) -/

/-- The type a target code names, as the tile layout of its results (R65, R139). -/
def targetElem : VTarget → Elem
  | .f32 => .f32 | .f16 => .f16 | .bf16 => .bf16 | .w19 => .w19 | .fp4 => .fp4 | .c8 => .c8 | .i8 => .i8 | .i32 => .i32

def VTarget.isInt : VTarget → Bool
  | .i8 => true | .i32 => true | _ => false

/-- Convert one value (R91, R92, R96). -/
def convert (t : VTarget) (ct : CodeTable) (r : Round) (u : Nat) (st : Sat) (x : XV) : Nat × Byte :=
  let sat := st != .inf
  match t with
  | .f32 => toFloat fp32 r u sat x
  | .f16 => toFloat fp16 r u sat x
  | .bf16 => toFloat bf16 r u sat x
  | .w19 => let y := toFloat w19 r u sat x; (y.1 * 2 ^ 13, y.2)
  | .fp4 => toFloat fp4 r u sat x
  | .c8 => let y := toC8 ct r u sat x; (y.1.toNat, y.2)
  | .i8 => toIntTarget 8 (st == .wrap) r u x
  | .i32 => toIntTarget 32 (st == .wrap) r u x

/-- The exact value of an element that VCVT reads (R161). -/
def elemValue (t : Elem) (ct : CodeTable) (v : Nat) : XV :=
  match t, t.int with
  | .f32, _ => (fp32.decode v).toXV
  | .f16, _ => (fp16.decode v).toXV
  | .bf16, _ => (bf16.decode v).toXV
  | .w19, _ => (w19.decode (v / 2 ^ 13)).toXV
  | .fp4, _ => (fp4.decode v).toXV
  | .c8, _ => (ct.decode (BitVec.ofNat 8 v)).toXV
  | .e8m0, _ => if v = 255 then .nan else .fin false (2 ^ (v + 171)) 1
  | _, some (w, sg) =>
    let i := intElem w sg v
    .fin (decide (i < 0)) (i.natAbs * 2 ^ 298) 1
  | _, none => .nan

/-- VCVT of the pair of source and target that R161 allows without .mx. -/
def cvtOk (src : Elem) (t : VTarget) : Bool :=
  match src with
  | .lx8 => match t with | .f32 => true | .f16 => true | .bf16 => true | .w19 => true | _ => false
  | .c8 => match t with | .c8 => false | .w19 => false | .fp4 => false | _ => true
  | .fp4 => match t with | .c8 => false | .w19 => false | .fp4 => false | _ => true
  | .e8m0 => match t with | .c8 => false | .w19 => false | .fp4 => false | _ => true
  | _ => true

/-- .wrap needs an integer target, .inf a target that is none (R91). -/
def satOk (t : VTarget) (st : Sat) : Bool :=
  match st with
  | .sat => true | .wrap => VTarget.isInt t | .inf => !VTarget.isInt t

/-- Multiply a value by 2^k (R99). -/
def XV.scale (x : XV) (k : Int) : XV :=
  match x with
  | .fin n a d => if 0 ≤ k then .fin n (a * 2 ^ k.toNat) d else .fin n a (d * 2 ^ (-k).toNat)
  | x => x

/-- floor(log2) of a non-zero value. -/
def XV.ilog (x : XV) : Int :=
  match x with
  | .fin _ a d =>
    if d ≤ a then (Nat.log2 (a / d) : Int) - 298
    else
      let k := Nat.log2 (d / a) + 1
      if d ≤ a * 2 ^ (k - 1) then -(k - 1 : Int) - 298 else -(k : Int) - 298
  | _ => 0

def XV.isFinite : XV → Bool
  | .fin _ _ _ => true | _ => false

/-- |x| ≤ |y| for finite values. -/
def XV.absLe (x y : XV) : Bool :=
  match x, y with
  | .fin _ a d, .fin _ b e => decide (a * e ≤ b * d)
  | _, _ => false

/-- emax of R99; a C8 table without a finite value other than zero takes 0 (log entry 49, DEDUCED). -/
def emaxOf (t : VTarget) (ct : CodeTable) : Int :=
  match t with
  | .fp4 => 2
  | .c8 =>
    let m := (ct.finite.map fun x => x.2.2.natAbs).foldl max 0
    if m = 0 then 0 else (Nat.log2 m : Int) - 149
  | _ => 0

/-- An element of an MX block as a value: INT8 counts i·2^-6 (R99). -/
def mxDecode (t : Elem) (ct : CodeTable) (v : Nat) : XV :=
  if t = .i8 then (elemValue .i8 ct v).scale (-6) else elemValue t ct v

/-- One encoded MX block: its scale and its element codes (R99); u gives the draw of element e. The zero code of a C8 table that
holds no zero is R96's +0 code, the one of least magnitude (log entry 49, DEDUCED). -/
def mxEncode (t : VTarget) (ct : CodeTable) (r : Round) (u : Nat → Nat) (st : Sat) (first : Nat) (l : List XV) :
    Nat × List (Nat × Byte) :=
  if !l.all XV.isFinite then (255, l.map fun _ => (0, fInv))
  else
    let amax := l.foldl (fun m x => if m.absLe x then x else m) (.fin false 0 1)
    match amax with
    | .fin _ 0 _ => (0, l.map fun _ => (if t = .c8 then ct.zeroCode.toNat else 0, 0))
    | _ =>
      let x := max (-127) (min 127 (amax.ilog - emaxOf t ct))
      let k : Int := if t = .i8 then 6 - x else -x
      ((x + 127).toNat, l.zipIdx.map fun (v, i) => convert t ct r (u (first + i)) st (v.scale k))

/-- SRCTR advances after every completed .sr instruction (R87). -/
def State.drawn (s : State) (r : Round) : State :=
  if r = .sr then s.modWs fun w => { w with srctr := w.srctr + 1 } else s

/-- The draw of element e of the issuing task (R87). -/
def State.draw (s : State) (r : Round) (e : Nat) : Nat :=
  if r = .sr then srDraw s.ws.srkey s.ws.srctr e else 0

/-- The decoded value of lane e of .lx8 codes with BF16 scales (R105), and its flags. -/
def lx8Elem (codes scales : Tile) (e : Nat) : FV × Byte :=
  let c := lx8Coords (BitVec.ofNat 16 (tileElem codes 16 (e / 8)))
  let v := lx8Value (c.1.getD (e % 8) 0) (bf16.decode (tileElem scales 16 (e / 128)))
  (v.1, v.2 ||| (if c.2 then fLvoid else 0))

def execVcvt (target : VTarget) (mx : Bool) (ct : BitVec 2) (r : Round) (st : Sat) (d a : VReg) (s : State) : Result :=
  s.finish (do
    let h := s.shape
    let n := h.count
    demand (satOk target st && (h.ty == .c8 || target == .c8 || ct == 0#2))
    demand (decide ((targetElem target).bytes n ≤ 1024))
    let s1 := s.claim
    let tab := s1.here.cts[ct.toNat]
    let w := (targetElem target).bits
    let put (s : State) (l : List (Nat × Byte)) : Eff State := do
      let s2 ← s.setTile d (tilePut (s.tile d) w (l.zipIdx.map fun (x, e) => (e, x.1)))
      .ok ((s2.addFpf (l.foldl (fun f x => f ||| x.2) 0)).drawn r)
    if mx then
      demand (decide (n % 32 = 0))
      if (h.ty.fmt.isSome || h.ty == .w19) && (target == .fp4 || target == .c8 || target == .i8) then
        let blocks := (List.range (n / 32)).map fun j =>
          mxEncode target tab r (s1.draw r) st (32 * j) ((List.range 32).map fun i =>
            elemValue h.ty tab (tileElem (s1.tile a) h.ty.bits (32 * j + i)))
        let s2 ← put s1 (blocks.flatMap (·.2))
        s2.setTile (d + 1) (tilePut (s2.tile (d + 1)) 8 (blocks.zipIdx.map fun (b, j) => (j, b.1)))
      else
        demand ((h.ty == .fp4 || h.ty == .c8 || h.ty == .i8) &&
          (target == .f32 || target == .f16 || target == .bf16))
        put s1 ((List.range n).map fun e =>
          let sc := tileElem (s1.tile (a + 1)) 8 (e / 32)
          if sc = 255 then convert target tab r 0 st .nan
          else convert target tab r (s1.draw r e) st
            ((mxDecode h.ty tab (tileElem (s1.tile a) h.ty.bits e)).scale ((sc : Int) - 127)))
    else
      demand (cvtOk h.ty target)
      put s1 ((List.range n).map fun e =>
        if h.ty = .lx8 then
          let v := lx8Elem (s1.tile a) (s1.tile (a + 1)) e
          let y := convert target tab r (s1.draw r e) st v.1.toXV
          (y.1, v.2 ||| y.2)
        else convert target tab r (s1.draw r e) st (elemValue h.ty tab (tileElem (s1.tile a) h.ty.bits e))))

/-- VQMAX (R162). -/
def execVqmax (d a : VReg) (g : BitVec 3) (s : State) : Result :=
  s.finish (do
    let h := s.shape
    match h.ty.fmt with
    | none => illop
    | some f =>
      let span := 2 ^ g.toNat
      demand (decide (g.toNat < 5 ∧ h.rows % span = 0))
      let s1 := s.claim
      let group := span * h.cols
      let best (k : Nat) : Nat := ((List.range group).map fun i =>
        tileElem (s1.tile a) f.width (k * group + i) % 2 ^ (f.width - 1)).foldl f.maxOf 0
      s1.writeElems d ((List.range (h.rows / span)).flatMap fun k =>
        let m := best k
        (List.range group).map fun i => (k * group + i, m, 0)))

/-- VQZ: one rounding of the exact quotient to INT8; any value but zero over zero, an infinity too, raises DZ and INV
(R163). -/
def vqzElem (f : Fmt) (wrap : Bool) (r : Round) (u x y : Nat) : Nat × Byte :=
  let zero : Bool := match f.decode y with | .fin _ 0 => true | _ => false
  match divX (f.decode x) (f.decode y) with
  | (.nan, _) => (0, fInv)
  | (v, _) => let z := toIntTarget 8 wrap r u v; (z.1, z.2 ||| if zero then fDz else 0)

def execVqz (r : Round) (st : Sat) (d a b : VReg) (s : State) : Result :=
  s.finish (do
    let h := s.shape
    match h.ty.fmt with
    | none => illop
    | some f =>
      demand (st != .inf)
      let s1 := s.claim
      let l := (List.range h.count).map fun e =>
        (e, vqzElem f (st == .wrap) r (s1.draw r e) (tileElem (s1.tile a) f.width e) (tileElem (s1.tile b) f.width e))
      let s2 ← s1.setTile d (tilePut (s1.tile d) 8 (l.map fun x => (x.1, x.2.1)))
      .ok ((s2.addFpf (l.foldl (fun g x => g ||| x.2.2) 0)).drawn r))

/-! ## LX8 (R189, R190) -/

/-- The FP32 value of an element LQZ reads. -/
def lqzValue (t : Elem) (v : Nat) : FV :=
  match t with
  | .w19 => w19.decode (v / 2 ^ 13)
  | t => match t.fmt with
    | some f => f.decode v
    | none => .nan

def execLqz (d a : VReg) (s : State) : Result :=
  s.finish (do
    let h := s.shape
    demand (h.ty.fmt.isSome || h.ty == .w19)
    let s1 := s.claim
    let n := h.count
    let l := (List.range ((n + 7) / 8)).map fun g =>
      quantiseLx8 ((List.range 8).map fun i => if 8 * g + i < n then
        lqzValue h.ty (tileElem (s1.tile a) h.ty.bits (8 * g + i)) else .fin false 0)
    let s2 ← s1.setTile d (tilePut (s1.tile d) 16 (l.zipIdx.map fun (x, g) => (g, x.1.toNat)))
    .ok (s2.addFpf (l.foldl (fun f x => f ||| x.2) 0)))

/-- LDEC (R190): finite overflow into .f16 or .bf16 gives an infinity, as RoundRNE does, and not the largest value that the
conversions of page 3 give by default (log entry 49, DEDUCED). -/
def execLdec (d a b : VReg) (s : State) : Result :=
  s.finish (do
    let h := s.shape
    let s1 := s.claim
    let codes := s1.tile a
    match h.ty with
    | .i8 =>
      demand (b == 0#4)
      s1.writeElems d ((List.range h.count).map fun e =>
        let c := lx8Coords (BitVec.ofNat 16 (tileElem codes 16 (e / 8)))
        (e, (c.1.getD (e % 8) 0 % 256).toNat, if c.2 then fLvoid else 0))
    | t =>
      demand (t.fmt.isSome || t == .w19)
      s1.writeElems d ((List.range h.count).map fun e =>
        let v := lx8Elem codes (s1.tile b) e
        let y := match t.fmt with
          | some f => toFloat f .rne 0 false v.1.toXV
          | none => let z := toFloat w19 .rne 0 false v.1.toXV; (z.1 * 2 ^ 13, z.2)
        (e, y.1, v.2 ||| y.2)))

/-! ## Code tables (R164, R165) -/

def State.setTable (s : State) (j : BitVec 2) (t : CodeTable) : State :=
  { s with here := { s.here with cts := s.here.cts.set j.toNat t } }

def execCtldPreset (ct : BitVec 2) (n : BitVec 9) (s : State) : Result :=
  s.finish (do
    demand (decide (n.toNat < 2))
    .ok (s.setTable ct (.preset (n == 1))))

/-- The attribute word names one code for two roles (R165). -/
def attrClash (a : BitVec 27) : Bool :=
  let nan := a.getLsbD 8; let pos := a.getLsbD 17; let neg := a.getLsbD 26
  (nan && pos && a.extractLsb' 0 8 == a.extractLsb' 9 8) || (nan && neg && a.extractLsb' 0 8 == a.extractLsb' 18 8)
    || (pos && neg && a.extractLsb' 9 8 == a.extractLsb' 18 8)

def execCtld (ct : BitVec 2) (a : GReg) (disp : Word) (s : State) : Result :=
  s.finish (do
    let addr := s.g a + disp
    aligned addr 8
    let (ws, s1) ← s.loadWords 8 129 addr
    let vals := (ws.take 128).flatMap fun w =>
      [(BitVec.ofNat 19 (w / 2 ^ 13) : BitVec 19), BitVec.ofNat 19 (w / 2 ^ 45)]
    let attr : BitVec 27 := BitVec.ofNat 27 (ws.getD 128 0)
    demand (!attrClash attr)
    let t : CodeTable := .image vals attr
    demand (!t.finite.isEmpty)
    .ok (s1.setTable ct t))

/-! ## CASTLE (R191 to R193) -/

def castleRows (b : Word) : Nat := (b.extractLsb' 8 6).toNat + 1
def castleCols (b : Word) : Nat := (b.extractLsb' 16 6).toNat + 1
def castleStride (b : Word) : Nat := (b.extractLsb' 32 16).toNat
def castleSize (b : Word) : Nat := 2 ^ (b.extractLsb' 3 2).toNat
def castleTr (b : Word) : Bool := b.getLsbD 5

/-- Reserved bits of the descriptor are zero, and its fields are in range (R191, R193). R193 names no trap for a STRIDE below
COLS·size, which R191 excludes: it counts as a field out of range (log entry 25, DEDUCED). -/
def castleOk (b : Word) : Bool :=
  b.extractLsb' 48 16 == 0#16 && b.extractLsb' 22 10 == 0#10 && b.extractLsb' 14 2 == 0#2 && b.extractLsb' 6 2 == 0#2
    && b.extractLsb' 3 2 != 3#2 && (!castleTr b || castleRows b == castleCols b)
    && decide (castleCols b * castleSize b ≤ castleStride b)

/-- The elements of a block: row, column and LM offset, in row order. -/
def castleCells (o : Nat) (b : Word) : List (Nat × Nat × Nat) :=
  (List.range (castleRows b)).flatMap fun i => (List.range (castleCols b)).map fun j =>
    (i, j, o + i * castleStride b + j * castleSize b)

/-- Bytes from the block's first to its last. -/
def castleSpan (b : Word) : Nat := (castleRows b - 1) * castleStride b + castleCols b * castleSize b

/-- The own-LM window address of an offset (R15). -/
def lmAddr (o : Nat) : Word := 0xFF00000000000000#64 + BitVec.ofNat 64 o

/-- LM offsets of a block's rows, and the bytes of one row. -/
def castleRowsAt (o : Nat) (b : Word) : List Nat := (List.range (castleRows b)).map fun i => o + i * castleStride b
def castleRowBytes (b : Word) : Nat := castleCols b * castleSize b

/-- The first byte of a block, row by row, that p holds of. -/
def castleFirst (o : Nat) (b : Word) (p : Nat → Bool) : Option Nat :=
  (castleRowsAt o b).findSome? fun x => ((List.range (castleRowBytes b)).map (x + ·)).find? p

/-- The lines of a block in a core's LM. -/
def castleLines (cid o : Nat) (b : Word) : List Loc :=
  (castleRowsAt o b).flatMap fun x => (Loc.lm cid x).lines (castleRowBytes b)

/-- The first damaged byte of a block in a core's LM (R375). -/
def State.castleDamage (s : State) (cid o : Nat) (b : Word) : Option Nat :=
  if s.damaged.isEmpty then none else castleFirst o b fun x => s.isDamaged (.lm cid x)

/-- Put the block read from src, at offset so, into dst at offset o. -/
def castlePut (dst : Core) (o : Nat) (b : Word) (src : Core) (so : Nat) : Core :=
  let n := castleSize b
  (castleCells o b).foldl (fun c (i, j, at') =>
    let from' := if castleTr b then so + j * castleStride b + i * n else so + i * castleStride b + j * n
    { c with lm := c.lm.writeN at' n (src.lm.readN from' n) }) dst

/-- Park the partner or complete: what a CASTLE does once its own operands are in order. A word of the partner's block in
a Q line is waited for as one of the own block is. -/
def State.castlePair (s : State) (p : BitVec 3) (o : Nat) (b : Word) : Result :=
  let me := BitVec.ofNat 3 s.hereCid
  let pc := 8 * clusterOf s.hereCid + p.toNat
  let c := s.core pc
  let waiting := (List.range 8).filterMap fun i =>
    match (c.slot i).wait with
    | some (.castle q o' b') => if q = me ∧ (c.slot i).held then some ((c.slot i).waitNo, i, o', b') else none
    | _ => none
  match waiting with
  | [] => s.settle (.error (.park (.castle p o b)))
  | x :: t =>
    let w := t.foldl (fun m y => if y.1 < m.1 then y else m) x
    let k := w.2.1; let o' := w.2.2.1; let b' := w.2.2.2
    if (b >>> 3) ≠ (b' >>> 3) then
      .next ((s.deliver pc k .illop 0 (c.slot k).chainLen).takeTrap .illop 0)
    else if !(s.holders (castleLines pc o' b)).isEmpty then
      s.settle (.error (.park (.line (castleLines pc o' b))))
    else
      match s.castleDamage s.hereCid o b, s.castleDamage pc o' b with
      | none, none =>
        let mine := castlePut s.here o b c o'
        let theirs := castlePut c o' b s.here o
        let s1 := ({ s with here := mine } : State).setCore pc theirs
        let s2 := s1.modSlot pc k fun t =>
          let r := t.ws.ctl.afterBody t.chainLen
          { t with
            block := if r.2 = 0 then t.block else none
            ws := { t.ws with pc := t.ws.pc + BitVec.ofNat 64 (2 * t.chainLen) - r.2, ctl := r.1 } }.wake s.now
        .next s2.advance
      | i, j =>
        let info (x y : Option Nat) : Word := BitVec.ofNat 64 ((x.or y).getD 0)
        let fail (cid : Nat) (x : Option Nat) (s : State) : State := if x.isSome then s.failLm (.lm cid 0) else s
        let s1 := ((s.deliver pc k .mchk (info j i) (c.slot k).chainLen).trigger 128).deliver s.hereCid s.here.cur .mchk
          (info i j) s.ilen
        .next (fail s.hereCid i (fail pc j s1))

/-- QZACC at the first row with a word in a Q line of the task's own ticket, with the address at which that row starts (R135, R193;
log entry 25, DEDUCED); else the task waits for the lines. -/
def State.castleLineCheck (s : State) (o : Nat) (b : Word) : Eff Unit :=
  match (castleRowsAt o b).find? fun x =>
      s.ownQ s.hereCid s.here.cur.val ((Loc.lm s.hereCid x).lines (castleRowBytes b)) with
  | some x => .error (.trap .qzacc (lmAddr x))
  | none => await (s.holders (castleLines s.hereCid o b)).isEmpty (.line (castleLines s.hereCid o b))

/-- CASTLE (R191 to R193). Where STRIDE alone is not a multiple of the element size, ALIGN's TRINFO is g[a], the one data address that
the instruction names (R135; log entry 25, DEDUCED). -/
def execCastle (a b : GReg) (s : State) : Result :=
  let addr := s.g a
  let desc := s.g b
  let o := winOff addr
  let checks : Eff Unit := do
    demand (castleOk desc && desc.extractLsb' 0 3 != BitVec.ofNat 3 s.hereCid)
    demandOr (addr.toNat % castleSize desc = 0 && castleStride desc % castleSize desc = 0) .align addr
    demandOr (isLocal addr && winSel addr == 0 && decide (o < Config.lmSize)) .perm addr
    demandOr (decide (o + castleSpan desc ≤ Config.lmSize)) .perm
      (lmAddr ((castleFirst o desc fun x => decide (Config.lmSize ≤ x)).getD 0))
    let bad (x n : Nat) : Bool := s.here.reserved x n || s.here.onCounter x n
    demandOr (!(castleRowsAt o desc).any fun x => bad x (castleRowBytes desc)) .perm
      (lmAddr ((castleFirst o desc fun x => bad x 1).getD 0))
    s.castleLineCheck o desc
  match checks with
  | .error e => s.settle (.error e)
  | .ok _ => s.castlePair (desc.extractLsb' 0 3) o desc

end Sys2Proof.Machine
end

