-- ==== Sys2Proof/Machine/Bank.lean ====
section
/-! DEFINITION. The registers an instruction reads and writes, and a register that is lost: in a lent core's bank (R291,
R299), or in a damaged word of the workspace (R375). Registers have the numbers of R360; 40 to 51 are the workspace's other
words (R107). -/

namespace Sys2Proof.Machine

/-- The g operands that an instruction reads. -/
def Instr.gReads : Instr → List GReg
  | .add _ a b | .sub _ a b | .mul _ a b | .mulh _ _ a b | .div _ _ a b | .rem _ _ a b | .min _ _ a b | .max _ _ a b
  | .and _ a b | .or _ a b | .xor _ a b | .andn _ a b | .shl _ a b | .shr _ a b | .sar _ a b | .rol _ a b | .cmp a b | .tst a b
  | .sel _ _ a b | .tlbi _ a b | .castle a b | .ldIndexed _ _ _ _ _ a b | .acqr _ a b | .relr _ a b | .ccln _ a b
  | .cinv _ a b | .cflu _ a b | .amoFadd _ _ _ a b | .redFadd a b | .topk _ _ a b | .waita _ _ _ a b | .waitaN32 _ _ _ a b
  | .red _ _ a b | .redN32 _ _ a b | .pconf a b | .prst _ a b | .sendd a b | .cnti _ a b | .dec a b | .smax a b
  | .tokc _ a b => [a, b]
  | .mov _ (.g a) | .movDestSelect _ a | .clz _ a | .ctz _ a | .popc _ a | .lea _ a _ | .ext _ _ a | .jmpr _ a | .shlImm _ _ a
  | .shrImm _ _ a | .sarImm _ _ a | .rolImm _ _ a | .bfx _ _ a _ | .rep _ a _ | .vbcast _ _ a | .vsets a | .vrng _ a
  | .ctld _ a _ | .ld _ _ _ _ _ a _ | .ldSigned _ _ _ _ _ a _ | .lds _ a _ | .ldt _ a _ | .ste a _ | .ldmb _ _ _ a _
  | .stmb _ _ _ a _ | .cpyw _ _ a | .pcanc a | .pstat _ a | .prld _ _ a | .send a | .exits a | .launch _ a | .tblk a
  | .tublk a => [a]
  | .loop d _ | .cmpImm d _ | .mts d _ => [d]
  | .bfi _ d a _ | .st _ _ _ _ d a _ | .stf d a _ => [d, a]
  | .stIndexed _ _ _ _ d a b | .cpy _ d a b => [d, a, b]
  | .vrdq _ _ b => [b]
  | .vld _ _ a _ | .vst _ _ a _ | .vldt _ _ a _ | .sptins _ a => [a, GReg.next a]
  | .amo op _ _ _ d a b | .amoN32 op _ _ _ d a b => if op = .cas then [d, a, b] else [a, b]
  | .cpyg _ d a b => [d, a, GReg.next a, b, GReg.next b]
  | .pmove _ _ a b | .kvlook _ a b | .kvmap _ a b => [a, GReg.next a, b, GReg.next b]
  | .ttset _ a b => [a, b, GReg.next b]
  | .sptlook _ a b | .bhash _ a b => [a, GReg.next a, b]
  | _ => []

/-- The g operand that an instruction writes. -/
def Instr.gWrite : Instr → Option GReg
  | .add d _ _ | .sub d _ _ | .mul d _ _ | .mulh _ d _ _ | .div _ d _ _ | .rem _ d _ _ | .min _ d _ _ | .max _ d _ _ | .ldi d _
  | .and d _ _ | .or d _ _ | .xor d _ _ | .andn d _ _ | .shl d _ _ | .shr d _ _ | .sar d _ _ | .rol d _ _ | .mov d _
  | .movDestSelect (.g d) _ | .clz d _ | .ctz d _ | .popc d _ | .sel _ d _ _ | .lea d _ _ | .ext _ d _ | .jmpr d _ | .loop d _
  | .ldk d _ | .shlImm _ d _ | .shrImm _ d _ | .sarImm _ d _ | .rolImm _ d _ | .bfx _ d _ _ | .bfi _ d _ _ | .mfs d _
  | .ld _ _ _ _ d _ _ | .ldSigned _ _ _ _ d _ _ | .ldIndexed _ _ _ _ d _ _ | .lds d _ _ | .ldt d _ _ | .amo _ _ _ _ d _ _
  | .amoN32 _ _ _ _ d _ _ | .amoFadd _ _ d _ _ | .waita _ _ d _ _ | .waitaN32 _ _ d _ _ | .cpyw _ d _ | .pmove _ d _ _
  | .pstat d _ | .prld _ d _ | .spawn d | .popd d | .cnti d _ _ | .launch d _ | .ttset d _ _ | .kvlook d _ _ | .kvmap d _ _
  | .sptlook d _ _ | .sptins d _ | .bhash d _ _ | .tokc d _ _ => some d
  | _ => none

/-- The tiles that an instruction names, but VCVT's second ones: the one that it writes first, then its sources. -/
def Instr.vReads : Instr → List VReg
  | .vadd _ d a b | .vsub _ d a b | .vmul _ d a b | .vfma _ d a b | .vmax _ d a b | .vmin _ d a b | .vdiv _ d a b
  | .vsel _ d a b | .vsmx d a b | .vqz _ _ d a b | .ldec d a b => [d, a, b]
  | .vabs _ _ d a | .vneg _ _ d a | .vredr _ _ d a | .vredc _ _ d a | .vcvt _ _ _ _ _ d a | .vexp2 d a | .vqmax d a _
  | .lqz d a => [d, a]
  | .vcmp _ _ _ a b => [a, b]
  | .vbcast _ d _ | .vrdq d _ _ | .vld _ d _ _ | .vst _ d _ _ | .vldt _ d _ _ => [d]
  | _ => []

/-- The tile that an instruction writes whole and does not read: its results are unmasked and cover all 1,024 bytes (R139,
R145, R146). -/
def State.tileWhole (s : State) (i : Instr) : Option VReg :=
  let h := s.shape
  let whole (k : KReg) (bits n : Nat) (d : VReg) : Option VReg := if k = 0#2 ∧ bits * n = 8192 then some d else none
  match i with
  | .vclr d | .vrng d _ => some d
  | .vadd m d _ _ | .vsub m d _ _ | .vmul m d _ _ | .vdiv m d _ _ => whole m.mask h.ty.bits h.count d
  | .vmax k d _ _ | .vmin k d _ _ | .vabs k _ d _ | .vneg k _ d _ | .vbcast k d _ | .vld k d _ _ | .vldt k d _ _ =>
    whole k h.ty.bits h.count d
  | .vsel _ d _ _ | .vexp2 d _ | .vsmx d _ _ | .vqmax d _ _ | .ldec d _ _ => whole 0 h.ty.bits h.count d
  | .vredr _ _ d _ => if h.cols = 1 then whole 0 h.ty.bits h.rows d else none
  | .vredc _ _ d _ => if h.rows = 1 then whole 0 h.ty.bits h.cols d else none
  | .vqz _ _ d _ _ => whole 0 8 h.count d
  | .lqz d _ => whole 0 16 ((h.count + 7) / 8) d
  | .vcvt target _ _ _ _ d _ => whole 0 (targetElem target).bits h.count d
  | _ => none

/-- The tiles that an instruction reads; one that it writes in part counts as read (R375) (log entry 17, DEDUCED). -/
def State.tileReads (s : State) (i : Instr) : List VReg :=
  if (s.tileWhole i).isSome then (Instr.vReads i).drop 1 else Instr.vReads i

/-- The mask registers that an instruction reads besides VSEL's selector; field 0 is no mask. -/
def Instr.kReads : Instr → List KReg
  | .vadd m _ _ _ | .vsub m _ _ _ | .vmul m _ _ _ | .vfma m _ _ _ | .vdiv m _ _ _ | .vredr _ m _ _ | .vredc _ m _ _ => [m.mask]
  | .vmax k _ _ _ | .vmin k _ _ _ | .vabs k _ _ _ | .vneg k _ _ _ | .vbcast k _ _ | .vld k _ _ _
  | .vst k _ _ _ | .vldt k _ _ _ => [k]
  | .vcmp _ k _ _ _ => [k]
  | _ => []

/-- The second tiles of VCVT: scales that it reads for .lx8 and for .mx decoding, and those that .mx encoding writes in part
(R105, R157 to R160). -/
def State.scaleReads (s : State) : Instr → List Nat
  | .vcvt target mx _ _ _ d a =>
    let tile (v : VReg) : List Nat := [64 + (v + 1).toNat]
    if s.shape.ty = .lx8 then tile a
    else if mx = true then (match target with | .f32 | .f16 | .bf16 => tile a | _ => tile d)
    else []
  | _ => []

/-- The mb registers that an instruction reads. -/
def State.mbReads (s : State) : Instr → List Nat
  | .mov _ (.mb r) => [r.toNat]
  | .send a => List.range (min 8 ((s.g a).extractLsb' 24 4).toNat)
  | .stmb _ _ _ _ _ => List.range 8
  | .spawn _ | .cnti _ _ _ => List.range 4
  | _ => []

/-- The mb registers that a completed instruction has written. -/
def State.mbWrites (s : State) : Instr → List Nat
  | .movDestSelect (.mb r) _ => [r.toNat]
  | .ldmb _ _ _ _ _ => List.range 8
  | .popd _ => if s.here.deque.isEmpty then [] else List.range 4
  | _ => []

/-- The instruction works in the vector unit. -/
def Instr.isVector (i : Instr) : Bool :=
  !(Instr.vReads i).isEmpty || match i with | .vclr _ | .vrng _ _ | .vsets _ | .vsetsImm _ => true | _ => false

/-- The instruction may raise a flag in FPF, which changes a part of its word (R88). -/
def State.mayFlag (s : State) : Instr → Bool
  | .vadd _ _ _ _ | .vsub _ _ _ _ | .vmul _ _ _ _ | .vfma _ _ _ _ | .vdiv _ _ _ _ | .vredr _ _ _ _ | .vredc _ _ _ _ =>
    s.shape.ty.fmt.isSome
  | .vcvt _ _ _ _ _ _ _ | .vexp2 _ _ | .vsmx _ _ _ | .vqz _ _ _ _ _ | .lqz _ _ | .ldec _ _ _ | .vrdq _ _ _
  | .amoFadd _ _ _ _ _ => true
  | _ => false

/-- The workspace word of a system register that is no other state (R107, R132). -/
def sysWordNo (n : Nat) : List Nat :=
  if n = 0x004 then [46] else if n = 0x005 then [45] else if n = 0x008 then [43] else if n = 0x009 then [44]
  else if n = 0x00A then [42] else []

/-- The other words of its workspace that an instruction reads: the PC and CTL always, VSHAPE and VSD for vector work, FPF where
it may raise a flag, RMODE for a stochastic draw, RESID for VRDQ, the ticket summary for what changes it (R252). -/
def State.wordReads (s : State) (i : Instr) : List Nat :=
  [40, 41] ++ (if Instr.isVector i then [48] else []) ++ (if s.mayFlag i then [43] else []) ++ match i with
    | .vsets _ | .vsetsImm _ => []
    | .mfs _ n => sysWordNo n.toNat
    | .vcvt _ _ _ .sr _ _ _ | .vqz .sr _ _ _ _ => [42, 44]
    | .vrdq _ _ _ => [42, 46]
    | .pmove _ _ _ _ | .pconf _ _ | .pcanc _ => [49, 50, 51]
    | i => if Instr.isVector i then [42] else []

/-- The words that it writes whole; EXITS writes its successor's FPF, RMODE and RESID (R275). -/
def Instr.wordWrites : Instr → List Nat
  | .exits _ => [43, 44, 46]
  | .mts _ n => if n.toNat = 0x008 then [43] else if n.toNat = 0x009 then [44] else if n.toNat = 0x00A then [42] else []
  | .vsets _ | .vsetsImm _ => [42]
  | _ => []

/-- The words of the linked task's workspace that a handler reads: TSW, PC and TRINFO (R136). -/
def linkWord (n : Nat) : List Nat := if n = 0x040 then [45] else if n = 0x041 then [40] else if n = 0x042 then [47] else []

/-- The registers that an instruction of the issuing task reads. -/
def State.bankReads (s : State) (i : Instr) : List Nat :=
  let g := ((Instr.gReads i).map fun r => (s.ws.ctl.phys r).toNat).filter (· != 0)
  (match i with | .ret => [15] | _ => []) ++ g ++ s.mbReads i ++ (s.tileReads i).map (fun v => 64 + v.toNat) ++ s.scaleReads i ++
    (match i with | .vsel k _ _ _ => [80 + k.toNat] | _ => []) ++
    ((Instr.kReads i).filter (· != 0)).map (fun k => 80 + k.toNat) ++ s.wordReads i

/-- The registers that it writes whole. -/
def State.bankWrites (s : State) (i : Instr) : List Nat :=
  (match i with | .call _ => [15] | .vcmp _ _ d _ _ => [80 + d.toNat] | _ => []) ++
    (s.tileWhole i).toList.map (fun d => 64 + d.toNat) ++ ((Instr.gWrite i).map fun r => (s.ws.ctl.phys r).toNat).toList ++ s.mbWrites i ++ Instr.wordWrites i

/-- TRINFO of an MCHK on word k of a workspace of the issuing core, where the word is damaged or lost. -/
def State.wordInfo (s : State) (slot k : Nat) : Option Word :=
  let o := 512 * slot + 8 * k
  (s.damagedByte (.lm s.hereCid o) 8).map fun j => s.mchkInfo (0xFF00#16 ++ BitVec.ofNat 48 o) (.lm s.hereCid o) j

/-- TRINFO of an MCHK on a damaged word of the issuing task's save area that vector work would load: its masks, then its tiles
(R144, R375). -/
def State.areaInfo (s : State) : Option Word :=
  let v := s.ws.vsd
  let info (o n : Nat) : Option Word := (s.damagedByte (.lm s.hereCid o) n).map fun j =>
    s.mchkInfo (0xFF00#16 ++ BitVec.ofNat 48 o) (.lm s.hereCid o) j
  if v.vhome then none else v.places.findSome? fun x => info x.1 x.2

/-- A lost register that the instruction reads: it traps MCHK with this TRINFO (R299, R360, R375). -/
def State.lostRead (s : State) (i : Instr) : Option Word :=
  if s.damaged.isEmpty && s.task.lost.isEmpty then none
  else
    let own := (s.bankReads i).findSome? fun r =>
      if r < 64 then s.wordInfo s.here.cur.val r else if s.task.lost.contains r then some (lostInfo r) else none
    (own.orElse fun _ => if Instr.isVector i then s.areaInfo else none).orElse fun _ => match i, s.task.link with
      | .mfs _ n, some l => (linkWord n.toNat).findSome? fun k => s.wordInfo l k
      | _, _ => none

/-- Registers of a task that have been written whole are lost no more (R299, R375). -/
def State.mendRegs (s : State) (cid slot : Nat) (l : List Nat) : State :=
  let s1 := s.modSlot cid slot fun x => { x with lost := x.lost.filter fun r => !l.contains r }
  (l.filter (· < 64)).foldl (fun s r => s.mendReg cid slot r) s1

/-- The task goes on after the instruction, or is the successor that EXITS has made. -/
def Slot.completed (t : Slot) (i : Instr) : Bool :=
  t.ready || match i, t.wait with | .exits _, some (.blocked _) => t.held | _, _ => false

/-- A register that a completed instruction has written whole is lost no more. -/
def State.mendBank (s : State) (i : Instr) (t : State) : State :=
  if s.damaged.isEmpty && s.task.lost.isEmpty then t
  else if ((t.core s.hereCid).slot s.here.cur.val).completed i then t.mendRegs s.hereCid s.here.cur.val (s.bankWrites i) else t

end Sys2Proof.Machine
end

