-- ==== Sys2Proof/Machine/Scalar.lean ====
section
/-! DEFINITION. Scalar arithmetic, logic, shifts, bit operations, compares, moves and constants (R114 to R126). -/

namespace Sys2Proof.Machine

/-- Write g[d], move past the instruction. -/
def State.done (s : State) (d : GReg) (v : Word) : Result := .next (s.setG d v).advance

/-- Write g[d] and the flags, move past the instruction; the value and the flags come from the state before. -/
def State.doneFl (s : State) (d : GReg) (v : Word) (f : Ctl → Ctl) : Result :=
  .next ((s.setG d v).modCtl f).advance

/-- Bits 127:64 of the exact product of two integers (R118). -/
def highHalf (p : Int) : Word := BitVec.ofInt 64 (p / 2 ^ 64)

/-- DIV and REM of R118: quotient, remainder, V. -/
def divide (t : IntTy) (a b : Word) : Word × Word × Bool :=
  match t with
  | .i64 =>
    if b = 0 then (BitVec.allOnes 64, a, true)
    else if a = BitVec.intMin 64 ∧ b = BitVec.allOnes 64 then (BitVec.intMin 64, 0, true)
    else (BitVec.ofInt 64 (a.toInt.tdiv b.toInt), BitVec.ofInt 64 (a.toInt.tmod b.toInt), false)
  | .n64 => if b = 0 then (BitVec.allOnes 64, a, true) else (a / b, a % b, false)

def execAdd (d a b : GReg) (s : State) : Result := s.doneFl d (s.g a + s.g b) fun c => c.addFl (s.g a) (s.g b)
def execSub (d a b : GReg) (s : State) : Result := s.doneFl d (s.g a - s.g b) fun c => c.subFl (s.g a) (s.g b)
def execMul (d a b : GReg) (s : State) : Result := s.done d (s.g a * s.g b)
def execMulh (ty : IntTy) (d a b : GReg) (s : State) : Result :=
  s.done d (highHalf (asType ty (s.g a) * asType ty (s.g b)))
def execDiv (ty : IntTy) (d a b : GReg) (s : State) : Result :=
  let r := divide ty (s.g a) (s.g b)
  s.doneFl d r.1 fun c => { c with v := r.2.2 }
def execRem (ty : IntTy) (d a b : GReg) (s : State) : Result :=
  let r := divide ty (s.g a) (s.g b)
  s.doneFl d r.2.1 fun c => { c with v := r.2.2 }
def execMin (ty : IntTy) (d a b : GReg) (s : State) : Result :=
  s.done d (if asType ty (s.g b) < asType ty (s.g a) then s.g b else s.g a)
def execMax (ty : IntTy) (d a b : GReg) (s : State) : Result :=
  s.done d (if asType ty (s.g a) < asType ty (s.g b) then s.g b else s.g a)

/-- R116. -/
def execLdi (d : GReg) (imm : Word) (s : State) : Result := s.done d imm

def execAnd (d a b : GReg) (s : State) : Result := s.done d (s.g a &&& s.g b)
def execOr (d a b : GReg) (s : State) : Result := s.done d (s.g a ||| s.g b)
def execXor (d a b : GReg) (s : State) : Result := s.done d (s.g a ^^^ s.g b)
def execAndn (d a b : GReg) (s : State) : Result := s.done d (s.g a &&& ~~~s.g b)

/-- The count of a register shift: g[b]<5:0> (R120). -/
def shiftCount (v : Word) : Nat := v.toNat % 64

def execShl (d a b : GReg) (s : State) : Result := s.done d (s.g a <<< shiftCount (s.g b))
def execShr (d a b : GReg) (s : State) : Result := s.done d (s.g a >>> shiftCount (s.g b))
def execSar (d a b : GReg) (s : State) : Result := s.done d ((s.g a).sshiftRight (shiftCount (s.g b)))
def execRol (d a b : GReg) (s : State) : Result := s.done d ((s.g a).rotateLeft (shiftCount (s.g b)))
def execShlImm (n : BitVec 6) (d a : GReg) (s : State) : Result := s.done d (s.g a <<< n.toNat)
def execShrImm (n : BitVec 6) (d a : GReg) (s : State) : Result := s.done d (s.g a >>> n.toNat)
def execSarImm (n : BitVec 6) (d a : GReg) (s : State) : Result := s.done d ((s.g a).sshiftRight n.toNat)
def execRolImm (n : BitVec 6) (d a : GReg) (s : State) : Result := s.done d ((s.g a).rotateLeft n.toNat)

/-- MOV from a class-selectable source (R114, R115). -/
def execMov (d : GReg) (a : MovReg) (s : State) : Result :=
  s.finish ((s.readMov a).map fun r => r.2.setG d r.1)

/-- MOV to a class-selectable destination (R114, R115). -/
def execMovDestSelect (d : MovReg) (a : GReg) (s : State) : Result :=
  s.finish (do
    movDestOk d
    s.writeMov d (s.g a))

/-- The number of bits of v below its lowest set bit, counting at most n (R121). -/
def trailingZeros : Nat → Nat → Nat
  | 0, _ => 0
  | n + 1, v => if v % 2 = 1 then 0 else 1 + trailingZeros n (v / 2)

/-- The number of set bits among the low n. -/
def setBits : Nat → Nat → Nat
  | 0, _ => 0
  | n + 1, v => v % 2 + setBits n (v / 2)

/-- The number of zero bits above the highest set bit; 64 for zero (R121). -/
def leadingZeros (v : Word) : Nat := if v = 0 then 64 else 63 - Nat.log2 v.toNat

def execClz (d a : GReg) (s : State) : Result := s.done d (BitVec.ofNat 64 (leadingZeros (s.g a)))
def execCtz (d a : GReg) (s : State) : Result := s.done d (BitVec.ofNat 64 (trailingZeros 64 (s.g a).toNat))
def execPopc (d a : GReg) (s : State) : Result := s.done d (BitVec.ofNat 64 (setBits 64 (s.g a).toNat))

/-- Bits width − 1 to 0 set. -/
def lowMask (width : Nat) : Word := BitVec.ofNat 64 (2 ^ width - 1)

/-- BFX and BFI refuse a field beyond bit 63 (R122). -/
def fieldOk (pos wm1 : BitVec 6) : Bool := decide (pos.toNat + wm1.toNat + 1 ≤ 64)

def execBfx (pos : BitVec 6) (d a : GReg) (wm1 : BitVec 6) (s : State) : Result :=
  s.finish (do
    demand (fieldOk pos wm1)
    .ok (s.setG d ((s.g a >>> pos.toNat) &&& lowMask (wm1.toNat + 1))))

/-- BFI (R122): with d = 0 the kept bits are those that a read of g0 gives, 0, so the bytes of g0 outside the field become 0 (R20)
(log entry 50, DEDUCED). -/
def execBfi (pos : BitVec 6) (d a : GReg) (wm1 : BitVec 6) (s : State) : Result :=
  s.finish (do
    demand (fieldOk pos wm1)
    let m := lowMask (wm1.toNat + 1) <<< pos.toNat
    .ok (s.setG d ((s.g d &&& ~~~m) ||| ((s.g a <<< pos.toNat) &&& m))))

/-- R123. -/
def execCmp (a b : GReg) (s : State) : Result := .next (s.modCtl fun c => c.subFl (s.g a) (s.g b)).advance
def execCmpImm (d : GReg) (imm : Word) (s : State) : Result := .next (s.modCtl fun c => c.subFl (s.g d) imm).advance
def execTst (a b : GReg) (s : State) : Result := .next (s.modCtl fun c => c.tstFl (s.g a) (s.g b)).advance

/-- R124. -/
def execSel (c : Cond) (d a b : GReg) (s : State) : Result :=
  s.done d (if Cond.holds c s.ws.ctl then s.g a else s.g b)

/-- R126. -/
def execLea (d a : GReg) (disp : Word) (s : State) : Result := s.done d (s.g a + disp)

/-- R125. -/
def extend (ty : ExtTy) (v : Word) : Word :=
  match ty with
  | .i8 => (v.extractLsb' 0 8).signExtend 64
  | .i16 => (v.extractLsb' 0 16).signExtend 64
  | .i32 => (v.extractLsb' 0 32).signExtend 64
  | .n8 => (v.extractLsb' 0 8).setWidth 64
  | .n16 => (v.extractLsb' 0 16).setWidth 64
  | .n32 => (v.extractLsb' 0 32).setWidth 64

def execExt (ty : ExtTy) (d a : GReg) (s : State) : Result := s.done d (extend ty (s.g a))

/-- LDK loads a 64-bit constant from the code, as a plain load (R117). -/
def execLdk (d : GReg) (imm : Word) (s : State) : Result :=
  s.finish (do
    let a := (s.addr &&& ~~~7#64) + 8 * imm
    demandOr (isGlobal a) .xlate a
    let (v, s1) ← s.loadMem false a 8
    .ok (s1.setG d (BitVec.ofNat 64 v)))

end Sys2Proof.Machine
end

