-- ==== Sys2Proof/Machine/Control.lean ====
section
/-! DEFINITION. Control transfer, LOOP, REP, hints, TRAP, SVC and RFT (R53, R58, R59, R127 to R137). -/

namespace Sys2Proof.Machine

/-- Register g15 holds the link; it never rotates, and CALL writes it physically (R127). -/
def linkReg : GReg := 15

/-- R127. Each of these traps ILLOP inside a REP body (R130). -/
def execBr (off : Word) (s : State) : Result :=
  s.settle (do
    s.noRep
    .ok (s.jump (s.target off)))

def execBrc (c : Cond) (off : Word) (s : State) : Result :=
  s.settle (do
    s.noRep
    .ok (s.jump (if Cond.holds c s.ws.ctl then s.target off else s.nextPc)))

def execCall (off : Word) (s : State) : Result :=
  s.settle (do
    s.noRep
    .ok ((s.modWs fun w => w.setReg linkReg s.nextPc).jump (s.target off)))

/-- RET and JMPR trap ALIGN on an odd target and then write no link (R72, R127). -/
def execRet (s : State) : Result :=
  s.settle (do
    s.noRep
    demandOr (!(s.ws.reg linkReg).getLsbD 0) .align (s.ws.reg linkReg)
    .ok (s.jump (s.ws.reg linkReg)))

def execJmpr (d a : GReg) (s : State) : Result :=
  s.settle (do
    s.noRep
    demandOr (!(s.g a).getLsbD 0) .align (s.g a)
    .ok ((if d = 0 then s else s.setG d s.nextPc).jump (s.g a)))

/-- R128. -/
def execLoop (d : GReg) (off : Word) (s : State) : Result :=
  s.settle (do
    s.noRep
    demand (d != 0#5)
    let p := s.ws.ctl.phys d
    let v := s.ws.raw p - 1
    let s1 := s.modWs fun w =>
      { w.setReg p v with ctl := if w.ctl.rot then { w.ctl with rrb := w.ctl.rrb - 1 } else w.ctl }
    .ok (s1.jump (if v = 0 then s.nextPc else s.target off)))

/-- REP (R129): the body starts after the instruction. -/
def execRep (stagger : BitVec 3) (a : GReg) (len : BitVec 6) (s : State) : Result :=
  s.settle (do
    s.noRep
    let n := min (s.g a).toNat (2 ^ 24 - 1)
    if n = 0 then .ok (s.jump (s.nextPc + BitVec.ofNat 64 (2 * (len.toNat + 1))))
    else .ok ((s.modCtl fun c => { c with
      repA := true, repRem := BitVec.ofNat 24 n, repI := 0, repLen := len, repOff := 0,
      repSt := stagger }).jump s.nextPc))

/-- BLKEND changes nothing that a program can observe (R53, R75). -/
def execBlkend (s : State) : Result := .next s.advance

/-- A page-15 base word is a no-op, whatever its modifier (R58). -/
def execHintNop (_modifier : BitVec 6) (_base : Half) (s : State) : Result := .next s.advance

/-- An unassigned encoding traps ILLOP (R59) (log entry 48, DEDUCED). -/
def execUnassignedEncoding (s : State) : Result := s.finish illop

/-- R134; both trap ILLOP inside a REP body (R130). -/
def execTrap (n : Byte) (s : State) : Result :=
  s.finish (do
    s.noRep
    .error (.trap .trap (n.setWidth 64)))

def execSvc (n : Byte) (s : State) : Result :=
  s.finish (do
    s.noRep
    .error (.trap .svc (n.setWidth 64)))

/-- RFT (R137): resume or retire the linked task, then retire the handler (log entry 43, DEDUCED). -/
def execRft (s : State) : Result :=
  match s.noRep, s.task.link with
  | .error e, _ => s.settle (.error e)
  | .ok _, none => s.settle illop
  | .ok _, some l =>
    let me := s.here.cur.val
    if s.task.tract then .next ((s.retire s.hereCid l).retire s.hereCid me)
    else if s.task.trpc.getLsbD 0 then s.settle (.error (.trap .align s.task.trpc))
    else .next ((s.release s.hereCid l s.task.trpc).retire s.hereCid me)

end Sys2Proof.Machine
end

