-- ==== Sys2Proof/Machine/Memory.lean ====
section
/-! DEFINITION. Loads and stores, fences and range operations, full/empty words and the 64-byte moves (R204 to R215). -/

namespace Sys2Proof.Machine

/-- An aligned load of the issuing task, the command window included (R168, R204). -/
def State.loadG (s : State) (nc : Bool) (a : Word) (n : Nat) : Eff (Nat × State) := do
  aligned a n
  if isLocal a && winSel a == 2 && decide (winOff a + n ≤ 0x1000) then do
    let v ← s.windowLoad a n
    .ok (v, s)
  else s.loadMem nc a n

/-- LD of n bytes at an address (R204). -/
def State.loadReg (s : State) (signed : Bool) (n : Nat) (o : Ordering) (sc : Scope) (nc : Bool) (d : GReg) (a : Word) :
    Eff State := do
  let (v, s1) ← s.loadG nc a n
  .ok ((s1.setG d (extendBytes signed n v)).acquireIf o sc)

/-- ST of the low n bytes of a value at an address (R204). -/
def State.storeReg (s : State) (n : Nat) (o : Ordering) (sc : Scope) (v : Word) (a : Word) : Eff State := do
  aligned a n
  (s.releaseIf o sc).storeMem a n (v.toNat % 2 ^ (8 * n))

def execLd (sz : Size) (o : Ordering) (sc : Scope) (nc : Bool) (d a : GReg) (disp : Word) (s : State) : Result :=
  s.finish (s.loadReg false (sizeBytes sz) o sc nc d (s.dispAddr a disp (sizeBytes sz)))

def execLdSigned (sz : Size) (o : Ordering) (sc : Scope) (nc : Bool) (d a : GReg) (disp : Word) (s : State) : Result :=
  s.finish (s.loadReg true (sizeBytes sz) o sc nc d (s.dispAddr a disp (sizeBytes sz)))

/-- The hint .st keeps the line out of the CDC and changes no outcome (R204). -/
def execSt (sz : Size) (o : Ordering) (sc : Scope) (_stream : Bool) (d a : GReg) (disp : Word) (s : State) : Result :=
  s.finish (s.storeReg (sizeBytes sz) o sc (s.g d) (s.dispAddr a disp (sizeBytes sz)))

def execLdIndexed (ty : LdTy) (o : Ordering) (sc : Scope) (nc : Bool) (d a b : GReg) (s : State) : Result :=
  s.finish (s.loadReg (ldSigned ty) (ldBytes ty) o sc nc d (s.g a + s.g b))

def execStIndexed (sz : Size) (o : Ordering) (sc : Scope) (_stream : Bool) (d a b : GReg) (s : State) : Result :=
  s.finish (s.storeReg (sizeBytes sz) o sc (s.g d) (s.g a + s.g b))

/-! ## Full/empty words (R210 to R213) -/

/-- The place of a full/empty word: alignment, then the window, then the place itself (R213). -/
def State.wordAt (s : State) (acc : Acc) (a : Word) : Eff (Loc × State) := do
  aligned a 4
  demandOr (isLocal a && decide (winSel a ≤ 1)) .perm a
  let (l, s1) ← s.resolve acc a 4
  s1.lineCheck a l 4
  .ok (l, s1)

/-- LDS of an arrival word is an acquire at package scope for the page that has arrived: the cluster keeps no copy of its
lines (R349). -/
def State.seeArrival (s : State) (l : Loc) : State :=
  match l with
  | .lm cid o => match (s.core cid).arrivals.get (o / 4) with
    | some p =>
      let page (x : Nat) : Bool := decide (p / 64 ≤ x ∧ x < p / 64 + 1024)
      (s.dropCopies (clusterOf cid) page).barLate s.me page
    | none => s
  | _ => s

/-- The scope of a full/empty word: core for LM, cluster for CSP (R201). -/
def wordScope : Loc → Scope
  | .csp _ _ => .cluster | _ => .core

def execLds (d a : GReg) (disp : Word) (s : State) : Result :=
  s.finish (do
    let at' := s.dispAddr a disp 4
    let (l, s1) ← s.wordAt .load at'
    await (s1.isFull l) (.word l)
    s1.readable at' l 4
    .ok (((s1.setG d (BitVec.ofNat 64 (s1.peek l 4))).seeArrival l).acquire (wordScope l)))

def execLdt (d a : GReg) (disp : Word) (s : State) : Result :=
  s.finish (do
    let at' := s.dispAddr a disp 4
    let (l, s1) ← s.wordAt .load at'
    await (s1.isFull l) (.word l)
    s1.readable at' l 4
    .ok (((s1.setG d (BitVec.ofNat 64 (s1.peek l 4))).setFull l false).acquire (wordScope l)))

def execStf (d a : GReg) (disp : Word) (s : State) : Result :=
  s.finish (do
    let at' := s.dispAddr a disp 4
    let (l, s1) ← s.wordAt .store at'
    .ok (((s1.releaseTo (wordScope l)).storeAt s1.hereCid l 4 ((s.g d).toNat % 2 ^ 32)).setFull l true))

def execSte (a : GReg) (disp : Word) (s : State) : Result :=
  s.finish (do
    let (l, s1) ← s.wordAt .store (s.dispAddr a disp 4)
    .ok (s1.setFull l false))

/-! ## 64-byte moves (R215) -/

/-- mb0 to mb7 from 64 bytes. -/
def State.setMbs (s : State) (v : Nat) : State :=
  s.modWs fun w => { w with mb := Vector.ofFn fun (i : Fin 8) => BitVec.ofNat 64 (v / 2 ^ (64 * i.val)) }

/-- mb0 to mb7 as 64 bytes. -/
def State.mbLine (s : State) : Line :=
  let m := s.ws.mb
  m[7] ++ m[6] ++ m[5] ++ m[4] ++ m[3] ++ m[2] ++ m[1] ++ m[0]

def execLdmb (o : Ordering) (sc : Scope) (nc : Bool) (a : GReg) (disp : Word) (s : State) : Result :=
  s.finish (do
    let at' := s.dispAddr a disp 64
    aligned at' 64
    let (v, s1) ← s.loadMem nc at' 64
    .ok ((s1.setMbs v).acquireIf o sc))

def execStmb (o : Ordering) (sc : Scope) (_stream : Bool) (a : GReg) (disp : Word) (s : State) : Result :=
  s.finish (do
    let at' := s.dispAddr a disp 64
    aligned at' 64
    let s1 := s.releaseIf o sc
    if isLocal at' && winSel at' == 2 && winOff at' == 0 then s1.pushCommand s.mbLine
    else s1.storeMem at' 64 s.mbLine.toNat)

/-! ## Fences and range operations (R206 to R209) -/

def execFence (o : Ordering) (sc : Scope) (s : State) : Result :=
  s.finish (.ok (match o with
    | .rlx => (s.releaseTo .system).acquire .system
    | .acq => s.acquire sc
    | .rel => s.releaseTo sc))

/-- The physical lines that a range of global addresses names, by the page tables and the TLBs; a page without a
translation is skipped (R209). -/
def State.inRange (s : State) (base len : Word) : Nat → Bool :=
  let lo := base.toNat
  let hi := base.toNat + len.toNat
  let ls := s.leaves s.cx lo hi ++
    (s.here.l1 ++ (s.cluster (clusterOf s.hereCid)).l2).filter fun l => l.cx == s.cx
  fun line => ls.any fun l =>
    decide (l.pa ≤ 64 * line ∧ 64 * line < l.pa + l.size) && overlaps (l.va + (64 * line - l.pa)) 64 lo (hi - lo)

/-- A range operation: ILLOP on a range that crosses (R209), else its effect on the lines of a global range. -/
def State.onRange (s : State) (a b : GReg) (f : State → (Nat → Bool) → State) : Result :=
  s.finish (do
    demand (rangeOk (s.g a) (s.g b))
    .ok (if s.g b = 0 ∨ isLocal (s.g a) then s else f s (s.inRange (s.g a) (s.g b))))

def execAcqr (sc : Scope) (a b : GReg) (s : State) : Result :=
  s.onRange a b fun s p => s.acquireFor s.me sc p

def execRelr (sc : Scope) (a b : GReg) (s : State) : Result :=
  s.onRange a b fun s p => s.releaseFor s.me sc p

/-- CCLN (R208): the CDC is write-through; at the level hs or dm the task's earlier stores to the range are performed at
package scope. The home slices hold no dirty line (log entry 4, DEDUCED). -/
def State.clean (s : State) (l : Level) (p : Nat → Bool) : State := if l = .cdc then s else s.releaseFor s.me .package p

def execCcln (l : Level) (a b : GReg) (s : State) : Result := s.onRange a b fun s p => s.clean l p

/-- The cluster's copies of a range are dropped, and later loads of the task fetch anew (R208). -/
def State.fetchAnew (s : State) (p : Nat → Bool) : State := (s.dropCopies (clusterOf s.hereCid) p).barLate s.me p

/-- Drop a core's instruction-cache copies over a range of virtual addresses (R73). -/
def Core.dropCode (c : Core) (lo n : Nat) : Core :=
  { c with icache := c.icache.filter fun x => !overlaps (2 * x.1) 2 lo n }

/-- CINV (R208): level ic drops the copies of the core, or of every member of the phalanx, and the task fetches nothing
older from now on (R73). -/
def execCinv (l : Level) (a b : GReg) (s : State) : Result :=
  let lo := (s.g a).toNat
  let n := (s.g b).toNat
  s.onRange a b fun s p =>
    match l with
    | .ic => s.task.members.foldl (fun s m => s.modCore m fun c => c.dropCode lo n)
        (({ s with here := s.here.dropCode lo n } : State).modTask fun t => { t with cinvs := t.cinvs ++ [(lo, n, s.now)] })
    | _ => s.fetchAnew p

def execCflu (l : Level) (a b : GReg) (s : State) : Result :=
  s.onRange a b fun s p =>
    ((s.clean l p).fetchAnew p).combineWhere (clusterOf s.hereCid) p

end Sys2Proof.Machine
end

