-- ==== Sys2Proof/Machine/Dispatch.lean ====
section
/-! DEFINITION. exec: one arm per constructor of Instr, each a call of its meaning. -/

namespace Sys2Proof.Machine

def exec (i : Instr) (s : State) : Host.Outcome State Fault Refusal :=
  match i with
  | .ret => Sys2Proof.Machine.execRet s
  | .add d a b => Sys2Proof.Machine.execAdd d a b s
  | .sub d a b => Sys2Proof.Machine.execSub d a b s
  | .mul d a b => Sys2Proof.Machine.execMul d a b s
  | .mulh ty d a b => Sys2Proof.Machine.execMulh ty d a b s
  | .div ty d a b => Sys2Proof.Machine.execDiv ty d a b s
  | .rem ty d a b => Sys2Proof.Machine.execRem ty d a b s
  | .min ty d a b => Sys2Proof.Machine.execMin ty d a b s
  | .max ty d a b => Sys2Proof.Machine.execMax ty d a b s
  | .ldi d imm => Sys2Proof.Machine.execLdi d imm s
  | .and d a b => Sys2Proof.Machine.execAnd d a b s
  | .or d a b => Sys2Proof.Machine.execOr d a b s
  | .xor d a b => Sys2Proof.Machine.execXor d a b s
  | .andn d a b => Sys2Proof.Machine.execAndn d a b s
  | .shl d a b => Sys2Proof.Machine.execShl d a b s
  | .shr d a b => Sys2Proof.Machine.execShr d a b s
  | .sar d a b => Sys2Proof.Machine.execSar d a b s
  | .rol d a b => Sys2Proof.Machine.execRol d a b s
  | .mov d a => Sys2Proof.Machine.execMov d a s
  | .movDestSelect d a => Sys2Proof.Machine.execMovDestSelect d a s
  | .clz d a => Sys2Proof.Machine.execClz d a s
  | .ctz d a => Sys2Proof.Machine.execCtz d a s
  | .popc d a => Sys2Proof.Machine.execPopc d a s
  | .cmp a b => Sys2Proof.Machine.execCmp a b s
  | .tst a b => Sys2Proof.Machine.execTst a b s
  | .sel c d a b => Sys2Proof.Machine.execSel c d a b s
  | .lea d a disp => Sys2Proof.Machine.execLea d a disp s
  | .ext ty d a => Sys2Proof.Machine.execExt ty d a s
  | .jmpr d a => Sys2Proof.Machine.execJmpr d a s
  | .brc c off => Sys2Proof.Machine.execBrc c off s
  | .br off => Sys2Proof.Machine.execBr off s
  | .call off => Sys2Proof.Machine.execCall off s
  | .loop d off => Sys2Proof.Machine.execLoop d off s
  | .cmpImm d imm => Sys2Proof.Machine.execCmpImm d imm s
  | .ldk d imm => Sys2Proof.Machine.execLdk d imm s
  | .blkend => Sys2Proof.Machine.execBlkend s
  | .hintNop modifier base => Sys2Proof.Machine.execHintNop modifier base s
  | .unassignedEncoding => Sys2Proof.Machine.execUnassignedEncoding s
  | .trap n => Sys2Proof.Machine.execTrap n s
  | .svc n => Sys2Proof.Machine.execSvc n s
  | .rft => Sys2Proof.Machine.execRft s
  | .snap n => Sys2Proof.Machine.execSnap n s
  | .shlImm n d a => Sys2Proof.Machine.execShlImm n d a s
  | .shrImm n d a => Sys2Proof.Machine.execShrImm n d a s
  | .sarImm n d a => Sys2Proof.Machine.execSarImm n d a s
  | .rolImm n d a => Sys2Proof.Machine.execRolImm n d a s
  | .bfx pos d a wm1 => Sys2Proof.Machine.execBfx pos d a wm1 s
  | .bfi pos d a wm1 => Sys2Proof.Machine.execBfi pos d a wm1 s
  | .mfs d n => Sys2Proof.Machine.execMfs d n s
  | .mts d n => Sys2Proof.Machine.execMts d n s
  | .rep stagger a len => Sys2Proof.Machine.execRep stagger a len s
  | .tlbi cluster a b => Sys2Proof.Machine.execTlbi cluster a b s
  | .vadd m d a b => Sys2Proof.Machine.execVadd m d a b s
  | .vsub m d a b => Sys2Proof.Machine.execVsub m d a b s
  | .vmul m d a b => Sys2Proof.Machine.execVmul m d a b s
  | .vfma m d a b => Sys2Proof.Machine.execVfma m d a b s
  | .vmax mask d a b => Sys2Proof.Machine.execVmax mask d a b s
  | .vmin mask d a b => Sys2Proof.Machine.execVmin mask d a b s
  | .vdiv m d a b => Sys2Proof.Machine.execVdiv m d a b s
  | .vsel k d a b => Sys2Proof.Machine.execVsel k d a b s
  | .vcmp p mask d a b => Sys2Proof.Machine.execVcmp p mask d a b s
  | .vabs mask sat d a => Sys2Proof.Machine.execVabs mask sat d a s
  | .vneg mask sat d a => Sys2Proof.Machine.execVneg mask sat d a s
  | .vbcast mask d a => Sys2Proof.Machine.execVbcast mask d a s
  | .vclr d => Sys2Proof.Machine.execVclr d s
  | .vredr op m d a => Sys2Proof.Machine.execVredr op m d a s
  | .vredc op m d a => Sys2Proof.Machine.execVredc op m d a s
  | .vrdq d a b => Sys2Proof.Machine.execVrdq d a b s
  | .vsets a => Sys2Proof.Machine.execVsets a s
  | .vld mask d a disp => Sys2Proof.Machine.execVld mask d a disp s
  | .vst mask d a disp => Sys2Proof.Machine.execVst mask d a disp s
  | .vldt mask d a disp => Sys2Proof.Machine.execVldt mask d a disp s
  | .vsetsImm imm => Sys2Proof.Machine.execVsetsImm imm s
  | .vcvt target mx ct r x d a => Sys2Proof.Machine.execVcvt target mx ct r x d a s
  | .vexp2 d a => Sys2Proof.Machine.execVexp2 d a s
  | .vsmx d a b => Sys2Proof.Machine.execVsmx d a b s
  | .vrng d a => Sys2Proof.Machine.execVrng d a s
  | .vqmax d a g => Sys2Proof.Machine.execVqmax d a g s
  | .vqz r x d a b => Sys2Proof.Machine.execVqz r x d a b s
  | .lqz d a => Sys2Proof.Machine.execLqz d a s
  | .ldec d a b => Sys2Proof.Machine.execLdec d a b s
  | .ctld ct a disp => Sys2Proof.Machine.execCtld ct a disp s
  | .ctldPreset ct n => Sys2Proof.Machine.execCtldPreset ct n s
  | .castle a b => Sys2Proof.Machine.execCastle a b s
  | .ld sz o sc nc d a disp => Sys2Proof.Machine.execLd sz o sc nc d a disp s
  | .ldSigned sz o sc nc d a disp => Sys2Proof.Machine.execLdSigned sz o sc nc d a disp s
  | .st sz o sc stream d a disp => Sys2Proof.Machine.execSt sz o sc stream d a disp s
  | .ldIndexed ty o sc nc d a b => Sys2Proof.Machine.execLdIndexed ty o sc nc d a b s
  | .stIndexed sz o sc stream d a b => Sys2Proof.Machine.execStIndexed sz o sc stream d a b s
  | .lds d a disp => Sys2Proof.Machine.execLds d a disp s
  | .ldt d a disp => Sys2Proof.Machine.execLdt d a disp s
  | .stf d a disp => Sys2Proof.Machine.execStf d a disp s
  | .ste a disp => Sys2Proof.Machine.execSte a disp s
  | .ldmb o sc nc a disp => Sys2Proof.Machine.execLdmb o sc nc a disp s
  | .stmb o sc stream a disp => Sys2Proof.Machine.execStmb o sc stream a disp s
  | .fence o sc => Sys2Proof.Machine.execFence o sc s
  | .acqr sc a b => Sys2Proof.Machine.execAcqr sc a b s
  | .relr sc a b => Sys2Proof.Machine.execRelr sc a b s
  | .ccln l a b => Sys2Proof.Machine.execCcln l a b s
  | .cinv l a b => Sys2Proof.Machine.execCinv l a b s
  | .cflu l a b => Sys2Proof.Machine.execCflu l a b s
  | .amo op signed o sc d a b => Sys2Proof.Machine.execAmo op signed o sc d a b s
  | .amoN32 op signed o sc d a b => Sys2Proof.Machine.execAmoN32 op signed o sc d a b s
  | .amoFadd o sc d a b => Sys2Proof.Machine.execAmoFadd o sc d a b s
  | .redFadd a b => Sys2Proof.Machine.execRedFadd a b s
  | .topk o sc a b => Sys2Proof.Machine.execTopk o sc a b s
  | .waita o sc d a b => Sys2Proof.Machine.execWaita o sc d a b s
  | .waitaN32 o sc d a b => Sys2Proof.Machine.execWaitaN32 o sc d a b s
  | .red op signed a b => Sys2Proof.Machine.execRed op signed a b s
  | .redN32 op signed a b => Sys2Proof.Machine.execRedN32 op signed a b s
  | .cpy ch d a b => Sys2Proof.Machine.execCpy ch d a b s
  | .cpyg ch d a b => Sys2Proof.Machine.execCpyg ch d a b s
  | .cpyw ch d a => Sys2Proof.Machine.execCpyw ch d a s
  | .pmove t d a b => Sys2Proof.Machine.execPmove t d a b s
  | .pconf a b => Sys2Proof.Machine.execPconf a b s
  | .pcanc a => Sys2Proof.Machine.execPcanc a s
  | .pstat d a => Sys2Proof.Machine.execPstat d a s
  | .prld t d a => Sys2Proof.Machine.execPrld t d a s
  | .prst t a b => Sys2Proof.Machine.execPrst t a b s
  | .exit => Sys2Proof.Machine.execExit s
  | .yield => Sys2Proof.Machine.execYield s
  | .dcmp => Sys2Proof.Machine.execDcmp s
  | .barv sc n => Sys2Proof.Machine.execBarv sc n s
  | .barwEven sc n => Sys2Proof.Machine.execBarwEven sc n s
  | .barwOdd sc n => Sys2Proof.Machine.execBarwOdd sc n s
  | .compose n => Sys2Proof.Machine.execCompose n s
  | .send a => Sys2Proof.Machine.execSend a s
  | .sendd a b => Sys2Proof.Machine.execSendd a b s
  | .spawn d => Sys2Proof.Machine.execSpawn d s
  | .popd d => Sys2Proof.Machine.execPopd d s
  | .cnti d a b => Sys2Proof.Machine.execCnti d a b s
  | .dec a b => Sys2Proof.Machine.execDec a b s
  | .exits a => Sys2Proof.Machine.execExits a s
  | .launch d a => Sys2Proof.Machine.execLaunch d a s
  | .ttset d a b => Sys2Proof.Machine.execTtset d a b s
  | .tblk a => Sys2Proof.Machine.execTblk a s
  | .tublk a => Sys2Proof.Machine.execTublk a s
  | .kvlook d a b => Sys2Proof.Machine.execKvlook d a b s
  | .kvmap d a b => Sys2Proof.Machine.execKvmap d a b s
  | .sptlook d a b => Sys2Proof.Machine.execSptlook d a b s
  | .sptins d a => Sys2Proof.Machine.execSptins d a s
  | .bhash d a b => Sys2Proof.Machine.execBhash d a b s
  | .smax a b => Sys2Proof.Machine.execSmax a b s
  | .tokc d a b => Sys2Proof.Machine.execTokc d a b s
  | .firmwareFaultDecision cid slot dec => Sys2Proof.Machine.execFirmwareFaultDecision cid slot dec s
  | .fmtset cid => Sys2Proof.Machine.execFmtset cid s
  | .bload cid => Sys2Proof.Machine.execBload cid s
  | .brot cid => Sys2Proof.Machine.execBrot cid s
  | .mma cid => Sys2Proof.Machine.execMma cid s
  | .accrd cid => Sys2Proof.Machine.execAccrd cid s
  | .accz cid => Sys2Proof.Machine.execAccz cid s
  | .mxfence cid => Sys2Proof.Machine.execMxfence cid s
  | .copyDelivery cid ch => Sys2Proof.Machine.execCopyDelivery cid ch s
  | .gatherDelivery cid ch => Sys2Proof.Machine.execGatherDelivery cid ch s
  | .faultListClose die => Sys2Proof.Machine.execFaultListClose die s
  | .faultResolutionResume die cxid page => Sys2Proof.Machine.execFaultResolutionResume die cxid page s
  | .faultResolutionAbandon die cxid page => Sys2Proof.Machine.execFaultResolutionAbandon die cxid page s
  | .speculativeRequest cid t => Sys2Proof.Machine.execSpeculativeRequest cid t s
  | .speculativeArrival cid t => Sys2Proof.Machine.execSpeculativeArrival cid t s
  | .exposure cid t => Sys2Proof.Machine.execExposure cid t s
  | .atomicAtHome r => Sys2Proof.Machine.execAtomicAtHome r s
  | .redDswApply r => Sys2Proof.Machine.execRedDswApply r s
  | .accessReply cid => Sys2Proof.Machine.execAccessReply cid s
  | .cdcCopyExpiry cluster line => Sys2Proof.Machine.execCdcCopyExpiry cluster line s
  | .waitaAtHome cid slot => Sys2Proof.Machine.execWaitaAtHome cid slot s
  | .waitaTimeout cid slot => Sys2Proof.Machine.execWaitaTimeout cid slot s
  | .topkAtHome r => Sys2Proof.Machine.execTopkAtHome r s
  | .tokcAtHome r => Sys2Proof.Machine.execTokcAtHome r s
  | .messageArrival src k => Sys2Proof.Machine.execMessageArrival src k s
  | .messageReoffer src k => Sys2Proof.Machine.execMessageReoffer src k s
  | .waitingMessageRelease cid k => Sys2Proof.Machine.execWaitingMessageRelease cid k s
  | .activation cid => Sys2Proof.Machine.execActivation cid s
  | .runListAging cid k => Sys2Proof.Machine.execRunListAging cid k s
  | .issueAgePromotion cid slot => Sys2Proof.Machine.execIssueAgePromotion cid slot s
  | .yieldExpiry cid slot => Sys2Proof.Machine.execYieldExpiry cid slot s
  | .taskWakeUp cid slot => Sys2Proof.Machine.execTaskWakeUp cid slot s
  | .stealRoundStart cid => Sys2Proof.Machine.execStealRoundStart cid s
  | .stealRequest thief => Sys2Proof.Machine.execStealRequest thief s
  | .stealAnswer thief => Sys2Proof.Machine.execStealAnswer thief s
  | .stealBackoffExpiry cid => Sys2Proof.Machine.execStealBackoffExpiry cid s
  | .dequeCountReport cid => Sys2Proof.Machine.execDequeCountReport cid s
  | .decApply src k => Sys2Proof.Machine.execDecApply src k s
  | .pendingCounterEnqueue cid off => Sys2Proof.Machine.execPendingCounterEnqueue cid off s
  | .hostLaunchEnqueue die cxid addr record => Sys2Proof.Machine.execHostLaunchEnqueue die cxid addr record s
  | .launchExecute die => Sys2Proof.Machine.execLaunchExecute die s
  | .preemptionRequest cid slot => Sys2Proof.Machine.execPreemptionRequest cid slot s
  | .preemptionSave cid slot => Sys2Proof.Machine.execPreemptionSave cid slot s
  | .preemptionForcedSave cid slot => Sys2Proof.Machine.execPreemptionForcedSave cid slot s
  | .savedTaskSlotRelease cid slot => Sys2Proof.Machine.execSavedTaskSlotRelease cid slot s
  | .resumption cid slot => Sys2Proof.Machine.execResumption cid slot s
  | .coreMove src dst => Sys2Proof.Machine.execCoreMove src dst s
  | .clusterContextSwitch cluster cxid => Sys2Proof.Machine.execClusterContextSwitch cluster cxid s
  | .composeGrant cluster => Sys2Proof.Machine.execComposeGrant cluster s
  | .composeTimeout cid slot => Sys2Proof.Machine.execComposeTimeout cid slot s
  | .reclaim cid => Sys2Proof.Machine.execReclaim cid s
  | .recomposeGrant cluster => Sys2Proof.Machine.execRecomposeGrant cluster s
  | .kvLookupRequest cid => Sys2Proof.Machine.execKvLookupRequest cid s
  | .kvMapRequest cid => Sys2Proof.Machine.execKvMapRequest cid s
  | .pageInComplete cid k ok => Sys2Proof.Machine.execPageInComplete cid k ok s
  | .prefixLookupRequest cxid => Sys2Proof.Machine.execPrefixLookupRequest cxid s
  | .prefixInsertRequest cxid => Sys2Proof.Machine.execPrefixInsertRequest cxid s
  | .smaxRouterCombine src k src' k' => Sys2Proof.Machine.execSmaxRouterCombine src k src' k' s
  | .smaxPacketAtOwner src k => Sys2Proof.Machine.execSmaxPacketAtOwner src k s
  | .walkerGrant die => Sys2Proof.Machine.execWalkerGrant die s
  | .pageMigration cxid va newPa => Sys2Proof.Machine.execPageMigration cxid va newPa s
  | .redirectionEnd k => Sys2Proof.Machine.execRedirectionEnd k s
  | .patrolScrub sp key unit => Sys2Proof.Machine.execPatrolScrub sp key unit s
  | .coreRetirement cid => Sys2Proof.Machine.execCoreRetirement cid s
  | .hostSnapTrigger n => Sys2Proof.Machine.execHostSnapTrigger n s
  | .flagFallLatch => Sys2Proof.Machine.execFlagFallLatch s
  | .snapshotRearm => Sys2Proof.Machine.execSnapshotRearm s
  | .thermalThrottle die => Sys2Proof.Machine.execThermalThrottle die s
  | .thermalTrip die => Sys2Proof.Machine.execThermalTrip die s
  | .reset => Sys2Proof.Machine.execReset s
  | .firmwareStart base len crc => Sys2Proof.Machine.execFirmwareStart base len crc s
  | .hostBarAccess write pa data => Sys2Proof.Machine.execHostBarAccess write pa data s
  | .marhelRemoteAccess dev cxid op pa data => Sys2Proof.Machine.execMarhelRemoteAccess dev cxid op pa data s
  | .contextCreation cfg => Sys2Proof.Machine.execContextCreation cfg s
  | .contextTeardown cxid => Sys2Proof.Machine.execContextTeardown cxid s

end Sys2Proof.Machine
end

