-- ==== Sys2Proof/Machine/Progress.lean ====
section
/-! DEFINITION. The issue of one instruction, and what happens while the agenda names nothing (log entry 2, DESIGN CHOICE,
DESIGN CHOICE): the cores issue in turn, and the steps of the engines, messages, scheduler and firmware that a task waits
for happen in turn. Every order is allowed; this is one. -/

namespace Sys2Proof.Machine

/-- MTS to it traps ILLOP whatever the value (R132). -/
def SysReg.readOnly : SysReg → Bool
  | .fl | .rrb | .fpf | .rmode | .vshape | .capf | .specbud | .pth _ | .trpc | .tract => false
  | _ => true

/-- The encoding alone makes the instruction trap ILLOP (R47, R52, R59): event 4 of R55. That an operand field which its entry
forbids counts here is log entry 17, DESIGN CHOICE (DESIGN CHOICE). -/
def Instr.neverRuns : Instr → Bool
  | .unassignedEncoding => true
  | .compose n => widthCode n.toNat == 0#3
  | .ctldPreset _ n => decide (2 ≤ n.toNat)
  | .snap n => n.msb
  | .loop d _ => d == 0#5
  | .vqmax _ _ g => decide (5 ≤ g.toNat)
  | .vqz _ st _ _ _ => st == .inf
  | .vsetsImm v => !decide (v.toNat < 2 ^ 24) || (shapeOf (v.setWidth 24)).isNone
  | .vcvt target mx _ _ st _ _ =>
    !satOk target st || (mx && !([.fp4, .c8, .i8, .f32, .f16, .bf16] : List VTarget).contains target)
  | .mfs _ n => !n.msb && (sysReg n).isNone
  | .mts _ n => !n.msb && match sysReg n with | some r => r.readOnly | none => true
  | .vld _ _ a _ | .vst _ _ a _ | .vldt _ _ a _ | .sptins _ a | .bhash _ a _ | .sptlook _ a _ => !evenPair a
  | .pmove _ _ a b | .kvlook _ a b | .kvmap _ a b | .cpyg _ _ a b => !(evenPair a && evenPair b)
  | .ttset _ _ b => !evenPair b
  | _ => false

/-- The events 4 and 5 of R55 that decoding does not see: besides those above VCVT's table field where neither type is .c8
(R160) and LDEC's b where the type is .i8 (R190), if VSHAPE can be read, and a firmware register (R131). -/
def State.early (s : State) (i : Instr) : Option Cause :=
  let field : Bool := match i with
    | .vcvt target _ ct _ _ _ _ => !(s.shape.ty == .c8 || target == .c8 || ct == 0#2)
    | .ldec _ _ b => s.shape.ty == .i8 && b != 0#4
    | _ => false
  if Instr.neverRuns i || (field && (s.wordInfo s.here.cur.val 42).isNone) then some .illop
  else match i with
    | .mfs _ n | .mts _ n => if n.msb then some .priv else none
    | _ => none

/-- Before a vector instruction issues, the vector unit holds its task's tiles and masks, whatever the instruction then does
(R142, R144) (log entry 50, DEDUCED). -/
def State.readied (s : State) (i : Instr) : State := if Instr.isVector i then s.claim else s

/-- Execute the decoded instruction: events 4 and 5 of R55 first, then one that crosses the body end traps ILLOP, and one that
reads a lost register MCHK (R130, R299, R375); else exec, and the block and the bank are noted (R74). -/
def State.runDecoded (s : State) (i : Instr) : Result :=
  match s.early i with
  | some c => .next (s.takeTrap c 0)
  | none =>
    if s.crossesBody then .next (s.takeTrap .illop 0)
    else match s.lostRead i with
      | some w => .next (s.takeTrap .mchk w)
      | none =>
        let u := s.readied i
        match exec i u with
        | .next t => .next (u.mendBank i (u.noteBlock i t))
        | r => r

/-- Fetch, decode and execute at A for the slot that cur names. -/
def State.issue (s : State) : Result :=
  match State.fetchChain 6 s s.addr [] with
  | .error e => ({ s with ilen := 1 } : State).settle (.error e)
  | .ok (ws, t) =>
    let (i, n) := decodeChain ws
    ({ t with ilen := n } : State).runDecoded i

/-- A successor that has resumed waits for its channel still: BLK is 1 (R275, R367). -/
def State.stillBlocked (s : State) : Bool :=
  match s.task.wait with
  | some (.blocked ch) => (s.here.entry ch).blk
  | _ => false

/-- The focus core issues one instruction, or meets a due pre-emption request before it (R270, R366). A successor whose channel
is still blocked parks instead, in its old place (R275). -/
def State.issueHere (s : State) : Option Result :=
  match s.pick with
  | none => none
  | some k =>
    let s1 := s.beginIssue k
    if s1.requestDue s1.hereCid k.val then some (.next (s1.meetAtBoundary s1.hereCid k.val))
    else if s1.stillBlocked then
      some (.next (s1.modTask fun t => { t with ws := { t.ws with tsw := { t.ws.tsw with state := .parked } } }))
    else some (s1.modTask fun t => { t with wait := none }).issue

/-- The step of the matrix unit for the head of a queue. -/
def unitStep (cid : Nat) (c : MxCmd) : Instr :=
  match c.kind with
  | some .fmtset => .fmtset cid
  | some .bload => .bload cid
  | some .brot => .brot cid
  | some .mma => .mma cid
  | some .accrd => .accrd cid
  | some .accz => .accz cid
  | _ => .mxfence cid

/-- The step of message k of a sender. -/
def msgStep (src k : Nat) (m : Msg) : Instr :=
  match m.load, m.dev with
  | .dec _ _, none => .decApply src k
  | .smax _ _ _ _ _, none => if m.refused.isSome then .messageReoffer src k else .smaxPacketAtOwner src k
  | _, _ => if m.refused.isSome then .messageReoffer src k else .messageArrival src k

def ticketSteps (cid i : Nat) (t : Ticket) : List Instr :=
  match t.state with
  | .spec => [.speculativeRequest cid i, .speculativeArrival cid i]
  | .exposing => [.exposure cid i]
  | _ => []

/-- The step that ends a parked task's wait. -/
def waitSteps (cid i : Nat) (w : Wait) : List Instr :=
  match w with
  | .waita _ _ _ _ _ _ => [.waitaAtHome cid i, .waitaTimeout cid i]
  | .tokcFull _ _ _ => [.waitaAtHome cid i, .waitaTimeout cid i]
  | .compose _ _ => [.composeTimeout cid i]
  | _ => [.taskWakeUp cid i]

def slotSteps (cid i : Nat) (t : Slot) : List Instr :=
  List.flatten
    [ match t.wait with | some w => waitSteps cid i w | none => [],
      if t.preempt.isSome then [.preemptionSave cid i, .preemptionForcedSave cid i] else [],
      if t.held && t.ws.tsw.state == .trapped then
        [.firmwareFaultDecision cid i .passed, .firmwareFaultDecision cid i .declined] else [] ]

def stealSteps (cid : Nat) (x : Steal) : List Instr :=
  match x with
  | .busy => [.stealRoundStart cid]
  | .waiting _ _ => [.stealRequest cid]
  | .asking _ _ _ => [.stealAnswer cid]
  | .backoff _ => [.stealBackoffExpiry cid]

/-- The step of the head transfer of a channel. -/
def chanSteps (cid ch : Nat) (x : Channel) : List Instr :=
  match x.flight with
  | t :: _ => if t.gather then [.gatherDelivery cid ch] else [.copyDelivery cid ch]
  | [] => []

/-- The steps of the matrix unit for a core: its head command, or a record that waits. -/
def mxSteps (cid : Nat) (m : Mx) : List Instr :=
  match m.queue with
  | c :: _ => [unitStep cid c]
  | [] => if m.records.isEmpty then [] else [.mxfence cid]

def dirSteps (cid : Nat) (q : List KvReq) : List Instr :=
  match q with
  | r :: _ => [if r.map then .kvMapRequest cid else .kvLookupRequest cid]
  | [] => []

/-- Steps of one core that may be due. -/
def Core.steps (c : Core) (cid : Nat) : List Instr :=
  List.flatten
    [ mxSteps cid c.mx,
      (List.range 8).flatMap fun ch => chanSteps cid ch (vget c.chans ch Channel.reset),
      (List.range 32).flatMap fun i => ticketSteps cid i (c.ticket i),
      c.sendQ.zipIdx.map fun x => msgStep cid x.2 x.1,
      (List.range c.inbound.length).map fun k => .waitingMessageRelease cid k,
      c.counters.map fun o => .pendingCounterEnqueue cid o,
      (List.range 8).flatMap fun i => slotSteps cid i (c.slot i),
      if c.runList.isEmpty then [] else [.reclaim cid],
      if c.retired then [.coreRetirement cid] else [],
      [.activation cid, .accessReply cid],
      dirSteps cid c.dirQ,
      (List.range c.pageIns.length).flatMap fun k => [.pageInComplete cid k true, .pageInComplete cid k false] ]

/-- Somewhere a deque holds records that an idle core could ask for. -/
def State.stealable (s : State) : Bool := s.coreIds.any fun c => decide (2 ≤ (s.core c).deque.length)

/-- The step of a prefix unit. -/
def sptSteps (cxid : Nat) (q : List SptReq) : List Instr :=
  match q with
  | r :: _ => [if r.ins then .prefixInsertRequest cxid else .prefixLookupRequest cxid]
  | [] => []

/-- Steps that may be due. -/
def State.dueSteps (s : State) : List Instr :=
  List.flatten
    [ s.coreIds.flatMap fun c => (s.core c).steps c,
      if s.stealable then s.coreIds.flatMap fun c => stealSteps c (s.core c).steal else [],
      s.coreIds.flatMap fun c => if (s.core c).owed.isEmpty then [] else [.stealAnswer c],
      s.fwMsgs.zipIdx.map fun x => msgStep 0xFFFF x.2 x.1,
      s.clusters.flatMap fun k => if k.2.composeQ.isEmpty then [] else [.composeGrant k.1, .recomposeGrant k.1],
      s.dies.flatMap fun d => [.launchExecute d.1, .faultListClose d.1],
      s.contexts.flatMap fun x => sptSteps x.1 x.2.sptQ,
      [.flagFallLatch],
      if s.redirects.isEmpty then [] else [.redirectionEnd 0] ]

/-- The outcome of a step that changes the state (log entry 14, DESIGN CHOICE). -/
def State.tryStep (s : State) (i : Instr) : Option State :=
  match exec i s with
  | .next t => if t = s then none else some t
  | _ => none

/-- The first of the due steps, from a place that moves with the time, that changes the state. -/
def State.background (s : State) : Option State :=
  let l := s.dueSteps
  (l.rotateLeft (s.now / 2 % (l.length + 1))).findSome? s.tryStep

/-- The core after the focus, in turn, that has a task to issue. -/
def State.nextIssuer (s : State) : Option Nat :=
  let l := s.coreIds
  ((l.filter fun c => decide (s.hereCid < c)) ++ l.filter fun c => decide (c ≤ s.hereCid)).find? fun c =>
    (s.focus c).pick.isSome

end Sys2Proof.Machine
end

