-- ==== Sys2Proof/Machine/Step.lean ====
section
/-! DEFINITION. step: the next turn of the agenda, else a task or another agent goes on in turn. And withFetchWord, which
places one instruction where the next step fetches. -/

namespace Sys2Proof.Machine

/-- The turn of a core: it issues one instruction, or nothing. -/
def State.turnOf (s : State) (cid : Nat) : Result := ((s.focus cid).issueHere.getD (.next s)).passed

/-- Without a turn of the agenda: at even times another agent goes first, at odd times a core. -/
def State.freeRun (s : State) : Result :=
  let issue (s : State) : Option Result := s.nextIssuer.map s.turnOf
  let other (s : State) : Option Result := s.background.map fun t => .next (t.passed 1)
  (if s.now % 2 = 0 then (other s).orElse fun _ => issue s else (issue s).orElse fun _ => other s).getD
    (.next (s.passed 1))

/-- A turn of the agenda: one that names a part the X40 does not have, or an instruction of a task, changes nothing. -/
def State.turn (s : State) (t : Turn) : Result :=
  match t with
  | .pass n => .next (s.passed n)
  | .event i => if i.isStep && Turn.wf t then Result.passed (exec i s) else .next (s.passed 1)
  | .issue cid => if Turn.wf t then s.turnOf cid else .next (s.passed 1)
  | .act a => .next ((if Turn.wf t then s.act a else s).passed 1)

/-- The step (log entries 1, 2, DESIGN CHOICE): every step lets at least one cc pass. -/
def step (s : State) : Host.Outcome State Fault Refusal :=
  match s.agenda with
  | t :: rest => ({ s with agenda := rest } : State).turn t
  | [] => s.freeRun

/-- The machine with one instruction placed where the next step fetches (log entry 3, DESIGN CHOICE). -/
def State.withFetchWord (s : State) (nbits w : Nat) : State := s.placed nbits w

end Sys2Proof.Machine
end

