-- ==== Sys2Proof/Safety.lean ====
section
/-! DEFINITION. The terms of the statements: what completing an instruction leaves of the rest of the machine, the results
of the scalar instructions in the arithmetic of the spec, and the invariants of the state. -/

namespace Sys2Proof.Machine

/-! ## Frames -/

/-- What the completion of an instruction of n half-words makes of CTL c and of the PC, next being the address after the
instruction (R44, R129). Outside a REP body the PC goes there. In a body REPOFF moves; at the body end the body starts again
with REPI raised and REPREM lowered, and the last iteration falls through with REPA clear. -/
def RepStep (c : Ctl) (n : Nat) (next : Word) (c' : Ctl) (pc' : Word) : Prop :=
  let off := c.repOff.toNat + n
  let len := c.repLen.toNat + 1
  (c.repA = false → c' = c ∧ pc' = next) ∧
  (c.repA = true → off < len → c' = { c with repOff := BitVec.ofNat 6 off } ∧ pc' = next) ∧
  (c.repA = true → off = len → c.repRem ≠ 1 →
    c' = { c with repOff := 0, repRem := c.repRem - 1, repI := c.repI + 1 } ∧ pc' = next - BitVec.ofNat 64 (2 * len)) ∧
  (c.repA = true → off = len → c.repRem = 1 →
    c' = { c with repOff := 0, repRem := 0, repI := c.repI + 1, repA := false } ∧ pc' = next)

/-- t is u with the issuing task past the instruction: only the PC and CTL's REP fields differ, as RepStep says (R44,
R129). Nothing else of the machine differs. -/
def State.Past (u t : State) : Prop :=
  t = u.modWs (fun w => { w with pc := t.ws.pc, ctl := t.ws.ctl }) ∧
  t.ws.ctl = { u.ws.ctl with
    repA := t.ws.ctl.repA, repI := t.ws.ctl.repI, repOff := t.ws.ctl.repOff, repRem := t.ws.ctl.repRem } ∧
  RepStep u.ws.ctl u.ilen u.nextPc t.ws.ctl t.ws.pc

/-- The outcome is a next state that is u past the instruction. -/
def Completes (r : Result) (u : State) : Prop := ∃ t, r = .next t ∧ u.Past t

/-- The byte at x is none of the n bytes from l. -/
def Loc.outside (x l : Loc) (n : Nat) : Prop := ∀ i, i < n → x ≠ l.add i

/-- The byte at x is no byte of a workspace slot, which holds the registers and the PC (R18). -/
def Loc.plain : Loc → Prop
  | .lm _ o => Config.slotBytes ≤ o
  | _ => True

/-! ## Memory accesses -/

/-- An aligned access of n bytes at a that the issuing task may make: it resolves to the place l outside the command
window, in the state u that the translation leaves; no ticket holds a line of it, and no unit of the machine and no register
in its way is damaged (R197, R204, R205, R299, R338). -/
def State.Reaches (s : State) (acc : Acc) (a : Word) (n : Nat) (l : Loc) (u : State) : Prop :=
  a.toNat % n = 0 ∧ s.resolve acc a n = .ok (l, u) ∧ (∀ o, l ≠ .mqw o) ∧ u.holders (l.lines n) = [] ∧
    u.sound l = true

/-- An aligned access to a full/empty word, in the LM or the CSP (R210, R213). -/
def State.ReachesWord (s : State) (acc : Acc) (a : Word) (l : Loc) : Prop :=
  a.toNat % 4 = 0 ∧ isLocal a = true ∧ winSel a ≤ 1 ∧ s.resolve acc a 4 = .ok (l, s) ∧ s.holders (l.lines 4) = [] ∧
    s.sound l = true

/-- Nothing is cached of the line of a byte: no U line and no CDC copy in any cluster, and no store to it that a task may not
see yet (R200, R222). -/
def State.Uncached (s : State) (l : Loc) : Prop :=
  ∀ pa, l = .phys pa → ∀ x ∈ s.clusters,
    (∀ u ∈ x.2.ulines, u.line ≠ pa / 64) ∧ (∀ y ∈ x.2.copies, y.line ≠ pa / 64) ∧ ∀ y ∈ x.2.late, y.line ≠ pa / 64

/-- The value of n bytes from l, the byte at the lowest address lowest (R139). -/
def State.bytesAt (s : State) (l : Loc) (n : Nat) : Nat :=
  (List.range n).foldl (fun v i => v + (s.byteAt (l.add i)).toNat * 256 ^ i) 0

/-- Every byte store of the machine is in its canonical form: LMs, CSPs, DSWs, physical memory, what tickets hold and what
firmware has saved. An invariant of the step. -/
def Core.Canonical (c : Core) : Prop := c.lm.wf = true ∧ ∀ i : Fin 32, (c.tickets[i]).data.wf = true

def State.Canonical (s : State) : Prop :=
  s.here.Canonical ∧ (∀ x ∈ s.others, x.2.Canonical) ∧ (∀ x ∈ s.clusters, x.2.csp.wf = true) ∧
    (∀ x ∈ s.dies, x.2.dsw.wf = true) ∧ s.mem.wf = true ∧ (∀ x ∈ s.savedTasks, x.area.wf = true) ∧
    ∀ x ∈ s.savedClusters, x.csp.wf = true ∧ ∀ c ∈ x.cores, c.Canonical

/-! ## Exceptions -/

/-- A context's handler can take a trap of a task: the context names channel h, whose entry is valid and unbound, the task
is itself no handler, and the run list has room (R358). -/
def State.HandlerReady (s : State) (cid slot h : Nat) (e : TTEntry) : Prop :=
  ((s.cxOf cid).bind s.ctxCfg).bind (·.handler) = some h ∧ (s.core cid).tt.get h = some e ∧ e.valid = true ∧
    e.bound = false ∧ ((s.core cid).slot slot).link = none ∧ (s.core cid).runList.length < 64

/-- The trap record of the issuing task x, in a core that is else c, and nothing else (R135): CAUSE, TRINFO and STATE are
written and the PC stays at A. The word of TRINFO is written whole, so it is readable (R375). A COMPOSE that waits is withdrawn
(R295). -/
def State.Recorded (s t : State) (x : Slot) (cause : Cause) (info : Word) (c : Core) : Prop :=
  let word47 (d : Space × Nat × Nat) : Bool := decide (d.1 = .lm ∧ d.2.1 = s.hereCid ∧ d.2.2 / 2 = 64 * s.here.cur.val + 47)
  t = { s with
    here := { c with
      slots := s.here.slots.set s.here.cur { x with
        wait := none, recompose := false, chainLen := s.ilen
        ws := { x.ws with trinfo := info, tsw := { x.ws.tsw with cause := cause, state := .trapped } } } }
    damaged := s.damaged.filter fun d => !word47 d
    clusters := t.clusters } ∧
  ∀ k, t.cluster k = { s.cluster k with composeQ := (t.cluster k).composeQ }

/-- The trap record of the issuing task and the handler's activation record, which makes the core busy (R135, R136, R277,
R358). -/
def State.Trapped (s t : State) (cause : Cause) (info : Word) (h : Nat) (e : TTEntry) : Prop :=
  s.Recorded t { s.task with fwFault := none, handlerDue := false } cause info { s.here with
    runList := s.here.runList ++ [{ chan := BitVec.ofNat 8 h, prio := e.prio, since := s.now,
                                    kind := .handler s.here.cur.val }]
    steal := .busy
    owed := s.here.owed ++ s.here.steal.due }

/-- The trap record of the issuing task, and no handler yet: firmware takes XLATE, PERM and MCHK first (R135, R357). TRINFO
as it was before stands by, for a fault that firmware resolves. -/
def State.AwaitsFirmware (s t : State) (cause : Cause) (info : Word) : Prop :=
  s.Recorded t { s.task with fwFault := some s.ws.trinfo } cause info s.here

/-- The issuing task is uncomposed, and no register of a lent core's bank is lost (R290, R299). -/
def State.Alone (s : State) : Prop := s.task.members = [] ∧ s.task.lost = []

/-! ## Results of the scalar instructions -/

/-- FL after a result r: the carry is given, V is set when the exact result is not r (R113). -/
def Ctl.after (c : Ctl) (r : Word) (carry : Bool) (exact : Int) : Ctl :=
  { c with z := decide (r = 0), n := r.getLsbD 63, c := carry, v := decide (r.toInt ≠ exact) }

/-- The workspace that a scalar instruction leaves, apart from the PC; none: not one of them, or it stops. -/
def scalarWs (s : State) (i : Instr) : Option Workspace :=
  let w := s.ws
  let c := w.ctl
  let put (d : GReg) (v : Word) : Option Workspace := some (w.setReg (c.phys d) v)
  match i with
  | .add d a b =>
    let r : Word := BitVec.ofNat 64 ((s.g a).toNat + (s.g b).toNat)
    some { w.setReg (c.phys d) r with
      ctl := c.after r (decide (2 ^ 64 ≤ (s.g a).toNat + (s.g b).toNat)) ((s.g a).toInt + (s.g b).toInt) }
  | .sub d a b =>
    let r : Word := BitVec.ofInt 64 ((s.g a).toInt - (s.g b).toInt)
    some { w.setReg (c.phys d) r with
      ctl := c.after r (decide ((s.g b).toNat ≤ (s.g a).toNat)) ((s.g a).toInt - (s.g b).toInt) }
  | .cmp a b =>
    let r : Word := BitVec.ofInt 64 ((s.g a).toInt - (s.g b).toInt)
    some { w with ctl := c.after r (decide ((s.g b).toNat ≤ (s.g a).toNat)) ((s.g a).toInt - (s.g b).toInt) }
  | .cmpImm d imm =>
    let r : Word := BitVec.ofInt 64 ((s.g d).toInt - imm.toInt)
    some { w with ctl := c.after r (decide (imm.toNat ≤ (s.g d).toNat)) ((s.g d).toInt - imm.toInt) }
  | .tst a b =>
    some { w with ctl := { c with
      z := decide (s.g a &&& s.g b = 0), n := (s.g a &&& s.g b).getLsbD 63, c := false, v := false } }
  | .mul d a b => put d (BitVec.ofNat 64 ((s.g a).toNat * (s.g b).toNat))
  | .mulh .i64 d a b => put d (BitVec.ofInt 64 ((s.g a).toInt * (s.g b).toInt / 2 ^ 64))
  | .mulh .n64 d a b => put d (BitVec.ofNat 64 ((s.g a).toNat * (s.g b).toNat / 2 ^ 64))
  | .div .n64 d a b =>
    some { w.setReg (c.phys d) (if s.g b = 0 then BitVec.allOnes 64 else BitVec.ofNat 64 ((s.g a).toNat / (s.g b).toNat)) with
      ctl := { c with v := decide (s.g b = 0) } }
  | .rem .n64 d a b =>
    some { w.setReg (c.phys d) (BitVec.ofNat 64 ((s.g a).toNat % (s.g b).toNat)) with
      ctl := { c with v := decide (s.g b = 0) } }
  | .div .i64 d a b =>
    some { w.setReg (c.phys d) (if s.g b = 0 then BitVec.allOnes 64 else
        BitVec.ofInt 64 ((s.g a).toInt.tdiv (s.g b).toInt)) with
      ctl := { c with v := decide (s.g b = 0 ∨ (s.g a).toInt.tdiv (s.g b).toInt = 2 ^ 63) } }
  | .rem .i64 d a b =>
    some { w.setReg (c.phys d) (BitVec.ofInt 64 ((s.g a).toInt.tmod (s.g b).toInt)) with
      ctl := { c with v := decide (s.g b = 0 ∨ (s.g a).toInt.tdiv (s.g b).toInt = 2 ^ 63) } }
  | .min .i64 d a b => put d (BitVec.ofInt 64 (min (s.g a).toInt (s.g b).toInt))
  | .min .n64 d a b => put d (BitVec.ofNat 64 (min (s.g a).toNat (s.g b).toNat))
  | .max .i64 d a b => put d (BitVec.ofInt 64 (max (s.g a).toInt (s.g b).toInt))
  | .max .n64 d a b => put d (BitVec.ofNat 64 (max (s.g a).toNat (s.g b).toNat))
  | .ldi d imm => put d imm
  | .and d a b => put d (s.g a &&& s.g b)
  | .or d a b => put d (s.g a ||| s.g b)
  | .xor d a b => put d (s.g a ^^^ s.g b)
  | .andn d a b => put d (s.g a &&& ~~~s.g b)
  | .shl d a b => put d (BitVec.ofNat 64 ((s.g a).toNat * 2 ^ ((s.g b).toNat % 64)))
  | .shr d a b => put d (BitVec.ofNat 64 ((s.g a).toNat / 2 ^ ((s.g b).toNat % 64)))
  | .sar d a b => put d (BitVec.ofInt 64 ((s.g a).toInt / 2 ^ ((s.g b).toNat % 64)))
  | .rol d a b =>
    let n := (s.g b).toNat % 64
    put d (s.g a <<< n ||| s.g a >>> (64 - n))
  | .shlImm n d a => put d (BitVec.ofNat 64 ((s.g a).toNat * 2 ^ n.toNat))
  | .shrImm n d a => put d (BitVec.ofNat 64 ((s.g a).toNat / 2 ^ n.toNat))
  | .sarImm n d a => put d (BitVec.ofInt 64 ((s.g a).toInt / 2 ^ n.toNat))
  | .rolImm n d a => put d (s.g a <<< n.toNat ||| s.g a >>> (64 - n.toNat))
  | .mov d (.g r) => put d (s.g r)
  | .mov d (.mb r) => put d w.mb[r.toNat]
  | .movDestSelect (.g d) a => put d (s.g a)
  | .movDestSelect (.mb d) a => some { w with mb := w.mb.set d.toNat (s.g a) }
  | .clz d a => put d (BitVec.ofNat 64 ((List.range 64).takeWhile fun k => !(s.g a).getLsbD (63 - k)).length)
  | .ctz d a => put d (BitVec.ofNat 64 ((List.range 64).takeWhile fun k => !(s.g a).getLsbD k).length)
  | .popc d a => put d (BitVec.ofNat 64 ((List.range 64).filter fun k => (s.g a).getLsbD k).length)
  | .bfx pos d a wm1 =>
    if pos.toNat + wm1.toNat + 1 ≤ 64 then
      put d (BitVec.ofNat 64 ((s.g a).toNat / 2 ^ pos.toNat % 2 ^ (wm1.toNat + 1)))
    else none
  | .bfi pos d a wm1 =>
    let n := wm1.toNat + 1
    let old := (s.g d).toNat
    if pos.toNat + n ≤ 64 then
      put d (BitVec.ofNat 64 (old - old / 2 ^ pos.toNat % 2 ^ n * 2 ^ pos.toNat + (s.g a).toNat % 2 ^ n * 2 ^ pos.toNat))
    else none
  | .sel k d a b => put d (if Cond.holds k c then s.g a else s.g b)
  | .lea d a disp => put d (BitVec.ofNat 64 ((s.g a).toNat + disp.toNat))
  | .ext .i8 d a => put d (BitVec.ofInt 64 (BitVec.ofNat 8 (s.g a).toNat).toInt)
  | .ext .i16 d a => put d (BitVec.ofInt 64 (BitVec.ofNat 16 (s.g a).toNat).toInt)
  | .ext .i32 d a => put d (BitVec.ofInt 64 (BitVec.ofNat 32 (s.g a).toNat).toInt)
  | .ext .n8 d a => put d (BitVec.ofNat 64 ((s.g a).toNat % 2 ^ 8))
  | .ext .n16 d a => put d (BitVec.ofNat 64 ((s.g a).toNat % 2 ^ 16))
  | .ext .n32 d a => put d (BitVec.ofNat 64 ((s.g a).toNat % 2 ^ 32))
  | .blkend => some w
  | .hintNop _ _ => some w
  | _ => none

/-! ## Atomics -/

/-- The value an AMO or a RED leaves at the home: w-bit numbers, wrapping, compares as the kind says (R216, R221). -/
def spec216 (op : AmoOp) (sg : Bool) (w : Nat) (old val cmp : BitVec w) : BitVec w :=
  match op with
  | .swap => val
  | .cas => if old = cmp then val else old
  | .add => old + val
  | .and => old &&& val
  | .or => old ||| val
  | .xor => old ^^^ val
  | .min => if (if sg then decide (val.toInt < old.toInt) else decide (val.toNat < old.toNat)) then val else old
  | .max => if (if sg then decide (val.toInt < old.toInt) else decide (val.toNat < old.toNat)) then old else val

/-- The AMO of the same rule. -/
def redAsAmo : RedOp → AmoOp
  | .add => .add | .and => .and | .or => .or | .xor => .xor | .min => .min | .max => .max

/-- The pairs of a TOPK record: slots 0 to FILLED − 1 (R219). -/
def topkPairs (rec : Nat) : List (BitVec 64) :=
  (List.range (rec / 256 % 8)).map fun i => BitVec.ofNat 64 (rec / 2 ^ (64 * (i + 1)))

/-- What TOPK of a pair makes of a record (R219). With K 0 or a NaN score nothing. Else the slots that count hold the best
min(K, n) experts of the pairs there and its own, by descending score and a tie by the lower expert, each with its greatest
score, +0 over −0; the other slots and the other bits of the header stay. -/
def TopkAfter (old new : Nat) (pair : BitVec 64) : Prop :=
  let score (x : BitVec 64) := fp32.decode (x.toNat / 2 ^ 32)
  let expert (x : BitVec 64) : Nat := x.toNat % 2 ^ 32
  let ahead (x y : BitVec 64) : Prop :=
    (score y).lt (score x) = true ∨ ((score x).lt (score y) = false ∧ expert x < expert y)
  let k := old % 8
  let pool := (topkPairs old).filter (fun x => !(score x).isNan) ++ [pair]
  let best := topkPairs new
  (k = 0 ∨ (score pair).isNan = true → new = old) ∧
  (k ≠ 0 → (score pair).isNan = false →
    best.length = min k ((pool.map expert).eraseDups).length ∧ best.Pairwise ahead ∧
    (∀ x ∈ best, x ∈ pool ∧ ∀ y ∈ pool, expert y = expert x → (score x).lt (score y) = false ∧
      ((score y).lt (score x) = false → (score y).isNeg = false → (score x).isNeg = false)) ∧
    (∀ y ∈ pool, (∀ x ∈ best, expert x ≠ expert y) → ∀ x ∈ best, ahead x y) ∧
    new % 256 = old % 256 ∧ new % 2 ^ 64 / 2048 = old % 2 ^ 64 / 2048 ∧
    ∀ i, best.length ≤ i → i < 7 → new / 2 ^ (64 * (i + 1)) % 2 ^ 64 = old / 2 ^ (64 * (i + 1)) % 2 ^ 64)

/-- No reply cache or side table holds an answer to a source's request (R218, R372). -/
def State.Unanswered (s : State) (slice src seq : Nat) : Prop :=
  ∀ e ∈ s.replies, ¬ (e.slice = slice ∧ e.src = src ∧ e.seq = seq)

/-! ## System registers -/

/-- The word a number of R132 names for the issuing task, bit fields as their rules lay them out (R23, R88, R89, R107 to
R109, R133, R136, R236, R378); none: MFS traps. -/
def sysWord (s : State) (n : Nat) : Option Nat :=
  let w := s.ws
  let c := w.ctl
  let len (i : Nat) : Nat := (vget s.task.queues i []).length % 32
  let len4 (i : Nat) : Nat := (vget s.here.local4 i []).length % 16
  let linked (f : Slot → Nat) : Option Nat := s.task.link.map fun l => f (s.here.slot l)
  match n with
  | 0x000 => some w.pc.toNat
  | 0x001 => some (512 * s.here.cur.val)
  | 0x002 => some (8 * c.z.toNat + 4 * c.n.toNat + 2 * c.c.toNat + c.v.toNat)
  | 0x003 => some (16 * c.rot.toNat + c.rrb.toNat)
  | 0x004 => some w.resid.toNat
  | 0x005 => some (w.tsw.chan.toNat * 2 ^ 24 + w.tsw.prio.toNat * 2 ^ 18 + w.tsw.cause.code.toNat * 2 ^ 12 +
      w.tsw.origin.code.toNat * 16 + w.tsw.state.code.toNat)
  | 0x006 => some c.cw.toNat
  | 0x008 => some w.fpf.toNat
  | 0x009 => some (w.srctr.toNat * 2 ^ 32 + w.srkey.toNat)
  | 0x00A => some w.vshape.toNat
  | 0x010 => some (s.hereCid % 2 ^ 64)
  | 0x011 => some s.task.capf.toNat
  | 0x012 => some s.here.specbud.toNat
  | 0x018 => some (len4 3 * 2 ^ 32 + len4 2 * 2 ^ 28 + len4 1 * 2 ^ 24 + len4 0 * 2 ^ 20 + len 3 * 2 ^ 15 +
      len 2 * 2 ^ 10 + len 1 * 2 ^ 5 + len 0)
  | 0x040 => linked fun t => t.ws.tsw.cause.code.toNat
  | 0x041 => linked fun t => t.ws.pc.toNat
  | 0x042 => linked fun t => t.ws.trinfo.toNat
  | 0x043 => linked fun _ => s.task.trpc.toNat
  | 0x044 => linked fun _ => s.task.tract.toNat
  | 0x080 => some (s.lastTrig.toNat * 2 ^ 32 + s.falls.toNat * 2 ^ 16 + 2 * s.snapHeld.toNat +
      (match s.ctxCfg s.cx with | some x => x.snapEn.toNat | none => 0))
  | n =>
    if 0x014 ≤ n ∧ n ≤ 0x017 then some (vget s.here.pth (n - 0x014) 0).toNat
    else if 0x020 ≤ n ∧ n ≤ 0x027 then
      let x := vget s.here.chans (n - 0x020) Channel.reset
      some (x.drops.toNat * 2 ^ 48 + x.bytes.toNat)
    else if 0x030 ≤ n ∧ n ≤ 0x037 then some (vget s.task.lcrd (n - 0x030) 0).toNat
    else if 0x038 ≤ n ∧ n ≤ 0x03F then some (vget s.task.lext (n - 0x038) 0).toNat
    else none

/-! ## Tiles -/

/-- Tile d written whole and marked used (R144, R146). -/
def State.withTile (s : State) (d : VReg) (t : Tile) : State :=
  let s1 := s.modWs fun w => { w with vsd := { w.vsd with vused := w.vsd.vused ||| (1#16 <<< d.toNat) } }
  { s1 with here := { s1.here with tiles := s1.here.tiles.set d.toNat t } }

/-- Mask d written whole and marked used. -/
def State.withMask (s : State) (d : KReg) (m : Mask) : State :=
  let s1 := s.modWs fun w => { w with vsd := { w.vsd with kused := w.vsd.kused ||| (1#4 <<< d.toNat) } }
  { s1 with here := { s1.here with masks := s1.here.masks.set d.toNat m } }

/-- A vector instruction under a mask may write tile d: a masked shape has at most 1,024 elements, and the save area has
room (R144, R145). -/
def State.TileReady (s : State) (mask : KReg) (d : VReg) : Prop :=
  (mask = 0 ∨ s.shape.count ≤ 1024) ∧ s.ws.vsd.tileOk d.toNat = true

/-- Element e is active under a mask operand (R145). -/
def State.lit (s : State) (mask : KReg) (e : Nat) : Bool := mask == 0 || (s.mask mask).getLsbD e

/-- The mask leaves an element of the shape active. -/
def State.anyLit (s : State) (mask : KReg) : Bool := (List.range s.shape.count).any (s.claim.lit mask)

/-- A vector instruction that writes the active elements of tile d may run: where one is active the tile may be written (R144
to R146). -/
def State.TileOpen (s : State) (mask : KReg) (d : VReg) : Prop :=
  (mask = 0 ∨ s.shape.count ≤ 1024) ∧ (s.anyLit mask = true → s.ws.vsd.tileOk d.toNat = true)

/-- Tile t is tile d of u with the results of the active elements among the first n, each of w bits; every other element
is kept. -/
def TileGets (u : State) (d : VReg) (w n : Nat) (act : Nat → Bool) (res : Nat → Nat × Byte) (t : Tile) : Prop :=
  ∀ e, w * (e + 1) ≤ 8192 →
    tileElem t w e = if e < n ∧ act e = true then (res e).1 % 2 ^ w else tileElem (u.tile d) w e

/-- The flags of the active elements among the first n. -/
def flagsOf (n : Nat) (act : Nat → Bool) (res : Nat → Nat × Byte) : Byte :=
  ((List.range n).filter act).foldl (fun f e => f ||| (res e).2) 0

/-- The instruction completes: tile d gets the results of its active elements, FPF gathers their flags, and after does the
rest. Nothing else changes; with no element active no tile is written, and none becomes used (R143, R146). -/
def WritesTile (r : Result) (u : State) (d : VReg) (w n : Nat) (act : Nat → Bool) (res : Nat → Nat × Byte)
    (after : State → State) : Prop :=
  if (List.range n).any act then
    ∃ t : Tile, TileGets u d w n act res t ∧ Completes r (after ((u.withTile d t).addFpf (flagsOf n act res)))
  else Completes r (after u)

/-! ## Engines -/

/-- The destination of a transfer is no Q line of the issuing task's own tickets (check 4 of R237). -/
def State.DestFree (s : State) (dst : Word) (n : Nat) : Prop :=
  ∀ l, s.window s.hereCid dst = some l → s.ownQ s.hereCid s.here.cur.val (l.lines n) = false

/-- A transfer of n bytes may be accepted by a channel: it has fewer than 32 in flight (R235). -/
def State.withTransfer (s : State) (ch : Nat) (t : Transfer) : State :=
  { s with here := s.here.setChan ch { s.here.chan ch with flight := (s.here.chan ch).flight ++ [t] } }

/-- The word at l may be read or written by an engine in state s: nothing caches its line, no ticket holds it (R246). -/
def State.Open (s : State) (l : Loc) : Prop :=
  (∀ o, l ≠ .mqw o) ∧ s.Uncached l ∧ s.holders (l.lines 4) = [] ∧ l.off % 64 + 4 ≤ 64

/-- A channel after the head transfer x has delivered one more word, becoming y, and counted a dropped row or not. -/
def Channel.after (c : Channel) (x y : Transfer) (drop : Bool) : Channel :=
  { c with
    bytes := c.bytes + 4
    drops := if drop then c.drops + 1 else c.drops
    flight := if x.len ≤ x.pos + 4 then c.flight.drop 1 else { y with pos := x.pos + 4 } :: c.flight.drop 1 }

/-- A page of a range is plainly readable on speculation, no translation of it is cached or being replaced, and no demand walk
waits (R248, R256, R339, R340). -/
def State.PlainPage (s : State) (va : Nat) : Prop :=
  va < 2 ^ 56 ∧ s.translations s.hereCid s.cx va = [s.walk s.cx va] ∧ ((s.die (s.hereCid / 8192)).walks.get s.cx).getD 0 = 0 ∧ ∃ l, s.walk s.cx va = .leaf l ∧ l.sp = true ∧ l.rd = true ∧
    s.granted s.cx (l.pa + (va - l.va)) = true ∧ paKind (l.pa + (va - l.va)) ≠ .host ∧
    paKind (l.pa + (va - l.va)) ≠ .firmware

/-! ## The matrix unit -/

/-- The step that runs commands of a kind. -/
def MxKind.step (k : MxKind) (cid : Nat) : Instr :=
  match k with
  | .mma => .mma cid | .bload => .bload cid | .brot => .brot cid | .accrd => .accrd cid | .accz => .accz cid
  | .fmtset => .fmtset cid | .mxfence => .mxfence cid

/-- A bit marked zero holds a one, or a field of the command lies outside its range or breaks a limit of its entry: the tables
of R172 and R177 to R183, bits hi to lo of the record. x is the format context of the core. -/
def MxCmd.Bad (c : MxCmd) (k : MxKind) (x : MxCtx) : Prop :=
  let f (hi lo : Nat) : Nat := c.bits.toNat / 2 ^ lo % 2 ^ (hi + 1 - lo)
  let some1 (l : List (Nat × Nat)) : Prop := ∃ p ∈ l, f p.1 p.2 ≠ 0
  let out32 (hi lo : Nat) : Prop := f hi lo = 0 ∨ 32 < f hi lo
  match k with
  | .fmtset => some1 [(63, 32), (15, 8), (511, 140)] ∨ 2 < f 131 128 ∨ 3 < f 135 132
  | .bload =>
    let step := if x.b = .bf16 then 32 else 64
    let bits := match x.b with | .bf16 => 16 | .lx8 => 2 | _ => 8
    some1 [(63, 32), (15, 8), (511, 321), (255, 240), (207, 198)] ∨ out32 197 192 ∨ f 223 208 = 0 ∨ f 223 208 % step ≠ 0 ∨
      65536 < f 223 208 * f 197 192 * bits ∨ f 239 224 < f 223 208 * bits / 8 ∨ (x.b ≠ .lx8 ∧ f 319 256 ≠ 0)
  | .brot => some1 [(63, 32), (15, 9), (511, 130)]
  | .mma => some1 [(63, 32), (15, 10), (511, 324), (321, 321), (255, 240), (223, 198)] ∨ out32 197 192
  | .accrd => some1 [(63, 32), (15, 9), (511, 256), (255, 240), (223, 216), (211, 210), (207, 206), (199, 198)] ∨
      out32 197 192 ∨ out32 205 200 ∨ 3 < f 215 212
  | .accz => some1 [(63, 32), (15, 8), (511, 132)]
  | .mxfence => some1 [(63, 32), (15, 9), (511, 128)]

/-- An address of n bytes that a command of a core may name (R173). -/
def State.MxLegal (s : State) (cid : Nat) (a : Word) (n align : Nat) : Prop :=
  isLocal a = true ∧ a.toNat % align = 0 ∧
    ((winSel a = 0 ∧ winOff a + n ≤ 0xC000 ∧ (s.core cid).reserved (winOff a) n = false) ∨
     (winSel a = 1 ∧ winOff a + n ≤ 0x40000) ∨
     (winSel a = 3 ∧ winOff a + n ≤ (s.dswRange ((s.cxOf cid).getD 0) (cid / 8192)).2))

/-- What the checks of R397 found for the head of a core's queue: made when the command became the head, or now. -/
def State.Found (s : State) (cid : Nat) (c : MxCmd) : Nat := (s.core cid).mx.head.getD (s.mxVerdict cid c)

/-- The head of a core's command queue is a command of a kind that passes the checks of R397, no record of an earlier command
waits, no ticket holds the line of its own, and it is this queue's turn (R184). -/
def State.Heads (s : State) (cid : Nat) (c : MxCmd) (rest : List MxCmd) (k : MxKind) : Prop :=
  (s.core cid).mx.queue = c :: rest ∧ c.kind = some k ∧ s.Found cid c = 0 ∧ (s.core cid).mx.records = [] ∧
    s.mxIsNext cid = true ∧ ∀ l, s.mxPlaced cid c = some l → s.holders (l.lines 8) = []

/-- The completion record of a command (R175): sequence number, rows, tag, status and flags. -/
def MxCmd.recordWord (c : MxCmd) (st : Nat) (fl : Byte) (rows : Nat) : Nat :=
  c.seq.toNat % 2 ^ 24 * 2 ^ 40 + rows % 64 * 2 ^ 34 + (c.bits.toNat / 2 ^ 16 % 2 ^ 16) * 2 ^ 16 + st % 256 * 2 ^ 8 +
    (if st = 1 then fl ||| fClip else fl).toNat

/-- A command has ended: it has left the queue, DONE counts it, and its record holds its sequence number, rows, tag, status
and flags (R170, R174, R175). -/
def State.Ended (s t : State) (cid : Nat) (c : MxCmd) (st : Nat) (fl : Byte) (rows : Nat) : Prop :=
  (t.core cid).mx.queue = (s.core cid).mx.queue.drop 1 ∧ (t.core cid).mx.done = (s.core cid).mx.done + 1 ∧
    ∀ l, s.mxRecord cid c = some l → t.bytesAt l 8 = c.recordWord st fl rows

/-! ## Messages and tasks -/

/-- The issuing core's send queue with one more message of its own. -/
def State.withMessage (s : State) (dev : Option Nat) (dst : Nat) (chan : Byte) (load : Payload) : State :=
  let m : Msg :=
    { src := s.hereCid, cx := s.cx, dev := dev, dst := dst, chan := chan, load := load, refused := none }
  { s with here := { s.here with sendQ := s.here.sendQ ++ [m] } }

/-- Message k of a sender is due for its first offer at a core of this X40 (R264). -/
def State.Offered (s : State) (src k : Nat) (m : Msg) : Prop :=
  (s.outbox src)[k]? = some m ∧ m.dev = none ∧ m.refused = none ∧ s.behindOwn src k m = false

/-- The registers of a fresh task: g[i] for the listed numbers, every other zero (R268). -/
def Slot.Fresh (t : Slot) (e : TTEntry) (o : Origin) (regs : List (Nat × Word)) : Prop :=
  t.held = true ∧ t.wait = none ∧ t.ws.pc = e.addr ∧ t.ws.ctl = Ctl.reset ∧ t.ws.tsw.state = .runnable ∧
    t.ws.tsw.origin = o ∧ t.ws.tsw.prio = e.prio ∧ t.ws.vsd.vcap = e.vcap ∧ t.ws.vsd.vsa = e.vsa ∧ t.link = none ∧
    ∀ i : Fin 32, t.ws.g[i] = ((regs.find? fun x => x.1 == i.val).map (·.2)).getD 0

/-! ## Launches -/

/-- Bits hi to lo of a launch record (R281). -/
def launchField (r : BitVec 2048) (hi lo : Nat) : Nat := r.toNat / 2 ^ lo % 2 ^ (hi + 1 - lo)

/-- What makes status n of R283 apply, for 1, 2, 3, 4 and 6, to a record of a context from a launching core or from none. -/
def State.LaunchBad (s : State) (cx : Nat) (r : BitVec 2048) (here : Option Nat) (n : Nat) : Prop :=
  let f := launchField r
  let nlev := f 19 16
  let dom (i : Nat) : Nat := f (128 + 52 * i + 51) (128 + 52 * i + 48)
  let ext (i : Nat) : Nat := f (128 + 52 * i + 31) (128 + 52 * i)
  let o := if f 8 8 = 1 then here.getD 0 else 0
  let die := f 82 80 + o / 8192
  let row := f 92 88 + o / 256 % 32
  let col := f 100 96 + o / 8 % 32
  let dies := f 122 120 + 1
  let rows := f 108 104 + 1
  let cols := f 116 112 + 1
  let clusters (parent : Nat) : Nat :=
    if parent = 1 then 1 else if parent = 2 then 4 else if parent = 3 then rows * cols else dies * rows * cols
  let units (d parent : Nat) : Nat :=
    if d = 0 then 8 * clusters parent else if d = 1 then clusters parent else if d = 2 then clusters parent / 4
    else if d = 3 ∧ 3 < parent then dies else 1
  let zeros : List (Nat × Nat) :=
    [(2047, 960), (639, 625), (615, 615), (607, 605), (599, 591), (583, 576), (575, 553), (127, 123), (119, 117), (111, 109),
     (103, 101), (95, 93), (87, 83), (79, 64), (63, 32), (23, 20), (15, 9)]
  match n with
  | 1 => f 7 0 ≠ 1 ∨ (∃ z ∈ zeros, f z.1 z.2 ≠ 0) ∨
      ∃ i, i < 8 ∧ (f (128 + 52 * i + 47) (128 + 52 * i + 32) ≠ 0 ∨
        nlev ≤ i ∧ f (128 + 52 * i + 51) (128 + 52 * i) ≠ 0)
  | 2 => nlev = 0 ∨ 8 < nlev ∨ dom 0 ≠ 0 ∨ ∃ i, i < nlev ∧ (6 < dom i ∨ ext i = 0 ∨ (4 ≤ dom i ∧ 1 < ext i) ∨
      (0 < i ∧ (dom i < dom (i - 1) ∨ dom i = dom (i - 1) ∧ dom i ≠ 0)))
  | 3 => 8 < die + dies ∨ 20 < row + rows ∨ 32 < col + cols ∨
      ((∃ i, i < nlev ∧ dom i = 2) ∧ (row % 2 = 1 ∨ col % 2 = 1 ∨ rows % 2 = 1 ∨ cols % 2 = 1)) ∨
      ∃ d y x, d < dies ∧ y < rows ∧ x < cols ∧
        (s.cluster ((die + d) * 1024 + (row + y) * 32 + (col + x))).owner ≠ some cx
  | 4 => ∃ i, i < nlev ∧ ¬ (dom i = 0 ∧ i + 1 < nlev ∧ dom (i + 1) = 0) ∧
      units (dom i) (if i + 1 < nlev then dom (i + 1) else 6) < ext i
  | 6 => 16 < f 604 600 ∨ 64 < f 614 608 ∨ 256 < f 624 616 ∨ 64 < f 590 584 ∨ 256 < f 552 544
  | _ => False

/-- What makes status 5 apply: an entry of the channel table, as an address and a control word, or a predictor word (R241,
R261, R283). -/
def LaunchBad5 (ch prd : List Word) : Prop :=
  (∃ i, i < ch.length / 2 ∧
    let a := (ch.getD (2 * i) 0).toNat
    let w := (ch.getD (2 * i + 1) 0).toNat
    let vsa := w / 2 ^ 16 % 2 ^ 10
    let vcap := w / 2 ^ 26 % 2 ^ 5
    a % 2 = 1 ∨ a / 2 ^ 56 ≠ 0 ∨ w / 2 ^ 31 % 2 ^ 25 ≠ 0 ∨ w / 2 ^ 11 % 2 ^ 5 ≠ 0 ∨ 16 < vcap ∨
      (vsa ≠ 0 ∧ (64 * vsa < 0x1000 ∨ 0xC000 < 64 * vsa + 512 + 1024 * vcap))) ∨
  ∃ w ∈ prd, w.toNat / 2 ^ 50 ≠ 0 ∨ w.toNat / 2 ^ 36 % 2 ^ 4 ≠ 0

end Sys2Proof.Machine
end

