-- ==== Sys2Proof/Certificates/Slice0/Obligations.lean ====
section
/-! DEFINITION. The statements. Each docstring names the rules of spec/ it formalises; a clause that rests on a choice of
the model names the log entry. -/

open Sys2Proof Sys2Proof.Machine

/-! ## The whole machine -/

/-- R55, R70, R270: a turn of a core issues the instruction that its chain decodes to. With the slot chosen, no pre-emption
due and the chain fetched, the step is exec of the decoded instruction and one more cc; a chain that the page tables refuse
is UNASSIGNED_ENCODING; and a step of the machine that the agenda names is exec of it (log entries 1, 2). A step that names a
part the machine does not have, and a turn that names an instruction of a task as a step, let one cc pass (log entry 1).

R275, R367: a successor that has resumed, and whose channel is still blocked, parks instead (log entry 39).

R55, R130, R131, R160, R299, R375: of the events in their order, a firmware register traps PRIV and a table field of VCVT that
must be zero ILLOP; then an instruction that would end beyond its REP body traps ILLOP, and one that reads a lost register,
of a lent core's bank or in a damaged word of its workspace, traps MCHK. Of a composed task the block is noted (log entry
15). That a lost register which the instruction wrote whole is lost no more is R375 as log entry 17 reads it.

R142, R144: before a vector instruction issues, the vector unit holds its task's tiles and masks, also where it then traps or parks
(log entry 50). -/
def Obligations.StepRunsDecoded : Prop :=
  ∀ (s t : State) (cid n : Nat) (k : Fin 8) (rest : List Turn) (ws : List Half) (i : Instr),
    let u := ({ s with agenda := rest } : State).focus cid
    let v0 := u.beginIssue k
    let v := v0.modTask fun y => { y with wait := none }
    (s.agenda = .issue cid :: rest → u.pick = some k → v0.requestDue v0.hereCid k.val = false → cidOk cid = true →
      v0.stillBlocked = true →
      step s = .next ((v0.modTask fun y =>
        { y with ws := { y.ws with tsw := { y.ws.tsw with state := .parked } } }).passed 1)) ∧
    (s.agenda = .issue cid :: rest → u.pick = some k → v0.requestDue v0.hereCid k.val = false → v0.stillBlocked = false →
      State.fetchChain 6 v v.addr [] = .ok (ws, t) →
      (decode ws = .ok (i, n) ∨ ((∃ e, decode ws = .error e) ∧ i = .unassignedEncoding ∧ n = ws.length)) →
      let x := { t with ilen := n }
      cidOk cid = true →
      (∀ c, x.early i = some c → step s = .next ((x.takeTrap c 0).passed 1)) ∧
      (∀ d (m : BitVec 12), i = .mfs d m ∨ i = .mts d m → 0x800 ≤ m.toNat → step s = .next ((x.takeTrap .priv 0).passed 1)) ∧
      (x.early i = none → x.crossesBody = true → step s = .next ((x.takeTrap .illop 0).passed 1)) ∧
      (x.early i = none → x.crossesBody = false →
        (∀ w, x.lostRead i = some w → step s = .next ((x.takeTrap .mchk w).passed 1)) ∧
        (let r := if Instr.isVector i = true then x.claim else x;
          (x.ws.ctl.cw = 0 → x.task.lost = [] → x.damaged = [] → step s = Result.passed (exec i r)) ∧
          (x.lostRead i = none → ∀ y, exec i r = .next y → step s = .next ((r.mendBank i (r.noteBlock i y)).passed 1))))) ∧
    (s.agenda = .event i :: rest → i.isStep = true → i.wf = true → step s = Result.passed (exec i { s with agenda := rest })) ∧
    (s.agenda = .event i :: rest → i.isStep = false ∨ i.wf = false → step s = .next (({ s with agenda := rest } : State).passed 1)) ∧
    (s.agenda = .issue cid :: rest → cidOk cid = false → step s = .next (({ s with agenda := rest } : State).passed 1))

/-- R55, R71, R73, R338: what a fetch reads. Where a page maps the chain for execution, nothing is cached and no half-word
of it was written since the task's launch or its latest CINV, the half-words of memory at the PC make up the chain, the
lowest address first, and the fetch changes no memory and no task. -/
def Obligations.CodeFetch : Prop :=
  ∀ (s : State) (a : Word) (hs : List Half) (i : Instr) (x : Leaf),
    let pa (j : Nat) := x.pa + (a.toNat + 2 * j - x.va)
    decode hs = .ok (i, hs.length) → a.toNat % 2 = 0 → a.toNat + 2 * hs.length ≤ 2 ^ 56 →
    s.here.icache = [] → s.here.l1 = [] → (s.cluster (s.hereCid / 8)).l2 = [] → s.oldWalks = [] → s.damaged = [] →
    (∀ y ∈ s.clusters, y.2.ulines = []) →
    (∀ j, j < hs.length → ∀ y ∈ s.oldCode, y.1 = pa j / 2 → y.2.2 < s.task.codeSince (a.toNat + 2 * j)) → x.ex = true → x.cx = s.cx →
    (∀ j, j < hs.length → s.walk s.cx (a.toNat + 2 * j) = .leaf x ∧ x.covers s.cx (a.toNat + 2 * j) = true ∧
      paDevice (pa j) = 0 ∧ s.mem.readN (pa j) 2 = (hs.getD j 0).toNat) →
    ∃ t, State.fetchChain 6 s a [] = .ok (hs, t) ∧ t.mem = s.mem ∧ t.here.slots = s.here.slots ∧ t.hereCid = s.hereCid ∧
      t.here.cur = s.here.cur

/-- R46 to R54, R59: words written out from the encoding tables decode to the instructions they stand for. -/
def Obligations.DecodedWords : Prop :=
  decode [0x1298] = .ok (.add 1 2 3, 1) ∧ decode [0xF5B0, 0x1298] = .ok (.add 9 18 27, 2) ∧
    decode [0x23FF] = .ok (.ldi 1 (-1), 1) ∧ decode [0xF001, 0x2200] = .ok (.ldi 1 512, 2) ∧
    decode [0xF801, 0x129B] = .ok (.mulh .n64 1 2 3, 2) ∧ decode [0xF941, 0x2940] = .ok (.prld 1 4 5, 2) ∧
    decode [0xF980, 0x0100] = .ok (.exit, 2) ∧ decode [0xF900, 0x12B2] = .ok (.ld .n32 .rlx .package false 1 2 2, 2) ∧
    decodeTableWord 16 0x0000 = some .unassignedEncoding

/-- R38, R46 to R54: every instruction that the page tables encode, with every operand at every value its fields admit,
decodes from the words of its encoding, whatever follows them, to itself and to their number. -/
def Obligations.EncodingRoundTrip : Prop :=
  ∀ (i : Instr) (rest : List Half), i.wf = true → i.form.isSome = true →
    decode (encode i ++ rest) = .ok (i, (encode i).length)

/-- Every step of the machine keeps every memory in its canonical form: addresses rising, no byte listed that reads as an
unlisted one does (log entry 8). -/
def Obligations.StepKeepsCanonical : Prop :=
  ∀ s t : State, s.Canonical → step s = .next t → t.Canonical

/-- R93, R166, R210, R236, R241, R242, R260: what reset leaves in every core. -/
def Obligations.ResetState : Prop :=
  State.reset.Canonical ∧ ∀ cid, cid < 65536 →
    let c := State.reset.core cid
    (∀ i : Fin 4, c.cts[i] = .preset false ∧ c.pth[i] = 4) ∧ c.specbud = 65536 ∧
      (∀ n, (c.chan n).bytes = 0 ∧ (c.chan n).drops = 0 ∧ (c.chan n).flight = []) ∧
      (∀ t i, (c.pred t i).valid = false) ∧
      (∀ ch, c.entry ch = { addr := 0, vcap := 0, vsa := 0, qsel := 0, slot := 0, bound := false, blk := false,
                            prio := 0, valid := false }) ∧
      (∀ o, State.reset.isFull (.lm cid o) = false ∧ State.reset.isFull (.csp (cid / 8) o) = false) ∧
      c.mx.queue = [] ∧ c.mx.pushed = 0 ∧ c.mx.done = 0 ∧ c.mx.err = none ∧ (∀ i : Fin 4, c.mx.acc[i] = 0) ∧
      (∀ i : Fin 2, c.mx.latch[i].full = false) ∧
      c.mx.ctx = { a := .bf16, b := .bf16, atab := .preset false, btab := .preset false }

/-! ## Scalar instructions and control transfer -/

/-- R113, R116, R118 to R126, R53, R58: ADD, SUB, MUL, MULH, DIV, REM, MIN, MAX, LDI, the logic, shift, count and field
instructions, CMP, TST, SEL, LEA, EXT, MOV between g and mb, BLKEND and the hints complete in every state. Each writes its
register and the flags its rule names, and nothing else but the PC. BFI into g0 takes g0 as 0 (log entry 50, DEDUCED).

R20: whatever an instruction writes to g0, every read of g0 gives zero. -/
def Obligations.ScalarResults : Prop :=
  (∀ (s : State) (i : Instr) (w : Workspace), scalarWs s i = some w → Completes (exec i s) (s.setWs w)) ∧
  (∀ (s : State) (r : GReg) (v : Word), s.ws.ctl.phys r = 0 → s.g r = 0 ∧ (s.setG r v).g r = 0)

/-- R114, R115: MOV from a queue pops its oldest word, MOV to q4 to q7 appends; an empty or a full queue parks the task at
A; a write to q0 to q3 traps ILLOP. No other queue and no other register changes. -/
def Obligations.QueueMoves : Prop :=
  ∀ (s : State) (d a : GReg) (q : QReg),
    (∀ v rest, s.queue q = v :: rest → ∃ t, exec (.mov d (.q q)) s = .next t ∧ ((s.setQueue q rest).setG d v).Past t ∧
      t.queue q = rest ∧ ∀ r, r ≠ q → t.queue r = s.queue r) ∧
    (s.queue q = [] → exec (.mov d (.q q)) s = .next (s.park (.queueEmpty q))) ∧
    (4 ≤ q.toNat → (s.queue q).length < 8 → ∃ t, exec (.movDestSelect (.q q) a) s = .next t ∧
      (s.setQueue q (s.queue q ++ [s.g a])).Past t ∧ t.queue q = s.queue q ++ [s.g a] ∧
      ∀ r, r ≠ q → t.queue r = s.queue r) ∧
    (4 ≤ q.toNat → 8 ≤ (s.queue q).length → exec (.movDestSelect (.q q) a) s = .next (s.park (.queueFull q))) ∧
    (q.toNat < 4 → exec (.movDestSelect (.q q) a) s = .next (s.takeTrap .illop 0))

/-- R122, R59: BFX and BFI whose field reaches beyond bit 63, and every unassigned encoding, trap ILLOP with TRINFO 0 and
write nothing.

R127, R72: an odd target of RET or JMPR traps ALIGN with the target as TRINFO.

R130: inside a REP body BR, BRC, CALL, RET, JMPR, LOOP, REP, TRAP, SVC, RFT, EXIT, EXITS, YIELD, COMPOSE and DCMP trap
ILLOP. -/
def Obligations.RefusedForms : Prop :=
  (∀ s : State,
     (∀ (pos wm1 : BitVec 6) (d a : GReg), 64 < pos.toNat + wm1.toNat + 1 →
       exec (.bfx pos d a wm1) s = .next (s.takeTrap .illop 0) ∧ exec (.bfi pos d a wm1) s = .next (s.takeTrap .illop 0)) ∧
     exec .unassignedEncoding s = .next (s.takeTrap .illop 0)) ∧
  (∀ s : State, s.ws.ctl.repA = false →
     ((s.ws.raw 15).getLsbD 0 = true → exec .ret s = .next (s.takeTrap .align (s.ws.raw 15))) ∧
     (∀ d a, (s.g a).getLsbD 0 = true → exec (.jmpr d a) s = .next (s.takeTrap .align (s.g a)))) ∧
  (∀ (s : State) (i : Instr), s.ws.ctl.repA = true →
     (match i with
       | .br _ | .brc _ _ | .call _ | .ret | .jmpr _ _ | .loop _ _ | .rep _ _ _ | .trap _ | .svc _ | .rft | .exit
       | .exits _ | .yield | .compose _ | .dcmp => True
       | _ => False) →
     exec i s = .next (s.takeTrap .illop 0))

/-- R127, R128, R129: where no REP body is active BR, BRC, CALL, RET, JMPR, LOOP and REP set the PC as their rules say and
change nothing but the registers and the CTL fields named. CALL and RET use g15 unrotated; LOOP decrements first, and
rotates where ROT is 1; on g0 it traps ILLOP. -/
def Obligations.ControlTransfers : Prop :=
  ∀ s : State, s.ws.ctl.repA = false →
    (∀ off, exec (.br off) s = .next (s.setWs { s.ws with pc := s.ws.pc + 2 * off })) ∧
    (∀ c off, exec (.brc c off) s = .next (s.setWs { s.ws with
      pc := if Cond.holds c s.ws.ctl then s.ws.pc + 2 * off else s.nextPc })) ∧
    (∀ off, exec (.call off) s = .next (s.setWs { s.ws.setReg 15 s.nextPc with pc := s.ws.pc + 2 * off })) ∧
    ((s.ws.raw 15).getLsbD 0 = false → exec .ret s = .next (s.setWs { s.ws with pc := s.ws.raw 15 })) ∧
    (∀ d a, (s.g a).getLsbD 0 = false → exec (.jmpr d a) s = .next (s.setWs
      { (if d = 0 then s.ws else s.ws.setReg (s.ws.ctl.phys d) s.nextPc) with pc := s.g a })) ∧
    (∀ d off, d ≠ 0 → exec (.loop d off) s = .next (s.setWs
      { s.ws.setReg (s.ws.ctl.phys d) (s.ws.raw (s.ws.ctl.phys d) - 1) with
        ctl := { s.ws.ctl with rrb := if s.ws.ctl.rot then s.ws.ctl.rrb - 1 else s.ws.ctl.rrb }
        pc := if s.ws.raw (s.ws.ctl.phys d) = 1 then s.nextPc else s.ws.pc + 2 * off })) ∧
    (∀ off, exec (.loop 0 off) s = .next (s.takeTrap .illop 0)) ∧
    (∀ st a len, exec (.rep st a len) s = .next (s.setWs (
      if s.g a = 0 then { s.ws with pc := s.nextPc + BitVec.ofNat 64 (2 * (len.toNat + 1)) }
      else { s.ws with
        pc := s.nextPc
        ctl := { s.ws.ctl with
          repA := true, repRem := BitVec.ofNat 24 (min (s.g a).toNat 16777215), repI := 0, repLen := len, repOff := 0,
          repSt := st } })))

/-- R129, R74: BLKEND in a REP body, which has no effect but to complete: before the body end only REPOFF moves; at the body
end the body starts again with REPI raised and REPREM lowered, and the last iteration falls through with REPA clear. Every
other statement that an instruction completes says the same of its PC and of CTL's REP fields. -/
def Obligations.RepProgress : Prop :=
  ∀ s : State, s.ws.ctl.repA = true →
    let c := s.ws.ctl
    let off := c.repOff.toNat + s.ilen
    (off < c.repLen.toNat + 1 →
      exec .blkend s = .next (s.setWs { s.ws with pc := s.nextPc, ctl := { c with repOff := BitVec.ofNat 6 off } })) ∧
    (off = c.repLen.toNat + 1 → c.repRem ≠ 1 →
      exec .blkend s = .next (s.setWs { s.ws with
        pc := s.nextPc - BitVec.ofNat 64 (2 * (c.repLen.toNat + 1))
        ctl := { c with repOff := 0, repRem := c.repRem - 1, repI := c.repI + 1 } })) ∧
    (off = c.repLen.toNat + 1 → c.repRem = 1 →
      exec .blkend s = .next (s.setWs { s.ws with
        pc := s.nextPc, ctl := { c with repOff := 0, repRem := 0, repI := c.repI + 1, repA := false } }))

/-! ## Exceptions -/

/-- R134, R135, R136, R358, R59: outside a REP body SVC and TRAP, and everywhere an unassigned encoding, take their trap:
the trap record in the task's workspace, the handler's record on the run list, the PC still at A, nothing else. -/
def Obligations.TrapEntry : Prop :=
  ∀ (s : State) (h : Nat) (e : TTEntry), s.HandlerReady s.hereCid s.here.cur.val h e → s.Alone →
    (∀ n, s.ws.ctl.repA = false → ∃ t, exec (.svc n) s = .next t ∧ s.Trapped t .svc (n.setWidth 64) h e) ∧
    (∀ n, s.ws.ctl.repA = false → ∃ t, exec (.trap n) s = .next t ∧ s.Trapped t .trap (n.setWidth 64) h e) ∧
    (∃ t, exec .unassignedEncoding s = .next t ∧ s.Trapped t .illop 0 h e)

/-- R135, R357: XLATE, PERM and MCHK go to firmware first: the trap record is written, as for any cause, the PC stays at A,
and no handler's record enters the run list. An MCHK raises trigger 128 (R377), and one of the core's LM, whose SRC is 0, takes
the core from service (R376).

R135, R359: a trap that no handler takes, where the context names no channel that can or the task is itself a handler,
leaves its trap record and nothing else.

R273, R359, R363, R367: firmware then retires the task as by EXIT, where no handler is linked to it, none in a slot and none
that is saved, and one KIND 9 record with its slot and its CAUSE opens a
window of the die's gatherer; a handler's own trap retires the task it is linked to as well. That firmware does so in a
step of its own, and when, is log entry 19. -/
def Obligations.FaultsFirstTaken : Prop :=
  (∀ (s : State) (info : Word), s.Alone →
     s.AwaitsFirmware (s.takeTrap .xlate info) .xlate info ∧ s.AwaitsFirmware (s.takeTrap .perm info) .perm info ∧
       (if info.extractLsb' 60 4 = 0 then (s.trigger 128).failLm (.lm s.hereCid 0) else s.trigger 128).AwaitsFirmware
         (s.takeTrap .mchk info) .mchk info) ∧
  (∀ s : State,
     let unfit (h : Nat) : Prop :=
       let e := (s.here.tt.get h).getD TTEntry.reset
       e.valid = false ∨ e.bound = true
     s.Alone → s.task.link.isSome = true ∨ (∀ h, ((s.cxOf s.hereCid).bind s.ctxCfg).bind (·.handler) = some h → unfit h) →
     ∃ t, exec .unassignedEncoding s = .next t ∧
       s.Recorded t { s.task with fwFault := none, handlerDue := false } .illop 0 s.here) ∧
  (∀ (s : State) (me l : Nat),
     let x := s.here.slot me
     let d := s.die (s.hereCid / 8192)
     let gone (t : State) (i : Nat) : Prop := t.here.slot i = { Slot.reset with actNo := (s.here.slot i).actNo }
     me < 8 → x.held = true → x.ws.tsw.state = .trapped → x.fwFault = none → x.handlerDue = false →
     (∀ r ∈ s.here.runList, r.kind ≠ .handler me) →
     (∀ i, i < 8 → (s.here.slot i).held = true → (s.here.slot i).link ≠ some me) →
     (∀ y ∈ s.savedTasks, ¬ (y.cid = s.hereCid ∧ y.task.link = some me)) → s.here.ownTickets me = [] →
     x.members = [] ∨ s.damaged = [] →
     (x.link = none → d.faults = [] → d.window = none →
       ∃ t, exec (.firmwareFaultDecision s.hereCid me .declined) s = .next t ∧ gone t me ∧
         (∀ i, i ≠ me → t.here.slot i = s.here.slot i) ∧ (t.die (s.hereCid / 8192)).window = some s.now ∧
         (t.die (s.hereCid / 8192)).faults = [{ cx := s.cx, page := 0, kind := 9, cause := x.ws.tsw.cause, detail := me,
                                                src := s.hereCid, count := 1 }]) ∧
     (x.link = some l → l < 8 → l ≠ me → s.here.ownTickets l = [] →
       ∃ t, exec (.firmwareFaultDecision s.hereCid me .declined) s = .next t ∧ gone t me ∧ gone t l ∧
         ∀ i, i ≠ me → i ≠ l → t.here.slot i = s.here.slot i))

/-- R137, R156: RFT with TRACT 0 and an even TRPC ends the handler and lets the trapped task go on at TRPC with CAUSE 0, its
repetition and RESID (R156) kept only where TRPC is the trapped PC (elsewhere a block begins, R74). With TRACT 1 it retires the
trapped task, and then the handler. With TRACT 0 and an odd TRPC it traps ALIGN with TRPC as TRINFO, and without a linked
task ILLOP. -/
def Obligations.HandlerReturn : Prop :=
  ∀ (s : State) (l : Nat) (b : Slot), s.ws.ctl.repA = false →
   (s.task.link = none → exec .rft s = .next (s.takeTrap .illop 0)) ∧
   (s.task.link = some l → s.task.tract = false → s.task.trpc.getLsbD 0 = true →
     exec .rft s = .next (s.takeTrap .align s.task.trpc)) ∧
   (s.task.link = some l → l < 8 → l ≠ s.here.cur.val → s.task.tract = true → s.here.ownTickets s.here.cur.val = [] →
     s.here.ownTickets l = [] → ∃ t, exec .rft s = .next t ∧ t.hereCid = s.hereCid ∧
      t.here.slot s.here.cur.val = { Slot.reset with actNo := s.task.actNo } ∧
      t.here.slot l = { Slot.reset with actNo := (s.here.slot l).actNo } ∧
      (∀ i, i ≠ l → i ≠ s.here.cur.val → t.here.slot i = s.here.slot i) ∧ t.mem = s.mem) ∧
   (s.task.link = some l → l < 8 → l ≠ s.here.cur.val →
    s.task.tract = false → s.task.trpc.getLsbD 0 = false → s.here.slot l = b → b.ws.tsw.state = .trapped →
    b.ws.ctl.cw = 0 → s.here.ownTickets s.here.cur.val = [] → s.task.members = [] →
    ∃ t, exec .rft s = .next t ∧ t.hereCid = s.hereCid ∧
      t.here.slot s.here.cur.val = { Slot.reset with actNo := s.task.actNo } ∧
      t.here.slot l = { b with
        wait := none, runSince := s.now, block := if s.task.trpc = b.ws.pc then b.block else none
        ws := { b.ws with
          pc := s.task.trpc
          ctl := { b.ws.ctl with repA := b.ws.ctl.repA && decide (s.task.trpc = b.ws.pc) }
          resid := if s.task.trpc = b.ws.pc then b.ws.resid else 0
          tsw := { b.ws.tsw with cause := .none, state := .runnable } } } ∧
      (∀ i, i ≠ l → i ≠ s.here.cur.val → t.here.slot i = s.here.slot i) ∧ t.mem = s.mem ∧ t.here.lm = s.here.lm)

/-! ## Memory -/

/-- R117, R204: LD in its three forms and LDK complete where the access reaches a place: the bytes loaded, extended to 64
bits, go to the register; an acquire follows. The displacement counts in access sizes, LDK's in words of 8 bytes from the
aligned A.

R204, R205: ST in its two forms completes where the access reaches a place: after the release, if it is one, the low
bytes of the register go to the place, and no register, flag or special register changes.

R215: LDMB loads 64 bytes into mb0 to mb7, the lowest 8 into mb0, and STMB stores them, as one access. -/
def Obligations.AccessesComplete : Prop :=
  (∀ (s u : State) (a d b : GReg) (disp : Word) (o : Sys2Proof.Ordering) (sc : Scope) (nc : Bool) (l : Loc),
     (∀ sz, s.Reaches .load (s.g a + disp * BitVec.ofNat 64 (sizeBytes sz)) (sizeBytes sz) l u →
       let r := u.loadTask nc l (sizeBytes sz)
       Completes (exec (.ld sz o sc nc d a disp) s)
         ((r.2.setG d (extendBytes false (sizeBytes sz) r.1)).acquireIf o sc)) ∧
     (∀ sz, s.Reaches .load (s.g a + disp * BitVec.ofNat 64 (sizeBytes sz)) (sizeBytes sz) l u →
       let r := u.loadTask nc l (sizeBytes sz)
       Completes (exec (.ldSigned sz o sc nc d a disp) s)
         ((r.2.setG d (extendBytes true (sizeBytes sz) r.1)).acquireIf o sc)) ∧
     (∀ ty, s.Reaches .load (s.g a + s.g b) (ldBytes ty) l u →
       let r := u.loadTask nc l (ldBytes ty)
       Completes (exec (.ldIndexed ty o sc nc d a b) s)
         ((r.2.setG d (extendBytes (ldSigned ty) (ldBytes ty) r.1)).acquireIf o sc)) ∧
     (isGlobal ((s.ws.pc &&& ~~~7#64) + 8 * disp) = true →
       s.Reaches .load ((s.ws.pc &&& ~~~7#64) + 8 * disp) 8 l u →
       let r := u.loadTask false l 8
       Completes (exec (.ldk d disp) s) (r.2.setG d (BitVec.ofNat 64 r.1)))) ∧
  (∀ (s u : State) (a d b : GReg) (disp : Word) (o : Sys2Proof.Ordering) (sc : Scope) (hint : Bool) (sz : Size) (l : Loc),
     ((s.releaseIf o sc).Reaches .store (s.g a + disp * BitVec.ofNat 64 (sizeBytes sz)) (sizeBytes sz) l u →
       Completes (exec (.st sz o sc hint d a disp) s)
         (u.storeTask l (sizeBytes sz) ((s.g d).toNat % 2 ^ (8 * sizeBytes sz)))) ∧
     ((s.releaseIf o sc).Reaches .store (s.g a + s.g b) (sizeBytes sz) l u →
       Completes (exec (.stIndexed sz o sc hint d a b) s)
         (u.storeTask l (sizeBytes sz) ((s.g d).toNat % 2 ^ (8 * sizeBytes sz))))) ∧
  (∀ (s u : State) (a : GReg) (disp : Word) (o : Sys2Proof.Ordering) (sc : Scope) (nc : Bool) (l : Loc),
     (s.Reaches .load (s.g a + disp * 64) 64 l u →
       let r := u.loadTask nc l 64
       Completes (exec (.ldmb o sc nc a disp) s) ((r.2.setWs { r.2.ws with
         mb := Vector.ofFn fun (i : Fin 8) => BitVec.ofNat 64 (r.1 / 2 ^ (64 * i.val)) }).acquireIf o sc)) ∧
     ((s.releaseIf o sc).Reaches .store (s.g a + disp * 64) 64 l u →
       Completes (exec (.stmb o sc nc a disp) s)
         (u.storeTask l 64 ((List.range 8).foldl (fun v i => v + (vget s.ws.mb i 0).toNat * 2 ^ (64 * i)) 0))))

/-- R198, R200, R222: what a load returns, and what it leaves. In the LM, the CSP and the DSW it is the bytes at the place
and the state is untouched. In global memory with no copy, no U line and no store still unseen of the line it is the
home's bytes, and the load leaves every byte of every memory and every register as it was.

R198, R200: any other load of a task is what its cluster would load, or an earlier value of the line that a store of the
cluster replaced less than 65,536 cc ago and that the task has not passed (log entry 4).

R17 to R20, R107: the bytes of the workspace slots. Where g, mb and the PC lie in a slot, and that a store of 8 aligned
bytes there writes the one register and nothing else; where a lent core's bank had lost it, it is lost no more (R299).

R139, R200, R204: the frame of a store of n bytes at a place outside the workspace slots. Byte i at the place is byte
i of the value; with no U line of the line about, every other byte of every memory reads as before; and no register of
the focus core changes. -/
def Obligations.AccessedBytes : Prop :=
  (∀ (s : State) (cid n : Nat) (nc : Bool) (l : Loc), (∀ o, l ≠ .mqw o) →
     ((∀ pa, l ≠ .phys pa) → s.loadAt cid nc l n = (s.bytesAt l n, s)) ∧
     (s.Uncached l →
       (s.loadAt cid nc l n).1 = s.bytesAt l n ∧ (s.loadAt cid nc l n).2.here = s.here ∧
       ∀ x, (s.loadAt cid nc l n).2.byteAt x = s.byteAt x)) ∧
  (∀ (s : State) (n pa : Nat) (nc : Bool) (l : Loc),
     (s.Uncached l → s.loadTask nc l n = s.loadAt s.hereCid nc l n) ∧
     ((∃ k, (s.loadTask nc (.phys pa) n).1 = (({ s with tick := k } : State).loadAt s.hereCid nc (.phys pa) n).1) ∨
       ∃ y ∈ (s.cluster (s.hereCid / 8)).late, y.line = pa / 64 ∧ s.now < y.since + 65536 ∧
         (s.hereCid, s.task.taskId) ∉ y.barred ∧
         (s.loadTask nc (.phys pa) n).1 = y.data.toNat / 2 ^ (8 * (pa % 64)) % 2 ^ (8 * n))) ∧
  (∀ (s : State) (cid n v : Nat) (l x : Loc), (∀ o, l ≠ .mqw o) → l.plain → s.Canonical → s.Uncached l →
     l.off % 64 + n ≤ 64 → ∀ t, t = s.storeAt cid l n v ∨ t = s.storeTask l n v →
     (∀ i, i < n → t.byteAt (l.add i) = BitVec.ofNat 8 (v / 256 ^ i)) ∧
     (x.outside l n → x.plain → t.byteAt x = s.byteAt x) ∧
     (s.waiters = [] → ∀ c i, (t.core c).slot i = (s.core c).slot i)) ∧
  (∀ (s : State) (c cid i : Nat) (v : Word), i < 8 →
     let x := (s.core cid).slot i
     let wrote (t : State) (n : Nat) (w : Workspace) : Prop :=
       (t.core cid).slot i = { x with ws := w, lost := x.lost.filter fun k => k != n } ∧
       (∀ j, j ≠ i → (t.core cid).slot j = (s.core cid).slot j) ∧ (t.core cid).lm = (s.core cid).lm ∧ t.mem = s.mem
     (∀ r : Fin 32, s.bytesAt (.lm cid (512 * i + 8 * r.val)) 8 = x.ws.g[r].toNat ∧
       wrote (s.storeAt c (.lm cid (512 * i + 8 * r.val)) 8 v.toNat) r.val { x.ws with g := x.ws.g.set r v }) ∧
     (∀ r : Fin 8, s.bytesAt (.lm cid (512 * i + 256 + 8 * r.val)) 8 = x.ws.mb[r].toNat ∧
       wrote (s.storeAt c (.lm cid (512 * i + 256 + 8 * r.val)) 8 v.toNat) (32 + r.val) { x.ws with mb := x.ws.mb.set r v }) ∧
     s.bytesAt (.lm cid (512 * i + 320)) 8 = x.ws.pc.toNat)

/-- R15 to R19, R110, R144, R279: where the windows lie. A byte of the own LM, CSP, command or DSW window inside its extent is named;
an address beyond a window's extent, or in neither global space nor a window, is XLATE. In the LM a task reaches its own
workspace slot, the last 192 bytes of it by loads only, no other slot, no resident task's save area, and no armed counter
block by a store. -/
def Obligations.Windows : Prop :=
  ∀ (s : State) (a : Word) (n : Nat) (store : Bool), 0 < n →
    let acc : Acc := if store then .store else .load
    let o := winOff a
    let me := s.here.cur.val
    (isLocal a = true → winSel a = 0 → o + n ≤ 0xC000 →
      (o / 512 = me → (o + n - 1) / 512 = me → (store = true → o % 512 + n ≤ 320) →
        s.resolve acc a n = .ok (.lm s.hereCid o, s)) ∧
      (o < 0x1000 → o / 512 ≠ me ∨ (o + n - 1) / 512 ≠ me ∨ (store = true ∧ 320 < o % 512 + n) →
        s.resolve acc a n = .error (.trap .perm a)) ∧
      (0x1000 ≤ o → s.here.inArea o n = false → (store = true → s.here.onCounter o n = false) →
        s.resolve acc a n = .ok (.lm s.hereCid o, s)) ∧
      (0x1000 ≤ o → s.here.inArea o n = true ∨ (store = true ∧ s.here.onCounter o n = true) →
        s.resolve acc a n = .error (.trap .perm a))) ∧
    (isLocal a = true → winSel a = 1 → o + n ≤ 0x40000 → s.resolve acc a n = .ok (.csp (s.hereCid / 8) o, s)) ∧
    (isLocal a = true → winSel a = 3 → o + n ≤ (s.dswRange s.cx (s.hereCid / 8192)).2 →
      s.resolve acc a n = .ok (.dsw (s.hereCid / 8192) ((s.dswRange s.cx (s.hereCid / 8192)).1 + o), s)) ∧
    (isLocal a = true → winSel a = 0 → 0xC000 < o + n → s.resolve acc a n = .error (.trap .xlate a)) ∧
    (isLocal a = true → winSel a = 1 → 0x40000 < o + n → s.resolve acc a n = .error (.trap .xlate a)) ∧
    (isLocal a = true → winSel a = 3 → (s.dswRange s.cx (s.hereCid / 8192)).2 < o + n →
      s.resolve acc a n = .error (.trap .xlate a)) ∧
    (isLocal a = true → winSel a = 2 → o + n ≤ 0x1000 → s.resolve acc a n = .ok (.mqw o, s)) ∧
    (isLocal a = true → winSel a = 2 → 0x1000 < o + n → s.resolve acc a n = .error (.trap .xlate a)) ∧
    (isLocal a = true → 4 ≤ winSel a → s.resolve acc a n = .error (.trap .xlate a)) ∧
    (isLocal a = false → isGlobal a = false → s.resolve acc a n = .error (.trap .xlate a))

/-- R336 to R339: a walk. With no translation entry in a TLB and no replaced translation about, an access to global space
is refused as XLATE where the walk finds no leaf, as PERM where the leaf lacks the access's permission, and else reaches the
leaf's base plus the offset.

R205, R338: an access that no translation allows takes its trap and has no effect: LD and ST at an address that
resolves to XLATE or PERM trap so, and a misaligned one takes ALIGN with the address as TRINFO. -/
def Obligations.Translation : Prop :=
  (∀ (s : State) (cid va : Nat) (acc : Acc), (s.core cid).l1 = [] → (s.cluster (clusterOf cid)).l2 = [] →
     s.oldWalks = [] →
     (s.walk ((s.cxOf cid).getD 0) va = .absent → s.translate cid acc va = .error .xlate) ∧
     (s.walk ((s.cxOf cid).getD 0) va = .malformed → s.translate cid acc va = .error .malformed) ∧
     (∀ x, s.walk ((s.cxOf cid).getD 0) va = .leaf x → x.allows acc = false → s.translate cid acc va = .error .perm) ∧
     (∀ x, s.walk ((s.cxOf cid).getD 0) va = .leaf x → x.allows acc = true → paDevice (x.pa + (va - x.va)) = 0 →
       paKind (x.pa + (va - x.va)) = .device →
       s.translate cid acc va = .ok (x.pa + (va - x.va), s.fillTlb cid x))) ∧
  (∀ (s : State) (a d : GReg) (disp info : Word) (sc : Scope) (sz : Size) (c : Cause),
     let at' := s.g a + disp * BitVec.ofNat 64 (sizeBytes sz)
     (at'.toNat % sizeBytes sz ≠ 0 →
       exec (.ld sz .rlx sc false d a disp) s = .next (s.takeTrap .align at') ∧
       exec (.st sz .rlx sc false d a disp) s = .next (s.takeTrap .align at')) ∧
     (at'.toNat % sizeBytes sz = 0 → ¬ (isLocal at' = true ∧ winSel at' = 2) →
       (s.resolve .load at' (sizeBytes sz) = .error (.trap c info) →
         exec (.ld sz .rlx sc false d a disp) s = .next (s.takeTrap c info)) ∧
       (s.resolve .store at' (sizeBytes sz) = .error (.trap c info) →
         exec (.st sz .rlx sc false d a disp) s = .next (s.takeTrap c info))))

/-- R201, R210 to R213: LDS loads a full word, LDT loads it and makes it empty, both as acquires, STF releases, stores and makes
it full, all at core scope for the LM and cluster scope for the CSP, STE makes it empty; on an empty word LDS and LDT park at A until it is full.

R349: LDS of an arrival word that a page's arrival made full leaves no CDC copy of the page's lines in the core's cluster,
and LDS of any other word drops none.

R210: the full/empty bits. Setting one word's bit gives that word its value and leaves every other word's bit, and
every byte of every memory, as they were. -/
def Obligations.FullEmptyWords : Prop :=
  (∀ (s : State) (d a : GReg) (disp : Word) (l : Loc),
     let at' := s.g a + disp * 4
     let sc : Scope := match l with | .csp _ _ => .cluster | _ => .core
     (s.ReachesWord .load at' l → s.isFull l = true →
       let u := s.setG d (BitVec.ofNat 64 (s.bytesAt l 4))
       Completes (exec (.lds d a disp) s) ((u.seeArrival l).acquire sc) ∧
       Completes (exec (.ldt d a disp) s) ((u.setFull l false).acquire sc)) ∧
     (s.ReachesWord .load at' l → s.isFull l = false →
       exec (.lds d a disp) s = .next (s.park (.word l)) ∧ exec (.ldt d a disp) s = .next (s.park (.word l))) ∧
     (s.ReachesWord .store at' l →
       Completes (exec (.stf d a disp) s) (((s.releaseTo sc).storeAt s.hereCid l 4 ((s.g d).toNat % 2 ^ 32)).setFull l true) ∧
       Completes (exec (.ste a disp) s) (s.setFull l false))) ∧
  (∀ (s : State) (cid o : Nat),
     let k := cid / 8
     (∀ p, (s.core cid).arrivals.get (o / 4) = some p → ∀ x,
       x ∈ ((s.seeArrival (.lm cid o)).cluster k).copies ↔ x ∈ (s.cluster k).copies ∧ ¬ (p / 64 ≤ x.line ∧ x.line < p / 64 + 1024)) ∧
     ((s.core cid).arrivals.get (o / 4) = none → s.seeArrival (.lm cid o) = s)) ∧
  (∀ (s : State) (l x : Loc) (f : Bool),
     ((∃ cid o, l = .lm cid o) ∨ (∃ c o, l = .csp c o) → (s.setFull l f).isFull l = f) ∧
     (x.line ≠ l.line ∨ x.off / 4 ≠ l.off / 4 → (s.setFull l f).isFull x = s.isFull x) ∧
     (s.setFull l f).byteAt x = s.byteAt x)

/-- R201, R202, R206: FENCE completes in every form: as a release, an acquire, or both at system scope.

R73, R207 to R209: ACQR, RELR, CCLN, CINV and CFLU over a range that stays in one space complete, with no effect on an
empty or a local range; over a range of global space ACQR acquires and RELR releases its lines, CCLN releases them at package
scope but at level cdc, CINV drops the cluster's CDC copies of them and lets the task fetch anew, CFLU does both, and CINV of
level ic drops the instruction copies of the core and notes for the task that it fetches nothing older. A range that crosses
traps ILLOP.

R196, R200 to R202, R222: what an acquire and a release of lines do (log entry 4). An acquire makes the task see the stores
that a release in scope covers, and at quad scope or wider drops the cluster's CDC copies and lets the task read no bytes that an
older copy had before a store of the cluster. A release covers the stores of the
cluster that the task has made or seen, and at quad scope or wider leaves no U line of the lines in the cluster. -/
def Obligations.FencesAndRanges : Prop :=
  (∀ (s : State) (sc : Scope),
     Completes (exec (.fence .rlx sc) s) ((s.releaseTo .system).acquire .system) ∧
     Completes (exec (.fence .acq sc) s) (s.acquire sc) ∧
     Completes (exec (.fence .rel sc) s) (s.releaseTo sc) ∧
     s.acquire sc = s.acquireFor s.me sc (fun _ => true) ∧ s.releaseTo sc = s.releaseFor s.me sc (fun _ => true)) ∧
  (∀ (s : State) (sc : Scope) (l : Level) (a b : GReg),
     let p := s.inRange (s.g a) (s.g b)
     let none' := s.g b = 0 ∨ isLocal (s.g a) = true
     let clean := if l = .cdc then s else s.releaseFor s.me .package p
     (rangeOk (s.g a) (s.g b) = true →
       (none' → ∀ i ∈ [Instr.acqr sc a b, .relr sc a b, .ccln l a b, .cinv l a b, .cflu l a b], Completes (exec i s) s) ∧
       (¬ none' →
         Completes (exec (.acqr sc a b) s) (s.acquireFor s.me sc p) ∧
         Completes (exec (.relr sc a b) s) (s.releaseFor s.me sc p) ∧
         Completes (exec (.ccln l a b) s) clean ∧
         (l ≠ .ic → Completes (exec (.cinv l a b) s) (s.fetchAnew p)) ∧
         (l = .ic → s.task.members = [] → Completes (exec (.cinv l a b) s)
           (({ s with here := s.here.dropCode (s.g a).toNat (s.g b).toNat } : State).modTask fun t =>
             { t with cinvs := t.cinvs ++ [((s.g a).toNat, (s.g b).toNat, s.now)] })) ∧
         (l = .ic → ∃ u, Completes (exec (.cinv l a b) s) u) ∧
         Completes (exec (.cflu l a b) s) ((clean.fetchAnew p).combineWhere (s.hereCid / 8) p))) ∧
     (rangeOk (s.g a) (s.g b) = false →
       ∀ i ∈ [Instr.acqr sc a b, .relr sc a b, .ccln l a b, .cinv l a b, .cflu l a b],
         exec i s = .next (s.takeTrap .illop 0))) ∧
  (∀ (s : State) (sc : Scope) (p : Nat → Bool),
     let k := s.hereCid / 8
     let wide := sc ≠ .core ∧ sc ≠ .cluster
     let same (t : State) : Prop := t.here = s.here ∧ t.mem = s.mem ∧ (∀ j, j ≠ k → t.cluster j = s.cluster j) ∧
       (t.cluster k).ulines = (s.cluster k).ulines
     let copies (t : State) (gone : Nat → Prop) : Prop :=
       ∀ x, x ∈ (t.cluster k).copies ↔ x ∈ (s.cluster k).copies ∧ ¬ gone x.line
     let late (t : State) (f : Late → Late) : Prop := ∀ i : Nat, (t.cluster k).late[i]? = (s.cluster k).late[i]?.map f
     let acq := s.acquireFor s.me sc p
     let rel := s.releaseFor s.me sc p
     (same acq ∧ copies acq (fun x => wide ∧ p x = true) ∧
       late acq fun y => if p y.line = true ∧ ((∃ f ∈ y.freed, f.1 = s.hereCid ∨ (f.2 = true ∧ sc ≠ .core)) ∨
         (wide ∧ y.stale = true)) then y.bar s.me else y) ∧
     (wide → ∀ y ∈ (acq.cluster k).late, p y.line = true → s.me ∉ y.barred → y.stale = false) ∧
     (same (s.fetchAnew p) ∧ copies (s.fetchAnew p) (fun x => p x = true) ∧
       late (s.fetchAnew p) fun y => if p y.line = true then y.bar s.me else y) ∧
     (¬ wide → same rel ∧ copies rel (fun _ => False) ∧
       late rel fun y => if p y.line = true ∧ s.me ∈ y.barred then y.free (s.hereCid, decide (sc ≠ .core)) else y) ∧
     (wide → (∀ u ∈ (rel.cluster k).ulines, p u.line = false) ∧
       ∀ y ∈ (rel.cluster k).late, p y.line = true → s.me ∈ y.barred → (s.hereCid, true) ∈ y.freed))

/-! ## Atomics -/

/-- R216 to R219: AMO in its 64-bit, 32-bit and fadd forms, and TOPK, complete where the home is reached and takes the
request: the old value, extended, goes to d after the release and before the acquire.

R221, R222: RED in its three forms completes: at a line of memory in the issuing cluster's CDC, at a DSW line by a
request to its slice. No register and no flag of the task changes. -/
def Obligations.AtomicsComplete : Prop :=
  (∀ (s u : State) (o : Sys2Proof.Ordering) (sc : Scope) (d a b : GReg) (l : Loc), u.here.unanswered = [] →
     let ask (op : HomeOp) (cmp : Nat) := (u.releaseIf o sc).request l op (s.g b).toNat cmp
     (s.Reaches .atomic (s.g a) 8 l u → ∀ op sg,
       let r := ask (.amo op true sg) (s.g d).toNat
       Completes (exec (.amo op sg o sc d a b) s) (((r.2.2.addFpf r.2.1).setG d (BitVec.ofNat 64 r.1)).acquireIf o sc)) ∧
     (s.Reaches .atomic (s.g a) 4 l u → ∀ op sg,
       let r := ask (.amo op false sg) (s.g d).toNat
       Completes (exec (.amoN32 op sg o sc d a b) s)
         (((r.2.2.addFpf r.2.1).setG d (extendBytes sg 4 r.1)).acquireIf o sc)) ∧
     (s.Reaches .atomic (s.g a) 4 l u →
       let r := ask .fadd (s.g d).toNat
       Completes (exec (.amoFadd o sc d a b) s)
         (((r.2.2.addFpf r.2.1).setG d (BitVec.ofNat 64 (r.1 % 2 ^ 32))).acquireIf o sc)) ∧
     (s.Reaches .atomic (s.g a) 64 l u → Completes (exec (.topk o sc a b) s) (ask .topk 0).2.2)) ∧
  (∀ (s u : State) (a b : GReg) (l : Loc), u.here.unanswered = [] →
     let low := (s.g b).toNat % 2 ^ 32
     (∀ pa, l = .phys pa →
       (s.Reaches .atomic (s.g a) 8 l u → ∀ op sg, Completes (exec (.red op sg a b) s)
         (u.redLocal pa { op := some op, w64 := true, signed := sg } (s.g b))) ∧
       (s.Reaches .atomic (s.g a) 4 l u → ∀ op sg, Completes (exec (.redN32 op sg a b) s)
         (u.redLocal pa { op := some op, w64 := false, signed := sg } (BitVec.ofNat 64 low))) ∧
       (s.Reaches .atomic (s.g a) 4 l u → Completes (exec (.redFadd a b) s)
         (u.redLocal pa { op := none, w64 := false, signed := false } (BitVec.ofNat 64 low)))) ∧
     (∀ dd o, l = .dsw dd o →
       (s.Reaches .atomic (s.g a) 8 l u → ∀ op sg, Completes (exec (.red op sg a b) s)
         (u.request l (.red op true sg) (s.g b).toNat 0).2.2) ∧
       (s.Reaches .atomic (s.g a) 4 l u → ∀ op sg, Completes (exec (.redN32 op sg a b) s)
         (u.request l (.red op false sg) low 0).2.2) ∧
       (s.Reaches .atomic (s.g a) 4 l u → Completes (exec (.redFadd a b) s) (u.request l .redFadd low 0).2.2)))

/-- R216, R218: what a home does with an AMO. An aligned request that no reply cache answers returns the word it found and
leaves the word of its rule; every other byte stays. The same request again returns the same value and changes nothing. -/
def Obligations.AtomicAtHome : Prop :=
  ∀ (s : State) (src seq : Nat) (h : HomeLoc) (op : AmoOp) (w64 sg : Bool) (val cmp : Word),
    let l := homePlace h
    let n := if w64 then 8 else 4
    s.Canonical → s.Uncached l → s.redirects = [] → s.Unanswered l.slice src seq → s.damaged = [] → l.off % n = 0 →
    let old := s.bytesAt l n
    let new := (spec216 op sg (8 * n) (BitVec.ofNat (8 * n) old) (BitVec.ofNat (8 * n) val.toNat)
      (BitVec.ofNat (8 * n) cmp.toNat)).toNat
    let r := s.perform src seq l (.amo op w64 sg) val.toNat cmp.toNat
    r.1 = old ∧ r.2.1 = 0 ∧ r.2.2.bytesAt l n = new ∧
    (∀ x : Loc, x.outside l n → r.2.2.byteAt x = s.byteAt x) ∧
    r.2.2.perform src seq l (.amo op w64 sg) val.toNat cmp.toNat = (old, 0, r.2.2) ∧
    (∀ q : HomeReq, q.src = src → q.seq = seq → q.loc = h → q.op = .amo op w64 sg → q.val = val → q.cmp = cmp →
      (l.slice, seq) ∈ (s.core src).unanswered → exec (.atomicAtHome q) s = .next r.2.2)

/-- R218, R222: the other requests at a home: RED_DSW_APPLY, TOPK_AT_HOME and the fadd form of ATOMIC_AT_HOME perform an
aligned request of a readable line that its source has issued; each of the four steps leaves every request of another kind
to its own step, and one that no source has issued alone.

R219: what TOPK makes of a record at its home; every byte outside the record stays.

R200: CDC_COPY_EXPIRY drops a cluster's copies of a line once they are 65,536 cc old, and no other; the stores of the
cluster's tasks that are as old are then seen by all of them (log entry 4). -/
def Obligations.HomeEvents : Prop :=
  (∀ (s : State) (q : HomeReq), s.damaged = [] → s.issued q = true →
     let done := Host.Outcome.next (s.perform q.src q.seq (homePlace q.loc) q.op q.val.toNat q.cmp.toNat).2.2
     (∀ op w64 sg dd off, q.op = .red op w64 sg → q.loc = .dsw dd off → off % (if w64 then 8 else 4) = 0 →
       exec (.redDswApply q) s = done) ∧
     (∀ dd off, q.op = .redFadd → q.loc = .dsw dd off → off % 4 = 0 → exec (.redDswApply q) s = done) ∧
     (q.op = .topk → (homePlace q.loc).off % 64 = 0 → exec (.topkAtHome q) s = done) ∧
     (q.op = .fadd → (homePlace q.loc).off % 4 = 0 → exec (.atomicAtHome q) s = done)) ∧
  (∀ (s : State) (q : HomeReq),
     let amo : Prop := q.op = .fadd ∨ ∃ op w64 sg, q.op = .amo op w64 sg
     let red : Prop := q.op = .redFadd ∨ ∃ op w64 sg, q.op = .red op w64 sg
     (¬ amo ∨ s.issued q = false → exec (.atomicAtHome q) s = .next s) ∧
     (¬ red ∨ (∃ pa, q.loc = .phys pa) ∨ s.issued q = false → exec (.redDswApply q) s = .next s) ∧
     (q.op ≠ .topk ∨ s.issued q = false → exec (.topkAtHome q) s = .next s) ∧
     (q.op ≠ .tokc ∨ s.issued q = false → exec (.tokcAtHome q) s = .next s)) ∧
  (∀ (s : State) (src seq : Nat) (h : HomeLoc) (pair : BitVec 64),
     let l := homePlace h
     let t := (s.perform src seq l .topk pair.toNat 0).2.2
     s.Canonical → s.Uncached l → s.redirects = [] → s.Unanswered l.slice src seq → s.damaged = [] → l.off % 64 = 0 →
     TopkAfter (s.bytesAt l 64) (t.bytesAt l 64) pair ∧ ∀ x : Loc, x.outside l 64 → t.byteAt x = s.byteAt x) ∧
  (∀ (s : State) (k line : Nat), ∃ t, exec (.cdcCopyExpiry k line) s = .next t ∧ t.here = s.here ∧ t.mem = s.mem ∧
     (∀ j, j ≠ k → t.cluster j = s.cluster j) ∧
     (∀ x, x ∈ (t.cluster k).copies ↔
       x ∈ (s.cluster k).copies ∧ (x.line ≠ line ∨ s.now < x.since + 65536)) ∧
     ∀ x, x ∈ (t.cluster k).late ↔ x ∈ (s.cluster k).late ∧ (x.line ≠ line ∨ s.now < x.since + 65536))

/-- R222: an integer RED of a line that nothing caches, where the cluster's CDC has room for its U line, leaves every byte of
memory as it was; once its line is combined the home holds the word of the operation on the old word and the operand. -/
def Obligations.ReductionReachesHome : Prop :=
  ∀ (s : State) (pa : Nat) (op : RedOp) (w64 sg : Bool) (v : Word),
    let n := if w64 then 8 else 4
    s.Canonical → s.Uncached (.phys pa) → s.damaged = [] → pa % n = 0 → (w64 = false → v.toNat < 2 ^ 32) →
    (s.cluster (s.hereCid / 8)).ulines.length < 2048 →
    let t := s.redLocal pa { op := some op, w64 := w64, signed := sg } v
    (∀ x, t.byteAt x = s.byteAt x) ∧ t.here = s.here ∧
    (t.combineLine (pa / 64)).bytesAt (.phys pa) n =
      (spec216 (redAsAmo op) sg (8 * n) (BitVec.ofNat (8 * n) (s.bytesAt (.phys pa) n)) (BitVec.ofNat (8 * n) v.toNat) 0).toNat

/-- R224: WAITA in both widths sends its request and parks at A, whatever the value at the home (log entry 27: that it
parks at issue is the model's choice).

R225: WAITA's request at the home. A word that differs is sent back at once; where it is the expected one the task
becomes a waiter of the line, unless sixteen wait already: then every one of them is answered and none is registered.

R224, R225, R129: a reply ends a WAITA: d gets the value, the task is runnable past the instruction, and it waits no
more. After 2^20 cc the home answers by itself. Without such a reply ACCESS_REPLY answers the core's oldest request. -/
def Obligations.WaitaProtocol : Prop :=
  (∀ (s u : State) (o : Sys2Proof.Ordering) (sc : Scope) (d a b : GReg) (l : Loc),
     let acq := if o = .acq then some sc else none
     (s.Reaches .atomic (s.g a) 8 l u → exec (.waita o sc d a b) s = .next (s.park (.waita l true (s.g b) d acq (s.g a)))) ∧
     (s.Reaches .atomic (s.g a) 4 l u → exec (.waitaN32 o sc d a b) s =
       .next (s.park (.waita l false (BitVec.ofNat 64 ((s.g b).toNat % 2 ^ 32)) d acq (s.g a))))) ∧
  (∀ (s : State) (cid slot : Nat) (l : Loc) (w64 : Bool) (e va : Word) (d : GReg) (acq : Option Scope),
     let t := (s.core cid).slot slot
     let v := BitVec.ofNat 64 (s.bytesAt l (if w64 then 8 else 4))
     let here := s.waiters.filter fun x => x.line == l.line
     slot < 8 → s.Uncached l → s.sound l = true → t.wait = some (.waita l w64 e d acq va) → t.reply = none →
     (∀ x ∈ s.waiters, ¬ (x.cid = cid ∧ x.slot = slot)) →
     (v ≠ e → exec (.waitaAtHome cid slot) s = .next (s.modSlot cid slot fun t => { t with reply := some v })) ∧
     (v = e → here.length < 16 → exec (.waitaAtHome cid slot) s =
       .next { s with waiters := s.waiters ++ [{ line := l.line, cid := cid, slot := slot }] }) ∧
     (v = e → 16 ≤ here.length → ∃ t, exec (.waitaAtHome cid slot) s = .next t ∧
       t.waiters = (s.waiters.filter fun x => x.line != l.line) ∧ ((t.core cid).slot slot).reply = some v ∧
       ∀ x ∈ here, x.far = none → x.slot < 8 → ((s.core x.cid).slot x.slot).wait.isSome = true →
         ((t.core x.cid).slot x.slot).reply.isSome = true)) ∧
  (∀ (s : State) (cid slot : Nat) (l : Loc) (w64 : Bool) (e v va : Word) (d : GReg) (acq : Option Scope),
     let t := (s.core cid).slot slot
     let after (s' : State) (v : Word) : Prop :=
       let t' := (s'.core cid).slot slot
       t'.wait = none ∧ t'.reply = none ∧ t'.ws.tsw.state = .runnable ∧
         t'.ws.g = t.ws.g.set (t.ws.ctl.phys d).toNat v ∧
         (t.ws.ctl.repA = false → t'.ws.pc = t.ws.pc + BitVec.ofNat 64 (2 * t.chainLen)) ∧
         (∀ x ∈ s'.waiters, ¬ (x.cid = cid ∧ x.slot = slot)) ∧ s'.mem = s.mem
     slot < 8 → t.wait = some (.waita l w64 e d acq va) →
     ((s.core cid).repliedSlot = some slot → t.reply = some v →
       ∃ s', exec (.accessReply cid) s = .next s' ∧ after s' v) ∧
     (t.waitSince + 2 ^ 20 ≤ s.now → s.Uncached l → s.sound l = true → ∃ s', exec (.waitaTimeout cid slot) s = .next s' ∧
       after s' (BitVec.ofNat 64 (s.bytesAt l (if w64 then 8 else 4)))) ∧
     ((s.core cid).repliedSlot = none →
       exec (.accessReply cid) s = .next (s.modCore cid fun c => { c with unanswered := c.unanswered.drop 1 })))

/-- R317: TOKC takes a place in a ring. After its release, with the record's counter at c and the consumer's at u, a ring
that is not full gets g[b] at word c mod its length, the counter becomes c + 1 and d becomes c; a full one parks the task
on u. R217: either way the cluster keeps no CDC copy of the record's line.

R317, R318: what the home does with TOKC. The record holds the counter c, the ring's address, the consumer counter's
address and log2 of the length; its addresses name own device memory. A ring with room gets the entry at its place and the
counter becomes c + 1, nothing else of memory changes, and the same request again answers c and changes nothing. -/
def Obligations.TokenRings : Prop :=
  (∀ (s u : State) (d a b : GReg) (pa : Nat), s.Reaches .atomic (s.g a) 64 (.phys pa) u → paKind pa = .device →
     paDevice pa = 0 → u.here.unanswered = [] →
     let key := (Loc.phys pa).slice
     let s2 := (u.releaseTo .system).acknowledge u.hereCid key (u.here.seqFor key)
     let q := s2.here.seqFor key
     (∀ c s3, s2.tokcHome s2.hereCid q pa (s.g b) = (.done c, s3) → Completes (exec (.tokc d a b) s)
       ((({ s3 with here := { s3.here with nextSeq := s3.here.nextSeq.put key (q + 1) } } : State).tokcSeen pa).setG d c)) ∧
     (∀ cons v va s3, s2.tokcHome s2.hereCid q pa (s.g b) = (.full cons v va, s3) →
       exec (.tokc d a b) s = .next ((s3.tokcSeen pa).park (.tokcFull cons v va)))) ∧
  (∀ (s : State) (pa : Nat), (s.tokcSeen pa).mem = s.mem ∧ (s.tokcSeen pa).here = s.here ∧
     ∀ y ∈ ((s.tokcSeen pa).cluster (s.hereCid / 8)).copies, y.line ≠ pa / 64) ∧
  (∀ (s : State) (src seq pa cons ring place : Nat) (entry : Word) (q : HomeReq),
     let word (i : Nat) : Word := BitVec.ofNat 64 (s.bytesAt (.phys (pa + 8 * i)) 8)
     let c := word 0
     let logn := (word 3).toNat
     let u : Word := BitVec.ofNat 64 (s.bytesAt (.phys cons) 8)
     let slot := word 1 + BitVec.ofNat 64 (8 * (c.toNat % 2 ^ logn))
     s.Canonical → s.damaged = [] → s.redirects = [] → s.Unanswered (Loc.phys pa).slice src seq →
     s.Uncached (.phys pa) → s.Uncached (.phys cons) → s.Uncached (.phys place) → pa % 64 = 0 → place % 8 = 0 →
     logn ≤ 20 → (∀ i, 4 ≤ i → i < 8 → word i = 0) → (∀ i, i < 8 → place ≠ pa + i) →
     s.tokcAddr src (word 2) = .ok cons → s.tokcAddr src (word 1) = .ok ring →
     s.tokcAddr src slot = .ok place →
     ((c - u).toNat < 2 ^ logn → ∃ t, s.tokcHome src seq pa entry = (.done c, t) ∧
       t.bytesAt (.phys place) 8 = entry.toNat ∧ t.bytesAt (.phys pa) 8 = (c + 1).toNat ∧
       (∀ x : Loc, x.outside (.phys place) 8 → x.outside (.phys pa) 8 → t.byteAt x = s.byteAt x) ∧
       t.tokcHome src seq pa entry = (.done c, t) ∧
       (q = { src := src, seq := seq, loc := .phys pa, op := .tokc, val := entry, cmp := 0 } → paKind pa = .device →
         paDevice pa = 0 → (s.cxOf src).isSome = true → s.issued q = true → exec (.tokcAtHome q) s = .next t)) ∧
     (2 ^ logn ≤ (c - u).toNat → s.tokcHome src seq pa entry = (.full cons u (word 2), s)))

/-! ## System registers -/

/-- R131 to R133, R136: MFS reads the register its number names, in the layout of its rule; a number from 0x800 up traps
PRIV, and any other number that names none, or a handler register without a linked task, traps ILLOP. -/
def Obligations.SystemRegisterReads : Prop :=
  ∀ (s : State) (d : GReg) (n : BitVec 12),
    (∀ v, n.toNat < 0x800 → sysWord s n.toNat = some v → Completes (exec (.mfs d n) s) (s.setG d (BitVec.ofNat 64 v))) ∧
    (n.toNat < 0x800 → sysWord s n.toNat = none → exec (.mfs d n) s = .next (s.takeTrap .illop 0)) ∧
    (0x800 ≤ n.toNat → exec (.mfs d n) s = .next (s.takeTrap .priv 0) ∧ exec (.mts d n) s = .next (s.takeTrap .priv 0))

/-- R131, R132, R242, R306: MTS writes each writable register as its rule says and traps ILLOP on a value it refuses, on
every register that may only be read, and on every number below 0x800 that names none. -/
def Obligations.SystemRegisterWrites : Prop :=
  ∀ (s : State) (d : GReg),
    let v := s.g d
    let mts (n : BitVec 12) := exec (.mts d n) s
    let no := Host.Outcome.next (s.takeTrap .illop 0)
    Completes (mts 0x002) (s.modCtl fun c => { c with
      z := v.getLsbD 3, n := v.getLsbD 2, c := v.getLsbD 1, v := v.getLsbD 0 }) ∧
    Completes (mts 0x003) (s.modCtl fun c => { c with rot := v.getLsbD 4, rrb := BitVec.ofNat 4 v.toNat }) ∧
    Completes (mts 0x008) (s.modWs fun w => { w with fpf := BitVec.ofNat 8 v.toNat }) ∧
    Completes (mts 0x009) (s.modWs fun w => { w with
      srctr := BitVec.ofNat 32 (v.toNat / 2 ^ 32), srkey := BitVec.ofNat 32 v.toNat }) ∧
    (if v.toNat < 2 ^ 24 ∧ (shapeOf (BitVec.ofNat 24 v.toNat)).isSome then
      Completes (mts 0x00A) (s.modWs fun w => { w with vshape := BitVec.ofNat 24 v.toNat }) else mts 0x00A = no) ∧
    (if v.toNat < 2 ^ 16 then Completes (mts 0x011) (s.setTask { s.task with capf := BitVec.ofNat 16 v.toNat })
      else mts 0x011 = no) ∧
    (if v.toNat ≤ 2 ^ 20 then
      Completes (mts 0x012) { s with here := { s.here with specbud := BitVec.ofNat 21 v.toNat } }
      else mts 0x012 = no) ∧
    (∀ i : Fin 4, if v.toNat ≤ 8 then
      Completes (mts (0x014 + BitVec.ofNat 12 i.val))
        { s with here := { s.here with pth := s.here.pth.set i.val (BitVec.ofNat 4 v.toNat) } }
      else mts (0x014 + BitVec.ofNat 12 i.val) = no) ∧
    (if s.task.link.isSome ∧ v.toNat < 2 ^ 56 then Completes (mts 0x043) (s.setTask { s.task with trpc := v })
      else mts 0x043 = no) ∧
    (if s.task.link.isSome then Completes (mts 0x044) (s.setTask { s.task with tract := v.getLsbD 0 })
      else mts 0x044 = no) ∧
    (∀ n : BitVec 12, n.toNat < 0x800 →
      n ∉ [0x002#12, 0x003#12, 0x008#12, 0x009#12, 0x00A#12, 0x011#12, 0x012#12, 0x014#12, 0x015#12, 0x016#12, 0x017#12, 0x043#12,
        0x044#12] → mts n = no)

/-- R377 to R379: SNAP n of a program, n below 128, completes; where its context may and no snapshot is held it raises the
flag fall, and it writes no register. SNAP 128 and above traps ILLOP.

R377, R378: the flag fall. The host raises triggers below 128 only. A trigger from 128 up that is not enabled changes nothing; a
trigger while a snapshot is held is dropped and counted; any other raises the flag fall, which 40 cc later latches: the count
rises, the trigger's number is kept, the snapshot registers hold what they copy at that time, and the snapshot is held until
it is rearmed. Of several triggers under way the oldest latches first, and the others are then dropped and counted (log
entry 30). -/
def Obligations.SnapshotTriggers : Prop :=
  (∀ (s : State) (n : Byte),
     let en := match s.ctxCfg s.cx with | some c => c.snapEn | none => false
     (n.toNat < 128 → Completes (exec (.snap n) s)
       (if en = false then s else if s.snapHeld = true then { s with trigDrops := s.trigDrops + 1 }
         else { s with fallAt := s.fallAt ++ [(n.toNat, s.now)] })) ∧
     (128 ≤ n.toNat → exec (.snap n) s = .next (s.takeTrap .illop 0))) ∧
  (∀ (s : State) (n t0 : Nat) (rest : List (Nat × Nat)),
     let enabled : Prop := n < 128 ∨ n ∈ s.trigEn
     (enabled → s.snapHeld = false → s.trigger n = { s with fallAt := s.fallAt ++ [(n, s.now)] }) ∧
     (enabled → s.snapHeld = true → s.trigger n = { s with trigDrops := s.trigDrops + 1 }) ∧
     (¬ enabled → s.trigger n = s) ∧
     exec (.hostSnapTrigger n) s = .next (if n < 128 then s.trigger n else s) ∧
     (s.fallAt = (n, t0) :: rest → s.snapHeld = false → t0 + 40 ≤ s.now → exec .flagFallLatch s = .next { s with
       falls := s.falls + 1, lastTrig := BitVec.ofNat 8 n, snapHeld := true, fallAt := rest
       snapshot := some s.snapshotNow }) ∧
     (s.fallAt = (n, t0) :: rest → s.snapHeld = true →
       exec .flagFallLatch s = .next { s with trigDrops := s.trigDrops + 1, fallAt := rest }) ∧
     (s.fallAt = (n, t0) :: rest → s.snapHeld = false → s.now < t0 + 40 → exec .flagFallLatch s = .next s) ∧
     (s.fallAt = [] → exec .flagFallLatch s = .next s) ∧
     exec .snapshotRearm s = .next { s with snapHeld := false } ∧
     (s.snapshotNow.corrected = s.corrected ∧ s.snapshotNow.lastErrs = s.lastErrs ∧
       (∀ c ∈ s.coreIds, ∃ l, (c, l) ∈ s.snapshotNow.cores ∧ ∀ x ∈ [(s.core c).runList.length, (s.core c).deque.length,
         (s.core c).sendQ.length, (s.core c).inbound.length, (s.core c).mx.queue.length, (s.core c).l1.length,
         ((s.core c).tt.filter fun e => e.2.valid).length, ((s.core c).mx.latch.toList.filter fun x => x.full).length], x ∈ l) ∧
       (∀ c ∈ s.coreIds, ∃ l, (c, l) ∈ s.snapshotNow.counters ∧
         (∀ n, n < 8 → ((s.core c).chan n).bytes.toNat ∈ l ∧ ((s.core c).chan n).drops.toNat ∈ l) ∧
         (s.core c).mx.pushed.toNat ∈ l ∧ (s.core c).mx.done.toNat ∈ l) ∧
       (∀ e ∈ s.replies, ∃ l, (e.slice, l) ∈ s.snapshotNow.slices ∧ (s.replies.filter fun y => y.slice == e.slice).length ∈ l) ∧
       (∀ x ∈ s.contexts, (x.1, [x.2.prefixes.length, x.2.sptQ.length]) ∈ s.snapshotNow.prefixes) ∧
       (∀ k ∈ s.clusters, ∃ l, (k.1, l) ∈ s.snapshotNow.clusters ∧
         ∀ x ∈ [k.2.copies.length, k.2.ulines.length, k.2.l2.length, k.2.composeQ.length], x ∈ l) ∧
       (∀ d ∈ s.dies, ∃ l, (d.1, l) ∈ s.snapshotNow.dies ∧
         ∀ x ∈ [d.2.launchQ.length, d.2.faults.length, d.2.lists.length, d.2.walksRunning], x ∈ l) ∧
       ∀ d ∈ s.dies, (d.1, d.2.lastErr) ∈ s.snapshotNow.records))

/-- R339, R380: TLBI over a range of global space drops, in the issuing cluster or in every cluster, the entries of its
context that cover a byte of the range, all of its context for length 0, and no others. Any other range traps ILLOP.

R222, R380: the accesses that used a dropped entry are performed at package scope first: a cluster of the context in the
scope keeps no U line that lies in a leaf it drops; with no U line about, TLBI changes no memory and no task. While a WAITA, or
TOKC's wait, of the context in the scope waits at a place that its address no longer names, TLBI drops its entries, ends no replaced
translation and is not complete: its task stays at A and issues it again (log entry 61, DESIGN CHOICE). -/
def Obligations.TlbInvalidation : Prop :=
  ∀ (s : State) (cl : Bool) (a b : GReg),
    let lo := (s.g a).toNat
    let n := (s.g b).toNat
    let keeps (x : Leaf) : Bool := x.cx != s.cx || (n != 0 && !overlaps x.va x.size lo n)
    let within (k : Nat) : Prop := cl = false ∨ k = s.hereCid / 8
    let dropped (u : State) : Prop :=
      (∀ k, within k → (u.cluster k).l2 = (s.cluster k).l2.filter keeps) ∧
      (∀ k, cl = true → k ≠ s.hereCid / 8 → (u.cluster k).l2 = (s.cluster k).l2) ∧
      (∀ i, within (i / 8) → (u.core i).l1 = (s.core i).l1.filter keeps) ∧
      ∀ i, cl = true → i / 8 ≠ s.hereCid / 8 → (u.core i).l1 = (s.core i).l1
    let elsewhere (va : Word) (pa : Nat) : Prop := ∀ l, s.walk s.cx va.toNat = .leaf l → l.pa + (va.toNat - l.va) ≠ pa
    let astray : Prop := ∃ c ∈ s.coreIds, within (c / 8) ∧ s.cxOf c = some s.cx ∧ ∃ i, i < 8 ∧
      let t := (s.core c).slot i
      t.held = true ∧ t.reply = none ∧
        ((∃ pa w64 e d acq va, t.wait = some (.waita (.phys pa) w64 e d acq va) ∧ elsewhere va pa) ∨
          ∃ pa v va, t.wait = some (.tokcFull pa v va) ∧ elsewhere va pa)
    (lo < 2 ^ 56 → lo + n ≤ 2 ^ 64 → astray → ∃ u, exec (.tlbi cl a b) s = .next u ∧ dropped u ∧ u.mem = s.mem ∧
      u.here.slots = s.here.slots ∧ u.oldWalks = s.oldWalks) ∧
    (lo < 2 ^ 56 → lo + n ≤ 2 ^ 64 → ¬ astray → ∃ u, Completes (exec (.tlbi cl a b) s) u ∧ dropped u ∧
      (∀ k, cl = false ∨ k = s.hereCid / 8 → (s.cluster k).owner = some s.cx → ∀ x ∈ (s.cluster k).l2, keeps x = false →
        ∀ y ∈ (u.cluster k).ulines, ¬ (x.pa ≤ 64 * y.line ∧ 64 * y.line < x.pa + x.size)) ∧
      ((∀ x ∈ s.clusters, x.2.ulines = []) → u.mem = s.mem ∧ u.here.slots = s.here.slots)) ∧
    (2 ^ 56 ≤ lo ∨ 2 ^ 64 < lo + n → exec (.tlbi cl a b) s = .next (s.takeTrap .illop 0))

/-! ## Vector instructions, special functions and conversion -/

/-- R143, R145 to R147: VADD, VSUB, VMUL, VFMA, VMAX and VMIN on a shape of class float or integer: each active element becomes
the operation on the old elements, rounded in its format, or exact and then fitted to its width; every other element of
the tile stays, and FPF gathers the flags of the active ones. With no element active no tile is written. The flags of VFMA
of 0, an infinity and a NaN are log entry 26. -/
def Obligations.ElementArithmetic : Prop :=
  ∀ (s : State) (m : VMod) (d a b : VReg), s.shape.ty.arith = true → s.TileOpen m.mask d →
    let u := s.claim
    let h := s.shape
    let w := h.ty.bits
    let x (e : Nat) := tileElem (u.tile a) w e
    let y (e : Nat) := tileElem (u.tile b) w e
    let z (e : Nat) := tileElem (u.tile d) w e
    let wr (i : Instr) (res : Nat → Nat × Byte) : Prop :=
      WritesTile (exec i s) u d w h.count (u.lit m.mask) res id
    (∀ f, h.ty.fmt = some f →
      wr (.vadd m d a b) (fun e => f.add m.round (f.decode (x e)) (f.decode (y e))) ∧
      wr (.vsub m d a b) (fun e => f.add m.round (f.decode (x e)) (f.decode (y e)).neg) ∧
      wr (.vmul m d a b) (fun e => f.mul m.round (f.decode (x e)) (f.decode (y e))) ∧
      wr (.vfma m d a b) (fun e => f.fma m.round (f.decode (x e)) (f.decode (y e)) (f.decode (z e))) ∧
      wr (.vmax m.mask d a b) (fun e => (f.maxOf (x e) (y e), 0)) ∧
      wr (.vmin m.mask d a b) (fun e => (f.minOf (x e) (y e), 0))) ∧
    (∀ sg, h.ty.int = some (w, sg) →
      let i := intElem w sg
      wr (.vadd m d a b) (fun e => (fit w sg m.sat (i (x e) + i (y e)), 0)) ∧
      wr (.vsub m d a b) (fun e => (fit w sg m.sat (i (x e) - i (y e)), 0)) ∧
      wr (.vmul m d a b) (fun e => (fit w sg m.sat (i (x e) * i (y e)), 0)) ∧
      wr (.vfma m d a b) (fun e => (fit w sg m.sat (i (x e) * i (y e) + i (z e)), 0)) ∧
      wr (.vmax m.mask d a b) (fun e => (if i (y e) ≤ i (x e) then x e else y e, 0)) ∧
      wr (.vmin m.mask d a b) (fun e => (if i (x e) ≤ i (y e) then x e else y e, 0)))

/-- R147, R148: VDIV, VSEL, VABS and VNEG, element by element. Integer VDIV gives all ones by zero and sets V there and
where the quotient does not fit, V else being cleared; VSEL takes a where its selector mask is 1. -/
def Obligations.ElementDivisionAndSelection : Prop :=
  ∀ (s : State) (m : VMod) (d a b : VReg), s.shape.ty.arith = true → s.TileOpen m.mask d →
    let u := s.claim
    let h := s.shape
    let w := h.ty.bits
    let x (e : Nat) := tileElem (u.tile a) w e
    let y (e : Nat) := tileElem (u.tile b) w e
    (∀ f, h.ty.fmt = some f →
      let sign := 2 ^ (f.width - 1)
      let nan (v : Nat) := (f.decode v).isNan
      WritesTile (exec (.vdiv m d a b) s) u d w h.count (u.lit m.mask)
        (fun e => f.div m.round (f.decode (x e)) (f.decode (y e))) id ∧
      WritesTile (exec (.vabs m.mask m.sat d a) s) u d w h.count (u.lit m.mask)
        (fun e => (if nan (x e) then f.nanCode else x e % sign, 0)) id ∧
      WritesTile (exec (.vneg m.mask m.sat d a) s) u d w h.count (u.lit m.mask)
        (fun e => (if nan (x e) then f.nanCode else if x e < sign then x e + sign else x e - sign, 0)) id) ∧
    (∀ sg, h.ty.int = some (w, sg) →
      let i := intElem w sg
      let min' : Int := -(2 ^ (w - 1))
      WritesTile (exec (.vdiv m d a b) s) u d w h.count (u.lit m.mask)
        (fun e => (if y e = 0 then 2 ^ w - 1 else fit w sg m.sat ((i (x e)).tdiv (i (y e))), 0))
        (fun t => t.modCtl fun c => { c with v := (List.range h.count).any fun e => u.lit m.mask e &&
          (y e == 0 || (sg && decide (i (x e) = min' ∧ i (y e) = -1))) }) ∧
      WritesTile (exec (.vabs m.mask m.sat d a) s) u d w h.count (u.lit m.mask)
        (fun e => (fit w sg m.sat (i (x e)).natAbs, 0)) id ∧
      WritesTile (exec (.vneg m.mask m.sat d a) s) u d w h.count (u.lit m.mask)
        (fun e => (fit w sg m.sat (-(i (x e))), 0)) id) ∧
    (∀ k, h.count ≤ 1024 → s.ws.vsd.tileOk d.toNat = true → WritesTile (exec (.vsel k d a b) s) u d w h.count (fun _ => true)
      (fun e => (if (u.mask k).getLsbD e then x e else y e, 0)) id)

/-- R149: VCMP writes a whole mask: bit e is 1 where e is an active element of the shape and the predicate holds. On floats
a NaN is unordered; un and ord are predicates of floats only.

R104, R138, R140, R141, R144, R150, R159: VSETS in both forms brings the task's tiles into the vector unit, takes a legal shape
and traps ILLOP on any other value; VBCAST gives every active element the low bits of g[a], in an .lx8 shape every group of
active lanes, and traps ALIGN where the mask opens a group; VCLR zeroes a tile, and VRNG fills one with 256 words. In a .w19
shape VBCAST copies bits 12:0 too (log entry 49).

R144: a tile write without room in the save area, or with no area, and a mask write with no area trap PERM, whatever the
instruction, and write nothing; TRINFO is the area's end. Where another check of the instruction fails at once that one is
reported, but of a tile load no fault of an element's address (log entry 25); the second register of a row base is the one above the first (log entry 50). -/
def Obligations.ComparesAndFills : Prop :=
  (∀ (s : State) (mask k : KReg) (p : VPred) (a b : VReg), s.shape.ty.arith = true → s.shape.count ≤ 1024 →
     s.ws.vsd.vsa ≠ 0 →
     let u := s.claim
     let h := s.shape
     let w := h.ty.bits
     let x (e : Nat) := tileElem (u.tile a) w e
     let y (e : Nat) := tileElem (u.tile b) w e
     let wr (test : Nat → Bool) : Prop := ∃ m : Mask,
       Completes (exec (.vcmp p mask k a b) s) (u.withMask k m) ∧
       ∀ e, e < 1024 → m.getLsbD e = (decide (e < h.count) && u.lit mask e && test e)
     (∀ f, h.ty.fmt = some f → wr fun e =>
       let v := f.decode (x e)
       let v' := f.decode (y e)
       let nan := v.isNan || v'.isNan
       match p with
       | .eq => !nan && !v.lt v' && !v'.lt v
       | .ne => nan || v.lt v' || v'.lt v
       | .lt => v.lt v'
       | .le => !nan && !v'.lt v
       | .gt => v'.lt v
       | .ge => !nan && !v.lt v'
       | .un => nan
       | .ord => !nan) ∧
     (∀ sg, h.ty.int = some (w, sg) → p ≠ .un → p ≠ .ord → wr fun e =>
       let i := intElem w sg (x e)
       let j := intElem w sg (y e)
       match p with
       | .eq => decide (i = j)
       | .ne => decide (i ≠ j)
       | .lt => decide (i < j)
       | .le => decide (i ≤ j)
       | .gt => decide (j < i)
       | .ge => decide (j ≤ i)
       | _ => false) ∧
     (h.ty.fmt = none → p = .un ∨ p = .ord → exec (.vcmp p mask k a b) s = .next (s.takeTrap .illop 0))) ∧
  (∀ (s : State) (mask : KReg) (d : VReg) (a : GReg) (imm : Word),
     let u := s.claim
     let h := s.shape
     let legal (v : Word) : Bool := decide (v.toNat < 2 ^ 24) && (shapeOf (BitVec.ofNat 24 v.toNat)).isSome
     let sets (i : Instr) (v : Word) : Prop :=
       if legal v = true then Completes (exec i s) (u.modWs fun w => { w with vshape := BitVec.ofNat 24 v.toNat })
       else exec i s = .next (s.takeTrap .illop 0)
     sets (.vsets a) (s.g a) ∧ sets (.vsetsImm imm) imm ∧
     (s.TileOpen mask d → h.ty ≠ .lx8 → WritesTile (exec (.vbcast mask d a) s) u d h.ty.bits h.count (u.lit mask)
       (fun _ => ((s.g a).toNat, 0)) id) ∧
     (let act := (List.range h.count).filter (u.lit mask);
       h.ty = .lx8 →
       (s.TileOpen mask d → mask = 0 ∨ openGroup act h.count = none →
         WritesTile (exec (.vbcast mask d a) s) u d 16 ((h.count + 7) / 8) (fun g => u.lit mask (8 * g))
           (fun _ => ((s.g a).toNat, 0)) id) ∧
       (∀ g, mask ≠ 0 → h.count ≤ 1024 → openGroup act h.count = some g →
         exec (.vbcast mask d a) s = .next (s.takeTrap .align (BitVec.ofNat 64 (8 * g))))) ∧
     (s.TileReady 0 d → Completes (exec (.vclr d) s) (u.withTile d 0)) ∧
     (s.TileReady 0 d → WritesTile (exec (.vrng d a) s) u d 32 256 (fun _ => true)
       (fun e => ((rng (BitVec.ofNat 32 (s.g a).toNat) (BitVec.ofNat 32 ((s.g a).toNat / 2 ^ 32))
         (BitVec.ofNat 32 e)).toNat, 0)) id)) ∧
  (∀ (s : State) (m : VMod) (d a b : VReg) (g : GReg) (k : KReg) (q : QReg) (disp : Word),
     let h := s.shape
     let u := s.claim
     let no := Host.Outcome.next (s.takeTrap .perm s.ws.vsd.limit)
     let fits : Prop := m.mask = 0 ∨ h.count ≤ 1024
     let act := (List.range h.count).filter (u.lit m.mask)
     let covered : Prop := h.ty = .lx8 → m.mask = 0 ∨ openGroup act h.count = none
     let base (r : Nat) : Word := s.g g + disp + BitVec.ofNat 64 r * s.g (g + 1)
     let row (n : Nat) : Prop := ∀ r, r < n → (base r).toNat % h.ty.accBytes = 0
     (s.ws.vsd.vsa = 0 → h.ty.arith = true → h.count ≤ 1024 → ∀ p : VPred, h.ty.fmt.isSome = true ∨ (p ≠ .un ∧ p ≠ .ord) →
       exec (.vcmp p m.mask k a b) s = no) ∧
     (s.ws.vsd.tileOk d.toNat = false →
     exec (.vclr d) s = no ∧ exec (.vrng d g) s = no ∧
     (h.ty = .f32 → exec (.vexp2 d a) s = no ∧ (3 ≤ h.cols → exec (.vsmx d a b) s = no) ∧
       (h.count % 2 = 0 → s.ws.resid.msb = false → s.g g ≠ 0 → (s.g g).toNat < 2 ^ 31 → exec (.vrdq d q g) s = no)) ∧
     (h.ty.fmt.isSome = true → ∀ (r : Round) (st : Sat) (n : BitVec 3),
       (n.toNat < 5 → h.rows % 2 ^ n.toNat = 0 → exec (.vqmax d a n) s = no) ∧
       (st ≠ .inf → exec (.vqz r st d a b) s = no)) ∧
     (h.ty.fmt.isSome = true ∨ h.ty = .w19 → exec (.lqz d a) s = no ∧ exec (.ldec d a b) s = no) ∧
     (h.ty = .i8 → exec (.ldec d a 0) s = no) ∧
     (∀ (t : VTarget) (mx : Bool) (ct : BitVec 2) (r : Round) (st : Sat), satOk t st = true →
       h.ty = .c8 ∨ t = .c8 ∨ ct = 0 → (targetElem t).bytes h.count ≤ 1024 →
       (mx = false → cvtOk h.ty t = true) →
       (mx = true → h.count % 32 = 0 ∧
         (((h.ty.fmt.isSome = true ∨ h.ty = .w19) ∧ (t = .fp4 ∨ t = .c8 ∨ t = .i8)) ∨
          ((h.ty = .fp4 ∨ h.ty = .c8 ∨ h.ty = .i8) ∧ (t = .f32 ∨ t = .f16 ∨ t = .bf16)))) →
       exec (.vcvt t mx ct r st d a) s = no) ∧
     (fits → covered → s.anyLit m.mask = true → exec (.vbcast m.mask d g) s = no ∧
       (g ≠ 0 → g.getLsbD 0 = false → h.cols % h.ty.pack = 0 →
         (row h.rows → exec (.vld m.mask d g disp) s = no) ∧
         (h.ty ≠ .fp4 → h.ty ≠ .lx8 → row h.cols → exec (.vldt m.mask d g disp) s = no))) ∧
     (h.ty.arith = true → h.count ≤ 1024 → exec (.vsel k d a b) s = no) ∧
     (h.ty.arith = true → fits →
       (s.anyLit m.mask = true → ∀ i ∈ [Instr.vadd m d a b, .vsub m d a b, .vmul m d a b, .vfma m d a b, .vmax m.mask d a b,
         .vmin m.mask d a b, .vdiv m d a b, .vabs m.mask m.sat d a, .vneg m.mask m.sat d a], exec i s = no) ∧
       ∀ op, exec (.vredr op m d a) s = no ∧ exec (.vredc op m d a) s = no)))

/-- R154: VREDR leaves each row's result in its first column, VREDC each column's in row 0; the operation takes the active
elements of the row or column in ascending index, and every other element stays.

R155, R156: VRDQ with at least as many words in its queue as asked for takes them, adds word i into the two elements
at i mod half the count, and clears RESID; with fewer it takes what there is, keeps its progress and parks on the empty
queue; with none it parks and writes no tile. A count of 0 brings the task's tiles into the unit (R144) and writes none. That
VRDQ checks its tile at issue is log entry 25; the flags of the inner sums are log entry 26. -/
def Obligations.VectorReductions : Prop :=
  (∀ (s : State) (op : VRedOp) (m : VMod) (d a : VReg), s.shape.ty.arith = true → s.TileReady m.mask d →
     let u := s.claim
     let h := s.shape
     let w := h.ty.bits
     let lane (p : Nat → Bool) : List Nat :=
       ((List.range h.count).filter fun e => u.lit m.mask e && p e).map fun e => tileElem (u.tile a) w e
     WritesTile (exec (.vredr op m d a) s) u d w h.count (fun e => e % h.cols == 0)
       (fun e => reduce op h.ty m.round m.sat (lane fun k => k / h.cols == e / h.cols)) id ∧
     WritesTile (exec (.vredc op m d a) s) u d w h.cols (fun _ => true)
       (fun e => reduce op h.ty m.round m.sat (lane fun k => k % h.cols == e)) id) ∧
  (∀ (s : State) (d : VReg) (q : QReg) (b : GReg), s.shape.ty = .f32 → s.shape.count % 2 = 0 →
     s.ws.resid.msb = false → (s.g b).toNat < 2 ^ 31 → s.ws.vsd.tileOk d.toNat = true →
     let n := (s.g b).toNat
     let u := s.claim.withTile d (s.claim.tile d)
     let words := s.queue q
     let sums := ((words.take n).zipIdx).foldl (fun (x : Tile × Byte) (p : Word × Nat) =>
       let y := vrdqWord x.1 (s.shape.count / 2) p.2 p.1
       (y.1, x.2 ||| y.2)) (s.claim.tile d, 0)
     let left (rest : List Word) (resid : Word) : State :=
       (((u.setQueue q rest).addFpf sums.2).withTile d sums.1).modWs fun w => { w with resid := resid }
     (n = 0 → Completes (exec (.vrdq d q b) s) (s.claim.modWs fun w => { w with resid := 0 })) ∧
     (0 < n → n ≤ words.length → Completes (exec (.vrdq d q b) s) (left (words.drop n) 0)) ∧
     (words ≠ [] → words.length < n → exec (.vrdq d q b) s = .next ((left [] (BitVec.ofNat 64
       (2 ^ 63 + words.length * 2 ^ 32 + (n - words.length)))).park (.queueEmpty q))) ∧
     (words = [] → 0 < n → exec (.vrdq d q b) s = .next ((s.claim.modWs fun w =>
       { w with resid := BitVec.ofNat 64 (2 ^ 63 + n) }).park (.queueEmpty q))))

/-- R151 to R153: VLD, VLDT and VST over addresses that every access may reach, with rows aligned to the element size.
VLD and VLDT write the tile that their loads make, or none where no element is active, and leave memory as the loads do; VST
leaves what its stores do. A VST of a half-active .fp4 byte reads that byte too, and the second register of a row base is
the one above the first (log entry 50). A .w19 element is copied with its bits 12:0 (log entry 49).

R152: where the accesses of one address alone are refused and none of a lower address is, that refusal is the trap; an address in
any workspace, the task's own among them, and one in the command window trap PERM.

R151, R153: what a tile load brings from a local window. Where nothing there is damaged and no ticket holds a line, element
(r, c) of a type of whole bytes becomes the bytes at base + disp + r·stride + c·size, and for VLDT those at
base + disp + c·stride + r·size. -/
def Obligations.TileMoves : Prop :=
  (∀ (s u : State) (mask : KReg) (d : VReg) (a : GReg) (disp : Word) (t : Tile),
     let h := s.shape
     let base := s.g a
     let stride := s.g (a + 1)
     let v := s.claim
     let act := (List.range h.count).filter (v.lit mask)
     let row (r : Nat) : Word := base + disp + BitVec.ofNat 64 r * stride
     let accs (l : List TileAcc) := l.filter fun x => x.elems.any fun e => act.contains e
     let inSlot (x : Word) : Prop := isLocal x = true ∧ winSel x = 0 ∧ winOff x < 0x1000
     let good (y : Acc × Word × Nat) : Prop :=
       ¬ inSlot y.2.1 ∧ ∃ p, v.resolve y.1 y.2.1 y.2.2 = .ok p ∧ ∀ o, p.1 ≠ .mqw o
     let refused (y : Acc × Word × Nat) (c : Cause) (info : Word) : Prop :=
       (inSlot y.2.1 ∧ c = .perm ∧ info = y.2.1) ∨
       (¬ inSlot y.2.1 ∧ (v.resolve y.1 y.2.1 y.2.2 = .error (.trap c info) ∨
         ((∃ o u, v.resolve y.1 y.2.1 y.2.2 = .ok (.mqw o, u)) ∧ c = .perm ∧ info = y.2.1)))
     let loads (l : List TileAcc) : List (Acc × Word × Nat) := (accs l).map fun x => (.load, x.addr, x.bytes)
     let stores (l : List TileAcc) : List (Acc × Word × Nat) :=
       (accs l).flatMap fun x => x.storeAccs h.ty fun e => act.contains e
     let reach (l : List (Acc × Word × Nat)) : Prop := ∀ y ∈ l, good y
     let lowest (l : List (Acc × Word × Nat)) (y : Acc × Word × Nat) : Prop :=
       y ∈ l ∧ ∀ z ∈ l, z.2.1.toNat ≤ y.2.1.toNat → z = y ∨ good z
     a ≠ 0 → a.getLsbD 0 = false → mask = 0 ∨ h.count ≤ 1024 → h.cols % h.ty.pack = 0 →
     (h.ty = .lx8 → mask ≠ 0 → openGroup act h.count = none) →
     ((∀ r, r < h.rows → (row r).toNat % h.ty.accBytes = 0) →
       let l := rowAccesses h base stride disp
       (s.TileOpen mask d → reach (loads l) →
         v.loadTileAccs h.ty (fun e => act.contains e) (accs l) (v.tile d) = .ok (t, u) →
         Completes (exec (.vld mask d a disp) s) (if act = [] then u else u.withTile d t)) ∧
       (∀ y c info, refused y c info →
         (s.TileOpen mask d → lowest (loads l) y → exec (.vld mask d a disp) s = .next (s.takeTrap c info)) ∧
         (lowest (stores l) y → exec (.vst mask d a disp) s = .next (s.takeTrap c info))) ∧
       (reach (stores l) → v.storeTileAccs h.ty (fun e => act.contains e) (v.tile d) (accs l) = .ok u →
         Completes (exec (.vst mask d a disp) s) u)) ∧
     (h.ty ≠ .fp4 → h.ty ≠ .lx8 → (∀ r, r < h.cols → (row r).toNat % h.ty.accBytes = 0) →
       let l := transposedAccesses h base stride disp
       s.TileOpen mask d →
       (reach (loads l) → v.loadTileAccs h.ty (fun e => act.contains e) (accs l) (v.tile d) = .ok (t, u) →
         Completes (exec (.vldt mask d a disp) s) (if act = [] then u else u.withTile d t)) ∧
       (∀ y c info, refused y c info → lowest (loads l) y →
         exec (.vldt mask d a disp) s = .next (s.takeTrap c info)))) ∧
  (∀ (s : State) (mask : KReg) (d : VReg) (a : GReg) (disp : Word) (place : Word → Loc),
     let h := s.shape
     let n := h.ty.accBytes
     let v := s.claim
     let at' (r c : Nat) : Word := s.g a + disp + BitVec.ofNat 64 r * s.g (a + 1) + BitVec.ofNat 64 (c * n)
     let clear (x : Word) : Prop := isLocal x = true ∧ (winSel x = 0 → 0x1000 ≤ winOff x) ∧ v.resolve .load x n = .ok (place x, v) ∧
       (∀ o, place x ≠ .mqw o) ∧ v.holders ((place x).lines n) = [] ∧ v.sound (place x) = true
     a ≠ 0 → a.getLsbD 0 = false → s.TileOpen mask d → h.ty.pack = 1 →
     ((∀ r, r < h.rows → (at' r 0).toNat % n = 0) →
       (∀ r c, r < h.rows → c < h.cols → v.lit mask (r * h.cols + c) = true → clear (at' r c)) →
       WritesTile (exec (.vld mask d a disp) s) v d (8 * n) h.count (v.lit mask)
         (fun e => (v.bytesAt (place (at' (e / h.cols) (e % h.cols))) n, 0)) id) ∧
     ((∀ r, r < h.cols → (at' r 0).toNat % n = 0) →
       (∀ r c, r < h.cols → c < h.rows → v.lit mask (c * h.cols + r) = true → clear (at' r c)) →
       WritesTile (exec (.vldt mask d a disp) s) v d (8 * n) h.count (v.lit mask)
         (fun e => (v.bytesAt (place (at' (e % h.cols) (e / h.cols))) n, 0)) id))

/-- R157, R162, R163: VEXP2, VQMAX and VQZ, element by element.

R158: VSMX merges two rows of running maxima, sums and values: column 0 becomes the greater maximum, every other column
x·2^(a0 − m) + y·2^(b0 − m), each step rounded; which steps raise flags is log entry 26. -/
def Obligations.SpecialFunctions : Prop :=
  (∀ (s : State) (d a b : VReg) (r : Round) (st : Sat) (g : BitVec 3), s.TileReady 0 d →
     let u := s.claim
     let h := s.shape
     let x (w e : Nat) := tileElem (u.tile a) w e
     (h.ty = .f32 → WritesTile (exec (.vexp2 d a) s) u d 32 h.count (fun _ => true)
       (fun e => vexp2 (fp32.decode (x 32 e))) id) ∧
     (∀ f, h.ty.fmt = some f →
       let rows := 2 ^ g.toNat
       let group := rows * h.cols
       let magnitude (e : Nat) : Nat := x f.width e % 2 ^ (f.width - 1)
       (g.toNat < 5 → h.rows % rows = 0 → WritesTile (exec (.vqmax d a g) s) u d f.width h.count (fun _ => true)
         (fun e => (((List.range group).map fun i => magnitude (e / group * group + i)).foldl f.maxOf 0, 0)) id) ∧
       (st ≠ .inf → WritesTile (exec (.vqz r st d a b) s) u d 8 h.count (fun _ => true)
         (fun e => vqzElem f (st == .wrap) r (s.draw r e) (x f.width e) (tileElem (u.tile b) f.width e))
         (fun t => if r = .sr then t.modWs fun w => { w with srctr := w.srctr + 1 } else t))) ∧
     (h.ty.fmt = none → exec (.vqmax d a g) s = .next (s.takeTrap .illop 0) ∧
       exec (.vqz r st d a b) s = .next (s.takeTrap .illop 0))) ∧
  (∀ (s : State) (d a b : VReg), s.TileReady 0 d → s.shape.ty = .f32 → 3 ≤ s.shape.cols →
     let u := s.claim
     let h := s.shape
     let x (e : Nat) := tileElem (u.tile a) 32 e
     let y (e : Nat) := tileElem (u.tile b) 32 e
     WritesTile (exec (.vsmx d a b) s) u d 32 h.count (fun _ => true)
       (fun e =>
         let r := e / h.cols * h.cols
         let m := fp32.maxOf (x r) (y r)
         let p := smxScale (x r) m
         let q := smxScale (y r) m
         if e % h.cols = 0 then (m, p.2 ||| q.2) else smxMix (x e) p.1 (y e) q.1) id)

/-- R91, R161: VCVT without .mx reads each element as its exact value and rounds it once to the target; under .sr the
counter advances. It refuses pairs that R161 leaves out; that .w19 is no float target there, and how an overflow of a C8
table below a positive least value is measured (R97), is log entry 25. A C8 target takes an infinity without a code, the
emax of an all-zero table, a zero or an all-zero block where it holds no zero, the sign of a zero LX8 coordinate and the draw at
equal magnitudes as log entry 49 says, and rounds toward zero as log entry 26 says.

R47, R59, R65: a table field other than 0 where neither the source nor the target is .c8 is ILLOP, with and without .mx.

R99, R161: VCVT.MX. From a float it writes one block of 32 element codes and one scale in tile d + 1 per 32 elements;
to a float it reads the scales from tile a + 1, 255 making every element of its block a NaN. -/
def Obligations.Conversions : Prop :=
  (∀ (s : State) (target : VTarget) (ct : BitVec 2) (r : Round) (st : Sat) (d a : VReg), s.TileReady 0 d →
     let u := s.claim
     let h := s.shape
     let tab := s.here.cts[ct.toNat]
     let ok : Bool := satOk target st && (h.ty == .c8 || target == .c8 || ct == 0) &&
       decide ((targetElem target).bytes h.count ≤ 1024)
     (ok = true → cvtOk h.ty target = true → h.ty ≠ .lx8 →
       WritesTile (exec (.vcvt target false ct r st d a) s) u d (targetElem target).bits h.count (fun _ => true)
         (fun e => convert target tab r (s.draw r e) st (elemValue h.ty tab (tileElem (u.tile a) h.ty.bits e)))
         (fun t => t.drawn r)) ∧
     (ok = true → cvtOk h.ty target = true → h.ty = .lx8 →
       WritesTile (exec (.vcvt target false ct r st d a) s) u d (targetElem target).bits h.count (fun _ => true)
         (fun e =>
           let v := lx8Elem (u.tile a) (u.tile (a + 1)) e
           let y := convert target tab r (s.draw r e) st v.1.toXV
           (y.1, v.2 ||| y.2))
         (fun t => t.drawn r)) ∧
     (ok = false ∨ cvtOk h.ty target = false →
       exec (.vcvt target false ct r st d a) s = .next (s.takeTrap .illop 0)) ∧
     (ok = false → exec (.vcvt target true ct r st d a) s = .next (s.takeTrap .illop 0))) ∧
  (∀ (s : State) (target : VTarget) (ct : BitVec 2) (r : Round) (st : Sat) (d a : VReg), s.TileReady 0 d →
     let u := s.claim
     let h := s.shape
     let tab := s.here.cts[ct.toNat]
     let w := h.ty.bits
     let x (e : Nat) := tileElem (u.tile a) w e
     let block (j : Nat) := mxEncode target tab r (s.draw r) st (32 * j)
       ((List.range 32).map fun i => elemValue h.ty tab (x (32 * j + i)))
     satOk target st = true → h.ty = .c8 ∨ target = .c8 ∨ ct = 0 → (targetElem target).bytes h.count ≤ 1024 →
     h.count % 32 = 0 →
     (h.ty.fmt.isSome = true ∨ h.ty = .w19 → target = .fp4 ∨ target = .c8 ∨ target = .i8 →
       (u.withTile d 0).ws.vsd.tileOk (d + 1).toNat = true →
       let codes (e : Nat) := (block (e / 32)).2.getD (e % 32) (0, 0)
       ∃ x y : Tile, TileGets u d (targetElem target).bits h.count (fun _ => true) codes x ∧
         TileGets u (d + 1) 8 (h.count / 32) (fun _ => true) (fun j => ((block j).1, 0)) y ∧
         Completes (exec (.vcvt target true ct r st d a) s)
           ((((u.withTile d x).addFpf (flagsOf h.count (fun _ => true) codes)).drawn r).withTile (d + 1) y)) ∧
     (h.ty = .fp4 ∨ h.ty = .c8 ∨ h.ty = .i8 → target = .f32 ∨ target = .f16 ∨ target = .bf16 →
       WritesTile (exec (.vcvt target true ct r st d a) s) u d (targetElem target).bits h.count (fun _ => true)
         (fun e =>
           let scale := tileElem (u.tile (a + 1)) 8 (e / 32)
           if scale = 255 then convert target tab r 0 st .nan
           else convert target tab r (s.draw r e) st ((mxDecode h.ty tab (x e)).scale ((scale : Int) - 127)))
         (fun t => t.drawn r)))

/-- R104, R105, R189, R190: LQZ writes the 16-bit code of each group of eight elements, absent ones counting as zero; LDEC
gives each lane of its codes as its integer coordinate, or times its scale in the shape's format. A zero coordinate with a
negative scale gives −0, and finite overflow an infinity (log entry 49). -/
def Obligations.LatticeCodes : Prop :=
  ∀ (s : State) (d a b : VReg), s.TileReady 0 d →
    let u := s.claim
    let h := s.shape
    let w := h.ty.bits
    (h.ty.fmt.isSome = true ∨ h.ty = .w19 →
      WritesTile (exec (.lqz d a) s) u d 16 ((h.count + 7) / 8) (fun _ => true)
        (fun g =>
          let x := quantiseLx8 ((List.range 8).map fun i => if 8 * g + i < h.count then
            lqzValue h.ty (tileElem (u.tile a) w (8 * g + i)) else .fin false 0)
          (x.1.toNat, x.2)) id) ∧
    (h.ty = .i8 → WritesTile (exec (.ldec d a 0) s) u d 8 h.count (fun _ => true)
      (fun e =>
        let c := lx8Coords (BitVec.ofNat 16 (tileElem (u.tile a) 16 (e / 8)))
        ((c.1.getD (e % 8) 0 % 256).toNat, if c.2 then fLvoid else 0)) id) ∧
    (∀ f, h.ty.fmt = some f → WritesTile (exec (.ldec d a b) s) u d w h.count (fun _ => true)
      (fun e =>
        let v := lx8Elem (u.tile a) (u.tile b) e
        let y := toFloat f .rne 0 false v.1.toXV
        (y.1, v.2 ||| y.2)) id) ∧
    (h.ty = .w19 → WritesTile (exec (.ldec d a b) s) u d 32 h.count (fun _ => true)
      (fun e =>
        let v := lx8Elem (u.tile a) (u.tile b) e
        let y := toFloat w19 .rne 0 false v.1.toXV
        (y.1 * 2 ^ 13, v.2 ||| y.2)) id)

/-- R164, R165: CTLD takes a preset, or 1,032 bytes from an aligned address: 256 values and an attribute word that gives no
code two roles and leaves a finite value; else it traps ILLOP and the table stays. -/
def Obligations.CodeTables : Prop :=
  ∀ (s u : State) (ct : BitVec 2) (n : BitVec 9) (a : GReg) (disp : Word) (ws : List Nat),
    let attr : BitVec 27 := BitVec.ofNat 27 (ws.getD 128 0)
    let image : CodeTable := .image ((ws.take 128).flatMap fun w =>
      [BitVec.ofNat 19 (w / 2 ^ 13), BitVec.ofNat 19 (w / 2 ^ 45)]) attr
    let set (t : State) (x : CodeTable) : State :=
      { t with here := { t.here with cts := t.here.cts.set ct.toNat x } }
    Completes (exec (.ctldPreset ct 0) s) (set s (.preset false)) ∧
    Completes (exec (.ctldPreset ct 1) s) (set s (.preset true)) ∧
    (2 ≤ n.toNat → exec (.ctldPreset ct n) s = .next (s.takeTrap .illop 0)) ∧
    ((s.g a + disp).toNat % 8 = 0 → s.loadWords 8 129 (s.g a + disp) = .ok (ws, u) →
      (attrClash attr = false → image.finite ≠ [] → Completes (exec (.ctld ct a disp) s) (set u image)) ∧
      (attrClash attr = true ∨ image.finite = [] → exec (.ctld ct a disp) s = .next (s.takeTrap .illop 0)))

/-- R191 to R193: CASTLE. A block whose partner waits with the same descriptor is exchanged with the partner's: each byte
of either block becomes the other's byte at its place, or at the transposed place; both tasks go on past their own CASTLE,
each with its own REP body. Where the descriptors differ above bit 2 both tasks trap ILLOP. With no such partner the task
parks. No row of the block lies in a workspace, a save area or an armed counter, and no word of either block in a Q line
(log entry 25). -/
def Obligations.CastleExchange : Prop :=
  ∀ (s : State) (a b : GReg) (k o' : Nat) (desc' : Word),
    let desc := s.g b
    let o := winOff (s.g a)
    let p := desc.toNat % 8
    let pc := 8 * (s.hereCid / 8) + p
    let n := castleSize desc
    let stride := castleStride desc
    castleOk desc = true → p ≠ s.hereCid % 8 → (s.g a).toNat % n = 0 → stride % n = 0 → isLocal (s.g a) = true →
    winSel (s.g a) = 0 → o + castleSpan desc ≤ 0xC000 →
    (∀ x, x ∈ castleRowsAt o desc → s.here.reserved x (castleRowBytes desc) = false ∧
      s.here.onCounter x (castleRowBytes desc) = false) →
    s.holders (castleLines s.hereCid o desc) = [] → s.damaged = [] →
    ((∀ i, i < 8 → ∀ q x y, ((s.core pc).slot i).wait ≠ some (.castle q x y)) →
      exec (.castle a b) s = .next (s.park (.castle (BitVec.ofNat 3 p) o desc))) ∧
    (k < 8 → ((s.core pc).slot k).held = true →
      ((s.core pc).slot k).wait = some (.castle (BitVec.ofNat 3 s.hereCid) o' desc') → desc / 8 = desc' / 8 →
      (∀ i, i ≠ k → ∀ q x y, ((s.core pc).slot i).wait ≠ some (.castle q x y)) →
      s.holders (castleLines pc o' desc) = [] → s.Canonical →
      ∃ t, exec (.castle a b) s = .next t ∧
        (let z := (s.core pc).slot k
          let z' := (t.core pc).slot k
          z' = { z with
            wait := none, runSince := s.now, block := z'.block
            ws := { z.ws with pc := z'.ws.pc, ctl := z'.ws.ctl, tsw := { z.ws.tsw with state := .runnable } } } ∧
          z'.ws.ctl = { z.ws.ctl with
            repA := z'.ws.ctl.repA, repI := z'.ws.ctl.repI, repOff := z'.ws.ctl.repOff, repRem := z'.ws.ctl.repRem } ∧
          (z'.block = z.block ∨ (z'.block = none ∧ z.ws.ctl.repA = true)) ∧
          RepStep z.ws.ctl z.chainLen (z.ws.pc + BitVec.ofNat 64 (2 * z.chainLen)) z'.ws.ctl z'.ws.pc) ∧
        RepStep s.ws.ctl s.ilen s.nextPc t.ws.ctl t.ws.pc ∧
        (∀ i, i ≠ s.here.cur.val → t.here.slot i = s.here.slot i) ∧
        (∀ i, i ≠ k → (t.core pc).slot i = (s.core pc).slot i) ∧
        (∀ i j m, i < castleRows desc → j < castleCols desc → m < n →
          let dst := i * stride + j * n + m
          let src := if castleTr desc then j * stride + i * n + m else dst
          t.here.lm.get (o + dst) = (s.core pc).lm.get (o' + src) ∧
          (t.core pc).lm.get (o' + dst) = s.here.lm.get (o + src)) ∧
        (∀ x, x < o ∨ o + castleSpan desc ≤ x → t.here.lm.get x = s.here.lm.get x) ∧ t.mem = s.mem) ∧
    (k < 8 → ((s.core pc).slot k).held = true →
      ((s.core pc).slot k).wait = some (.castle (BitVec.ofNat 3 s.hereCid) o' desc') → desc / 8 ≠ desc' / 8 →
      (∀ i, i ≠ k → ∀ q x y, ((s.core pc).slot i).wait ≠ some (.castle q x y)) →
      exec (.castle a b) s =
        .next ((s.deliver pc k .illop 0 ((s.core pc).slot k).chainLen).takeTrap .illop 0))

/-! ## Copies and premoves -/

/-- R235 to R240: CPY and CPYG with legal lengths, aligned operands, ranges that engines may use and a destination free of
the task's own Q lines put their transfer at the end of the channel, and nothing for length 0; a channel with 32 in flight
parks the task. CPYW reads the channel's counts once they have reached its target, and parks before.

R15, R237: a table of CPYG outside global space traps XLATE where no byte of a window lies at its base, and else PERM, with
the base as TRINFO. That it is PERM inside a local window, and that a range of length 0 has no byte to check, is log entry
25; which registers are the second ones of CPYG's pairs is log entry 50. -/
def Obligations.CopiesStart : Prop :=
  ∀ (s : State) (ch : BitVec 3) (d a b : GReg),
    let me := s.here.cur.val
    let x := s.here.chan ch.toNat
    let n := (s.g d).toNat
    let starts (i : Instr) (t : Transfer) : Prop :=
      (t.len = 0 → Completes (exec i s) s) ∧
      (t.len ≠ 0 → x.flight.length < 32 → Completes (exec i s) (s.withTransfer ch.toNat t)) ∧
      (t.len ≠ 0 → 32 ≤ x.flight.length → exec i s = .next (s.park (.channel ch)))
    (n ≤ 2 ^ 24 → n % 4 = 0 → (s.g a).toNat % 4 = 0 → (s.g b).toNat % 4 = 0 → s.engineCheck false (s.g a) n = .ok () →
      s.engineCheck true (s.g b) n = .ok () → s.DestFree (s.g b) n →
      starts (.cpy ch d a b)
        { gather := false, src := s.g a, dst := s.g b, len := n, row := 0, limit := 0, list := 0, pos := 0, cur := none,
          fault := none, reported := false, listReported := false, slot := me }) ∧
    (let row := (s.g (a + 1)).toNat % 2 ^ 32
      let limit := (s.g (a + 1)).toNat / 2 ^ 32
      let list := s.g (b + 1)
      a ≠ 0 → b ≠ 0 → a.getLsbD 0 = false → b.getLsbD 0 = false → row % 4 = 0 → row ≠ 0 → row ≤ 65536 → n ≤ 65536 →
      n * row ≤ 2 ^ 24 → (s.g a).toNat % 4 = 0 → (s.g b).toNat % 4 = 0 → list.toNat % 4 = 0 →
      (isGlobal (s.g a) = false → exec (.cpyg ch d a b) s = .next (s.takeTrap
        (if isLocal (s.g a) = true ∧ winOff (s.g a) + 1 ≤ s.extent s.hereCid (winSel (s.g a)) then .perm else .xlate)
        (s.g a))) ∧
      (isGlobal (s.g a) = true → s.engineCheck true (s.g b) (n * row) = .ok () → isLocal list = true →
      winSel list ≤ 1 → s.engineCheck false list (4 * n) = .ok () → s.DestFree (s.g b) (n * row) →
      starts (.cpyg ch d a b)
        { gather := true, src := s.g a, dst := s.g b, len := n * row, row := row, limit := limit, list := list, pos := 0,
          cur := none, fault := none, reported := false, listReported := false, slot := me })) ∧
    ((s.g a).toNat < 2 ^ 48 →
      let target : BitVec 48 := BitVec.ofNat 48 (s.g a).toNat
      ((x.bytes - target).toNat < 2 ^ 47 → Completes (exec (.cpyw ch d a) s)
        (s.setG d (BitVec.ofNat 64 (x.drops.toNat * 2 ^ 48 + x.bytes.toNat)))) ∧
      (2 ^ 47 ≤ (x.bytes - target).toNat → exec (.cpyw ch d a) s = .next (s.park (.cpyw ch target)))) ∧
    (2 ^ 48 ≤ (s.g a).toNat → exec (.cpyw ch d a) s = .next (s.takeTrap .illop 0))

/-- R212, R235, R237: COPY_DELIVERY moves the head copy's next word: it reads the same at the destination as at the source,
is full there, every other byte stays, and the channel counts four bytes. At a page that does not translate the transfer
waits with the page and the cause, and moves nothing. That a word is read in the step that delivers it is log entry 16.

R239: GATHER_DELIVERY moves the next word of the row that the index list names: from the table where the index is below
the limit, and a zero where it is not; a row left out is counted once, at its first word. That the index is read at the
first word of its row is log entry 35. -/
def Obligations.EngineDeliveries : Prop :=
  (∀ (s u v : State) (cid ch : Nat) (x : Transfer) (rest : List Transfer) (ls ld : Loc),
     let c := (s.core cid).chan ch
     let src := x.src + BitVec.ofNat 64 x.pos
     let dst := x.dst + BitVec.ofNat 64 x.pos
     ch < 8 → c.flight = x :: rest → x.gather = false → x.fault = none →
     (s.Canonical → s.sound ls = true → s.engineLoc cid .load src = .ok (ls, u) → u.engineLoc cid .store dst = .ok (ld, v) →
       s.Open ls → s.Open ld → ld.plain →
       ∃ t, exec (.copyDelivery cid ch) s = .next t ∧ t.bytesAt ld 4 = s.bytesAt ls 4 ∧
         (∀ b : Loc, b.outside ld 4 → b.plain → t.byteAt b = s.byteAt b) ∧
         ((∃ i o, ld = .lm i o ∨ ld = .csp i o) → t.isFull ld = true) ∧
         (t.core cid).chan ch = c.after x x false ∧ ∀ k, k ≠ ch → (t.core cid).chan k = (s.core cid).chan k) ∧
     (∀ e, s.engineLoc cid .load src = .error e → ∃ t, exec (.copyDelivery cid ch) s = .next t ∧
       (t.core cid).chan ch = { c with flight := { x with fault := some (pageNo src, e.cause) } :: rest } ∧
       ∀ b, t.byteAt b = s.byteAt b)) ∧
  (∀ (s u v : State) (cid ch : Nat) (x : Transfer) (rest : List Transfer) (ls ld li : Loc),
     let c := (s.core cid).chan ch
     let row := x.pos / x.row
     let j := x.pos % x.row
     let idx := x.cur.getD (s.bytesAt li 4)
     let src := x.src + BitVec.ofNat 64 (idx * x.row + j)
     let dst := x.dst + BitVec.ofNat 64 x.pos
     ch < 8 → c.flight = x :: rest → x.gather = true → x.fault = none → s.Canonical → s.damaged = [] →
     (x.cur = none → s.window cid (x.list + BitVec.ofNat 64 (4 * row)) = some li ∧ s.holders (li.lines 4) = [] ∧
       s.sound li = true) →
     s.Open ls → s.Open ld → ld.plain →
     let cur := if j + 4 = x.row then none else some idx
     let fine (t : State) (w : Nat) (drop : Bool) : Prop :=
       t.bytesAt ld 4 = w ∧ (∀ b : Loc, b.outside ld 4 → b.plain → t.byteAt b = s.byteAt b) ∧
         (t.core cid).chan ch = c.after x { x with cur := cur } drop
     (idx < x.limit → s.sound ls = true → s.engineLoc cid .load src = .ok (ls, u) → u.engineLoc cid .store dst = .ok (ld, v) →
       ∃ t, exec (.gatherDelivery cid ch) s = .next t ∧ fine t (s.bytesAt ls 4) false) ∧
     (x.limit ≤ idx → s.engineLoc cid .store dst = .ok (ld, v) →
       ∃ t, exec (.gatherDelivery cid ch) s = .next t ∧ fine t 0 (j == 0)))

/-- R361: FAULT_LIST_CLOSE, 2,048 cc after a window opened, delivers one list: the entries that had arrived, in the order
of context, page and kind, under the next number; the gatherer is empty again. Before that it does nothing.

R364: a resolution that resumes makes every transfer of the context's cores on the die that waits at the page go on,
and leaves every other transfer as it is; one that abandons drops the head copy that waits there, writes zero to every
byte it had yet to deliver, which is full then, and counts its rest as delivered. Neither touches a transfer of a core of
another context or another die. -/
def Obligations.EngineFaults : Prop :=
  (∀ (s : State) (die t0 : Nat), (s.die die).window = some t0 →
     (t0 + 2048 ≤ s.now → ∃ t l, exec (.faultListClose die) s = .next t ∧
       (t.die die).lists = (s.die die).lists ++ [l] ∧ l.num = (s.die die).listNo ∧ l.opened = t0 ∧
       l.entries.Perm (s.die die).faults ∧ l.entries.Pairwise (fun x y => x.before y = true) ∧
       (t.die die).faults = [] ∧ (t.die die).window = none ∧ (t.die die).listNo = (s.die die).listNo + 1 ∧
       t.here = s.here ∧ t.mem = s.mem) ∧
     (s.now < t0 + 2048 → exec (.faultListClose die) s = .next s)) ∧
  (∀ (s : State) (die cxid page cid ch : Nat) (x : Transfer) (rest : List Transfer),
     let c := (s.core cid).chan ch
     let freed (y : Transfer) : Transfer := if (y.fault.map (·.1)) = some page then { y with fault := none } else y
     ch < 8 → cid ∈ s.coresOf die cxid → c.flight = x :: rest →
     (∃ t, exec (.faultResolutionResume die cxid page) s = .next t ∧
       (t.core cid).chan ch = { c with flight := (x :: rest).map freed } ∧ t.mem = s.mem) ∧
     (x.fault.map (·.1) = some page → s.openTail cid x = true → s.coresOf die cxid = [cid] → s.hereCid = cid →
       (s.core cid).pageIns = [] → (∀ i, i < 32 → ((s.core cid).ticket i).waitsAt page = false) →
       (∀ k, k ≠ ch → ((s.core cid).chan k).flight = []) →
       ∃ t, exec (.faultResolutionAbandon die cxid page) s = .next t ∧
         ((t.core cid).chan ch).flight = rest ∧ ((t.core cid).chan ch).bytes = c.bytes + BitVec.ofNat 48 (x.len - x.pos) ∧
         ∀ o, s.window cid (x.dst + BitVec.ofNat 64 x.pos) = some (.lm cid o) → 0x1000 ≤ o → o + (x.len - x.pos) ≤ 2 ^ 48 →
           (x.len - x.pos) % 4 = 0 → s.Canonical → s.damaged = [] → s.holders ((Loc.lm cid o).lines (x.len - x.pos)) = [] →
           ∀ j, j < x.len - x.pos → (t.core cid).lm.get (o + j) = 0 ∧ t.isFull (.lm cid (o + j)) = true)) ∧
  (∀ (s : State) (die cxid page : Nat),
     ∃ t u, exec (.faultResolutionResume die cxid page) s = .next t ∧ exec (.faultResolutionAbandon die cxid page) s = .next u ∧
       ∀ i, i ∉ s.coresOf die cxid → (t.core i).chans = (s.core i).chans ∧ (u.core i).chans = (s.core i).chans)

/-- R241, R243: PRST writes a predictor entry of the task's context and PRLD reads one, zero where it is not valid or of
another context; a number above 15, or a reserved bit in the entry, traps ILLOP.

R244: training. A right guess raises the confidence to at most 7, a wrong one lowers it by 2 and below 2 replaces the
index with confidence 1, and a key that misses takes the entry over. -/
def Obligations.Predictors : Prop :=
  (∀ (s : State) (t : BitVec 2) (d a b : GReg),
     let i := (s.g a).toNat
     let p := s.here.pred t.toNat i
     let w := (s.g b).toNat
     let q : Pred := { valid := (s.g b).getLsbD 43, conf := BitVec.ofNat 3 (w / 2 ^ 40), tag := BitVec.ofNat 12 (w / 2 ^ 24),
                       index := BitVec.ofNat 24 w, cx := s.cx }
     (i < 16 → Completes (exec (.prld t d a) s) (s.setG d (if p.valid = true ∧ p.cx = s.cx then
       BitVec.ofNat 64 (2 ^ 43 + p.conf.toNat * 2 ^ 40 + p.tag.toNat * 2 ^ 24 + p.index.toNat) else 0))) ∧
     (i < 16 → w < 2 ^ 44 → w / 2 ^ 36 % 16 = 0 →
       Completes (exec (.prst t a b) s) { s with here := s.here.setPred t.toNat i q } ∧
       (s.here.setPred t.toNat i q).pred t.toNat i = q) ∧
     (16 ≤ i → exec (.prld t d a) s = .next (s.takeTrap .illop 0) ∧ exec (.prst t a b) s = .next (s.takeTrap .illop 0)) ∧
     (2 ^ 44 ≤ w ∨ w / 2 ^ 36 % 16 ≠ 0 → exec (.prst t a b) s = .next (s.takeTrap .illop 0))) ∧
  (∀ (p : Pred) (cx : Nat) (key : BitVec 16) (x : BitVec 24),
     let q := p.train cx key x
     let hit := p.valid = true ∧ p.cx = cx ∧ p.tag.toNat = key.toNat / 16
     (hit → p.index = x → q = { p with conf := BitVec.ofNat 3 (min 7 (p.conf.toNat + 1)) }) ∧
     (hit → p.index ≠ x → 2 ≤ p.conf.toNat → q = { p with conf := BitVec.ofNat 3 (p.conf.toNat - 2) }) ∧
     (hit → p.index ≠ x → p.conf.toNat < 2 → q = { p with index := x, conf := 1 }) ∧
     (¬ hit → q = { valid := true, conf := 1, tag := BitVec.ofNat 12 (key.toNat / 16), index := x, cx := cx }))

/-- R245, R248, R252, R258: PMOVE with legal operands and a free entry takes one: d is its handle with the next generation, the
entry is the task's, TOWN gains its bit (R252), no byte of memory changes; the second registers of its pairs are those above
the first (log entry 50); where its destination shares a line with another ticket
of the task it traps QZACC. It is dry where the predictor misses (kind 1) or is below the threshold (kind 2); on a sure hit its
source is the predicted row, and it speculates or is dry of kind 3: it speculates, with no fault held, where every page is plainly
readable. -/
def Obligations.PremoveStarts : Prop :=
  ∀ (s : State) (t : BitVec 2) (d a b : GReg) (l : Loc),
    let w := s.g (a + 1)
    let len := w.toNat % 2 ^ 17
    let key : BitVec 16 := BitVec.ofNat 16 (s.g (b + 1)).toNat
    let p := s.here.pred t.toNat (key.toNat % 16)
    let me := s.here.cur.val
    let hit := p.valid = true ∧ p.cx = s.cx ∧ p.tag.toNat = key.toNat / 16
    let sure := (vget s.here.pth t.toNat 0).toNat ≤ p.conf.toNat
    let row := s.g a + BitVec.ofNat 64 (p.index.toNat * (w.toNat / 2 ^ 32))
    a ≠ 0 → b ≠ 0 → a.getLsbD 0 = false → b.getLsbD 0 = false → w.toNat / 2 ^ 17 % 2 ^ 15 = 0 →
    (s.g (b + 1)).toNat < 2 ^ 16 → 0 < len → len ≤ 65536 → len % 4 = 0 → (s.g a).toNat % 4 = 0 → (s.g b).toNat % 4 = 0 →
    s.ticketDst (s.g b) len = .ok l →
    let shares : Prop := ∃ i ∈ s.here.ownTickets me, ∃ y ∈ s.ticketLines s.hereCid (s.here.ticket i), y ∈ l.lines len
    (shares → exec (.pmove t d a b) s = .next (s.takeTrap .qzacc (s.g b))) ∧
    (¬ shares → s.holders (l.lines len) = [] → (s.here.ownTickets me).length < 32 →
    (∃ i, i < 32 ∧ (s.here.ticket i).state = .free) →
    ∃ (i : Nat) (u : State) (x : Ticket), i < 32 ∧ (s.here.ticket i).state = .free ∧
      Completes (exec (.pmove t d a b) s) (u.setG d (BitVec.ofNat 64 (x.gen.toNat * 32 + i))) ∧
      u.here.ticket i = x ∧ (∀ j, j ≠ i → u.here.ticket j = s.here.ticket j) ∧ u.mem = s.mem ∧ u.here.lm = s.here.lm ∧
      u.ws.g = s.ws.g ∧
      (s.here.slotOf s.task.taskId = some me → u.ws.sum.town = s.ws.sum.town ||| (1#32 <<< i)) ∧
      x.gen = (s.here.ticket i).gen + 1 ∧ x.owner = s.task.taskId ∧ x.tbl = t ∧ x.key = key ∧ x.base = s.g a ∧ x.len = len ∧
      x.dst = s.g b ∧ x.stride.toNat = w.toNat / 2 ^ 32 ∧ x.got = 0 ∧ x.asked = 0 ∧ x.orphan = false ∧
      (¬ hit → x.state = .dry ∧ x.dryKind = 1) ∧ (hit → ¬ sure → x.state = .dry ∧ x.dryKind = 2) ∧
      (hit → sure → x.pidx = p.index ∧ x.src = row ∧ (x.state = .spec ∨ (x.state = .dry ∧ x.dryKind = 3)) ∧
        ((∀ va ∈ pageStarts row.toNat len, s.PlainPage va) → x.state = .spec ∧ x.fault = .none)))

/-- R245, R249: PCONF on a ticket of the task that speculates on the right index exposes it; any other ticket is fetched
anew from the row of the index, when every page of it may be read, and with a page that may not be read the trap is that
of the lowest address. Either way the predictor is trained; a stale handle or a wide index traps ILLOP. What a hit counts as read
has arrived: its demand read begins at the first line that was left unread or has not arrived (R253, R256, R257).

R250, R251: PCANC of a ticket of the task that is not exposing frees its entry, which keeps its generation, clears its
bit of TOWN, and leaves a speculating destination as zeros; PSTAT reads the status word, 0 for a stale handle. That DRY stays
while a ticket exposes is log entry 25, DEDUCED. -/
def Obligations.PremoveEnds : Prop :=
  (∀ (s v : State) (a b : GReg) (i : Nat) (t : Ticket),
     let x : BitVec 24 := BitVec.ofNat 24 (s.g b).toNat
     let k := t.key.toNat % 16
     let trained := (s.here.pred t.tbl.toNat k).train s.cx t.key x
     let row := t.base + BitVec.ofNat 64 (x.toNat * t.stride.toNat)
     (s.ticketOf (s.g a) = some (i, t) → t.state ≠ .exposing → (s.g b).toNat < 2 ^ 24 →
       (t.state = .spec → t.pidx = x → t.fault = .none → ∃ u, Completes (exec (.pconf a b) s) u ∧
         (u.here.ticket i).state = .exposing ∧ (u.here.ticket i).gen = t.gen ∧ (t.skipped = [] → t.got ≤ (u.here.ticket i).got) ∧
         u.here.pred t.tbl.toNat k = trained ∧ (∀ j, j ≠ i → u.here.ticket j = s.here.ticket j) ∧ u.ws.g = s.ws.g) ∧
       (t.state ≠ .spec ∨ t.pidx ≠ x ∨ t.fault ≠ .none → s.demandCheck (pageStarts row.toNat t.len) = .ok v →
         ∃ u, Completes (exec (.pconf a b) s) u ∧
           u.here.ticket i = { t with
             state := .exposing, fault := .none, src := row, asked := 0, got := 0, data := [], skipped := [] } ∧
           u.here.pred t.tbl.toNat k = trained ∧ (∀ j, j ≠ i → u.here.ticket j = s.here.ticket j) ∧ u.mem = s.mem) ∧
       (∀ c info, t.state ≠ .spec ∨ t.pidx ≠ x ∨ t.fault ≠ .none →
         s.demandCheck (pageStarts row.toNat t.len) = .error (.trap c info) →
         exec (.pconf a b) s = .next (s.takeTrap c info))) ∧
     (let c := t.confirmed;
       c.got ≤ t.got ∧ c.data = t.data ∧ (∀ o ∈ t.lineOffs t.fuel 0, o ∈ t.skipped → c.got ≤ o) ∧
         (t.skipped = [] → c.got = t.got) ∧ ∀ o ∈ c.ahead, o ∈ t.ahead ∨ (o < t.got ∧ o ∉ t.skipped)) ∧
     (s.ticketOf (s.g a) = none → exec (.pconf a b) s = .next (s.takeTrap .illop 0)) ∧
     (s.ticketOf (s.g a) = some (i, t) → t.state = .exposing ∨ 2 ^ 24 ≤ (s.g b).toNat →
       exec (.pconf a b) s = .next (s.takeTrap .illop 0))) ∧
  (∀ (s : State) (d a : GReg) (i : Nat) (t : Ticket),
     (∀ l, s.window s.hereCid t.dst = some l → l.plain) →
     (s.ticketOf (s.g a) = some (i, t) →
       (t.state ≠ .exposing → ∃ u, Completes (exec (.pcanc a) s) u ∧ (u.here.ticket i).state = .free ∧
         (u.here.ticket i).gen = t.gen ∧ (∀ j, j ≠ i → u.here.ticket j = s.here.ticket j) ∧
         (s.here.slotOf s.task.taskId = some s.here.cur.val → u.ws.sum.town = s.ws.sum.town &&& ~~~(1#32 <<< i)) ∧
         u.ws.g = s.ws.g ∧ u.mem = s.mem ∧
         (∀ o, t.state = .spec → s.window s.hereCid t.dst = some (.lm s.hereCid o) → 0x1000 ≤ o → s.Canonical →
           ∀ j, j < t.len → u.here.lm.get (o + j) = 0)) ∧
       (t.state = .exposing → exec (.pcanc a) s = .next (s.takeTrap .illop 0)) ∧
       Completes (exec (.pstat d a) s) (s.setG d (BitVec.ofNat 64 (
         (if t.dryKind = 1 ∨ t.dryKind = 2 then 0 else t.pidx.toNat) * 2 ^ 32 +
         (if t.state = .spec then t.fault.code.toNat else 0) * 2 ^ 20 + t.tbl.toNat * 2 ^ 18 + t.dryKind.toNat * 2 ^ 8 +
         (if t.state = .spec ∧ t.fault = .none ∧ t.len ≤ t.got ∧ t.skipped = [] then 8 else 0) +
         (match t.state with | .free => 0 | .spec => 1 | .dry => 2 | .lapsed => 3 | .exposing => 4))))) ∧
     (s.ticketOf (s.g a) = none → exec (.pcanc a) s = .next (s.takeTrap .illop 0) ∧
       Completes (exec (.pstat d a) s) (s.setG d 0)))

/-- R253 to R256: a speculating ticket requests its next line when that fits the core's budget and no older ticket of the
core waits to request, and takes in the bytes that the home holds when they arrive; only the ticket changes, no window and
no register. A line in U state, or of a page that does not permit speculation, is left unread at the request as at the
arrival, and the ticket goes on with the line after it (R256).

R255, R258: what an ended speculation of the entry has under way counts towards the budget until it arrives, and is dropped
then.

R210, R249, R253: EXPOSURE of a ticket whose bytes have all arrived writes them over its destination, makes the words
there full, and frees the entry; every byte outside stays. -/
def Obligations.Speculation : Prop :=
  (∀ (s : State) (cid i : Nat) (l : Leaf),
     let c := s.core cid
     let t := c.ticket i
     let cx := (s.cxOf cid).getD 0
     let pa (a : Word) : Nat := l.pa + (a.toNat - l.va)
     let barred (a : Word) : Prop := s.uHeld (pa a / 64) = true ∨ l.sp = false ∨ paKind (pa a) = .host ∨ paKind (pa a) = .firmware
     i < 32 → t.state = .spec → t.fault = .none →
     (let a := t.src + BitVec.ofNat 64 t.asked
       let k := min (t.len - t.asked) (64 - (t.src.toNat + t.asked) % 64)
       let older : Prop := ∃ j, j < 32 ∧ (c.ticket j).no < t.no ∧ (c.ticket j).state = .spec ∧ (c.ticket j).fault = .none ∧
         (c.ticket j).asked < (c.ticket j).len ∧
         (c.ticket j).chunk (c.ticket j).asked ≤ c.specbud.toNat
       t.asked < t.len → isGlobal a = true → s.translations cid cx a.toNat = [.leaf l] →
       (older ∨ c.specbud.toNat < c.inFlight + k → exec (.speculativeRequest cid i) s = .next s) ∧
       (¬ older → c.inFlight + k ≤ c.specbud.toNat →
         (barred a → exec (.speculativeRequest cid i) s = .next (s.modCore cid fun c =>
           c.setTicket i { t with asked := t.asked + k, skipped := t.skipped ++ [t.asked] })) ∧
         (¬ barred a → exec (.speculativeRequest cid i) s =
           .next (s.modCore cid fun c => c.setTicket i { t with asked := t.asked + k })))) ∧
     (∀ n, c.strays.get i = some n →
       exec (.speculativeArrival cid i) s = .next (s.modCore cid fun c => { c with strays := c.strays.erase i })) ∧
     (let a := t.src + BitVec.ofNat 64 t.got
       let k := min (t.len - t.got) (64 - (t.src.toNat + t.got) % 64)
       c.strays.get i = none → t.got < t.asked →
       (t.got ∈ t.skipped → exec (.speculativeArrival cid i) s =
         .next (s.modCore cid fun c => c.setTicket i { t with got := t.got + k })) ∧
       (t.got ∉ t.skipped → s.translations cid cx a.toNat = [.leaf l] → barred a →
         ∃ u, exec (.speculativeArrival cid i) s = .next u ∧
           (u.core cid).ticket i = { t with got := t.got + k, skipped := t.skipped ++ [t.got] } ∧ u.mem = s.mem)) ∧
     (let a := t.src + BitVec.ofNat 64 t.got
       let k := min (t.len - t.got) (64 - (t.src.toNat + t.got) % 64)
       let pa := pa a
       c.strays.get i = none → t.got < t.asked → t.got ∉ t.skipped → s.translations cid cx a.toNat = [.leaf l] →
       ¬ barred a → l.rd = true →
       s.granted cx pa = true → s.damaged = [] →
       s.Canonical → ∃ u, exec (.speculativeArrival cid i) s = .next u ∧
         ((u.core cid).ticket i).got = t.got + k ∧
         (∀ j, j < k → ((u.core cid).ticket i).data.get (t.got + j) = s.byteAt (.phys (pa + j))) ∧
         (∀ j, j < t.got → ((u.core cid).ticket i).data.get j = t.data.get j) ∧ u.mem = s.mem ∧
         (u.core cid).lm = c.lm ∧ (u.core cid).slots = c.slots)) ∧
  (∀ (s : State) (cid i : Nat) (l : Loc),
     let t := (s.core cid).ticket i
     i < 32 → t.state = .exposing → t.fault = .none → t.len ≤ t.got → s.window cid t.dst = some l → l.plain →
     (∀ o, l ≠ .mqw o) → (∀ h ∈ s.holders (l.lines t.len), h.1 = cid ∧ h.2.1 = i) → s.damaged = [] → s.Canonical →
     ∃ u, exec (.exposure cid i) s = .next u ∧ (∀ j, j < t.len → u.byteAt (l.add j) = t.data.get j) ∧
       (∀ b : Loc, b.outside l t.len → b.plain → u.byteAt b = s.byteAt b) ∧
       ((∃ k o, l = .lm k o ∨ l = .csp k o) → ∀ j, j < t.len → u.isFull (l.add j) = true) ∧
       ((u.core cid).ticket i).state = .free ∧ ((u.core cid).ticket i).gen = t.gen)

/-! ## The matrix unit -/

/-- R168, R171, R177: a 64-byte store of the mb registers to offset 0 of the command window pushes them as a command, with
the next sequence number and its pusher; a full queue parks the task.

R168 to R170: 8-byte loads at 0x40 and 0x48 of the window read MQSTAT and MQERR; every other access to the window traps PERM.

R172, R173, R177 to R183, R397: what the checks at the head of a queue find: BADCMD first, then BADFMT for FMTSET, then
RANGE for an address that is not legal, the record's own among them.

R166, R169 to R186, R397: the seven commands at the head of a core's queue. Each ends with its record and one more
DONE: FMTSET sets the format context, BLOAD fills an empty latch, BROT copies a full latch to the next core of the ring,
MMA adds its products to the accumulator, of the rows that its count and its bound allow, ACCRD stores an accumulator's
words and clears them where asked, ACCZ clears the accumulators named, MXFENCE reports and clears an error. A command that
failed a check ends with that status at once, whichever command the unit was to run, and does nothing else; where the line of
its record is held the record alone waits, and is written once the line is free (log entry 51). A command whose latch is
not as it needs it, or whose turn it is not, waits. That a command reads its operands in the step that runs it is log
entry 16, that the rows of an MMA are checked with the K of its latch while that is FULL, and else with K 1, log entry 28,
and which roundings raise flags log entry 26. -/
def Obligations.MatrixUnit : Prop :=
  (∀ (s : State) (o : Sys2Proof.Ordering) (sc : Scope) (nc : Bool) (a : GReg) (disp : Word),
     let at' := s.g a + disp * 64
     let u := s.releaseIf o sc
     let m := u.here.mx
     let bits := s.mbLine
     let tab (lo : Nat) := vget u.here.cts (bits.toNat / 2 ^ lo % 4) (.preset false)
     let c : MxCmd :=
       { bits := bits, seq := m.pushed, slot := s.here.cur.val, act := s.task.actNo, atab := tab 136, btab := tab 138 }
     at'.toNat % 64 = 0 → isLocal at' = true → winSel at' = 2 →
     (winOff at' = 0 → m.queue.length < 16 → Completes (exec (.stmb o sc nc a disp) s)
       (let w : State := { u with here := { u.here with mx := { m with queue := m.queue ++ [c], pushed := m.pushed + 1 } } };
         if m.queue = [] then w.mxArrive u.hereCid else w)) ∧
     (winOff at' = 0 → 16 ≤ m.queue.length → exec (.stmb o sc nc a disp) s = .next (s.park .command)) ∧
     (winOff at' + 64 ≤ 0x1000 →
       (winOff at' ≠ 0 → exec (.stmb o sc nc a disp) s = .next (s.takeTrap .perm at')) ∧
       exec (.ldmb o sc nc a disp) s = .next (s.takeTrap .perm at'))) ∧
  (∀ (s : State) (sc : Scope) (nc : Bool) (sz : Size) (d a : GReg) (disp : Word),
     let n := sizeBytes sz
     let at' := s.g a + disp * BitVec.ofNat 64 n
     let m := s.here.mx
     at'.toNat % n = 0 → isLocal at' = true → winSel at' = 2 → winOff at' + n ≤ 0x1000 →
     (n = 8 → winOff at' = 0x40 → Completes (exec (.ld sz .rlx sc nc d a disp) s)
       (s.setG d (BitVec.ofNat 64 (m.pushed.toNat * 2 ^ 32 + m.done.toNat)))) ∧
     (n = 8 → winOff at' = 0x48 → Completes (exec (.ld sz .rlx sc nc d a disp) s)
       (s.setG d (match m.err with
         | none => 0
         | some (q, st) => BitVec.ofNat 64 (q.toNat * 2 ^ 40 + st.toNat * 2 ^ 8 + 1)))) ∧
     (n ≠ 8 ∨ (winOff at' ≠ 0x40 ∧ winOff at' ≠ 0x48) →
       exec (.ld sz .rlx sc nc d a disp) s = .next (s.takeTrap .perm at')) ∧
     exec (.st sz .rlx sc nc d a disp) s = .next (s.takeTrap .perm at')) ∧
  (∀ (s : State) (cid : Nat) (c : MxCmd) (k : MxKind),
     let x := (s.core cid).mx.ctx
     let l := (s.core cid).mx.getLatch (c.field 320 1)
     let illegal : Prop := (c.caddr ≠ 0 ∧ ¬ (s.MxLegal cid c.caddr 8 8 ∧ winSel c.caddr ≤ 1)) ∨
       ∃ y ∈ c.spans k x (if l.full = true then max 1 l.klen else 1), ¬ s.MxLegal cid y.1 y.2.1 y.2.2
     let refused : Prop := k = .fmtset ∧ mxAllowed (mxFmt (c.field 128 4)) (mxFmt (c.field 132 4)) = false
     (c.kind = none → s.mxVerdict cid c = 2) ∧
     (c.kind = some k → (c.Bad k x → s.mxVerdict cid c = 2) ∧ (¬ c.Bad k x → refused → s.mxVerdict cid c = 3) ∧
       (¬ c.Bad k x → ¬ refused → illegal → s.mxVerdict cid c = 4) ∧
       (¬ c.Bad k x → ¬ refused → ¬ illegal → s.mxVerdict cid c = 0)) ∧
     (∀ y l, s.mxPlace cid true y.1 y.2.1 y.2.2 = some l → s.holders (l.lines y.2.1) = [] → s.damaged = [] →
       s.mxRead cid c y = .ok (s.bytesAt l y.2.1))) ∧
  (∀ (s : State) (cid : Nat) (c : MxCmd) (rest : List MxCmd),
     let m := (s.core cid).mx
     s.Canonical → s.damaged = [] →
     (∀ l v rs, m.records = (l, v) :: rs → l.plain → (∀ o, l ≠ .mqw o) → s.Uncached l → l.off % 64 + 8 ≤ 64 → s.holders (l.lines 8) = [] →
       ∀ k, ∃ t, exec (MxKind.step k cid) s = .next t ∧ (t.core cid).mx = { m with records := rs } ∧ t.bytesAt l 8 = v.toNat) ∧
     (∀ st l, m.queue = c :: rest → m.records = [] → s.Found cid c = st → st ≠ 0 → s.mxRecord cid c = some l →
       s.holders (l.lines 8) ≠ [] → ∀ k, ∃ t, exec (MxKind.step k cid) s = .next t ∧ (t.core cid).mx.queue = rest ∧
         (t.core cid).mx.done = m.done + 1 ∧ (t.core cid).mx.records = [(l, BitVec.ofNat 64 (c.recordWord st 0 0))] ∧
         (t.core cid).mx.acc = m.acc ∧ (t.core cid).mx.latch = m.latch) ∧
     (∀ st, m.queue = c :: rest → m.records = [] → (∀ l, s.mxRecord cid c = some l → s.holders (l.lines 8) = []) → s.Found cid c = st →
       st ≠ 0 → ∀ k, ∃ t, exec (MxKind.step k cid) s = .next t ∧ s.Ended t cid c st 0 0 ∧ (t.core cid).mx.acc = m.acc ∧
         (t.core cid).mx.latch = m.latch ∧ (t.core cid).mx.ctx = m.ctx ∧
         (t.core cid).mx.err =
           if 2 ≤ st ∧ st ≤ 6 ∧ m.err = none then some (BitVec.ofNat 24 c.seq.toNat, BitVec.ofNat 8 st) else m.err) ∧
     (∀ k, m.queue = c :: rest → m.records = [] → s.Found cid c = 0 → c.kind ≠ some k ∨ s.mxIsNext cid = false →
       exec (MxKind.step k cid) s = .next s) ∧
     (s.Heads cid c rest .fmtset → ∃ t, exec (.fmtset cid) s = .next t ∧ s.Ended t cid c 0 0 0 ∧
       (t.core cid).mx.ctx =
         { a := mxFmt (c.field 128 4), b := mxFmt (c.field 132 4), atab := c.atab, btab := c.btab }) ∧
     (let i := c.field 320 1
       let kl := c.field 208 16
       (s.Heads cid c rest .bload → (m.getLatch i).full = true → exec (.bload cid) s = .next s) ∧
       ∀ cols sc, s.Heads cid c rest .bload → (m.getLatch i).full = false →
         s.mxReads cid c (mxRows (c.addr 128) (c.field 224 16) (c.field 192 6) (m.ctx.b.colBytes kl) m.ctx.b.size) =
           .ok cols →
         (m.ctx.b = .lx8 → s.mxRead cid c (c.addr 256, 2 * c.field 192 6 * scaleCount kl, 2) = .ok sc) →
         (m.ctx.b ≠ .lx8 → sc = 0) →
         ∃ t, exec (.bload cid) s = .next t ∧ s.Ended t cid c 0 0 0 ∧ (t.core cid).mx.getLatch i =
           { full := true, klen := kl, ncol := c.field 192 6, fmt := m.ctx.b, tab := m.ctx.btab
             data := BitVec.ofNat 65536 (packBits (kl * m.ctx.b.bits) cols), scales := BitVec.ofNat 4608 sc
             bad := false }) ∧
     (let n := 8 * (cid / 8) + (cid % 8 + 1) % 8
       let l := m.getLatch (c.field 128 1)
       let d := (s.core n).mx.getLatch (c.field 129 1)
       (s.Heads cid c rest .brot → l.full = false ∨ d.full = true → exec (.brot cid) s = .next s) ∧
       (s.Heads cid c rest .brot → l.full = true → d.full = false → l.bad = false →
         ∃ t, exec (.brot cid) s = .next t ∧ s.Ended t cid c 0 0 0 ∧
           (t.core n).mx.getLatch (c.field 129 1) = l ∧
           (t.core cid).mx.getLatch (c.field 128 1) = if c.field 8 1 = 1 then Latch.reset else l) ∧
       (s.Heads cid c rest .brot → l.full = true → d.full = false → l.bad = true →
         ∃ t, exec (.brot cid) s = .next t ∧ s.Ended t cid c 5 0 0 ∧ (t.core n).mx.getLatch (c.field 129 1) = d ∧
           (t.core cid).mx.getLatch (c.field 128 1) = Latch.reset)) ∧
     (let i := c.field 320 1
       let l := m.getLatch i
       let k := c.field 322 2
       let bound := c.field 192 6
       let acc : BitVec 32768 := vget m.acc k 0
       (s.Heads cid c rest .mma → l.full = false → exec (.mma cid) s = .next s) ∧
       (s.Heads cid c rest .mma → l.full = true → mxAllowed m.ctx.a l.fmt = false →
         ∃ t, exec (.mma cid) s = .next t ∧ s.Ended t cid c 3 0 0 ∧ (t.core cid).mx.acc = m.acc) ∧
       ∀ n rows, s.Heads cid c rest .mma → l.full = true → mxAllowed m.ctx.a l.fmt = true →
         (m.headK = 0 → s.mxSpansOk cid (c.spans .mma m.ctx l.klen) = true) → l.bad = false → m.accBad = [] →
         (c.addr 256 = 0 → n = bound) → (c.addr 256 ≠ 0 → s.mxRead cid c (c.addr 256, 4, 4) = .ok n) →
         s.mxReads cid c (mxRows (c.addr 128) (c.field 224 16) (min n bound) (l.klen * m.ctx.a.size) m.ctx.a.size) =
           .ok rows →
         let ws := mxProduct m.ctx l acc (c.field 8 1 == 1) rows
         ∃ t, exec (.mma cid) s = .next t ∧
           s.Ended t cid c (if bound < n then 1 else 0) (ws.foldl (fun f w => f ||| w.2.2.2) 0) (min n bound) ∧
           vget (t.core cid).mx.acc k 0 = ws.foldl (fun a w => accPut a w.1 w.2.1 w.2.2.1) acc ∧
           (t.core cid).mx.getLatch i = if c.field 9 1 = 1 then Latch.reset else l) ∧
     (let k := c.field 208 2
       let rows := c.field 192 6
       let cols := c.field 200 6
       let acc : BitVec 32768 := vget m.acc k 0
       let wide := if c.field 212 4 = 1 ∨ c.field 212 4 = 2 then 2 else 4
       let out (r j : Nat) := accOut (c.field 212 4) (accWord acc r j)
       let cells := (List.range rows).flatMap fun r => (List.range cols).map fun j => (r, j)
       s.Heads cid c rest .accrd → m.accBad = [] →
       (∀ x ∈ c.spans .accrd m.ctx 0, ∃ l, s.mxPlace cid true x.1 x.2.1 x.2.2 = some l ∧ s.holders (l.lines x.2.1) = []) →
       ∃ t, exec (.accrd cid) s = .next t ∧
         s.Ended t cid c 0 (cells.foldl (fun f p => f ||| (out p.1 p.2).2) 0) 0 ∧
         (∀ i r j, r < 32 → j < 32 → accWord (vget (t.core cid).mx.acc i 0) r j =
           if c.field 8 1 = 1 ∧ i = k ∧ r < rows ∧ j < cols then 0 else accWord (vget m.acc i 0) r j) ∧
         (wide * cols ≤ c.field 224 16 → ∀ r j b l, r < rows → j < cols → b < wide →
           s.mxPlace cid true (c.addr 128 + BitVec.ofNat 64 (r * c.field 224 16)) (wide * cols) wide = some l →
           let x := l.add (wide * j + b)
           (∀ z, s.mxRecord cid c = some z → x.outside z 8) →
           (t.byteAt x).toNat = (out r j).1 / 256 ^ b % 256 ∧
             ((∃ i o, l = .lm i o ∨ l = .csp i o) → t.isFull x = true))) ∧
     (s.Heads cid c rest .accz → ∃ t, exec (.accz cid) s = .next t ∧ s.Ended t cid c 0 0 0 ∧
       ∀ i : Fin 4, (t.core cid).mx.acc[i] = if c.field (128 + i.val) 1 = 1 then 0 else m.acc[i]) ∧
     (s.Heads cid c rest .mxfence → ∃ t, exec (.mxfence cid) s = .next t ∧
       s.Ended t cid c (if m.err.isSome then 7 else 0) 0 0 ∧
       (t.core cid).mx.err = if c.field 8 1 = 1 then none else m.err))

/-! ## Tasks -/

/-- R271, R273, R275: EXIT outside a REP body frees the slot of a task without tickets or lent cores and leaves every other
slot and all memory as they were; YIELD only marks the task; EXITS to a valid, unbound channel makes the task its
successor in the same slot, parked while the channel is blocked, with the registers kept and no place in any line of waiting tasks.

R260, R261, R276: TTSET writes an entry that its rule accepts and reads the old control word, else traps ILLOP (its control
word is in the register above b, log entry 50); TBLK
and TUBLK set and clear BLK alone; SPAWN pushes mb0 to mb3 on a deque with fewer than 64 records and says so in d, and
POPD takes back the newest. -/
def Obligations.TaskControl : Prop :=
  (∀ (s : State) (a : GReg), s.ws.ctl.repA = false →
     let me := s.here.cur.val
     let ch : Byte := BitVec.ofNat 8 (s.g a).toNat
     let e := (s.here.tt.get ch.toNat).getD TTEntry.reset
     (∃ t, exec .exit s = .next t ∧ t.here.slot me = { Slot.reset with actNo := s.task.actNo } ∧
       (s.here.ownTickets me = [] → s.task.members = [] →
         (∀ i, i ≠ me → t.here.slot i = s.here.slot i) ∧ t.here.lm = s.here.lm ∧ t.mem = s.mem)) ∧
     Completes (exec .yield s) (s.setTask { s.task with yielded := some s.now }) ∧
     ((s.g a).toNat < 256 → e.valid = true → e.bound = false → s.task.members = [] →
       ∃ t, exec (.exits a) s = .next t ∧ t.ws.g = s.ws.g ∧ t.ws.mb = s.ws.mb ∧ t.ws.pc = e.addr ∧ t.ws.fpf = 0 ∧
         t.ws.tsw.origin = .exits ∧ t.ws.tsw.prio = e.prio ∧ t.ws.vshape = s.ws.vshape ∧ t.task.queues = s.task.queues ∧
         t.ws.ctl = { Ctl.reset with pres := s.ws.ctl.pres } ∧ t.task.place = none ∧ t.mem = s.mem ∧
         (e.blk = false → t.task.wait = s.task.wait ∧ t.ws.tsw.state = s.ws.tsw.state) ∧
         (e.blk = true → t.task.wait = some (.blocked ch) ∧ t.task.waitNo = s.parkNo ∧ t.ws.tsw.state = .parked)) ∧
     (256 ≤ (s.g a).toNat ∨ e.valid = false ∨ e.bound = true → exec (.exits a) s = .next (s.takeTrap .illop 0))) ∧
  (∀ (s : State) (d a b : GReg),
     let ch := (s.g a).toNat
     let e := (s.here.tt.get ch).getD TTEntry.reset
     let set (x : TTEntry) : State := { s with here := { s.here with tt := s.here.tt.put ch x } }
     let w := (s.g (b + 1)).toNat
     let new : TTEntry :=
       { addr := s.g b, valid := (s.g (b + 1)).getLsbD 0, prio := BitVec.ofNat 3 (w / 2), blk := (s.g (b + 1)).getLsbD 4,
         bound := (s.g (b + 1)).getLsbD 5, slot := BitVec.ofNat 3 (w / 2 ^ 6), qsel := BitVec.ofNat 2 (w / 2 ^ 9),
         vsa := BitVec.ofNat 10 (w / 2 ^ 16), vcap := BitVec.ofNat 5 (w / 2 ^ 26) }
     let old := e.valid.toNat + e.prio.toNat * 2 + e.blk.toNat * 16 + e.bound.toNat * 32 + e.slot.toNat * 64 +
       e.qsel.toNat * 512 + e.vsa.toNat * 2 ^ 16 + e.vcap.toNat * 2 ^ 26
     let accepts : Prop := b ≠ 0 ∧ b.getLsbD 0 = false ∧ ch < 256 ∧ w / 2 ^ 31 % 2 ^ 25 = 0 ∧ w / 2 ^ 11 % 32 = 0 ∧
       (s.g b).toNat < 2 ^ 56 ∧ (s.g b).toNat % 2 = 0 ∧ new.vcap.toNat ≤ 16 ∧
       (new.vsa = 0 ∨ (64 ≤ new.vsa.toNat ∧ 64 * new.vsa.toNat + 512 + 1024 * new.vcap.toNat ≤ 0xC000))
     (accepts → Completes (exec (.ttset d a b) s) ((set new).setG d (BitVec.ofNat 64 old))) ∧
     (¬ accepts → exec (.ttset d a b) s = .next (s.takeTrap .illop 0)) ∧
     (ch < 256 → Completes (exec (.tblk a) s) (set { e with blk := true }) ∧
       Completes (exec (.tublk a) s) (set { e with blk := false })) ∧
     (256 ≤ ch → exec (.tblk a) s = .next (s.takeTrap .illop 0) ∧ exec (.tublk a) s = .next (s.takeTrap .illop 0)) ∧
     (s.here.deque.length < 64 → ∃ r : TaskRec,
       r.word0 = s.ws.mb[0] ∧ r.op1 = s.ws.mb[1] ∧ r.op2 = s.ws.mb[2] ∧ r.op3 = s.ws.mb[3] ∧
       Completes (exec (.spawn d) s)
         (({ s with here := { s.here with deque := s.here.deque ++ [r] } } : State).setG d 1)) ∧
     (64 ≤ s.here.deque.length → Completes (exec (.spawn d) s) (s.setG d 0)) ∧
     (s.here.deque = [] → Completes (exec (.popd d) s) (s.setG d 0)) ∧
     (∀ rest r, s.here.deque = rest ++ [r] → Completes (exec (.popd d) s)
       (({ s with here := { s.here with deque := rest } } : State).setWs { s.ws with
         mb := (((s.ws.mb.set 0 r.word0).set 1 r.op1).set 2 r.op2).set 3 r.op3 } |>.setG d 1)))

/-- R262, R263, R280, R311: SEND, SENDD, DEC and SMAX put one message in the send queue and park while it holds eight;
nothing else changes. A descriptor with a reserved bit, a core of a row above 19, a LEN that is not 1 to 8, a message
register above 7, a counter reference that names no block, a decrement of 0 or of 2^32 and more, or a CNT of 0 traps ILLOP.

R279: CNTI on a block that may hold a counter answers 1 where one is armed or pending there and 2 where 64 are; else it
arms a counter of the count given, with the record in mb0 to mb3, and answers 0. A count of 0 fires at once: the record
enters the run list, or stays pending while that is full. A negative count, or an address that is no block of the core's
own LM past the workspaces and the task's areas, traps ILLOP. -/
def Obligations.MessagesLeave : Prop :=
  (∀ (s : State) (a b : GReg),
     let w := (s.g a).toNat
     let dst := w % 2 ^ 16
     let chan : Byte := BitVec.ofNat 8 (w / 2 ^ 16)
     let dev := if (s.g a).getLsbD 57 then some (w / 2 ^ 48 % 512) else none
     let n := w / 2 ^ 24 % 16
     let off := w / 2 ^ 16 % 2 ^ 16
     let good : Prop := w / 2 ^ 58 = 0 ∧ (w / 2 ^ 57 = 1 ∨ w / 2 ^ 48 % 512 = 0) ∧ w / 2 ^ 8 % 32 < 20
     let posts (ok : Prop) (i : Instr) (u : State) : Prop :=
       (ok → s.here.sendQ.length < 8 → Completes (exec i s) u) ∧
       (ok → 8 ≤ s.here.sendQ.length → exec i s = .next (s.park .sendQueue)) ∧
       (¬ ok → exec i s = .next (s.takeTrap .illop 0))
     posts (good ∧ w / 2 ^ 28 % 2 ^ 20 = 0 ∧ 1 ≤ n ∧ n ≤ 8) (.send a)
       (s.withMessage dev dst chan (.send ((List.range n).map fun i => vget s.ws.mb i 0))) ∧
     posts (good ∧ w / 2 ^ 38 % 2 ^ 10 = 0 ∧ w / 2 ^ 24 % 2 ^ 8 = 0 ∧
         ((s.g a).getLsbD 37 = false ∨ w / 2 ^ 32 % 32 < 8)) (.sendd a b)
       (s.withMessage dev dst chan (.sendd ((s.g a).getLsbD 37) (BitVec.ofNat 5 (w / 2 ^ 32)) (s.g b))) ∧
     posts (good ∧ w / 2 ^ 32 % 2 ^ 16 = 0 ∧ off % 64 = 0 ∧ 0x1000 ≤ off ∧ off ≤ 0xBFC0 ∧ 0 < (s.g b).toNat ∧
         (s.g b).toNat < 2 ^ 32) (.dec a b)
       ((s.releaseTo .package).withMessage dev dst 0 (.dec off (s.g b))) ∧
     posts (w / 2 ^ 56 = 0 ∧ w / 2 ^ 40 % 2 ^ 16 ≠ 0 ∧ w / 2 ^ 8 % 32 < 20) (.smax a b)
       (s.withMessage none dst chan (.smax (BitVec.ofNat 16 (w / 2 ^ 40)) (BitVec.ofNat 16 (w / 2 ^ 24))
         (BitVec.ofNat 32 ((s.g b).toNat / 2 ^ 32)) (BitVec.ofNat 32 (s.g b).toNat) 1))) ∧
  (∀ (s : State) (d a b : GReg),
     let o := winOff (s.g a)
     let block : Prop := (s.g b).msb = false ∧ isLocal (s.g a) = true ∧ winSel (s.g a) = 0 ∧ 0x1000 ≤ o ∧ o ≤ 0xBFC0 ∧
       o % 64 = 0 ∧ s.here.reserved o 64 = false
     let r := s.mbRecord
     (¬ block → exec (.cnti d a b) s = .next (s.takeTrap .illop 0)) ∧
     (block → s.holders ((Loc.lm s.hereCid o).lines 64) = [] →
       (o ∈ s.here.counters → Completes (exec (.cnti d a b) s) (s.setG d 1)) ∧
       (o ∉ s.here.counters → 64 ≤ s.here.counters.length → Completes (exec (.cnti d a b) s) (s.setG d 2)) ∧
       (o ∉ s.here.counters → s.here.counters.length < 64 → s.Canonical → ∃ u, Completes (exec (.cnti d a b) s) u ∧
         u.ws = (s.setG d 0).ws ∧ u.mem = s.mem ∧ u.here.lm.readN o 8 = (s.g b).toNat ∧
         u.here.lm.readN (o + 16) 8 = s.ws.mb[0].toNat ∧ u.here.lm.readN (o + 24) 8 = s.ws.mb[1].toNat ∧
         u.here.lm.readN (o + 32) 8 = s.ws.mb[2].toNat ∧ u.here.lm.readN (o + 40) 8 = s.ws.mb[3].toNat ∧
         (∀ x, x < o ∨ o + 64 ≤ x → u.here.lm.get x = s.here.lm.get x) ∧
         (s.g b ≠ 0 → o ∈ u.here.counters ∧ u.here.lm.readN (o + 8) 8 = 1 ∧ u.here.runList = s.here.runList) ∧
         (s.g b = 0 → s.here.runList.length < 64 → o ∉ u.here.counters ∧ u.here.lm.readN (o + 8) 8 = 0 ∧
           u.here.runList = s.here.runList ++
             [{ chan := r.chan, prio := (s.here.entry r.chan).prio, since := s.now, kind := .counter r }]) ∧
         (s.g b = 0 → 64 ≤ s.here.runList.length → o ∈ u.here.counters ∧ u.here.lm.readN (o + 8) 8 = 2 ∧
           u.here.runList = s.here.runList))))

/-- R264, R265: a message's arrival at a core. A SEND to a bound channel puts its words at the end of the task's queue,
one to an unbound channel makes a run-list record, a SENDD writes one register; the message has left its sender. Where it
must wait it is held, and while 48 wait already it is refused and offered again 64 cc later, as it was the first time.
A message of another context, on an entry that is not valid, or a SENDD to an unbound channel is dropped, with a KIND 3
record.

R264, R280, R312, R313: what waits at a receiver. A waiting SEND is handled once its channel is no longer blocked and
in the order in which its channel's messages came; a decrement lowers its armed counter, which stays armed above zero and
fires else, where its block is damaged it is not performed and the core leaves service with a KIND 2 record (R375, R376); a
fired counter's record enters the run list once there is room; two packets of one SMAX combine meet as one,
a packet opens or feeds the combine of its context, channel, tag and count, and the packet that completes it makes it the
message of R313, which the channel takes as a SEND of the core itself. Log entry 57 (DESIGN CHOICE): that a packet which
completes its combine is refused only where 48 messages wait, that a merged packet stays its first sender's, and whose bits
stay of two values that neither beats. -/
def Obligations.MessagesReceived : Prop :=
  (∀ (s : State) (src k : Nat) (m : Msg) (words : List Word),
     let c := s.core m.dst
     let e := (c.tt.get m.chan.toNat).getD TTEntry.reset
     let i := e.slot.toNat
     let left := s.leave src k
     let dropped := left.report (dieOf m.dst) (faultRec m.cx 0 3 .none m.chan.toNat m.src)
     s.Offered src k m →
     (m.load = .send words → s.admits m.dst m = false ∨ e.valid = false →
       exec (.messageArrival src k) s = .next dropped) ∧
     (∀ mb r w, m.load = .sendd mb r w → s.admits m.dst m = false ∨ e.valid = false ∨ (e.blk = false ∧ e.bound = false) →
       exec (.messageArrival src k) s = .next dropped) ∧
     (s.admits m.dst m = true → e.valid = true → (∀ x ∈ c.inbound, x.chan ≠ m.chan) →
       (m.load = .send words → e.blk = false → e.bound = true → (c.slot i).held = true →
         (c.slot i).ws.tsw.state ≠ .saved → (vget (c.slot i).queues e.qsel.toNat []).length + words.length ≤ 16 →
         exec (.messageArrival src k) s = .next (left.modSlot m.dst i fun t =>
           { t with queues := vset t.queues e.qsel.toNat (vget t.queues e.qsel.toNat [] ++ words) })) ∧
       (m.load = .send words → e.blk = false → e.bound = false → c.runList.length < 64 →
         exec (.messageArrival src k) s = .next (left.modCore m.dst fun c => { c with
           runList := c.runList ++
             [{ chan := m.chan, prio := e.prio, since := s.now, kind := .message words m.src m.origin }]
           steal := .busy
           owed := c.owed ++ c.steal.due })) ∧
       (∀ mb r w, m.load = .sendd mb r w → e.blk = false → e.bound = true → (c.slot i).held = true →
         (c.slot i).ws.tsw.state ≠ .saved → (c.slot i).lost = [] → s.damaged = [] →
         exec (.messageArrival src k) s = .next (left.modSlot m.dst i fun t =>
           { t with ws := if mb then { t.ws with mb := vset t.ws.mb r.toNat w } else { t.ws with g := t.ws.g.set r.toNat w } }))) ∧
     (s.admits m.dst m = true → e.valid = true →
       (let away : Prop := (∃ x ∈ c.inbound, x.chan = m.chan) ∨ (e.bound = true ∧
          ((c.slot i).held = false ∨ (c.slot i).ws.tsw.state = .saved));
        (m.load = .send words ∧ (e.blk = true ∨ away ∨ (e.bound = false ∧ 64 ≤ c.runList.length) ∨
          (e.bound = true ∧ 16 < (vget (c.slot i).queues e.qsel.toNat []).length + words.length))) ∨
        ∃ mb r w, m.load = .sendd mb r w ∧ (e.blk = true ∨ (e.bound = true ∧ away))) →
       (c.inbound.length < 48 → exec (.messageArrival src k) s = .next
         { left.modCore m.dst fun c => { c with inbound := c.inbound ++ [{ m with refused := none, began := s.parkNo }] } with
           parkNo := s.parkNo + 1 }) ∧
       (48 ≤ c.inbound.length → ∃ t, exec (.messageArrival src k) s = .next t ∧
         (t.outbox src)[k]? = some { m with refused := some s.now } ∧ (t.core m.dst).inbound = c.inbound ∧
         t.mem = s.mem)) ∧
     (∀ (s' : State) at', (s'.outbox src)[k]? = some { m with refused := some at' } → at' + 64 ≤ s'.now →
       exec (.messageReoffer src k) s' = .next (s'.offer src k { m with refused := some at' }))) ∧
  (∀ (s : State) (cid src k src' k' off : Nat) (m m' : Msg) (words : List Word) (n : Word),
     let c := s.core cid
     let e := (c.tt.get m.chan.toNat).getD TTEntry.reset
     let clean : Prop := s.damagedByte (.lm cid off) 64 = none
     let rec1 : RunRec := { chan := (c.counterRec off).chan, prio := (c.entry (c.counterRec off).chan).prio,
                            since := s.now, kind := .counter (c.counterRec off) }
     (c.inbound[k]? = some m → (∀ x ∈ c.inbound.take k, x.chan ≠ m.chan) → c.blockedBefore m.chan m.began = false →
       m.load = .send words → s.admits cid m = true → e.valid = true → e.blk = false → e.bound = false →
       c.runList.length < 64 →
       exec (.waitingMessageRelease cid k) s = .next (s.modCore cid fun c => { c with
         inbound := c.inbound.eraseIdx k
         runList := c.runList ++
           [{ chan := m.chan, prio := e.prio, since := s.now, kind := .message words m.src m.origin }]
         steal := .busy
         owed := c.owed ++ c.steal.due })) ∧
     ((s.outbox src)[k]? = some m → m.dev = none → m.load = .dec off n → m.dst = cid →
       (s.welcome cid m.cx = false → exec (.decApply src k) s =
         .next ((s.leave src k).report (dieOf cid) (faultRec m.cx 0 3 .none m.chan.toNat m.src))) ∧
       (s.welcome cid m.cx = true → off ∉ c.counters ∨ (clean ∧ c.pending off = true) → exec (.decApply src k) s =
         .next ((s.leave src k).report (dieOf cid) (faultRec m.cx 0 5 .none 0 m.src))) ∧
       (s.welcome cid m.cx = true → off ∈ c.counters → (s.damagedByte (.lm cid off) 12).isSome = true →
         exec (.decApply src k) s = .next (((s.leave src k).report (dieOf cid)
           (faultRec ((s.cxOf cid).getD 0) 0 2 .mchk 0 cid)).failLm (.lm cid 0))) ∧
       (s.welcome cid m.cx = true → off ∈ c.counters → clean → c.pending off = false → s.Canonical →
         let new : Word := BitVec.ofNat 64 (c.lm.readN off 8) - n
         ∃ t, exec (.decApply src k) s = .next t ∧ (t.core cid).lm.readN off 8 = new.toNat ∧
           t.outbox src = (s.outbox src).eraseIdx k ∧
           (0 < new.toInt → (∀ x, x < off ∨ off + 8 ≤ x → (t.core cid).lm.get x = c.lm.get x) ∧
             (t.core cid).counters = c.counters ∧ (t.core cid).runList = c.runList) ∧
           (new.toInt ≤ 0 → (∀ x, x < off ∨ off + 9 ≤ x → (t.core cid).lm.get x = c.lm.get x) ∧
             (c.runList.length < 64 → (t.core cid).counters = c.counters.filter (· ≠ off) ∧
               (t.core cid).lm.get (off + 8) = (if new.toInt < 0 then 4 else 0) ∧
               (t.core cid).runList = c.runList ++ [rec1]) ∧
             (64 ≤ c.runList.length → (t.core cid).counters = c.counters ∧
               (t.core cid).lm.get (off + 8) = (if new.toInt < 0 then 6 else 2) ∧
               (t.core cid).runList = c.runList)))) ∧
     (off ∈ c.counters → clean → c.pending off = true → c.runList.length < 64 →
       ∃ t, exec (.pendingCounterEnqueue cid off) s = .next t ∧ off ∉ (t.core cid).counters ∧
         (t.core cid).runList = c.runList ++ [rec1]) ∧
     (∀ cnt tag v v' x x' j j', (s.outbox src)[k]? = some m → (s.outbox src')[k']? = some m' →
       m.load = .smax cnt tag v x j → m'.load = .smax cnt tag v' x' j' → m.cx = m'.cx → m.dst = m'.dst →
       m.chan = m'.chan → src ≠ src' ∨ k < k' → s.behindOwn src k m = false →
       (∀ (y : Msg) (q : Nat), q < k' → (s.outbox src')[q]? = some y → (src = src' ∧ q = k) ∨ m'.sameWay y = false) →
       let w := beats v x v' x'
       exec (.smaxRouterCombine src k src' k') s = .next ((s.setOutbox src ((s.outbox src).set k { m with
         load := .smax cnt tag (if w then v else v') (if w then x else x') (j + j') })).leave src' k')) ∧
     (∀ cnt tag v x j, s.Offered src k m → m.load = .smax cnt tag v x j → m.dst = cid →
       let key (y : Combine) : Bool := decide (y.cx = m.cx ∧ y.chan = m.chan ∧ y.tag = tag ∧ y.cnt = cnt)
       let rest := c.combines.filter fun y => !key y
       let open1 (v x : BitVec 32) (total : Nat) : Combine :=
         { cx := m.cx, chan := m.chan, tag := tag, cnt := cnt, val := v, idx := x, total := total }
       (s.welcome cid m.cx = false → exec (.smaxPacketAtOwner src k) s =
         .next ((s.leave src k).report (dieOf cid) (faultRec m.cx 0 3 .none m.chan.toNat m.src))) ∧
       (s.welcome cid m.cx = true → ∀ best at' total,
         (rest = c.combines ∧ best = v ∧ at' = x ∧ total = j ∨
          ∃ y, c.combines.find? key = some y ∧ total = y.total + j ∧
            ((best, at') = if beats v x y.val y.idx then (v, x) else (y.val, y.idx))) →
         (total < cnt.toNat → rest.length < 32 → ∃ t, exec (.smaxPacketAtOwner src k) s = .next t ∧
           t.outbox src = (s.outbox src).eraseIdx k ∧ (t.core cid).combines = rest ++ [open1 best at' total]) ∧
         (total < cnt.toNat → 32 ≤ rest.length → ∃ t, exec (.smaxPacketAtOwner src k) s = .next t ∧
           (t.outbox src)[k]? = some { m with refused := some s.now } ∧ (t.core cid).combines = c.combines) ∧
         (cnt.toNat ≤ total → e.valid = true → e.blk = false → e.bound = false →
           (∀ y ∈ c.inbound, y.chan ≠ m.chan) → c.runList.length < 64 →
           ∃ t, exec (.smaxPacketAtOwner src k) s = .next t ∧ t.outbox src = (s.outbox src).eraseIdx k ∧
             (t.core cid).combines = rest ∧
             (t.core cid).runList = c.runList ++ [{ chan := m.chan, prio := e.prio, since := s.now, kind := (.message
               [BitVec.ofNat 64 ((if (fp32.decode best.toNat).isNan then 0x7FC00000 else best.toNat) * 2 ^ 32 + at'.toNat),
                BitVec.ofNat 64 (total % 2 ^ 32 * 2 ^ 16 + tag.toNat)] cid none) }]) ∧
         (cnt.toNat ≤ total → e.valid = true → e.blk = true → c.inbound.length < 48 →
           ∃ t, exec (.smaxPacketAtOwner src k) s = .next t ∧ t.outbox src = (s.outbox src).eraseIdx k ∧
             (t.core cid).combines = rest ∧ (t.core cid).inbound.length = c.inbound.length + 1) ∧
         (cnt.toNat ≤ total → e.valid = true → e.blk = true → 48 ≤ c.inbound.length →
           ∃ t, exec (.smaxPacketAtOwner src k) s = .next t ∧
             (t.outbox src)[k]? = some { m with refused := some s.now } ∧ (t.core cid).combines = c.combines))))

/-- R267 to R272: activation, waking and the clocks of the scheduler. What fills the next slot is the open run-list record of
the highest priority, first in first out, else the newest open deque record; after 16 fills from the run list in a row the
deque goes first. The record fills the lowest free slot with a fresh task at its channel's address; where its channel is not
fit, or a reserved bit of it is set, it is dropped with a KIND 4 record, and a launch's counts as retired. A task whose
condition holds is runnable again, but that on a resource with an order nobody may wait before it (which resources those are
is log entry 39); YIELD_EXPIRY, RUN_LIST_AGING and ISSUE_AGE_PROMOTION act at
their ages.

R277, R278, R290: stealing. A core that has become idle asks in turn; its target yields the older half of its deque, which
enters the thief's at the newest end; an empty answer of the last target makes it back off for 256 cc; the records of an
answer to a thief that is busy again still come (that it may be so without a run-list record is log entry 25), while a lent core's deque stays empty and a retired core takes nothing (R376); the
director keeps each core's
latest count. -/
def Obligations.TaskScheduling : Prop :=
  (∀ (c : Core) (now k : Nat) (r : RunRec) (x : TaskRec),
     let level (r : RunRec) : Nat := if r.since + 65536 ≤ now then 7 else r.prio.toNat
     let shut (chan : Byte) : Prop := (c.entry chan).blk = true
     let noneLeft : Prop := ∀ y ∈ c.deque, shut y.chan
     (c.nextFill now = some (.run k r) → c.runList[k]? = some r ∧ ¬ shut r.chan ∧
       (∀ j r', c.runList[j]? = some r' → ¬ shut r'.chan → level r' < level r ∨ (level r' = level r ∧ k ≤ j)) ∧
       (c.fillRow < 16 ∨ noneLeft)) ∧
     (c.nextFill now = some (.deque k x) → c.deque[k]? = some x ∧ ¬ shut x.chan ∧
       (∀ j y, k < j → c.deque[j]? = some y → shut y.chan) ∧ (16 ≤ c.fillRow ∨ ∀ r' ∈ c.runList, shut r'.chan)) ∧
     (c.nextFill now = none ↔ noneLeft ∧ ∀ r' ∈ c.runList, shut r'.chan)) ∧
  (∀ (s : State) (cid i k slot : Nat) (r : RunRec) (x : TaskRec),
     let c := s.core cid
     let t0 := c.slot slot
     let idle := c.lent = none ∧ c.retired = false ∧ (s.die (cid / 8192)).thermal ≠ .tripped ∧ i < 8 ∧
       (c.slot i).held = false ∧ (∀ j, j < i → (c.slot j).held = true) ∧ ∀ j, (c.slot j).handlerDue = false
     let kind4 (chan : Byte) : FaultRec := faultRec ((s.cxOf cid).getD 0) 0 4 .none chan.toNat cid
     (idle → c.nextFill s.now = some (.run k r) → c.refuses r.chan r.kind.reserved = false → cid < 2 ^ 16 →
       ∃ t, exec (.activation cid) s = .next t ∧ (t.core cid).runList = c.runList.eraseIdx k ∧
         (t.core cid).fillRow = c.fillRow + 1 ∧ (∀ j, j ≠ i → (t.core cid).slot j = c.slot j) ∧
         let y := (t.core cid).slot i
         let e := c.entry r.chan
         y.taskId = c.taskNo + 1 ∧ y.actNo = (c.slot i).actNo + 1 ∧ (t.core cid).taskNo = c.taskNo + 1 ∧
         (∀ words src dev, r.kind = .message words src dev → words.length ≤ 8 → src < 2 ^ 16 →
           y.Fresh e .message ((words.zipIdx.map fun w => (w.2 + 1, w.1)) ++ [(9, BitVec.ofNat 64
             (words.length * 2 ^ 16 + src + (dev.map fun d => 2 ^ 57 + d % 512 * 2 ^ 48).getD 0))]) ∧
           y.ws.tsw.chan = r.chan) ∧
         (∀ z, r.kind = .counter z →
           y.Fresh e .counter [(1, z.op1), (2, z.op2), (3, z.op3), (4, z.opx.setWidth 64)]) ∧
         (∀ id lcrd lext a0 a1 addr, r.kind = .launch id lcrd lext a0 a1 addr →
           y.Fresh e .launch [(1, a0), (2, a1), (3, addr)] ∧ y.launch = some id ∧
           ∀ j : Fin 8, y.lcrd[j] = lcrd.getD j.val 0 ∧ y.lext[j] = lext.getD j.val 0) ∧
         (∀ h, r.kind = .handler h →
           let z := c.slot h
           ({ y with link := none } : Slot).Fresh e .message [(1, BitVec.ofNat 64 (512 * h)),
             (2, z.ws.tsw.cause.code.setWidth 64), (9, BitVec.ofNat 64 cid)] ∧ y.link = some h ∧ y.tract = false ∧
           y.trpc = if z.ws.tsw.cause = .svc ∨ z.ws.tsw.cause = .trap then z.ws.pc + BitVec.ofNat 64 (2 * z.chainLen)
             else z.ws.pc)) ∧
     (idle → c.nextFill s.now = some (.deque k x) → c.refuses x.chan x.reserved = false →
       ∃ t, exec (.activation cid) s = .next t ∧ (t.core cid).deque = c.deque.eraseIdx k ∧ (t.core cid).fillRow = 0 ∧
         ((t.core cid).slot i).taskId = c.taskNo + 1 ∧ ((t.core cid).slot i).Fresh (c.entry x.chan) .deque
           [(1, x.op1), (2, x.op2), (3, x.op3), (4, x.opx.setWidth 64)] ∧ ∀ j, j ≠ i → (t.core cid).slot j = c.slot j) ∧
     (idle → c.nextFill s.now = some (.run k r) → c.refuses r.chan r.kind.reserved = true →
       let left := (s.modCore cid fun c => { c with runList := c.runList.eraseIdx k }).report (cid / 8192) (kind4 r.chan)
       (∀ ws src dev z, r.kind = .message ws src dev ∨ r.kind = .counter z → exec (.activation cid) s = .next left) ∧
       (∀ id l l' a a' a'', r.kind = .launch id l l' a a' a'' →
         exec (.activation cid) s = .next (left.launchEnded id))) ∧
     (idle → c.nextFill s.now = some (.deque k x) → c.refuses x.chan x.reserved = true → exec (.activation cid) s =
       .next ((s.modCore cid fun c => { c with deque := c.deque.eraseIdx k }).report (cid / 8192) (kind4 x.chan))) ∧
     (∀ chan z, c.refuses chan z = true ↔
       (c.entry chan).valid = false ∨ (c.entry chan).bound = true ∨ z ≠ 0) ∧
     (∀ w, t0.wait = some w → t0.held = true → t0.ws.tsw.state = .parked → slot < 8 →
       (s.waitOver cid slot w = true → s.waitsBehind cid slot w = false → t0.awaitsReply = false →
         ∃ t, exec (.taskWakeUp cid slot) s = .next t ∧ (t.core cid).slot slot = { t0 with
           wait := none, runSince := s.now, woken := some (w, t0.waitNo)
           ws := { t0.ws with tsw := { t0.ws.tsw with state := .runnable } } } ∧
         (∀ j, j ≠ slot → (t.core cid).slot j = c.slot j) ∧ t.mem = s.mem) ∧
       (s.waitOver cid slot w = false ∨ s.waitsBehind cid slot w = true → exec (.taskWakeUp cid slot) s = .next s)) ∧
     (∀ at', t0.yielded = some at' → at' + 64 ≤ s.now →
       exec (.yieldExpiry cid slot) s = .next (s.modSlot cid slot fun t => { t with yielded := none })) ∧
     (c.runList[k]? = some r → r.since + 65536 ≤ s.now → ∃ t, exec (.runListAging cid k) s = .next t ∧
       (t.core cid).runList[k]? = some { r with prio := 7 } ∧ ∀ j, j ≠ k → (t.core cid).runList[j]? = c.runList[j]?) ∧
     (exec (.issueAgePromotion cid slot) s = .next s ∧ (t0.runSince + 4096 ≤ s.now → t0.priority s.now = 7))) ∧
  (∀ (s : State) (cid v d since : Nat) (ds rest : List Nat) (l : List TaskRec),
     let c := s.core cid
     (c.steal = .busy → c.idle = true →
       exec (.stealRoundStart cid) s = .next (s.modCore cid fun c => { c with steal := .waiting [1, 2, 3, 4, 5] s.now })) ∧
     (c.steal = .waiting ds since → c.idle = true → s.nextTarget cid ds = some (d, v, rest) → v ≠ cid →
       ∃ t, exec (.stealRequest cid) s = .next t ∧
         ((s.core v).lent = none → (s.core v).retired = false →
           (t.core v).deque = (s.core v).deque.drop ((s.core v).deque.length / 2) ∧
           (t.core cid).steal = .asking d rest (some ((s.core v).deque.take ((s.core v).deque.length / 2)))) ∧
         ((s.core v).lent.isSome = true → (t.core v).deque = (s.core v).deque ∧
           (t.core cid).steal = .asking d rest (some []))) ∧
     (c.steal = .waiting ds since → c.idle = true → s.nextTarget cid ds = none →
       exec (.stealRequest cid) s = .next (s.modCore cid fun c => { c with steal := .backoff s.now })) ∧
     (c.steal = .asking d rest (some l) → c.lent = none → c.retired = false → c.owed = [] → c.deque.length + l.length ≤ 64 →
       ∃ t, exec (.stealAnswer cid) s = .next t ∧
         (t.core cid).deque = c.deque ++ l ∧ (l ≠ [] ∨ c.idle = false → (t.core cid).steal = .busy) ∧
         (l = [] → c.idle = true → d = 5 → (t.core cid).steal = .backoff s.now) ∧
         (l = [] → c.idle = true → d ≠ 5 → rest ≠ [] → (t.core cid).steal = .waiting rest s.now)) ∧
     (c.owed ≠ [] → c.lent = none → c.retired = false → c.deque.length + c.owed.length ≤ 64 → exec (.stealAnswer cid) s =
       .next (s.modCore cid fun c => { c with deque := c.deque ++ c.owed, owed := [] })) ∧
     (c.lent.isSome = true ∨ c.retired = true → exec (.stealAnswer cid) s = .next s) ∧
     (c.steal = .backoff since → c.idle = true → since + 256 ≤ s.now →
       exec (.stealBackoffExpiry cid) s =
         .next (s.modCore cid fun c => { c with steal := .waiting [1, 2, 3, 4, 5] s.now })) ∧
     (∃ t, exec (.dequeCountReport cid) s = .next t ∧ (t.die (cid / 8192)).reports.get cid = some c.deque.length ∧
       (∀ j, j ≠ cid → (t.die (cid / 8192)).reports.get j = (s.die (cid / 8192)).reports.get j) ∧ t.here = s.here))

/-- R281 to R284: LAUNCH reads its record and answers the status of the first check that fails, as R283's table has them; a
record without fault enters the queue of its region's first die and the answer is 0, unless the queue is full: then the task
parks. An address not 256-aligned, a table that is not aligned and a fault on the record trap, with nothing else changed. A
launch of quads is judged by the row and the column that are in effect (log entry 25). The host enqueues in the same way, its
tables read as they stand (log entry 59) and U copies combined (R222). LAUNCH_EXECUTE starts the oldest record whose barriers are free: one task more is counted for
each index, and the record leaves the queue. -/
def Obligations.Launches : Prop :=
  (∀ (s : State) (cx n : Nat) (r : BitVec 2048) (here : Option Nat) (ch prd : List Word),
    let st := s.launchStatus cx r here
    (n ∈ [1, 2, 3, 4, 6] → s.LaunchBad cx r here n → (∀ m, m < n → ¬ s.LaunchBad cx r here m) → st = n) ∧
    ((∀ m, ¬ s.LaunchBad cx r here m) → st = 0) ∧ (launchBad5 ch prd = true ↔ LaunchBad5 ch prd)) ∧
  ∀ (s s1 s2 s3 : State) (d a : GReg) (ws : List Nat) (ch prd : List Word) (die cxid : Nat) (addr : Word) (x : LaunchRec)
    (rest : List LaunchRec) (c : Cause) (info : Word),
    let r : BitVec 2048 := BitVec.ofNat 2048 (packBits 64 ws)
    let st := s1.launchStatus s.cx r (some s.hereCid)
    let home := (launchRegion r (some s.hereCid)).die
    let chtab := lw r 640
    let prdtab := lw r 704
    ((s.g a).toNat % 256 ≠ 0 → exec (.launch d a) s = .next (s.takeTrap .align (s.g a))) ∧
    ((s.g a).toNat % 256 = 0 → (s.releaseTo .package).loadWords 8 32 (s.g a) = .error (.trap c info) →
      exec (.launch d a) s = .next (s.takeTrap c info)) ∧
    ((s.g a).toNat % 256 = 0 → (s.releaseTo .package).loadWords 8 32 (s.g a) = .ok (ws, s1) →
      (st ≠ 0 → Completes (exec (.launch d a) s) (s1.setG d (BitVec.ofNat 64 st))) ∧
      (st = 0 → launchField r 552 544 ≠ 0 → chtab.toNat % 16 ≠ 0 →
        exec (.launch d a) s = .next (s.takeTrap .align chtab)) ∧
      (st = 0 → s1.loadTable chtab 16 (2 * launchField r 552 544) = .ok (ch, s2) →
        (launchField r 590 584 ≠ 0 → prdtab.toNat % 8 ≠ 0 → exec (.launch d a) s = .next (s.takeTrap .align prdtab)) ∧
        (s2.loadTable prdtab 8 (launchField r 590 584) = .ok (prd, s3) →
          (LaunchBad5 ch prd → Completes (exec (.launch d a) s) (s3.setG d 5)) ∧
          (¬ LaunchBad5 ch prd → (s3.die home).launchQ.length < 32 → Completes (exec (.launch d a) s)
            ((s3.modDie home fun y => { y with launchQ := y.launchQ ++ [{ bits := r, cx := s.cx, here := some s.hereCid
                                                                          addr := s.g a, chtab := chanTable ch
                                                                          prdtab := prd }] }).setG d 0)) ∧
          (¬ LaunchBad5 ch prd → 32 ≤ (s3.die home).launchQ.length →
            exec (.launch d a) s = .next (s.park (.launchQueue home)))))) ∧
    ((s.ctxCfg cxid).isSome = true →
      (s.launchStatus cxid x.bits none ≠ 0 ∨ 32 ≤ (s.die die).launchQ.length →
        exec (.hostLaunchEnqueue die cxid addr x.bits) s = .next s) ∧
      (s.launchStatus cxid x.bits none = 0 → (s.die die).launchQ.length < 32 →
        s.walkWords cxid (2 * launchField x.bits 552 544) (lw x.bits 640).toNat = some (ch, s1) →
        s1.walkWords cxid (launchField x.bits 590 584) (lw x.bits 704).toNat = some (prd, s2) →
        (LaunchBad5 ch prd → exec (.hostLaunchEnqueue die cxid addr x.bits) s = .next s) ∧
        (¬ LaunchBad5 ch prd → exec (.hostLaunchEnqueue die cxid addr x.bits) s = .next (s2.modDie die fun y => { y with
          launchQ := y.launchQ ++ [{ bits := x.bits, cx := cxid, here := none, addr := addr, chtab := chanTable ch
                                     prdtab := prd }] })))) ∧
    ((∀ y ∈ s.launches, y.die = die → y.pending = []) → (s.die die).launchQ = x :: rest →
      (∀ y ∈ s.launches, y.id ≠ s.nextLaunch) →
      (s.barriersFree x.cx x.bits (launchRegion x.bits x.here) = false → exec (.launchExecute die) s = .next s) ∧
      (s.barriersFree x.cx x.bits (launchRegion x.bits x.here) = true →
        ∃ t, exec (.launchExecute die) s = .next t ∧ (t.die die).launchQ = rest ∧ t.nextLaunch = s.nextLaunch + 1 ∧
          ∃ y ∈ t.launches, y.id = s.nextLaunch ∧ y.cx = x.cx ∧ y.die = die ∧ y.began = s.now ∧
            y.left = (launchExts x.bits).foldl (· * ·) 1 ∧
            y.doneref = lw x.bits 896 ∧ ∀ b ∈ y.barriers, b.arrived = 0 ∧ b.odd = true))

/-- R226, R227: BARV of a barrier of the task's launch is a release and one arrival: at the expected count the parity
changes and the count starts again. BARW goes on once the parity is the one it names, with an acquire, and parks before.

R286 to R290, R295, R297: COMPOSE of the width in force clears C and goes on, of another width it hands the lent cores back,
asks the cluster and parks (what the first makes of a pending recomposition is log entry 53); DCMP at width 1 does nothing, else it hands back. The oldest request that the free cores satisfy
is granted: a leader's cluster gives its free cores in the order of R289, width 16 also takes the first adjacent cluster that
is all free; a recomposition is served at a block start only (log entry 53, DEDUCED). A grant lends those cores, sets CW and
clears C, and the task goes on past COMPOSE; after 1,024 cc without one, and with none that would succeed, it goes on with C
set and CW 0. A recomposition is granted without a register written, and a record for a lent core takes every lent core back,
with a recomposition pending. -/
def Obligations.BarriersAndPhalanxes : Prop :=
  (∀ (s : State) (sc : BScope) (n : Byte) (b : Barrier),
     let id : BarId := { scope := sc, num := n.toNat }
     let inst := match sc with | .package => 0 | .cluster => s.hereCid / 8 | .die => s.hereCid / 8192
     let scope := match sc with | .package => Scope.package | .cluster => .cluster | .die => .die
     let goal (odd : Bool) (i : Instr) : Prop :=
       (b.odd = odd → Completes (exec i s) (s.acquire scope)) ∧
       (b.odd ≠ odd → exec i s = .next (s.park (.barrier id odd)))
     s.barrier s.hereCid s.task.launch id = some b →
     goal false (.barwEven sc n) ∧ goal true (.barwOdd sc n) ∧
     (∃ u, Completes (exec (.barv sc n) s) u ∧ u.here.slots = (s.releaseTo scope).here.slots ∧
       u.mem = (s.releaseTo scope).mem ∧ b.inst = inst ∧
       u.barrier s.hereCid s.task.launch id = some (if b.expected ≤ b.arrived + 1
         then { b with arrived := 0, odd := !b.odd } else { b with arrived := b.arrived + 1 }))) ∧
  (∀ (s : State) (q : List ComposeReq) (ld n : Nat) (l : List Nat),
     let free (m : Nat) : Bool := decide ((∀ i : Fin 8, ((s.core m).slot i.val).held = false) ∧ (s.core m).runList = [] ∧
       (s.core m).deque = [] ∧ (s.core m).lent = none ∧ (s.core m).retired = false ∧ (s.cxOf m).isSome ∧
       s.cxOf m = s.cxOf ld)
     let mates := (List.range 8).filter fun i => decide (8 * (ld / 8) + i ≠ ld) && free (8 * (ld / 8) + i)
     let dist (m : Nat) : Nat := (m % 8 + 8 - ld % 8) % 8
     let inOrder (l : List Nat) : Prop := l.Pairwise (fun a b => dist a < dist b) ∧ (∀ m ∈ l, m / 8 = ld / 8 ∧ m ≠ ld ∧
       free m = true) ∧ ∀ i ∈ mates, 8 * (ld / 8) + i ∉ l → ∀ x ∈ l, dist x < dist i
     let clear (k : Nat) : Prop := ∀ j, j < 8 → free (8 * k + j) = true
     let now (r : ComposeReq) : Prop :=
       (r.again = false ∨ s.atBlockStart r.cid r.slot = true) ∧ (s.members r.cid r.n).isSome = true
     (∀ r, s.nextGrant q = some (r, l) → s.members r.cid r.n = some l ∧
       ∃ before after, q = before ++ r :: after ∧ now r ∧ ∀ y ∈ before, ¬ now y) ∧
     (s.nextGrant q = none ↔ ∀ y ∈ q, ¬ now y) ∧
     (n ≤ 8 → (s.members ld n = none ↔ mates.length < n - 1) ∧
       (s.members ld n = some l → l.length = n - 1 ∧ inOrder l)) ∧
     (s.members ld 16 = none ↔ mates.length < 7 ∨ ∀ d k, d ∈ [1, 2, 3, 4] → neighbour (ld / 8) d = some k → ¬ clear k) ∧
     (s.members ld 16 = some l → ∃ own k d, l = own ++ (List.range 8).map (fun j => 8 * k + j) ∧ own.length = 7 ∧
       inOrder own ∧ d ∈ [1, 2, 3, 4] ∧ neighbour (ld / 8) d = some k ∧ clear k ∧
       ∀ d' k', 1 ≤ d' → d' < d → neighbour (ld / 8) d' = some k' → ¬ clear k')) ∧
  (∀ (s : State) (n : Byte) (k cid slot ld since : Nat) (r : ComposeReq) (l : List Nat),
     let code := if n = 2 then 1 else if n = 4 then 2 else if n = 8 then 3 else if n = 16 then 4 else (0 : BitVec 3)
     let t0 := (s.core r.cid).slot r.slot
     let t1 := (s.core cid).slot slot
     let t2 := (s.core ld).slot slot
     let lent (t : State) : Prop := (∀ m ∈ l, (t.core m).lent = some (r.cid, r.slot)) ∧
       ((t.core r.cid).slot r.slot).members = l ∧ ((t.core r.cid).slot r.slot).ws.g = t0.ws.g
     let mine (r : ComposeReq) : Bool := r.cid == s.hereCid && r.slot == s.here.cur.val
     let asks : ComposeReq := { cid := s.hereCid, slot := s.here.cur.val, n := n.toNat, again := false }
     (s.ws.ctl.repA = false → code ≠ 0 → s.ws.ctl.cw = code →
       Completes (exec (.compose n) s) (s.modCtl fun c => { c with c := false })) ∧
     (s.ws.ctl.repA = false → code ≠ 0 → s.ws.ctl.cw = 0 → ∃ t, exec (.compose n) s = .next t ∧
       t.here = (s.park (.compose n.toNat s.now)).here ∧ (t.cluster (s.hereCid / 8)).composeQ =
         (s.cluster (s.hereCid / 8)).composeQ ++ [asks]) ∧
     (s.ws.ctl.repA = false → code ≠ 0 → s.ws.ctl.cw ≠ 0 → s.ws.ctl.cw ≠ code → s.task.lost = [] →
       ∃ t, exec (.compose n) s = .next t ∧ t.task.wait = some (.compose n.toNat s.now) ∧
         t.ws.tsw.state = .parked ∧ t.ws.pc = s.ws.pc ∧ t.ws.ctl = { s.ws.ctl with cw := 0 } ∧ t.ws.g = s.ws.g ∧
         t.ws.mb = s.ws.mb ∧ t.task.members = [] ∧ (∀ m ∈ s.task.members, (t.core m).lent = none) ∧
         (t.cluster (s.hereCid / 8)).composeQ = ((s.cluster (s.hereCid / 8)).composeQ.filter fun r => !mine r) ++ [asks]) ∧
     (s.ws.ctl.repA = false → s.ws.ctl.cw = 0 → Completes (exec .dcmp s) s) ∧
     (s.ws.ctl.repA = false → s.ws.ctl.cw ≠ 0 → s.task.lost = [] → ∃ u, Completes (exec .dcmp s) u ∧
       u.ws.ctl = { s.ws.ctl with cw := 0 } ∧ u.ws.g = s.ws.g ∧ u.ws.mb = s.ws.mb ∧ u.task.members = [] ∧
       (∀ m ∈ s.task.members, (u.core m).lent = none) ∧
       (u.cluster (s.hereCid / 8)).composeQ = (s.cluster (s.hereCid / 8)).composeQ.filter fun r => !mine r) ∧
     (s.ws.ctl.repA = true ∨ code = 0 → exec (.compose n) s = .next (s.takeTrap .illop 0)) ∧
     (s.ws.ctl.repA = true → exec .dcmp s = .next (s.takeTrap .illop 0)) ∧
     (s.nextGrant (s.cluster k).composeQ = some (r, l) → r.slot < 8 → r.again = false →
       (∃ t, exec (.composeGrant k) s = .next t ∧ lent t ∧
         ((t.core r.cid).slot r.slot).ws.ctl = { t0.ws.ctl with c := false, cw := widthCode r.n } ∧
         ((t.core r.cid).slot r.slot).ws.pc = t0.ws.pc + BitVec.ofNat 64 (2 * t0.chainLen) ∧
         ((t.core r.cid).slot r.slot).wait = none) ∧ exec (.recomposeGrant k) s = .next s) ∧
     (s.nextGrant (s.cluster k).composeQ = some (r, l) → r.slot < 8 → r.again = true →
       (∃ t, exec (.recomposeGrant k) s = .next t ∧ lent t ∧ ((t.core r.cid).slot r.slot).ws = t0.ws) ∧
       exec (.composeGrant k) s = .next s) ∧
     (∀ w, t1.wait = some (.compose w since) → slot < 8 →
       (since + 1024 ≤ s.now → s.members cid w = none → ∃ t, exec (.composeTimeout cid slot) s = .next t ∧
         ((t.core cid).slot slot).ws.ctl = { t1.ws.ctl with c := true, cw := 0 } ∧
         ((t.core cid).slot slot).ws.pc = t1.ws.pc + BitVec.ofNat 64 (2 * t1.chainLen) ∧
         ((t.core cid).slot slot).wait = none) ∧
       (s.now < since + 1024 ∨ (s.members cid w).isSome = true → exec (.composeTimeout cid slot) s = .next s)) ∧
     ((s.core cid).lent = some (ld, slot) → (s.core cid).runList ≠ [] → slot < 8 → cid ∈ t2.members → t2.lost = [] →
       t2.ws.tsw.state ≠ .trapped →
       (∀ a b c e f h, t2.wait = some (.waita a b c e f h) → s.sound a = true ∧ s.Uncached a) → ∃ t, exec (.reclaim cid) s = .next t ∧
         let x := (t.core ld).slot slot
         x.members = [] ∧ (∀ m ∈ t2.members, (t.core m).lent = none) ∧
         (t2.ws.ctl.cw ≠ 0 → x.recompose = true ∧
           { cid := ld, slot := slot, n := 2 ^ t2.ws.ctl.cw.toNat, again := true } ∈ (t.cluster (ld / 8)).composeQ) ∧
         ((∀ a b c e f h, t2.wait ≠ some (.waita a b c e f h)) → x.wait = t2.wait ∧ x.ws.pc = t2.ws.pc ∧ x.ws.g = t2.ws.g) ∧
         (∀ a b c e f h, t2.wait = some (.waita a b c e f h) → t2.ws.ctl.repA = false → x.wait = none ∧
           x.ws.tsw.state = .runnable ∧ x.ws.pc = t2.ws.pc + BitVec.ofNat 64 (2 * t2.chainLen) ∧
           x.ws.g = t2.ws.g.set (t2.ws.ctl.phys e).toNat (s.waitValue (.waita a b c e f h)))))

/-- R143, R253, R365 to R368: a request marks a task once, with PRES 1. At a listed point, or at once at a parked or a trapped
task whose PC is listed, only the live registers are saved, PRES 2, else, or at a forced save 65,536 cc later, everything,
PRES 3: the task is SAVED at A in its slot, which holds a task yet; a parked WAITA completes first, and the wait of an EXITS
successor for its channel stays (R275). Its slot may then be freed, once no handler, in a slot or saved, is linked to the task
(that firmware waits for it is log entry 19) and no command of it is queued, and the task, its area and its queues are kept. It
resumes in its slot, or in a free one of its core, with its registers and its PC, runnable again, or trapped where it was; that
successor waits for its channel still (R275, log entry 39). A task that cannot be read clean is not released (R376). A freed slot's activation number goes on (log entry 52). -/
def Obligations.Preemption : Prop :=
  ∀ (s : State) (cid slot : Nat) (m : Word),
    let c := s.core cid
    let t0 := c.slot slot
    let cx := (s.cxOf cid).getD 0
    let area := t0.ws.vsd.area
    let savedAs (t : State) (pc : Word) (live : Option Word) : Prop :=
      let x := (t.core cid).slot slot
      x.held = true ∧ x.ws.tsw.state = .saved ∧ x.ws.ctl.pres = (if live.isSome then 2 else 3) ∧ x.ws.pc = pc ∧
        x.ws.mb = t0.ws.mb ∧ x.wait = (match t0.wait with | some (.blocked ch) => some (.blocked ch) | _ => none) ∧ x.woken = none ∧ x.preempt = none ∧ x.liveAt = live ∧
        x.taskId = t0.taskId ∧ x.queues = t0.queues ∧ t.mem = s.mem ∧ x.ws.vsd.vused = match live with
          | some e => t0.ws.vsd.vused &&& BitVec.ofNat 16 (e.toNat / 2 ^ 32)
          | none => t0.ws.vsd.vused
    let resumed (x y : Slot) : Prop :=
      x.ws.pc = y.ws.pc ∧ x.ws.ctl = { y.ws.ctl with pres := 0 } ∧ x.taskId = y.taskId ∧ x.queues = y.queues ∧
        (y.ws.tsw.cause = .none → x.ws.tsw.state = .runnable ∧ x.wait = y.wait ∧ (y.ws.ctl.cw ≠ 0 → x.recompose = true)) ∧
        (y.ws.tsw.cause ≠ .none → x.ws.tsw.state = .trapped) ∧
        (y.ws.ctl.pres = 3 → x.ws.g = y.ws.g ∧ x.ws.mb = y.ws.mb) ∧
        (y.ws.ctl.pres = 2 → y.liveAt = some m → (∀ i : Fin 32, x.ws.g[i] = if m.getLsbD i.val then y.ws.g[i] else 0) ∧
          ∀ i : Fin 8, x.ws.mb[i] = if m.getLsbD (48 + i.val) then y.ws.mb[i] else 0)
    slot < 8 →
    (t0.held = true → t0.ws.ctl.pres = 0 → t0.preempt = none →
      (∃ t, exec (.preemptionRequest cid (some slot)) s = .next t ∧ (t.core cid).slot slot =
        { t0 with preempt := some s.now, ws := { t0.ws with ctl := { t0.ws.ctl with pres := 1 } } } ∧
        ∀ j, j ≠ slot → (t.core cid).slot j = c.slot j) ∧
      (∃ t, exec (.preemptionRequest cid none) s = .next t ∧ ((t.core cid).slot slot).preempt = some s.now)) ∧
    (t0.held = true → t0.ws.ctl.pres ≠ 0 → exec (.preemptionRequest cid (some slot)) s = .next (s.modSlot cid slot id)) ∧
    (t0.held = true → c.ownTickets slot = [] → t0.members = [] → t0.lost = [] → t0.preempt.isSome = true →
      s.damaged = [] →
      (t0.ws.tsw.state = .runnable →
        (s.listed cx t0.ws.pc = some m → ∃ t, exec (.preemptionSave cid slot) s = .next t ∧
          savedAs t t0.ws.pc (some m) ∧ ((t.core cid).slot slot).ws.g = t0.ws.g) ∧
        (s.listed cx t0.ws.pc = none → exec (.preemptionSave cid slot) s = .next s ∧
          (s.requestDue cid slot = true → ∃ t, exec (.preemptionForcedSave cid slot) s = .next t ∧
            savedAs t t0.ws.pc none ∧ ((t.core cid).slot slot).ws.g = t0.ws.g))) ∧
      (t0.ws.tsw.state = .parked ∨ t0.ws.tsw.state = .trapped →
        (∀ a b d e f h, t0.wait ≠ some (.waita a b d e f h)) → (t0.ws.tsw.state = .parked → t0.awaitsReply = false) →
        ∃ t, exec (.preemptionSave cid slot) s = .next t ∧ savedAs t t0.ws.pc (s.listed cx t0.ws.pc) ∧
          ((t.core cid).slot slot).ws.g = t0.ws.g) ∧
      (∀ a b d e f h, t0.ws.tsw.state = .parked → t0.wait = some (.waita a b d e f h) → s.sound a = true → s.Uncached a →
        t0.ws.ctl.repA = false →
        let next := t0.ws.pc + BitVec.ofNat 64 (2 * t0.chainLen)
        ∃ t, exec (.preemptionSave cid slot) s = .next t ∧ savedAs t next (s.listed cx next) ∧
          ((t.core cid).slot slot).ws.g = t0.ws.g.set (t0.ws.ctl.phys e).toNat (s.waitValue (.waita a b d e f h)))) ∧
    (t0.held = true → t0.ws.tsw.state = .saved → (∀ i, i < 8 → (c.slot i).link ≠ some slot) →
      (∀ y ∈ s.savedTasks, ¬ (y.cid = cid ∧ y.task.link = some slot)) → t0.handlerDue = false →
      (∀ r ∈ c.runList, r.kind ≠ .handler slot) → (∀ x ∈ c.mx.queue, ¬ (x.slot = slot ∧ x.act = t0.actNo)) →
      s.taskClean cid slot = true →
      ∃ t, exec (.savedTaskSlotRelease cid slot) s = .next t ∧
        (t.core cid).slot slot = { Slot.reset with actNo := t0.actNo } ∧
        t.savedTasks = s.savedTasks ++
          [{ cid := cid, slot := slot, cx := cx, task := t0, area := c.lm.within area.1 (area.1 + area.2) }]) ∧
    (t0.held = true → t0.ws.tsw.state = .saved → s.taskClean cid slot = false →
      exec (.savedTaskSlotRelease cid slot) s = .next s) ∧
    (t0.held = true → t0.ws.tsw.state = .saved → ∃ t, exec (.resumption cid slot) s = .next t ∧
      resumed ((t.core cid).slot slot) t0) ∧
    (∀ y, t0.held = false → c.lent = none → c.retired = false → s.savedTasks = [y] → y.cid = cid → y.slot = slot →
      s.cxOf cid = some y.cx → s.Canonical → ∃ t, exec (.resumption cid slot) s = .next t ∧ t.savedTasks = [] ∧
        resumed ((t.core cid).slot slot) y.task ∧ ((t.core cid).slot slot).actNo = t0.actNo + 1 ∧
        let a := y.task.ws.vsd.area
        ∀ x, a.1 ≤ x → x < a.1 + a.2 → (t.core cid).lm.get x = y.area.get x)

/-- R195, R332, R369, R370: a whole core of saved tasks moves to a vacant core of its context: LM, tasks, tables, tickets,
counters and channel counts are found there, with the stolen records that were under way to it (log entry 60), in words that are
readable (R375), the source is at reset values, and the receiving cluster holds no older copy (log entry 46, DEDUCED). A quiet cluster whose tickets expose nothing passes to another context, its LMs, CSP and tasks kept for their own context, and
the new one finds nothing of them, but what was kept of it there; neither happens before firmware can read every task clean
(R376), and a target's q4 to q7 are empty too (log entry 60); a phalanx with members in the cluster is handed back (log entry
19, DESIGN CHOICE). -/
def Obligations.CoresAndClustersMove : Prop :=
  ∀ (s : State) (src dst k : Nat) (cxid : Option Nat),
    let a := s.core src
    let ids := (List.range 8).map fun i => 8 * k + i
    let mine (x : SavedCluster) : Bool := x.cluster == k && some x.cx == cxid
    (src ≠ dst → (s.cxOf src).isSome = true → s.cxOf src = s.cxOf dst → s.vacant dst = true → a.quiet = true →
      a.settled = true → (∀ l ∈ s.launches, ∀ x ∈ l.pending, x.1 ≠ src) → s.sound (.lm src 0) = true →
      ∃ t, exec (.coreMove src dst) s = .next t ∧
        (let y := t.core dst;
          y.lm = a.lm ∧ y.full = a.full ∧ y.slots = a.slots ∧ y.cts = a.cts ∧ y.tickets = a.tickets ∧ y.tt = a.tt ∧
            y.deque = a.deque ∧ y.runList = a.runList ∧ y.counters = a.counters ∧ y.chans = a.chans ∧
            y.preds = a.preds ∧ y.pth = a.pth ∧ y.specbud = a.specbud ∧ y.mx = a.mx ∧ y.arrivals = a.arrivals ∧
            y.owed = a.owed ++ a.steal.due ++ (s.core dst).owed) ∧
        (let z := t.core src;
          z.lm = [] ∧ z.full = [] ∧ (∀ i, i < 8 → (z.slot i).held = false) ∧ z.tt = [] ∧ z.deque = [] ∧ z.runList = [] ∧
            z.counters = [] ∧ z.mx = Mx.reset ∧ z.chans = Core.reset.chans ∧ z.owed = [] ∧
            ∀ i, i < 32 → (z.ticket i).state = .free ∧ (z.ticket i).gen = (a.ticket i).gen) ∧
        ((s.cluster (src / 8)).ulines = [] → t.mem = s.mem) ∧ (t.cluster (dst / 8)).copies = [] ∧
        t.savedTasks = s.savedTasks.map fun x =>
          if x.cid = src ∧ s.cxOf src = some x.cx then { x with cid := dst } else x) ∧
    (s.vacant dst = true ↔ (∀ i : Fin 8, ((s.core dst).slot i.val).held = false) ∧ (s.core dst).quiet = true ∧
      (∀ i : Fin 32, (s.core dst).tickets[i].state = .free) ∧ (s.core dst).retired = false ∧ (s.core dst).runList = [] ∧
      (s.core dst).deque = [] ∧ (s.core dst).counters = [] ∧ (∀ i : Fin 4, (s.core dst).local4[i] = []) ∧
      ∀ x ∈ s.savedTasks, x.cid = dst → s.cxOf dst ≠ some x.cx) ∧
    (s.copyable src = false → exec (.coreMove src dst) s = .next s) ∧
    (src ≠ dst → (s.cxOf src).isSome = true → s.cxOf src = s.cxOf dst → s.vacant dst = true → a.quiet = true →
      a.settled = true → (∀ l ∈ s.launches, ∀ x ∈ l.pending, x.1 ≠ src) → s.copyable src = true →
      ∃ t, exec (.coreMove src dst) s = .next t ∧ ∀ u, u < 0x3000 → (0x400 ≤ u ∨ (a.slot (u / 128)).held = true) →
        (.lm, dst, u) ∉ t.damaged) ∧
    ((∀ x, cxid = some x → (s.contexts.get x).isSome = true ∧ ∃ c ∈ ids, (s.core c).retired = false) →
      (s.cluster k).owner ≠ cxid →
      (∀ c ∈ ids, ((s.handBackIn k).core c).quiet = true ∧ ((s.handBackIn k).core c).exposed = true) → s.launching k = false →
      s.wordsInto k = false → ((s.cluster k).owner.isSome = true → ∀ c ∈ ids, (s.handBackIn k).copyable c = true) →
      ∃ t, exec (.clusterContextSwitch k cxid) s = .next t ∧ (t.cluster k).owner = cxid ∧
        (t.cluster k).copies = [] ∧ (t.cluster k).late = [] ∧ (t.cluster k).ulines = [] ∧ (t.cluster k).l2 = [] ∧
        (∀ c ∈ ids, (t.core c).tt = [] ∧ (t.core c).l1 = [] ∧ (t.core c).icache = [] ∧ (t.core c).runList = [] ∧
          (t.core c).deque = [] ∧ (t.core c).sendQ = [] ∧ (t.core c).inbound = [] ∧ (t.core c).lent = none) ∧
        (s.savedClusters.find? mine = none → (t.cluster k).csp = [] ∧ (t.cluster k).full = [] ∧
          ∀ c ∈ ids, (t.core c).lm = [] ∧ (t.core c).full = [] ∧ (t.core c).counters = [] ∧ (t.core c).mx = Mx.reset ∧
            ∀ j, j < 8 → ((t.core c).slot j).held = false) ∧
        (∀ y, s.savedClusters.find? mine = some y → y.cores.length = 8 →
          (t.cluster k).csp = y.csp ∧ (t.cluster k).full = y.full ∧ ∀ i : Fin 8,
            let x := y.cores.getD i.val Core.reset
            let z := t.core (8 * k + i.val)
            z.lm = x.lm ∧ z.full = x.full ∧ z.slots = x.slots ∧ z.cts = x.cts ∧ z.mx = x.mx ∧ z.tickets = x.tickets ∧
              z.counters = x.counters) ∧
        (∀ ld sl, (∀ c ∈ ids, (s.core c).lent = none ∨ (s.core c).lent = some (ld, sl)) →
          (∃ c ∈ ids, (s.core c).lent = some (ld, sl)) → ld / 8 ≠ k → sl < 8 → ((t.core ld).slot sl).members = []) ∧
        ((∀ c ∈ ids, (s.core c).lent = none ∧ (s.core c).dirQ = [] ∧ (s.core c).aside = [] ∧ s.sound (.lm c 0) = true) →
          (s.cluster k).ulines = [] →
          t.mem = s.mem ∧ ∀ o, (s.cluster k).owner = some o → ∃ x ∈ t.savedClusters, x.cluster = k ∧ x.cx = o ∧
            x.csp = (s.cluster k).csp ∧ x.cores = ids.map s.core))

/-! ## Inference, firmware and the world outside -/

/-- R315: BHASH of at most 16 tokens folds them in order into the hash it starts from: xor, rotate by 5, multiply. A count
of 0 gives the start; a wider hash or a greater count traps ILLOP, an address that is not 4-aligned ALIGN.

R344, R345, R348: KVLOOK and KVMAP make the checks of R348's table in its order; the home is that of the point nearest at or
after the key, the lowest winning a tie, or KVMAP's override. With a home of another context, or none, they complete with
status 4, else they send their request and park until the reply, or park while the send queue is full.

R353 to R355: SPTLOOK of no hash completes with 0, of 1 to 64 it reads them, sends and parks; SPTINS sends and parks. Their
operands are checked first. (Log entry 25, DEDUCED: SPTLOOK of no hash looks at no address, a ring whose count is out of range
has no point read, and an override to a row above 19 answers status 4. Entry 50, DEDUCED: the pair registers of BHASH,
KVLOOK, KVMAP, SPTLOOK and SPTINS are g[a+1] and g[b+1] after stagger and rotation.) -/
def Obligations.InferenceInstructions : Prop :=
  (∀ (s u : State) (d a b : GReg) (ts : List Nat),
     let n := (s.g (a + 1)).toNat
     let fold (h : BitVec 32) (t : Nat) : BitVec 32 :=
       ((h ^^^ BitVec.ofNat 32 t).rotateLeft 5) * BitVec.ofNat 32 0x2F0B3A49
     (a = 0 ∨ a.getLsbD 0 = true → ∀ i ∈ [Instr.bhash d a b, .kvlook d a b, .kvmap d a b, .sptlook d a b, .sptins d a],
       exec i s = .next (s.takeTrap .illop 0)) ∧
     (a ≠ 0 → a.getLsbD 0 = false →
       ((s.g a).toNat < 2 ^ 32 → n = 0 → Completes (exec (.bhash d a b) s) (s.setG d (s.g a))) ∧
       ((s.g a).toNat < 2 ^ 32 → 0 < n → n ≤ 16 → (s.g b).toNat % 4 = 0 → s.loadWords 4 n (s.g b) = .ok (ts, u) →
         Completes (exec (.bhash d a b) s)
           (u.setG d (BitVec.ofNat 64 (ts.foldl fold (BitVec.ofNat 32 (s.g a).toNat)).toNat))) ∧
       ((s.g a).toNat < 2 ^ 32 → 0 < n → n ≤ 16 → (s.g b).toNat % 4 ≠ 0 →
         exec (.bhash d a b) s = .next (s.takeTrap .align (s.g b))) ∧
       (2 ^ 32 ≤ (s.g a).toNat ∨ 16 < n → exec (.bhash d a b) s = .next (s.takeTrap .illop 0)))) ∧
  (∀ (s s1 : State) (d a b : GReg) (r : Ring) (map : Bool) (c : Cause) (info : Word),
     let i : Instr := if map then .kvmap d a b else .kvlook d a b
     let q := (s.g (a + 1)).toNat
     let pos := (s.g b).toNat
     let arg := s.g (b + 1)
     let ovr := map && (s.g (a + 1)).getLsbD 63
     let trap (c : Cause) (info : Word) : Prop := exec i s = .next (s.takeTrap c info)
     let bad : Prop := (if map then q / 2 ^ 48 % 2 ^ 15 ≠ 0 ∨ (ovr = false ∧ q / 2 ^ 32 % 2 ^ 16 ≠ 0) ∨
         arg.toNat / 2 ^ 62 = 0 ∨ 2 ≤ arg.toNat / 2 ^ 60 % 4 else q / 2 ^ 32 ≠ 0) ∨ 2 ^ 36 ≤ pos
     let fold (h : BitVec 32) (t : Nat) : BitVec 32 :=
       ((h ^^^ BitVec.ofNat 32 t).rotateLeft 5) * BitVec.ofNat 32 0x2F0B3A49
     let key := fold (fold (BitVec.ofNat 32 0x5A17C0DE) (q % 2 ^ 32)) (pos / 16)
     let dist (p : Nat) : Nat := (p % 2 ^ 32 + 2 ^ 32 - key.toNat) % 2 ^ 32
     let nearest (p : Nat) : Prop := ∃ j : Nat, r.points[j]? = some p ∧
       ∀ k p' : Nat, r.points[k]? = some p' → dist p < dist p' ∨ (dist p = dist p' ∧ j ≤ k)
     let fine : Prop := 1 ≤ r.head % 512 ∧ r.head % 512 ≤ 256 ∧ r.head / 2 ^ 9 % 8 = 0 ∧ 4 ≤ r.head / 2 ^ 12 % 16 ∧
       r.head / 2 ^ 12 % 16 ≤ 10 ∧ r.head / 2 ^ 16 % 2 ^ 16 % 16 = 0 ∧ r.head / 2 ^ 32 % 2 ^ 32 = 0 ∧
       r.head / 2 ^ 64 % 65536 = 0 ∧ r.head / 2 ^ 128 % 65536 = 0 ∧ r.head / 2 ^ 192 = 0 ∧ ∀ p ∈ r.points, p < 2 ^ 38
     a ≠ 0 → a.getLsbD 0 = false →
     (b = 0 ∨ b.getLsbD 0 = true → trap .illop 0) ∧
     (b ≠ 0 → b.getLsbD 0 = false →
       (bad → trap .illop 0) ∧
       (¬ bad → (s.g a).toNat % 64 ≠ 0 → trap .align (s.g a)) ∧
       (¬ bad → (s.g a).toNat % 64 = 0 →
         (map = false → arg.toNat % 4 ≠ 0 → trap .align arg) ∧
         (map = true ∨ arg.toNat % 4 = 0 →
           (s.readRing (s.g a) = .error (.trap c info) → trap c info) ∧
           (s.readRing (s.g a) = .ok (r, s1) →
             (¬ fine → trap .illop 0) ∧
             (fine → ∀ p home, nearest p →
               home = (if ovr then q / 2 ^ 32 % 2 ^ 16 else r.homes / 2 ^ (16 * (p / 2 ^ 32)) % 2 ^ 16) →
               let low := home / 2 ^ 8 % 32 < 20
               let lost := map = false ∧ arg ≠ 0 ∧ ¬ (isLocal arg = true ∧ winSel arg = 0 ∧ winOff arg + 4 ≤ 0xC000 ∧
                 s1.here.reserved (winOff arg) 4 = false)
               let s2 := if map then s1.releaseTo .package else s1
               (ovr = false → ¬ low → trap .illop 0) ∧
               (low → lost → trap .perm arg) ∧
               (ovr = true → ¬ low → Completes (exec i s) (s2.setG d 4)) ∧
               (low → ¬ lost → s2.welcome home s2.cx = false → Completes (exec i s) (s2.setG d 4)) ∧
               (low → ¬ lost → s2.welcome home s2.cx = true → 8 ≤ s2.here.sendQ.length →
                 exec i s = .next (s.park .sendQueue)) ∧
               (low → ¬ lost → s2.welcome home s2.cx = true → s2.here.sendQ.length < 8 →
                 exec i s = .next ((s2.withMessage none home 0 (.kv
                   { map := map, src := s2.hereCid, slot := s2.here.cur.val, sq := BitVec.ofNat 32 q
                     blk := BitVec.ofNat 32 (pos / 16), key := key, ovr := ovr, toff := r.head / 2 ^ 16 % 2 ^ 16
                     logt := r.head / 2 ^ 12 % 16, near := BitVec.ofNat 64 (r.head / 2 ^ 64)
                     far := BitVec.ofNat 64 (r.head / 2 ^ 128), arg := arg, hops := 0 })).park (.reply d (!map)))))))))) ∧
  (∀ (s s1 : State) (d a b : GReg) (hs : List Nat),
     let n := (s.g (a + 1)).toNat
     let out := s.g b
     let off := winOff out
     let home := ((s.ctxCfg s.cx).map (·.homeDie)).getD 0
     let place : Loc := if winSel out = 0 then .lm s.hereCid off else .csp (s.hereCid / 8) off
     let fits : Prop := isLocal out = true ∧
       ((winSel out = 0 ∧ off + 4 * n ≤ 0xC000 ∧ s1.here.reserved off (4 * n) = false ∧ s1.here.onCounter off (4 * n) = false) ∨
        (winSel out = 1 ∧ off + 4 * n ≤ 0x40000))
     a ≠ 0 → a.getLsbD 0 = false →
     (n = 0 → Completes (exec (.sptlook d a b) s) (s.setG d 0)) ∧
     (64 < n → exec (.sptlook d a b) s = .next (s.takeTrap .illop 0)) ∧
     (0 < n → n ≤ 64 →
       ((s.g a).toNat % 4 ≠ 0 → exec (.sptlook d a b) s = .next (s.takeTrap .align (s.g a))) ∧
       ((s.g a).toNat % 4 = 0 → out.toNat % 4 ≠ 0 → exec (.sptlook d a b) s = .next (s.takeTrap .align out)) ∧
       ((s.g a).toNat % 4 = 0 → out.toNat % 4 = 0 → s.loadWords 4 n (s.g a) = .ok (hs, s1) →
         (¬ fits → exec (.sptlook d a b) s = .next (s.takeTrap .perm out)) ∧
         (fits → s1.holders (place.lines (4 * n)) = [] → s1.here.sendQ.length < 8 →
           exec (.sptlook d a b) s = .next ((s1.withMessage none (8192 * home) 0 (.spt
             { ins := false, src := s.hereCid, slot := s.here.cur.val, hashes := hs.map (BitVec.ofNat 32), out := place
               word := 0, page := 0 })).park (.reply d false))) ∧
         (fits → s1.holders (place.lines (4 * n)) = [] → 8 ≤ s1.here.sendQ.length →
           exec (.sptlook d a b) s = .next (s.park .sendQueue)))) ∧
     (let w := (s.g a).toNat
       let ok := w / 2 ^ 62 < 3 ∧ w / 2 ^ 48 % 2 ^ 14 = 0 ∧ w / 2 ^ 32 % 2 ^ 16 ≠ 0 ∧ n < 2 ^ 24
       (¬ ok → exec (.sptins d a) s = .next (s.takeTrap .illop 0)) ∧
       (ok → s.here.sendQ.length < 8 → exec (.sptins d a) s = .next ((s.withMessage none (8192 * home) 0 (.spt
         { ins := true, src := s.hereCid, slot := s.here.cur.val, hashes := [], out := .lm s.hereCid 0, word := s.g a
           page := BitVec.ofNat 24 n })).park (.reply d false))) ∧
       (ok → 8 ≤ s.here.sendQ.length → exec (.sptins d a) s = .next (s.park .sendQueue))))

/-- R346, R349, R350: the directory agent. A lookup of a near entry is answered with its page and status 0, of a far one
without an arrival word with the far page and status 2; with one the page-in starts, or the word joins the sixteen that wait
for it, and the answer is the near page and status 1; a request that finds sixteen is set aside; no entry gives status 3.
KVMAP with the entry's version replaces its body and gives the next version, 4,095 being followed by 1, and with another
version answers the version found with status 1 and writes nothing.

R349: a page-in that ends whole leaves the near page with the far page's bytes, its entry near, and its arrival words full
and zero, with no copy of the page left in their clusters: that the copies go at the arrival, where R349 drops them at the LDS
that reads the word, is the model's choice (log entry 46, DEDUCED, State.dropPage); one that meets an uncorrectable error leaves the entry far and the
words full and 1; the agent is done with it. That it ends in one event is the model's reading (log entry 22, DEDUCED).

R353, R354: the prefix unit. A lookup answers how many entries match the chain from its start, pins each once more,
and writes their pages and no other byte, in the event that replies (log entry 41, DEDUCED). An insert of a new entry adds it, or replaces the least recently used unpinned
one, or answers 2; a second of the same page answers 0 and of another page 3; an unpin and a remove answer as the table of
R354 says. -/
def Obligations.InferenceAgents : Prop :=
  (∀ (s : State) (cid k : Nat) (r : KvReq) (rest : List KvReq),
     let c := s.core cid
     let p := c.lookup r
     let off := r.toff + 16 * k
     let w : Word := BitVec.ofNat 64 (c.lm.readN (off + 8) 8)
     let ver := w.toNat / 2 ^ 48 % 2 ^ 12
     let tier := w.toNat / 2 ^ 60 % 4
     let near : Word := BitVec.ofNat 64 (r.near.toNat + w.toNat % 2 ^ 24 * 65536)
     let far : Word := BitVec.ofNat 64 (r.far.toNat + w.toNat / 2 ^ 24 % 2 ^ 24 * 65536)
     let asker (t : State) : Option Word := ((t.core r.src).slot r.slot).reply
     let answers (t : State) (page : Word) (v st : Nat) : Prop :=
       asker t = some (BitVec.ofNat 64 (page.toNat / 2 ^ 16 * 2 ^ 16 + v * 16 + st))
     c.dirQ = r :: rest → c.retired = false → c.tableOk r = true → s.damaged = [] → s.Canonical →
     s.holders (((p.seen.map fun j => Loc.lm cid (r.entry j)).map Loc.line).eraseDups) = [] →
     r.slot < 8 → ((s.core r.src).slot r.slot).held = true → ((s.core r.src).slot r.slot).awaitsReply = true →
     (p.found = none → r.map = false → ∃ t, exec (.kvLookupRequest cid) s = .next t ∧ asker t = some 3 ∧
       (t.core cid).dirQ = rest ∧ (t.core cid).lm = c.lm) ∧
     (p.found = some k → w.toNat / 2 ^ 62 = 2 →
       (r.map = false → ∃ t, exec (.kvLookupRequest cid) s = .next t ∧ (t.core cid).dirQ = rest ∧
         (tier = 0 → answers t near ver 0 ∧ (t.core cid).lm = c.lm ∧ (t.core cid).pageIns = c.pageIns) ∧
         (tier ≠ 0 → r.arg = 0 → answers t far ver 2 ∧ (t.core cid).lm = c.lm ∧ (t.core cid).pageIns = c.pageIns) ∧
         (tier = 1 → r.arg ≠ 0 → answers t near ver 1 ∧ (t.core cid).lm.readN (off + 8) 8 = w.toNat + 2 ^ 60 ∧
           { slotOff := off, src := far, dst := near, words := [(r.src, winOff r.arg)], fault := none } ∈
             (t.core cid).pageIns) ∧
         (∀ y, tier = 2 → r.arg ≠ 0 → c.pageIns.find? (fun y => y.slotOff == off) = some y →
           (t.core cid).lm = c.lm ∧
           (y.words.length < 16 → answers t near ver 1 ∧
             { y with words := y.words ++ [(r.src, winOff r.arg)] } ∈ (t.core cid).pageIns) ∧
           (16 ≤ y.words.length → asker t = asker s ∧ (t.core cid).aside = c.aside ++ [r] ∧
             (t.core cid).pageIns = c.pageIns))) ∧
       (r.map = true → tier = 2 → ∃ t, exec (.kvMapRequest cid) s = .next t ∧ asker t = some 2 ∧
         (t.core cid).lm = c.lm) ∧
       (r.map = true → tier ≠ 2 → r.arg.toNat / 2 ^ 48 % 2 ^ 12 = ver → r.arg.toNat / 2 ^ 62 = 2 →
         let next := if ver = 4095 then 1 else ver + 1
         ∃ t, exec (.kvMapRequest cid) s = .next t ∧ asker t = some (BitVec.ofNat 64 (next * 16)) ∧
           (t.core cid).lm.readN (off + 8) 8 = 2 * 2 ^ 62 + r.arg.toNat / 2 ^ 60 % 4 * 2 ^ 60 + next * 2 ^ 48 +
             r.arg.toNat % 2 ^ 48) ∧
       (r.map = true → tier ≠ 2 → r.arg.toNat / 2 ^ 48 % 2 ^ 12 ≠ ver →
         ∃ t, exec (.kvMapRequest cid) s = .next t ∧ asker t = some (BitVec.ofNat 64 (ver * 16 + 1)) ∧
           (t.core cid).lm = c.lm))) ∧
  (∀ (s u v : State) (cid k src dst : Nat) (x : PageIn),
     let entry (t : State) : Nat := (t.core cid).lm.readN (x.slotOff + 8) 8
     let arrived (t : State) (n : Nat) : Prop :=
       (∀ a ∈ x.words, (t.core a.1).lm.readN a.2 4 = n ∧ t.isFull (.lm a.1 a.2) = true) ∧
         ∀ y ∈ (t.core cid).pageIns, y.slotOff ≠ x.slotOff
     (s.core cid).pageIns[k]? = some x → x.fault = none → s.wordsOpen cid x = true → s.Canonical →
     (∀ d ∈ s.damaged, d.1 = .mem) →
     s.engineLoc cid .load x.src = .ok (.phys src, u) → u.engineLoc cid .store x.dst = .ok (.phys dst, v) →
     0x1000 ≤ x.slotOff → x.slotOff % 16 = 0 →
     (∀ a ∈ x.words, 0x1000 ≤ a.2 ∧ a.2 % 4 = 0 ∧ (a.1 ≠ cid ∨ a.2 + 4 ≤ x.slotOff ∨ x.slotOff + 16 ≤ a.2)) →
     (s.damaged = [] → src % 65536 = 0 → dst % 65536 = 0 → src ≠ dst → (∀ c ∈ s.clusters, c.2.ulines = []) →
       ∃ t, exec (.pageInComplete cid k true) s = .next t ∧
         (∀ i, i < 65536 → t.mem.get (dst + i) = s.mem.get (src + i)) ∧
         (∀ a, a < dst ∨ dst + 65536 ≤ a → t.mem.get a = s.mem.get a) ∧
         entry t / 2 ^ 60 % 4 = 0 ∧ entry t % 2 ^ 60 = entry s % 2 ^ 60 ∧ arrived t 0 ∧
         ∀ a ∈ x.words, ∀ y ∈ (t.cluster (a.1 / 8)).copies, y.line < dst / 64 ∨ dst / 64 + 1024 ≤ y.line) ∧
     ((v.damagedByte (.phys src) 65536).isSome = true → ∃ t, exec (.pageInComplete cid k false) s = .next t ∧
       t.mem = s.mem ∧ entry t / 2 ^ 60 % 4 = 1 ∧ entry t % 2 ^ 60 = entry s % 2 ^ 60 ∧ arrived t 1)) ∧
  (∀ (s : State) (cxid : Nat) (x : Context) (r : SptReq) (rest : List SptReq),
     let hit := matchChain x.prefixes 0 r.hashes
     let op := r.word.toNat / 2 ^ 62
     let asker (t : State) : Option Word := ((t.core r.src).slot r.slot).reply
     let key (e : Prefix) : Bool := decide (e.hash.toNat = r.word.toNat % 2 ^ 32 ∧
       e.depth.toNat = r.word.toNat / 2 ^ 32 % 2 ^ 16)
     let gives (st : Nat) (l : List Prefix) : Prop := ∃ t y, exec (.prefixInsertRequest cxid) s = .next t ∧
       asker t = some (BitVec.ofNat 64 st) ∧ t.contexts.get cxid = some y ∧ y.sptQ = rest ∧ y.prefixes = l ∧
       t.mem = s.mem
     let fresh : Prefix := { hash := BitVec.ofNat 32 r.word.toNat, depth := BitVec.ofNat 16 (r.word.toNat / 2 ^ 32)
                             page := r.page, pin := 0 }
     s.contexts.get cxid = some x → x.sptQ = r :: rest → r.slot < 8 → ((s.core r.src).slot r.slot).held = true →
     ((s.core r.src).slot r.slot).awaitsReply = true →
     (r.ins = false → s.holders (r.out.lines (4 * hit.length)) = [] → r.out.plain → s.Canonical → s.sound r.out = true →
       (∃ c o, r.out = .lm c o ∨ r.out = .csp c o) →
       ∃ t y, exec (.prefixLookupRequest cxid) s = .next t ∧ asker t = some (BitVec.ofNat 64 hit.length) ∧
         t.contexts.get cxid = some y ∧ y.sptQ = rest ∧
         y.prefixes = (x.prefixes.filter fun e => !hit.contains e) ++ hit.map (fun e => { e with pin := e.pin + 1 }) ∧
         (∀ j e, hit[j]? = some e → t.bytesAt (r.out.add (4 * j)) 4 = e.page.toNat) ∧
         ∀ z : Loc, z.outside r.out (4 * hit.length) → t.byteAt z = s.byteAt z) ∧
     (r.ins = true → x.prefixes.find? key = none →
       (op = 0 → x.prefixes.length < 64 → gives 0 (x.prefixes ++ [fresh])) ∧
       (∀ before z after, op = 0 → 64 ≤ x.prefixes.length → x.prefixes = before ++ z :: after → z.pin = 0 →
         (∀ e ∈ before, e.pin ≠ 0) → gives 0 (before ++ after ++ [fresh])) ∧
       (op = 0 → 64 ≤ x.prefixes.length → (∀ e ∈ x.prefixes, e.pin ≠ 0) → gives 2 x.prefixes) ∧
       (op = 1 ∨ op = 2 → gives 1 x.prefixes)) ∧
     (∀ e, r.ins = true → x.prefixes.find? key = some e →
       (op = 0 → gives (if e.page = r.page then 0 else 3) x.prefixes) ∧
       (op = 1 → e.pin = 0 → gives 4 x.prefixes) ∧
       (op = 1 → e.pin ≠ 0 → gives 0 (x.prefixes.map fun z => if key z then { z with pin := z.pin - 1 } else z)) ∧
       (op = 2 → e.pin = 0 → gives 0 (x.prefixes.filter fun z => !key z)) ∧
       (op = 2 → e.pin ≠ 0 → gives 4 x.prefixes)))

/-- R357, R359, R364: firmware's decision on a fault it took first. Resolved, the task issues again at A as it was, and no
first-level entry of the page is left, TRINFO being what it was before the fault (log entry 40, DEDUCED), once no task of the
context waits where its address no longer leads (log entry 61, DESIGN CHOICE); passed where the policy of its context passes the cause, the trap goes to the handler;
declined where it does not, the task is retired and, where it is no handler, a KIND 9 record has its CAUSE; a trapped task that no
handler takes is retired in the same way, and so is the task that its link names (log entry 19, DESIGN CHOICE).

R197, R329, R331, R333, R336, R340, R342, R343, R371, R381: contexts, walkers and the world outside. A context with a free
identifier and a good configuration comes to life, every page of this X40 that no context could reach cleared, and none mapped
that another context can reach or that holds a page table; one that owns no cluster ends, and nothing tagged with its identifier stays. The host reads and writes aligned words of the
ranges it may write, and another device values of every size, 64 bytes among them, in device memory and the far tier that are exported to it, at their
home, which of a page under migration is the new one (log entry 29, DESIGN CHOICE). Reset keeps memory and takes everything else back to its reset value; firmware starts from an image whose CRC
is right. -/
def Obligations.FirmwareAndHost : Prop :=
  (∀ (s : State) (cid slot h : Nat) (old : Word) (g : ContextCfg) (e : TTEntry) (dec : FwDecision),
     let t0 := (s.core cid).slot slot
     let c := t0.ws.tsw.cause
     let page := t0.ws.trinfo.toNat / 65536 * 65536
     let pass := match c with | .xlate => g.passXlate | .perm => g.passPerm | .mchk => g.passMchk | _ => false
     let kind9 (i : Nat) : FaultRec :=
       { cx := (s.cxOf cid).getD 0, page := 0, kind := 9, cause := ((s.core cid).slot i).ws.tsw.cause, detail := i
         src := cid, count := 1 }
     let retired (t : State) (i : Nat) : Prop := (t.core cid).slot i = { Slot.reset with actNo := ((s.core cid).slot i).actNo }
     let named (t : State) (i : Nat) : Prop := ∃ r ∈ (t.die (cid / 8192)).faults,
       r.cx = (kind9 i).cx ∧ r.page = 0 ∧ r.kind = 9 ∧ r.cause = (kind9 i).cause
     slot < 8 → t0.held = true → t0.ws.tsw.state = .trapped → (s.cxOf cid).bind s.ctxCfg = some g →
     (t0.fwFault = some old →
       (c ≠ .mchk → isGlobal t0.ws.trinfo = true → s.astray none ((s.cxOf cid).getD 0) = false →
         ∃ t, exec (.firmwareFaultDecision cid slot .resolved) s = .next t ∧
         (t.core cid).slot slot = { t0 with
           wait := none, runSince := s.now, fwFault := none
           recompose := if t0.ws.ctl.cw = 0 then t0.recompose else true
           ws := { t0.ws with trinfo := old, tsw := { t0.ws.tsw with cause := .none, state := .runnable } } } ∧
         ∀ l ∈ (t.core cid).l1, l.cx = (s.cxOf cid).getD 0 → l.va + l.size ≤ page ∨ page + 65536 ≤ l.va) ∧
       (c = .mchk ∨ isGlobal t0.ws.trinfo = false ∨ s.astray none ((s.cxOf cid).getD 0) = true →
         exec (.firmwareFaultDecision cid slot .resolved) s = .next s) ∧
       (pass = true → s.HandlerReady cid slot h e →
         ∃ t, exec (.firmwareFaultDecision cid slot .passed) s = .next t ∧
           (t.core cid).slot slot = { t0 with fwFault := none, handlerDue := false } ∧ (t.core cid).steal = .busy ∧
           (t.core cid).runList = (s.core cid).runList ++
             [{ chan := BitVec.ofNat 8 h, prio := e.prio, since := s.now, kind := .handler slot }]) ∧
       (pass = false → exec (.firmwareFaultDecision cid slot .passed) s = .next s) ∧
       (pass = true → exec (.firmwareFaultDecision cid slot .declined) s = .next s) ∧
       (pass = false → t0.link = none → t0.launch = none → ∃ t, exec (.firmwareFaultDecision cid slot .declined) s = .next t ∧
         retired t slot ∧ named t slot)) ∧
     (t0.fwFault = none → s.noHandler cid slot = true → t0.launch = none →
       ∃ t, exec (.firmwareFaultDecision cid slot .declined) s = .next t ∧ retired t slot ∧
         (t0.link = none → named t slot) ∧ ∀ i, t0.link = some i → i < 8 → i ≠ slot → retired t i) ∧
     (t0.fwFault = none → dec ≠ .declined → exec (.firmwareFaultDecision cid slot dec) s = .next s)) ∧
  (∀ (s : State) (cfg : ContextCfg) (cxid dev pa home die base len : Nat) (sz : Option Size) (data : Line) (crc : BitVec 32),
     let wrote (r : Result) (n : Nat) : Prop := ∃ t, r = .next t ∧ t.bytesAt (.phys home) n = data.toNat % 2 ^ (8 * n) ∧
       ∀ x : Loc, x.outside (.phys home) n → t.byteAt x = s.byteAt x
     let reads (r : Result) (n : Nat) : Prop := ∃ t, r = .next t ∧
       t.lastRead = BitVec.ofNat 512 (s.bytesAt (.phys home) n) ∧ ∀ x, t.byteAt x = s.byteAt x
     let plain (n : Nat) : Prop := s.Canonical ∧ s.damaged = [] ∧ s.redirected (.phys pa) = .phys home ∧
       s.Uncached (.phys home) ∧ home % n = 0 ∧ pa % n = 0
     let device (n : Nat) : Prop := pa + n ≤ 0x9000000000
     let far (n : Nat) : Prop := 0x100000000000 ≤ pa ∧ pa + n ≤ 0x200000000000
     let born : State := { s with contexts := s.contexts.put cfg.cxid { cfg := cfg, prefixes := [], sptQ := [] } }
     let fresh := born.leaves cfg.cxid 0 (2 ^ 56)
     let inside (l : List Leaf) (a : Nat) : Prop := ∃ x ∈ l, x.pa ≤ a ∧ a < x.pa + x.size
     let apart (x l : Leaf) : Prop := x.size = 0 ∨ l.size = 0 ∨ x.pa + x.size ≤ l.pa ∨ l.pa + l.size ≤ x.pa
     let unshared : Prop := ∀ l ∈ fresh, ∀ x ∈ s.allLeaves ++ s.heldLeaves, x.cx ≠ l.cx → apart x l
     (s.firmware = .ready → s.contexts.get cfg.cxid = none → cfg.cxid < 4096 → cfg.root % 2 ^ 20 = 0 →
       cfg.maps.length ≤ 64 → (∀ m ∈ cfg.maps, mapOk m = true) → cfg.handler.getD 0 < 256 → s.dswFree cfg.dsw = true →
       s.quotasFit cfg = true → (∀ x ∈ cfg.classes, x.2 < 16) → born.tablesApart = true →
       born.tablesClear s.heldLeaves = true → unshared →
       (∀ l ∈ fresh, ∀ r ∈ s.redirects, r.oldPa + 65536 ≤ l.pa ∨ l.pa + l.size ≤ r.oldPa) → (∀ x ∈ s.clusters, x.2.ulines = []) →
       ∃ t, exec (.contextCreation cfg) s = .next t ∧ t.contexts = born.contexts ∧ (s.waiters = [] → t.here = s.here ∧ t.others = s.others) ∧
         (∀ a, inside fresh a → ¬ inside (s.allLeaves ++ s.heldLeaves) a → paDevice a = 0 → t.mem.get a = 0) ∧
         (∀ a, ¬ inside fresh a ∨ inside (s.allLeaves ++ s.heldLeaves) a ∨ paDevice a ≠ 0 → t.mem.get a = s.mem.get a) ∧
         ∀ x ∈ t.clusters, ∀ y ∈ x.2.copies, ¬ ∃ l ∈ fresh, l.pa / 64 ≤ y.line ∧ 64 * y.line < l.pa + l.size) ∧
     ((s.contexts.get cfg.cxid).isSome = true ∨ s.firmware ≠ .ready ∨ born.tablesApart = false ∨
         born.tablesClear s.heldLeaves = false ∨ ¬ unshared →
       exec (.contextCreation cfg) s = .next s) ∧
     ((∃ k ∈ s.clusters, k.2.owner = some cxid) → exec (.contextTeardown cxid) s = .next s) ∧
     (∀ x, s.contexts.get cxid = some x → (∀ k ∈ s.clusters, k.2.owner ≠ some cxid) →
       ∃ t, exec (.contextTeardown cxid) s = .next t ∧ t.contexts.get cxid = none ∧ t.mem = s.mem ∧
         (∀ c, (∀ l ∈ (t.core c).l1, l.cx ≠ cxid) ∧ (∀ y ∈ (t.core c).combines, y.cx ≠ cxid) ∧
           ∀ i j, ((t.core c).pred i j).cx = cxid → ((t.core c).pred i j).valid = false) ∧
         (∀ k ∈ t.clusters, ∀ l ∈ k.2.l2, l.cx ≠ cxid) ∧ (∀ o ∈ t.oldWalks, o.cx ≠ cxid) ∧
         (∀ e ∈ t.replies, e.cx ≠ cxid) ∧ (∀ y ∈ t.launches, y.cx ≠ cxid) ∧ (∀ m ∈ t.fwMsgs, m.cx ≠ cxid) ∧
         (∀ y ∈ t.savedTasks, y.cx ≠ cxid) ∧ (∀ y ∈ t.savedClusters, y.cx ≠ cxid) ∧
         (∀ d ∈ t.dies, (∀ r ∈ d.2.faults, r.cx ≠ cxid) ∧ (∀ l ∈ d.2.lists, ∀ r ∈ l.entries, r.cx ≠ cxid) ∧
           (∀ y ∈ d.2.launchQ, y.cx ≠ cxid) ∧
           ∀ y ∈ x.cfg.dsw, y.1 = d.1 → ∀ o, 65536 * y.2.1 ≤ o → o < 65536 * (y.2.1 + y.2.2) → d.2.dsw.get o = 0)) ∧
     (plain 8 → device 8 → (∃ b ∈ s.bars, b.1 ≤ pa ∧ pa + 8 ≤ b.1 + b.2.1 ∧ b.2.2 = true) →
       wrote (exec (.hostBarAccess true pa (data.setWidth 64)) s) 8 ∧
         reads (exec (.hostBarAccess false pa (data.setWidth 64)) s) 8) ∧
     (let n := (sz.map sizeBytes).getD 64
       let given : Prop := ∃ x ∈ s.exports, x.cores = false ∧ x.dev = dev ∧ x.cx = cxid ∧ x.lo ≤ pa ∧ pa + n - 1 ≤ x.hi
       (plain n → device n ∨ far n → given →
         wrote (exec (.marhelRemoteAccess dev cxid ⟨true, sz⟩ pa data) s) n ∧
           reads (exec (.marhelRemoteAccess dev cxid ⟨false, sz⟩ pa data) s) n) ∧
       ((∀ x ∈ s.exports, x.cores = true ∨ x.dev ≠ dev ∨ x.cx ≠ cxid ∨ pa < x.lo ∨ x.hi < pa) → ∀ w,
         exec (.marhelRemoteAccess dev cxid ⟨w, sz⟩ pa data) s = .next s)) ∧
     (∃ t, exec .reset s = .next t ∧ t.mem = s.mem ∧ t.hereCid = 0 ∧ t.here = Core.reset ∧ t.others = [] ∧ t.clusters = [] ∧
       t.dies = [] ∧ t.contexts = [] ∧ t.firmware = .halted false ∧ t.falls = 0 ∧ t.lastTrig = 0 ∧ t.snapHeld = false ∧
       t.snapshot = none ∧ t.trigEn = [] ∧ t.fallAt = [] ∧ t.bars = [] ∧ t.exports = [] ∧ t.savedTasks = [] ∧
       t.savedClusters = [] ∧ t.launches = [] ∧ t.replies = [] ∧ t.waiters = [] ∧ t.redirects = [] ∧ t.fwMsgs = [] ∧
       t.oldWalks = [] ∧ t.oldCode = [] ∧ (∀ d ∈ t.damaged, d.1 = .mem ∧ d ∈ s.damaged)) ∧
     (s.firmware ≠ .ready → len ≤ 2 ^ 26 → base + len ≤ 0x9000000000 →
       (crc32 s.mem base len = crc → exec (.firmwareStart base len crc) s = .next { s with firmware := .ready }) ∧
       (crc32 s.mem base len ≠ crc → exec (.firmwareStart base len crc) s = .next { s with firmware := .halted true })) ∧
     (∀ x, (s.die die).walkers = [] → (s.die die).walks = [(x, 1)] → ∃ t, exec (.walkerGrant die) s = .next t ∧
       (t.die die).walkers = [(x, 1)] ∧ (t.die die).walks = [(x, 0)] ∧ (t.die die).lastWalk = x ∧ t.here = s.here))

/-- R371 to R376, R382: migration, errors and heat. A movable page moves with its bytes, every mapping of it then naming the
new page and no first-level entry the old one; a pinned page moves only where its context asks (log entry 44, DESIGN CHOICE);
the redirection ends 65,536 cc later. A scrub of a damaged unit records the error, retires a core whose LM it is in, makes the unit
readable and touches no other byte; a word of a task that is still there stays as it is (log entry 23, DEDUCED). A core that meets an
uncorrectable error of its LM leaves service at once, with trigger 129, and issues nothing more. Of one with a damaged LM word
a task whose workspace and area read clean is saved, or will be when its reply comes, another is retired. A die throttles, and trips once. -/
def Obligations.Maintenance : Prop :=
  ∀ (s : State) (cxid va newPa k die cid unit : Nat) (l : Leaf) (r : Redirect) (sp : Space),
    let all := s.mappers l.pa
    let movable (x : Leaf) : Prop := x.size = 65536 ∧
      (x.pin = true → ∃ y, s.contexts.get x.cx = some y ∧ x.va / 65536 ∈ y.asks)
    let memory (pa : Nat) : Prop := pa % 65536 = 0 ∧
      (pa + 65536 ≤ 0x9000000000 ∨ (0x100000000000 ≤ pa ∧ pa + 65536 ≤ 0x200000000000))
    let enabled (n : Nat) : Prop := (n < 128 ∨ n ∈ s.trigEn) ∧ s.snapHeld = false
    (s.walk cxid va = .leaf l → memory l.pa → memory newPa →
      ((∃ x ∈ all, ¬ movable x) → exec (.pageMigration cxid va newPa) s = .next s) ∧
      ((∀ x ∈ all, movable x) → s.tablesApart = true →
        (∀ a ∈ s.tables, ∀ b ∈ s.tables, a = b ∨ a.1 + a.2 ≤ b.1 ∨ b.1 + b.2 ≤ a.1) →
        (∀ a ∈ s.tables, a.1 + a.2 ≤ newPa ∨ newPa + 65536 ≤ a.1) →
        (∀ x ∈ s.allLeaves ++ s.heldLeaves, x.pa + x.size ≤ newPa ∨ newPa + 65536 ≤ x.pa) →
        (∀ x ∈ s.heldLeaves, x.pa + x.size ≤ l.pa ∨ l.pa + 65536 ≤ x.pa ∨ x ∈ all) →
        (∀ x ∈ s.redirects, x.oldPa + 65536 ≤ newPa ∨ newPa + 65536 ≤ x.oldPa) →
        s.replies = [] → s.damaged = [] → (∀ x ∈ s.clusters, x.2.ulines = []) → s.Canonical →
        ∃ t, exec (.pageMigration cxid va newPa) s = .next t ∧
          (∀ i, i < 65536 → t.mem.get (newPa + i) = s.mem.get (l.pa + i)) ∧
          (∀ x ∈ all, t.walk x.cx x.va = .leaf { x with pa := newPa }) ∧
          (∀ x ∈ all, ∀ c, ∀ y ∈ (t.core c).l1, y.cx = x.cx → y.va + y.size ≤ x.va ∨ x.va + 65536 ≤ y.va) ∧
          t.redirects = s.redirects ++ [{ oldPa := l.pa, newPa := newPa, since := s.now }])) ∧
    (s.redirects[k]? = some r →
      (r.since + 65536 ≤ s.now → exec (.redirectionEnd k) s = .next { s with redirects := s.redirects.eraseIdx k }) ∧
      (s.now < r.since + 65536 → exec (.redirectionEnd k) s = .next s)) ∧
    (let die := match sp with
        | .lm => cid / 8192
        | .csp => cid / 1024
        | .dsw => cid
        | .mem => homeDieOf (64 * unit)
      let met (t : State) : Prop := (∃ r ∈ (t.die die).faults, r.kind = 2 ∧ r.cause = .mchk) ∧
        (sp = .lm → (t.core cid).retired = true)
      (sp, cid, unit) ∈ s.damaged → s.Canonical → (∀ x ∈ s.clusters, x.2.ulines = []) →
      ((s.taskWord sp cid unit = false → (sp = .lm → 0x400 ≤ unit) →
        ∃ t, exec (.patrolScrub sp cid unit) s = .next t ∧ met t ∧ (sp, cid, unit) ∉ t.damaged ∧
          (∀ d, d ≠ (sp, cid, unit) → (d ∈ t.damaged ↔ d ∈ s.damaged)) ∧
          ∀ x : Loc, x.outside (unitPlace sp cid unit).1 (unitPlace sp cid unit).2 → t.byteAt x = s.byteAt x) ∧
       (s.taskWord sp cid unit = true → ∃ t, exec (.patrolScrub sp cid unit) s = .next t ∧ met t ∧
         t.damaged = s.damaged ∧ ∀ x, t.byteAt x = s.byteAt x))) ∧
    ((sp, cid, unit) ∉ s.damaged → exec (.patrolScrub sp cid unit) s = .next s) ∧
    ((s.core cid).retired = false →
      (let t := s.failLm (.lm cid unit);
        (t.core cid).retired = true ∧ t.mayIssue cid = false ∧ (enabled 129 → (129, s.now) ∈ t.fallAt) ∧
          ∀ c, c ≠ cid → t.core c = s.core c) ∧
      ((∀ d ∈ s.damaged, ¬ (d.1 = .lm ∧ d.2.1 = cid)) → exec (.coreRetirement cid) s = .next s)) ∧
    ((s.core cid).retired = false → (s.core cid).lent = none → unit < 0x3000 → (.lm, cid, unit) ∈ s.damaged →
      ∃ t, exec (.coreRetirement cid) s = .next t ∧ (t.core cid).retired = true ∧ (t.core cid).dirQ = [] ∧
        (enabled 129 → (129, s.now) ∈ t.fallAt) ∧
        ∀ i, i < 8 →
          let x := (s.core cid).slot i
          let y := (t.core cid).slot i
          (x.held = false → y.held = false) ∧ (x.held = true → s.taskClean cid i = false →
            (∀ j, j < 8 → ((s.core cid).slot j).members = []) → y.held = false) ∧
            (x.held = true → s.taskClean cid i = true →
              (x.awaitsReply = false ∨ x.ws.tsw.state = .saved → y.ws.tsw.state = .saved) ∧
              (x.awaitsReply = true → x.ws.tsw.state ≠ .saved → y.preempt.isSome = true ∧ y.ws.ctl.pres = 1))) ∧
    (∃ t, exec (.thermalThrottle die) s = .next t ∧ t.here = s.here ∧ (t.die die).thermal =
      if (s.die die).thermal = .normal then .throttled else (s.die die).thermal) ∧
    (∃ t, exec (.thermalTrip die) s = .next t ∧ (t.die die).thermal = .tripped ∧ t.here = s.here ∧
      ((s.die die).thermal ≠ .tripped → (enabled 133 → (133, s.now) ∈ t.fallAt) ∧
        ∀ i, i / 8192 = die → t.mayIssue i = false))
end

