-- ==== Sys2Proof/Laws/State.lean ====
section
/-! SUPPORT. What the updates of the state leave: one lemma for each field and each update, so that no proof unfolds a
record update; and how updates of the issuing task's workspace combine. -/

namespace Sys2Proof.Machine

/-! ## setTask: only here changes, and in it only the slots -/

@[simp] theorem State.setTask_hereCid (s : State) (t : Slot) : (s.setTask t).hereCid = s.hereCid := rfl
@[simp] theorem State.setTask_others (s : State) (t : Slot) : (s.setTask t).others = s.others := rfl
@[simp] theorem State.setTask_clusters (s : State) (t : Slot) : (s.setTask t).clusters = s.clusters := rfl
@[simp] theorem State.setTask_dies (s : State) (t : Slot) : (s.setTask t).dies = s.dies := rfl
@[simp] theorem State.setTask_mem (s : State) (t : Slot) : (s.setTask t).mem = s.mem := rfl
@[simp] theorem State.setTask_contexts (s : State) (t : Slot) : (s.setTask t).contexts = s.contexts := rfl
@[simp] theorem State.setTask_waiters (s : State) (t : Slot) : (s.setTask t).waiters = s.waiters := rfl
@[simp] theorem State.setTask_replies (s : State) (t : Slot) : (s.setTask t).replies = s.replies := rfl
@[simp] theorem State.setTask_redirects (s : State) (t : Slot) : (s.setTask t).redirects = s.redirects := rfl
@[simp] theorem State.setTask_launches (s : State) (t : Slot) : (s.setTask t).launches = s.launches := rfl
@[simp] theorem State.setTask_nextLaunch (s : State) (t : Slot) : (s.setTask t).nextLaunch = s.nextLaunch := rfl
@[simp] theorem State.setTask_fwMsgs (s : State) (t : Slot) : (s.setTask t).fwMsgs = s.fwMsgs := rfl
@[simp] theorem State.setTask_falls (s : State) (t : Slot) : (s.setTask t).falls = s.falls := rfl
@[simp] theorem State.setTask_lastTrig (s : State) (t : Slot) : (s.setTask t).lastTrig = s.lastTrig := rfl
@[simp] theorem State.setTask_snapHeld (s : State) (t : Slot) : (s.setTask t).snapHeld = s.snapHeld := rfl
@[simp] theorem State.setTask_trigEn (s : State) (t : Slot) : (s.setTask t).trigEn = s.trigEn := rfl
@[simp] theorem State.setTask_fallAt (s : State) (t : Slot) : (s.setTask t).fallAt = s.fallAt := rfl
@[simp] theorem State.setTask_trigDrops (s : State) (t : Slot) : (s.setTask t).trigDrops = s.trigDrops := rfl
@[simp] theorem State.setTask_snapshot (s : State) (t : Slot) : (s.setTask t).snapshot = s.snapshot := rfl
@[simp] theorem State.setTask_corrected (s : State) (t : Slot) : (s.setTask t).corrected = s.corrected := rfl
@[simp] theorem State.setTask_lastErrs (s : State) (t : Slot) : (s.setTask t).lastErrs = s.lastErrs := rfl
@[simp] theorem State.setTask_exports (s : State) (t : Slot) : (s.setTask t).exports = s.exports := rfl
@[simp] theorem State.setTask_grants (s : State) (t : Slot) : (s.setTask t).grants = s.grants := rfl
@[simp] theorem State.setTask_bars (s : State) (t : Slot) : (s.setTask t).bars = s.bars := rfl
@[simp] theorem State.setTask_lastRead (s : State) (t : Slot) : (s.setTask t).lastRead = s.lastRead := rfl
@[simp] theorem State.setTask_savedTasks (s : State) (t : Slot) : (s.setTask t).savedTasks = s.savedTasks := rfl
@[simp] theorem State.setTask_savedClusters (s : State) (t : Slot) : (s.setTask t).savedClusters = s.savedClusters := rfl
@[simp] theorem State.setTask_firmware (s : State) (t : Slot) : (s.setTask t).firmware = s.firmware := rfl
@[simp] theorem State.setTask_damaged (s : State) (t : Slot) : (s.setTask t).damaged = s.damaged := rfl
@[simp] theorem State.setTask_oldWalks (s : State) (t : Slot) : (s.setTask t).oldWalks = s.oldWalks := rfl
@[simp] theorem State.setTask_oldCode (s : State) (t : Slot) : (s.setTask t).oldCode = s.oldCode := rfl
@[simp] theorem State.setTask_agenda (s : State) (t : Slot) : (s.setTask t).agenda = s.agenda := rfl
@[simp] theorem State.setTask_now (s : State) (t : Slot) : (s.setTask t).now = s.now := rfl
@[simp] theorem State.setTask_tick (s : State) (t : Slot) : (s.setTask t).tick = s.tick := rfl
@[simp] theorem State.setTask_ilen (s : State) (t : Slot) : (s.setTask t).ilen = s.ilen := rfl
@[simp] theorem State.setTask_parkNo (s : State) (t : Slot) : (s.setTask t).parkNo = s.parkNo := rfl
@[simp] theorem State.setTask_here_lm (s : State) (t : Slot) : (s.setTask t).here.lm = s.here.lm := rfl
@[simp] theorem State.setTask_here_full (s : State) (t : Slot) : (s.setTask t).here.full = s.here.full := rfl
@[simp] theorem State.setTask_here_cur (s : State) (t : Slot) : (s.setTask t).here.cur = s.here.cur := rfl
@[simp] theorem State.setTask_here_lastAt (s : State) (t : Slot) : (s.setTask t).here.lastAt = s.here.lastAt := rfl
@[simp] theorem State.setTask_here_tiles (s : State) (t : Slot) : (s.setTask t).here.tiles = s.here.tiles := rfl
@[simp] theorem State.setTask_here_masks (s : State) (t : Slot) : (s.setTask t).here.masks = s.here.masks := rfl
@[simp] theorem State.setTask_here_local4 (s : State) (t : Slot) : (s.setTask t).here.local4 = s.here.local4 := rfl
@[simp] theorem State.setTask_here_cts (s : State) (t : Slot) : (s.setTask t).here.cts = s.here.cts := rfl
@[simp] theorem State.setTask_here_preds (s : State) (t : Slot) : (s.setTask t).here.preds = s.here.preds := rfl
@[simp] theorem State.setTask_here_pth (s : State) (t : Slot) : (s.setTask t).here.pth = s.here.pth := rfl
@[simp] theorem State.setTask_here_specbud (s : State) (t : Slot) : (s.setTask t).here.specbud = s.here.specbud := rfl
@[simp] theorem State.setTask_here_tickets (s : State) (t : Slot) : (s.setTask t).here.tickets = s.here.tickets := rfl
@[simp] theorem State.setTask_here_chans (s : State) (t : Slot) : (s.setTask t).here.chans = s.here.chans := rfl
@[simp] theorem State.setTask_here_tt (s : State) (t : Slot) : (s.setTask t).here.tt = s.here.tt := rfl
@[simp] theorem State.setTask_here_runList (s : State) (t : Slot) : (s.setTask t).here.runList = s.here.runList := rfl
@[simp] theorem State.setTask_here_fillRow (s : State) (t : Slot) : (s.setTask t).here.fillRow = s.here.fillRow := rfl
@[simp] theorem State.setTask_here_deque (s : State) (t : Slot) : (s.setTask t).here.deque = s.here.deque := rfl
@[simp] theorem State.setTask_here_sendQ (s : State) (t : Slot) : (s.setTask t).here.sendQ = s.here.sendQ := rfl
@[simp] theorem State.setTask_here_inbound (s : State) (t : Slot) : (s.setTask t).here.inbound = s.here.inbound := rfl
@[simp] theorem State.setTask_here_counters (s : State) (t : Slot) : (s.setTask t).here.counters = s.here.counters := rfl
@[simp] theorem State.setTask_here_mx (s : State) (t : Slot) : (s.setTask t).here.mx = s.here.mx := rfl
@[simp] theorem State.setTask_here_nextSeq (s : State) (t : Slot) : (s.setTask t).here.nextSeq = s.here.nextSeq := rfl
@[simp] theorem State.setTask_here_unanswered (s : State) (t : Slot) : (s.setTask t).here.unanswered = s.here.unanswered := rfl
@[simp] theorem State.setTask_here_dirQ (s : State) (t : Slot) : (s.setTask t).here.dirQ = s.here.dirQ := rfl
@[simp] theorem State.setTask_here_aside (s : State) (t : Slot) : (s.setTask t).here.aside = s.here.aside := rfl
@[simp] theorem State.setTask_here_pageIns (s : State) (t : Slot) : (s.setTask t).here.pageIns = s.here.pageIns := rfl
@[simp] theorem State.setTask_here_combines (s : State) (t : Slot) : (s.setTask t).here.combines = s.here.combines := rfl
@[simp] theorem State.setTask_here_steal (s : State) (t : Slot) : (s.setTask t).here.steal = s.here.steal := rfl
@[simp] theorem State.setTask_here_owed (s : State) (t : Slot) : (s.setTask t).here.owed = s.here.owed := rfl
@[simp] theorem State.setTask_here_lent (s : State) (t : Slot) : (s.setTask t).here.lent = s.here.lent := rfl
@[simp] theorem State.setTask_here_retired (s : State) (t : Slot) : (s.setTask t).here.retired = s.here.retired := rfl
@[simp] theorem State.setTask_here_icache (s : State) (t : Slot) : (s.setTask t).here.icache = s.here.icache := rfl
@[simp] theorem State.setTask_here_codeFrom (s : State) (t : Slot) : (s.setTask t).here.codeFrom = s.here.codeFrom := rfl
@[simp] theorem State.setTask_here_l1 (s : State) (t : Slot) : (s.setTask t).here.l1 = s.here.l1 := rfl
@[simp] theorem State.setTask_here_taskNo (s : State) (t : Slot) : (s.setTask t).here.taskNo = s.here.taskNo := rfl
@[simp] theorem State.setTask_here_pmoves (s : State) (t : Slot) : (s.setTask t).here.pmoves = s.here.pmoves := rfl
@[simp] theorem State.setTask_here_strays (s : State) (t : Slot) : (s.setTask t).here.strays = s.here.strays := rfl
@[simp] theorem State.setTask_here_arrivals (s : State) (t : Slot) : (s.setTask t).here.arrivals = s.here.arrivals := rfl
@[simp] theorem State.setTask_here_slots (s : State) (t : Slot) :
    (s.setTask t).here.slots = s.here.slots.set s.here.cur t := rfl

@[simp] theorem State.task_setTask (s : State) (t : Slot) : (s.setTask t).task = t := by
  simp [State.task]

@[simp] theorem State.setTask_setTask (s : State) (t u : Slot) : (s.setTask t).setTask u = s.setTask u := by
  simp [State.setTask]

@[simp] theorem State.setTask_task (s : State) : s.setTask s.task = s := by
  simp [State.setTask, State.task]

theorem State.modTask_eq (s : State) (f : Slot → Slot) : s.modTask f = s.setTask (f s.task) := rfl

/-! ## setWs and what is made of it -/

theorem State.setWs_eq (s : State) (w : Workspace) : s.setWs w = s.setTask { s.task with ws := w } := rfl
theorem State.modWs_eq (s : State) (f : Workspace → Workspace) : s.modWs f = s.setWs (f s.ws) := rfl
theorem State.modCtl_eq (s : State) (f : Ctl → Ctl) : s.modCtl f = s.setWs { s.ws with ctl := f s.ws.ctl } := rfl
theorem State.setG_eq (s : State) (r : GReg) (v : Word) : s.setG r v = s.setWs (s.ws.setReg (s.ws.ctl.phys r) v) := rfl
theorem State.addFpf_eq (s : State) (f : Byte) : s.addFpf f = s.setWs { s.ws with fpf := s.ws.fpf ||| f } := rfl
theorem State.jump_eq (s : State) (t : Word) : s.jump t = s.setWs { s.ws with pc := t } := rfl

@[simp] theorem State.ws_setWs (s : State) (w : Workspace) : (s.setWs w).ws = w := by
  simp [State.setWs, State.ws]

@[simp] theorem State.setWs_setWs (s : State) (v w : Workspace) : (s.setWs v).setWs w = s.setWs w := by
  simp [State.setWs]

@[simp] theorem State.setWs_ws (s : State) : s.setWs s.ws = s := State.setTask_task s

@[simp] theorem State.ws_setTask (s : State) (t : Slot) : (s.setTask t).ws = t.ws := by simp [State.ws]

@[simp] theorem State.setWs_hereCid (s : State) (w : Workspace) : (s.setWs w).hereCid = s.hereCid := rfl
@[simp] theorem State.setWs_others (s : State) (w : Workspace) : (s.setWs w).others = s.others := rfl
@[simp] theorem State.setWs_clusters (s : State) (w : Workspace) : (s.setWs w).clusters = s.clusters := rfl
@[simp] theorem State.setWs_dies (s : State) (w : Workspace) : (s.setWs w).dies = s.dies := rfl
@[simp] theorem State.setWs_mem (s : State) (w : Workspace) : (s.setWs w).mem = s.mem := rfl
@[simp] theorem State.setWs_contexts (s : State) (w : Workspace) : (s.setWs w).contexts = s.contexts := rfl
@[simp] theorem State.setWs_waiters (s : State) (w : Workspace) : (s.setWs w).waiters = s.waiters := rfl
@[simp] theorem State.setWs_replies (s : State) (w : Workspace) : (s.setWs w).replies = s.replies := rfl
@[simp] theorem State.setWs_redirects (s : State) (w : Workspace) : (s.setWs w).redirects = s.redirects := rfl
@[simp] theorem State.setWs_launches (s : State) (w : Workspace) : (s.setWs w).launches = s.launches := rfl
@[simp] theorem State.setWs_nextLaunch (s : State) (w : Workspace) : (s.setWs w).nextLaunch = s.nextLaunch := rfl
@[simp] theorem State.setWs_fwMsgs (s : State) (w : Workspace) : (s.setWs w).fwMsgs = s.fwMsgs := rfl
@[simp] theorem State.setWs_falls (s : State) (w : Workspace) : (s.setWs w).falls = s.falls := rfl
@[simp] theorem State.setWs_lastTrig (s : State) (w : Workspace) : (s.setWs w).lastTrig = s.lastTrig := rfl
@[simp] theorem State.setWs_snapHeld (s : State) (w : Workspace) : (s.setWs w).snapHeld = s.snapHeld := rfl
@[simp] theorem State.setWs_trigEn (s : State) (w : Workspace) : (s.setWs w).trigEn = s.trigEn := rfl
@[simp] theorem State.setWs_fallAt (s : State) (w : Workspace) : (s.setWs w).fallAt = s.fallAt := rfl
@[simp] theorem State.setWs_trigDrops (s : State) (w : Workspace) : (s.setWs w).trigDrops = s.trigDrops := rfl
@[simp] theorem State.setWs_snapshot (s : State) (w : Workspace) : (s.setWs w).snapshot = s.snapshot := rfl
@[simp] theorem State.setWs_corrected (s : State) (w : Workspace) : (s.setWs w).corrected = s.corrected := rfl
@[simp] theorem State.setWs_lastErrs (s : State) (w : Workspace) : (s.setWs w).lastErrs = s.lastErrs := rfl
@[simp] theorem State.setWs_exports (s : State) (w : Workspace) : (s.setWs w).exports = s.exports := rfl
@[simp] theorem State.setWs_grants (s : State) (w : Workspace) : (s.setWs w).grants = s.grants := rfl
@[simp] theorem State.setWs_bars (s : State) (w : Workspace) : (s.setWs w).bars = s.bars := rfl
@[simp] theorem State.setWs_lastRead (s : State) (w : Workspace) : (s.setWs w).lastRead = s.lastRead := rfl
@[simp] theorem State.setWs_savedTasks (s : State) (w : Workspace) : (s.setWs w).savedTasks = s.savedTasks := rfl
@[simp] theorem State.setWs_savedClusters (s : State) (w : Workspace) : (s.setWs w).savedClusters = s.savedClusters := rfl
@[simp] theorem State.setWs_firmware (s : State) (w : Workspace) : (s.setWs w).firmware = s.firmware := rfl
@[simp] theorem State.setWs_damaged (s : State) (w : Workspace) : (s.setWs w).damaged = s.damaged := rfl
@[simp] theorem State.setWs_oldWalks (s : State) (w : Workspace) : (s.setWs w).oldWalks = s.oldWalks := rfl
@[simp] theorem State.setWs_oldCode (s : State) (w : Workspace) : (s.setWs w).oldCode = s.oldCode := rfl
@[simp] theorem State.setWs_agenda (s : State) (w : Workspace) : (s.setWs w).agenda = s.agenda := rfl
@[simp] theorem State.setWs_now (s : State) (w : Workspace) : (s.setWs w).now = s.now := rfl
@[simp] theorem State.setWs_tick (s : State) (w : Workspace) : (s.setWs w).tick = s.tick := rfl
@[simp] theorem State.setWs_ilen (s : State) (w : Workspace) : (s.setWs w).ilen = s.ilen := rfl
@[simp] theorem State.setWs_parkNo (s : State) (w : Workspace) : (s.setWs w).parkNo = s.parkNo := rfl

@[simp] theorem State.setG_ctl (s : State) (r : GReg) (v : Word) : (s.setG r v).ws.ctl = s.ws.ctl := by
  simp [State.setG_eq, Workspace.setReg]

@[simp] theorem State.nextPc_setWs (s : State) (w : Workspace) :
    (s.setWs w).nextPc = w.pc + BitVec.ofNat 64 (2 * s.ilen) := by simp [State.nextPc]

/-! ## setCluster and setDie: one table changes -/

@[simp] theorem State.setCluster_hereCid (s : State) (c : Nat) (x : Cluster) : (s.setCluster c x).hereCid = s.hereCid := rfl
@[simp] theorem State.setCluster_here (s : State) (c : Nat) (x : Cluster) : (s.setCluster c x).here = s.here := rfl
@[simp] theorem State.setCluster_others (s : State) (c : Nat) (x : Cluster) : (s.setCluster c x).others = s.others := rfl
@[simp] theorem State.setCluster_dies (s : State) (c : Nat) (x : Cluster) : (s.setCluster c x).dies = s.dies := rfl
@[simp] theorem State.setCluster_mem (s : State) (c : Nat) (x : Cluster) : (s.setCluster c x).mem = s.mem := rfl
@[simp] theorem State.setCluster_contexts (s : State) (c : Nat) (x : Cluster) : (s.setCluster c x).contexts = s.contexts := rfl
@[simp] theorem State.setCluster_waiters (s : State) (c : Nat) (x : Cluster) : (s.setCluster c x).waiters = s.waiters := rfl
@[simp] theorem State.setCluster_replies (s : State) (c : Nat) (x : Cluster) : (s.setCluster c x).replies = s.replies := rfl
@[simp] theorem State.setCluster_redirects (s : State) (c : Nat) (x : Cluster) : (s.setCluster c x).redirects = s.redirects := rfl
@[simp] theorem State.setCluster_launches (s : State) (c : Nat) (x : Cluster) : (s.setCluster c x).launches = s.launches := rfl
@[simp] theorem State.setCluster_nextLaunch (s : State) (c : Nat) (x : Cluster) : (s.setCluster c x).nextLaunch = s.nextLaunch := rfl
@[simp] theorem State.setCluster_fwMsgs (s : State) (c : Nat) (x : Cluster) : (s.setCluster c x).fwMsgs = s.fwMsgs := rfl
@[simp] theorem State.setCluster_falls (s : State) (c : Nat) (x : Cluster) : (s.setCluster c x).falls = s.falls := rfl
@[simp] theorem State.setCluster_lastTrig (s : State) (c : Nat) (x : Cluster) : (s.setCluster c x).lastTrig = s.lastTrig := rfl
@[simp] theorem State.setCluster_snapHeld (s : State) (c : Nat) (x : Cluster) : (s.setCluster c x).snapHeld = s.snapHeld := rfl
@[simp] theorem State.setCluster_trigEn (s : State) (c : Nat) (x : Cluster) : (s.setCluster c x).trigEn = s.trigEn := rfl
@[simp] theorem State.setCluster_fallAt (s : State) (c : Nat) (x : Cluster) : (s.setCluster c x).fallAt = s.fallAt := rfl
@[simp] theorem State.setCluster_trigDrops (s : State) (c : Nat) (x : Cluster) : (s.setCluster c x).trigDrops = s.trigDrops := rfl
@[simp] theorem State.setCluster_snapshot (s : State) (c : Nat) (x : Cluster) : (s.setCluster c x).snapshot = s.snapshot := rfl
@[simp] theorem State.setCluster_corrected (s : State) (c : Nat) (x : Cluster) : (s.setCluster c x).corrected = s.corrected := rfl
@[simp] theorem State.setCluster_lastErrs (s : State) (c : Nat) (x : Cluster) : (s.setCluster c x).lastErrs = s.lastErrs := rfl
@[simp] theorem State.setCluster_exports (s : State) (c : Nat) (x : Cluster) : (s.setCluster c x).exports = s.exports := rfl
@[simp] theorem State.setCluster_grants (s : State) (c : Nat) (x : Cluster) : (s.setCluster c x).grants = s.grants := rfl
@[simp] theorem State.setCluster_bars (s : State) (c : Nat) (x : Cluster) : (s.setCluster c x).bars = s.bars := rfl
@[simp] theorem State.setCluster_lastRead (s : State) (c : Nat) (x : Cluster) : (s.setCluster c x).lastRead = s.lastRead := rfl
@[simp] theorem State.setCluster_savedTasks (s : State) (c : Nat) (x : Cluster) : (s.setCluster c x).savedTasks = s.savedTasks := rfl
@[simp] theorem State.setCluster_savedClusters (s : State) (c : Nat) (x : Cluster) : (s.setCluster c x).savedClusters = s.savedClusters := rfl
@[simp] theorem State.setCluster_firmware (s : State) (c : Nat) (x : Cluster) : (s.setCluster c x).firmware = s.firmware := rfl
@[simp] theorem State.setCluster_damaged (s : State) (c : Nat) (x : Cluster) : (s.setCluster c x).damaged = s.damaged := rfl
@[simp] theorem State.setCluster_oldWalks (s : State) (c : Nat) (x : Cluster) : (s.setCluster c x).oldWalks = s.oldWalks := rfl
@[simp] theorem State.setCluster_oldCode (s : State) (c : Nat) (x : Cluster) : (s.setCluster c x).oldCode = s.oldCode := rfl
@[simp] theorem State.setCluster_agenda (s : State) (c : Nat) (x : Cluster) : (s.setCluster c x).agenda = s.agenda := rfl
@[simp] theorem State.setCluster_now (s : State) (c : Nat) (x : Cluster) : (s.setCluster c x).now = s.now := rfl
@[simp] theorem State.setCluster_tick (s : State) (c : Nat) (x : Cluster) : (s.setCluster c x).tick = s.tick := rfl
@[simp] theorem State.setCluster_ilen (s : State) (c : Nat) (x : Cluster) : (s.setCluster c x).ilen = s.ilen := rfl
@[simp] theorem State.setCluster_parkNo (s : State) (c : Nat) (x : Cluster) : (s.setCluster c x).parkNo = s.parkNo := rfl

@[simp] theorem State.setDie_hereCid (s : State) (d : Nat) (x : Die) : (s.setDie d x).hereCid = s.hereCid := rfl
@[simp] theorem State.setDie_here (s : State) (d : Nat) (x : Die) : (s.setDie d x).here = s.here := rfl
@[simp] theorem State.setDie_others (s : State) (d : Nat) (x : Die) : (s.setDie d x).others = s.others := rfl
@[simp] theorem State.setDie_clusters (s : State) (d : Nat) (x : Die) : (s.setDie d x).clusters = s.clusters := rfl
@[simp] theorem State.setDie_mem (s : State) (d : Nat) (x : Die) : (s.setDie d x).mem = s.mem := rfl
@[simp] theorem State.setDie_contexts (s : State) (d : Nat) (x : Die) : (s.setDie d x).contexts = s.contexts := rfl
@[simp] theorem State.setDie_waiters (s : State) (d : Nat) (x : Die) : (s.setDie d x).waiters = s.waiters := rfl
@[simp] theorem State.setDie_replies (s : State) (d : Nat) (x : Die) : (s.setDie d x).replies = s.replies := rfl
@[simp] theorem State.setDie_redirects (s : State) (d : Nat) (x : Die) : (s.setDie d x).redirects = s.redirects := rfl
@[simp] theorem State.setDie_launches (s : State) (d : Nat) (x : Die) : (s.setDie d x).launches = s.launches := rfl
@[simp] theorem State.setDie_nextLaunch (s : State) (d : Nat) (x : Die) : (s.setDie d x).nextLaunch = s.nextLaunch := rfl
@[simp] theorem State.setDie_fwMsgs (s : State) (d : Nat) (x : Die) : (s.setDie d x).fwMsgs = s.fwMsgs := rfl
@[simp] theorem State.setDie_falls (s : State) (d : Nat) (x : Die) : (s.setDie d x).falls = s.falls := rfl
@[simp] theorem State.setDie_lastTrig (s : State) (d : Nat) (x : Die) : (s.setDie d x).lastTrig = s.lastTrig := rfl
@[simp] theorem State.setDie_snapHeld (s : State) (d : Nat) (x : Die) : (s.setDie d x).snapHeld = s.snapHeld := rfl
@[simp] theorem State.setDie_trigEn (s : State) (d : Nat) (x : Die) : (s.setDie d x).trigEn = s.trigEn := rfl
@[simp] theorem State.setDie_fallAt (s : State) (d : Nat) (x : Die) : (s.setDie d x).fallAt = s.fallAt := rfl
@[simp] theorem State.setDie_trigDrops (s : State) (d : Nat) (x : Die) : (s.setDie d x).trigDrops = s.trigDrops := rfl
@[simp] theorem State.setDie_snapshot (s : State) (d : Nat) (x : Die) : (s.setDie d x).snapshot = s.snapshot := rfl
@[simp] theorem State.setDie_corrected (s : State) (d : Nat) (x : Die) : (s.setDie d x).corrected = s.corrected := rfl
@[simp] theorem State.setDie_lastErrs (s : State) (d : Nat) (x : Die) : (s.setDie d x).lastErrs = s.lastErrs := rfl
@[simp] theorem State.setDie_exports (s : State) (d : Nat) (x : Die) : (s.setDie d x).exports = s.exports := rfl
@[simp] theorem State.setDie_grants (s : State) (d : Nat) (x : Die) : (s.setDie d x).grants = s.grants := rfl
@[simp] theorem State.setDie_bars (s : State) (d : Nat) (x : Die) : (s.setDie d x).bars = s.bars := rfl
@[simp] theorem State.setDie_lastRead (s : State) (d : Nat) (x : Die) : (s.setDie d x).lastRead = s.lastRead := rfl
@[simp] theorem State.setDie_savedTasks (s : State) (d : Nat) (x : Die) : (s.setDie d x).savedTasks = s.savedTasks := rfl
@[simp] theorem State.setDie_savedClusters (s : State) (d : Nat) (x : Die) : (s.setDie d x).savedClusters = s.savedClusters := rfl
@[simp] theorem State.setDie_firmware (s : State) (d : Nat) (x : Die) : (s.setDie d x).firmware = s.firmware := rfl
@[simp] theorem State.setDie_damaged (s : State) (d : Nat) (x : Die) : (s.setDie d x).damaged = s.damaged := rfl
@[simp] theorem State.setDie_oldWalks (s : State) (d : Nat) (x : Die) : (s.setDie d x).oldWalks = s.oldWalks := rfl
@[simp] theorem State.setDie_oldCode (s : State) (d : Nat) (x : Die) : (s.setDie d x).oldCode = s.oldCode := rfl
@[simp] theorem State.setDie_agenda (s : State) (d : Nat) (x : Die) : (s.setDie d x).agenda = s.agenda := rfl
@[simp] theorem State.setDie_now (s : State) (d : Nat) (x : Die) : (s.setDie d x).now = s.now := rfl
@[simp] theorem State.setDie_tick (s : State) (d : Nat) (x : Die) : (s.setDie d x).tick = s.tick := rfl
@[simp] theorem State.setDie_ilen (s : State) (d : Nat) (x : Die) : (s.setDie d x).ilen = s.ilen := rfl
@[simp] theorem State.setDie_parkNo (s : State) (d : Nat) (x : Die) : (s.setDie d x).parkNo = s.parkNo := rfl

/-! ## setCore: the focus core or the others -/

theorem State.setCore_here (s : State) (c : Core) : s.setCore s.hereCid c = { s with here := c } := by
  simp [State.setCore]

@[simp] theorem State.core_hereCid (s : State) : s.core s.hereCid = s.here := by simp [State.core]

@[simp] theorem State.setCore_hereCid (s : State) (k : Nat) (c : Core) : (s.setCore k c).hereCid = s.hereCid := by
  unfold State.setCore; split <;> rfl
@[simp] theorem State.setCore_clusters (s : State) (k : Nat) (c : Core) : (s.setCore k c).clusters = s.clusters := by
  unfold State.setCore; split <;> rfl
@[simp] theorem State.setCore_dies (s : State) (k : Nat) (c : Core) : (s.setCore k c).dies = s.dies := by
  unfold State.setCore; split <;> rfl
@[simp] theorem State.setCore_mem (s : State) (k : Nat) (c : Core) : (s.setCore k c).mem = s.mem := by
  unfold State.setCore; split <;> rfl
@[simp] theorem State.setCore_contexts (s : State) (k : Nat) (c : Core) : (s.setCore k c).contexts = s.contexts := by
  unfold State.setCore; split <;> rfl
@[simp] theorem State.setCore_waiters (s : State) (k : Nat) (c : Core) : (s.setCore k c).waiters = s.waiters := by
  unfold State.setCore; split <;> rfl
@[simp] theorem State.setCore_replies (s : State) (k : Nat) (c : Core) : (s.setCore k c).replies = s.replies := by
  unfold State.setCore; split <;> rfl
@[simp] theorem State.setCore_redirects (s : State) (k : Nat) (c : Core) : (s.setCore k c).redirects = s.redirects := by
  unfold State.setCore; split <;> rfl
@[simp] theorem State.setCore_launches (s : State) (k : Nat) (c : Core) : (s.setCore k c).launches = s.launches := by
  unfold State.setCore; split <;> rfl
@[simp] theorem State.setCore_nextLaunch (s : State) (k : Nat) (c : Core) : (s.setCore k c).nextLaunch = s.nextLaunch := by
  unfold State.setCore; split <;> rfl
@[simp] theorem State.setCore_fwMsgs (s : State) (k : Nat) (c : Core) : (s.setCore k c).fwMsgs = s.fwMsgs := by
  unfold State.setCore; split <;> rfl
@[simp] theorem State.setCore_falls (s : State) (k : Nat) (c : Core) : (s.setCore k c).falls = s.falls := by
  unfold State.setCore; split <;> rfl
@[simp] theorem State.setCore_lastTrig (s : State) (k : Nat) (c : Core) : (s.setCore k c).lastTrig = s.lastTrig := by
  unfold State.setCore; split <;> rfl
@[simp] theorem State.setCore_snapHeld (s : State) (k : Nat) (c : Core) : (s.setCore k c).snapHeld = s.snapHeld := by
  unfold State.setCore; split <;> rfl
@[simp] theorem State.setCore_trigEn (s : State) (k : Nat) (c : Core) : (s.setCore k c).trigEn = s.trigEn := by
  unfold State.setCore; split <;> rfl
@[simp] theorem State.setCore_fallAt (s : State) (k : Nat) (c : Core) : (s.setCore k c).fallAt = s.fallAt := by
  unfold State.setCore; split <;> rfl
@[simp] theorem State.setCore_trigDrops (s : State) (k : Nat) (c : Core) : (s.setCore k c).trigDrops = s.trigDrops := by
  unfold State.setCore; split <;> rfl
@[simp] theorem State.setCore_snapshot (s : State) (k : Nat) (c : Core) : (s.setCore k c).snapshot = s.snapshot := by
  unfold State.setCore; split <;> rfl
@[simp] theorem State.setCore_corrected (s : State) (k : Nat) (c : Core) : (s.setCore k c).corrected = s.corrected := by
  unfold State.setCore; split <;> rfl
@[simp] theorem State.setCore_lastErrs (s : State) (k : Nat) (c : Core) : (s.setCore k c).lastErrs = s.lastErrs := by
  unfold State.setCore; split <;> rfl
@[simp] theorem State.setCore_exports (s : State) (k : Nat) (c : Core) : (s.setCore k c).exports = s.exports := by
  unfold State.setCore; split <;> rfl
@[simp] theorem State.setCore_grants (s : State) (k : Nat) (c : Core) : (s.setCore k c).grants = s.grants := by
  unfold State.setCore; split <;> rfl
@[simp] theorem State.setCore_bars (s : State) (k : Nat) (c : Core) : (s.setCore k c).bars = s.bars := by
  unfold State.setCore; split <;> rfl
@[simp] theorem State.setCore_lastRead (s : State) (k : Nat) (c : Core) : (s.setCore k c).lastRead = s.lastRead := by
  unfold State.setCore; split <;> rfl
@[simp] theorem State.setCore_savedTasks (s : State) (k : Nat) (c : Core) : (s.setCore k c).savedTasks = s.savedTasks := by
  unfold State.setCore; split <;> rfl
@[simp] theorem State.setCore_savedClusters (s : State) (k : Nat) (c : Core) : (s.setCore k c).savedClusters = s.savedClusters := by
  unfold State.setCore; split <;> rfl
@[simp] theorem State.setCore_firmware (s : State) (k : Nat) (c : Core) : (s.setCore k c).firmware = s.firmware := by
  unfold State.setCore; split <;> rfl
@[simp] theorem State.setCore_damaged (s : State) (k : Nat) (c : Core) : (s.setCore k c).damaged = s.damaged := by
  unfold State.setCore; split <;> rfl
@[simp] theorem State.setCore_oldWalks (s : State) (k : Nat) (c : Core) : (s.setCore k c).oldWalks = s.oldWalks := by
  unfold State.setCore; split <;> rfl
@[simp] theorem State.setCore_oldCode (s : State) (k : Nat) (c : Core) : (s.setCore k c).oldCode = s.oldCode := by
  unfold State.setCore; split <;> rfl
@[simp] theorem State.setCore_agenda (s : State) (k : Nat) (c : Core) : (s.setCore k c).agenda = s.agenda := by
  unfold State.setCore; split <;> rfl
@[simp] theorem State.setCore_now (s : State) (k : Nat) (c : Core) : (s.setCore k c).now = s.now := by
  unfold State.setCore; split <;> rfl
@[simp] theorem State.setCore_tick (s : State) (k : Nat) (c : Core) : (s.setCore k c).tick = s.tick := by
  unfold State.setCore; split <;> rfl
@[simp] theorem State.setCore_ilen (s : State) (k : Nat) (c : Core) : (s.setCore k c).ilen = s.ilen := by
  unfold State.setCore; split <;> rfl
@[simp] theorem State.setCore_parkNo (s : State) (k : Nat) (c : Core) : (s.setCore k c).parkNo = s.parkNo := by
  unfold State.setCore; split <;> rfl

end Sys2Proof.Machine
end

