-- ==== Sys2Proof/Laws/Memory.lean ====
section
/-! SUPPORT. Byte memory: what a write leaves of every address, and that every operation keeps the canonical form. -/

namespace Sys2Proof.Machine

/-- Addresses rise, and no listed byte is the blank: the canonical form, said of the whole list. -/
theorem Memory.wf_iff (m : Memory) :
    m.wf = true ↔ m.Pairwise (fun x y => x.1 < y.1) ∧ ∀ c ∈ m, c.2 ≠ 0 := by
  induction m with
  | nil => simp [Memory.wf]
  | cons x t ih =>
    obtain ⟨a, b⟩ := x
    cases t with
    | nil => simp [Memory.wf]
    | cons y t =>
      obtain ⟨a', b'⟩ := y
      simp only [Memory.wf, Bool.and_eq_true, bne_iff_ne, decide_eq_true_eq, ih]
      constructor
      · rintro ⟨⟨hb, ha⟩, hp, hz⟩
        refine ⟨List.pairwise_cons.2 ⟨?_, hp⟩, ?_⟩
        · intro c hc
          rcases List.mem_cons.1 hc with rfl | hc
          · exact ha
          · exact Nat.lt_trans ha ((List.pairwise_cons.1 hp).1 c hc)
        · intro c hc
          rcases List.mem_cons.1 hc with rfl | hc
          · exact hb
          · exact hz c hc
      · rintro ⟨hp, hz⟩
        have h := List.pairwise_cons.1 hp
        exact ⟨⟨hz (a, b) (by simp), h.1 (a', b') (by simp)⟩, h.2, fun c hc => hz c (List.mem_cons_of_mem _ hc)⟩

theorem Memory.wf_nil : Memory.wf [] = true := rfl

/-- A listed byte after a write is the one written or was listed before. -/
theorem Memory.mem_put {m : Memory} {a : Nat} {b : Byte} {c : Nat × Byte} (h : c ∈ m.put a b) :
    (c = (a, b) ∧ b ≠ 0) ∨ c ∈ m := by
  induction m with
  | nil =>
    unfold Memory.put at h
    split at h
    · simp at h
    · next hb => exact .inl ⟨by simpa using h, hb⟩
  | cons x t ih =>
    obtain ⟨j, y⟩ := x
    unfold Memory.put at h
    split at h
    · rcases List.mem_cons.1 h with rfl | h
      · exact .inr (by simp)
      · exact (ih h).imp id fun h => List.mem_cons_of_mem _ h
    · split at h <;> split at h
      · exact .inr (List.mem_cons_of_mem _ h)
      · next hb =>
        rcases List.mem_cons.1 h with rfl | h
        · exact .inl ⟨rfl, hb⟩
        · exact .inr (List.mem_cons_of_mem _ h)
      · exact .inr h
      · next hb =>
        rcases List.mem_cons.1 h with rfl | h
        · exact .inl ⟨rfl, hb⟩
        · exact .inr h

/-- A write of one byte keeps the canonical form. -/
theorem Memory.put_wf {m : Memory} (h : m.wf = true) (a : Nat) (b : Byte) : (m.put a b).wf = true := by
  rw [Memory.wf_iff] at h ⊢
  refine ⟨?_, fun c hc => ?_⟩
  · have hp := h.1
    clear h
    induction m with
    | nil => unfold Memory.put; split <;> simp
    | cons x t ih =>
      obtain ⟨j, y⟩ := x
      have hc := List.pairwise_cons.1 hp
      unfold Memory.put
      split
      · next hj =>
        refine List.pairwise_cons.2 ⟨fun c hm => ?_, ih hc.2⟩
        rcases Memory.mem_put hm with ⟨rfl, -⟩ | hm
        · exact hj
        · exact hc.1 c hm
      · next hj =>
        split <;> split
        · exact hc.2
        · next he _ =>
          exact List.pairwise_cons.2 ⟨fun c hm => he ▸ hc.1 c hm, hc.2⟩
        · exact hp
        · next he _ =>
          refine List.pairwise_cons.2 ⟨fun c hm => ?_, hp⟩
          rcases List.mem_cons.1 hm with rfl | hm
          · show a < j
            omega
          · have := hc.1 c hm
            show a < c.1
            simp only at this
            omega
  · rcases Memory.mem_put hc with ⟨rfl, hb⟩ | hc
    · exact hb
    · exact h.2 c hc

theorem Memory.writeN_wf {m : Memory} (h : m.wf = true) (a n v : Nat) : (m.writeN a n v).wf = true := by
  induction n generalizing m a v with
  | zero => exact h
  | succ n ih => exact ih (Memory.put_wf h _ _) _ _

theorem Memory.filter_wf {m : Memory} (h : m.wf = true) (p : Nat × Byte → Bool) : Memory.wf (m.filter p) = true := by
  rw [Memory.wf_iff] at h ⊢
  exact ⟨h.1.sublist List.filter_sublist, fun c hc => h.2 c (List.mem_filter.1 hc).1⟩

theorem Memory.within_wf {m : Memory} (h : m.wf = true) (lo hi : Nat) : (m.within lo hi).wf = true :=
  Memory.filter_wf h _
theorem Memory.clear_wf {m : Memory} (h : m.wf = true) (lo hi : Nat) : (m.clear lo hi).wf = true :=
  Memory.filter_wf h _

/-! ## Reading -/

/-- Below the first listed address every byte is blank. -/
theorem Memory.get_below {m : Memory} {a : Nat} (h : ∀ c ∈ m, a < c.1) : m.get a = 0 := by
  cases m with
  | nil => rfl
  | cons x t =>
    have := h x (by simp)
    obtain ⟨j, y⟩ := x
    simp only at this
    unfold Memory.get
    rw [if_neg (by omega), if_pos this]
    rfl

/-- Reading after a write: the byte written at its address, every other as before. -/
theorem Memory.get_put {m : Memory} (h : m.wf = true) (a x : Nat) (b : Byte) :
    (m.put a b).get x = if x = a then b else m.get x := by
  rw [Memory.wf_iff] at h
  have hp := h.1
  clear h
  induction m with
  | nil =>
    unfold Memory.put
    split
    · next hb => subst hb; split <;> rfl
    · by_cases hx : x = a
      · subst hx; simp [Memory.get]
      · simp only [Memory.get, if_neg hx, if_neg (Ne.symm hx)]
        split <;> rfl
  | cons c t ih =>
    obtain ⟨j, y⟩ := c
    have hc := List.pairwise_cons.1 hp
    have low (k : Nat) (hk : k ≤ j) : Memory.get t k = 0 := Memory.get_below fun c hm => by
      have := hc.1 c hm
      simp only at this
      omega
    unfold Memory.put
    split
    · next hj =>
      simp only [Memory.get]
      split
      · next he => rw [if_neg (by omega)]
      · split
        · next hx => rw [if_neg (by omega)]
        · exact ih hc.2
    · split <;> split
      · next he hb =>
        subst hb he
        by_cases hx : x = j
        · subst hx; simp [low x (Nat.le_refl x)]
        · simp only [Memory.get, if_neg hx, if_neg (Ne.symm hx)]
          split
          · next hl => rw [low x (by omega)]; rfl
          · rfl
      · next he hb =>
        subst he
        by_cases hx : x = j
        · subst hx; simp [Memory.get]
        · simp only [Memory.get, if_neg hx, if_neg (Ne.symm hx)]
      · next he hb =>
        subst hb
        by_cases hx : x = a
        · subst hx
          simp only [Memory.get]
          rw [if_neg (by omega), if_pos (by omega)]
          rfl
        · rw [if_neg hx]
      · next he hb =>
        by_cases hx : x = a
        · subst hx; simp [Memory.get]
        · rw [if_neg hx]
          conv => lhs; unfold Memory.get
          rw [if_neg (Ne.symm hx)]
          split
          · next hl =>
            unfold Memory.get
            rw [if_neg (by omega), if_pos (by omega)]
          · rfl

/-- A write of n bytes leaves every byte outside them. -/
theorem Memory.get_writeN_outside {m : Memory} (h : m.wf = true) (a n v x : Nat) (hx : x < a ∨ a + n ≤ x) :
    (m.writeN a n v).get x = m.get x := by
  induction n generalizing m a v with
  | zero => rfl
  | succ n ih =>
    show ((m.put a _).writeN (a + 1) n _).get x = _
    rw [ih (Memory.put_wf h _ _) _ _ (by omega), Memory.get_put h, if_neg (by omega)]

/-- And byte i of those written is byte i of the value. -/
theorem Memory.get_writeN {m : Memory} (h : m.wf = true) (a n v i : Nat) (hi : i < n) :
    (m.writeN a n v).get (a + i) = BitVec.ofNat 8 (v / 256 ^ i) := by
  induction n generalizing m a v i with
  | zero => omega
  | succ n ih =>
    show ((m.put a _).writeN (a + 1) n _).get (a + i) = _
    cases i with
    | zero =>
      rw [Memory.get_writeN_outside (Memory.put_wf h _ _) _ _ _ _ (by omega), Memory.get_put h, if_pos (by omega)]
      simp
    | succ i =>
      have := ih (Memory.put_wf h a (BitVec.ofNat 8 v)) (a + 1) (v / 256) i (by omega)
      rw [show a + (i + 1) = a + 1 + i by omega, this, Nat.div_div_eq_div_mul, Nat.pow_succ']

/-- Reading back what was written (R139). -/
theorem Memory.readN_writeN {m : Memory} (h : m.wf = true) (a n v : Nat) :
    (m.writeN a n v).readN a n = v % 256 ^ n := by
  induction n generalizing m a v with
  | zero => simp [Memory.readN, Nat.mod_one]
  | succ n ih =>
    have hw := Memory.put_wf h a (BitVec.ofNat 8 v)
    show (((m.put a _).writeN (a + 1) n (v / 256)).get a).toNat + 256 * ((m.put a _).writeN (a + 1) n (v / 256)).readN (a + 1) n = _
    rw [ih hw, Memory.get_writeN_outside hw _ _ _ _ (by omega), Memory.get_put h, if_pos rfl, BitVec.toNat_ofNat]
    show v % 256 + _ = _
    rw [show 256 ^ (n + 1) = 256 * 256 ^ n from Nat.pow_succ', Nat.mod_mul]

/-- A read of n bytes depends on those bytes alone. -/
theorem Memory.readN_congr {m k : Memory} (a n : Nat) (h : ∀ x, a ≤ x → x < a + n → m.get x = k.get x) :
    m.readN a n = k.readN a n := by
  induction n generalizing a with
  | zero => rfl
  | succ n ih =>
    show (m.get a).toNat + 256 * m.readN (a + 1) n = _
    rw [h a (by omega) (by omega), ih (a + 1) fun x h1 h2 => h x (by omega) (by omega)]
    rfl

/-- Reset memory lists nothing and is in its canonical form. -/
theorem reset_mem_wf : State.reset.mem.wf = true := rfl

end Sys2Proof.Machine
end

