-- ==== Sys2Proof/Laws/Past.lean ====
section
/-! SUPPORT. Completing an instruction: what advance, settle and finish can do (R44, R129, R272). -/

namespace Sys2Proof.Machine

theorem Ctl.afterBody_off (c : Ctl) (h : Nat) (hc : c.repA = false) : c.afterBody h = (c, 0) := by
  simp [Ctl.afterBody, hc]

theorem Ctl.afterBody_frame (c : Ctl) (h : Nat) :
    (c.afterBody h).1 = { c with repA := (c.afterBody h).1.repA, repI := (c.afterBody h).1.repI,
                                 repOff := (c.afterBody h).1.repOff, repRem := (c.afterBody h).1.repRem } := by
  unfold Ctl.afterBody
  split
  · rfl
  · dsimp only
    split
    · rfl
    · split <;> rfl

/-- AfterBodyInstruction of R129, case by case. -/
theorem Ctl.afterBody_step (c : Ctl) (h : Nat) (next : Word) :
    RepStep c h next (c.afterBody h).1 (next - (c.afterBody h).2) := by
  refine ⟨fun a => ?_, fun a l => ?_, fun a e r => ?_, fun a e r => ?_⟩
  · simp [Ctl.afterBody_off c h a]
  · simp [Ctl.afterBody, a, l]
  · have : c.repRem - 1#24 ≠ 0#24 := fun z => r (by bv_omega)
    simp [Ctl.afterBody, a, e, if_neg this]
  · simp [Ctl.afterBody, a, e, r]

/-- advance moves the PC past the instruction and changes nothing else. -/
theorem State.past_advance (u : State) : u.Past u.advance := by
  have ctl : u.advance.ws.ctl = (u.ws.ctl.afterBody u.ilen).1 := by simp [State.advance, State.modWs_eq]
  have pc : u.advance.ws.pc = u.nextPc - (u.ws.ctl.afterBody u.ilen).2 := by simp [State.advance, State.modWs_eq]
  refine ⟨by rw [ctl, pc]; rfl, ?_, ?_⟩
  · rw [ctl]
    exact Ctl.afterBody_frame _ _
  · rw [ctl, pc]
    exact Ctl.afterBody_step _ _ _

theorem completes_advance {r : Result} {u : State} (h : r = .next u.advance) : Completes r u :=
  ⟨_, h, u.past_advance⟩

@[simp] theorem State.settle_ok (s t : State) : s.settle (.ok t) = .next t := rfl
@[simp] theorem State.settle_trap (s : State) (c : Cause) (i : Word) :
    s.settle (.error (.trap c i)) = .next (s.takeTrap c i) := rfl
@[simp] theorem State.settle_malformed (s : State) (a : Word) :
    s.settle (.error (.malformed a)) = .next (s.takeMalformed a) := rfl
@[simp] theorem State.settle_park (s : State) (w : Wait) : s.settle (.error (.park w)) = .next (s.park w) := rfl
@[simp] theorem State.finish_ok (s t : State) : s.finish (.ok t) = .next t.advance := rfl
@[simp] theorem State.finish_error (s : State) (e : Stop) : s.finish (.error e) = s.settle (.error e) := rfl

/-- Every instruction ends in a next state. -/
theorem State.settle_next (s : State) (r : Eff State) : ∃ t, s.settle r = .next t := by
  rcases r with (⟨c, i⟩ | va | w) | t <;> exact ⟨_, rfl⟩

theorem State.finish_next (s : State) (r : Eff State) : ∃ t, s.finish r = .next t := s.settle_next _

@[simp] theorem demand_true : demand true = .ok () := rfl
@[simp] theorem demand_false : demand false = .error (.trap .illop 0) := rfl
@[simp] theorem demandOr_true (c : Cause) (i : Word) : demandOr true c i = .ok () := rfl
@[simp] theorem demandOr_false (c : Cause) (i : Word) : demandOr false c i = .error (.trap c i) := rfl
@[simp] theorem await_true (w : Wait) : await true w = .ok () := rfl
@[simp] theorem await_false (w : Wait) : await false w = .error (.park w) := rfl
@[simp] theorem Eff.bind_ok {α β : Type} (x : α) (f : α → Eff β) : ((.ok x : Eff α) >>= f) = f x := rfl
@[simp] theorem Eff.bind_error {α β : Type} (e : Stop) (f : α → Eff β) : ((.error e : Eff α) >>= f) = .error e := rfl

/-- Where a chain of checks and effects ends well, each part did. -/
theorem Eff.bind_eq_ok {α β : Type} {x : Eff α} {f : α → Eff β} {b : β} :
    (x >>= f) = .ok b ↔ ∃ a, x = .ok a ∧ f a = .ok b := by
  cases x <;> simp

end Sys2Proof.Machine
end

