-- ==== Sys2Proof/Laws/Ops.lean ====
section
/-! SUPPORT. What the shared operations leave: tables and vectors, cores, clusters and dies, registers, elements of a tile,
and the canonical form under every operation that writes bytes. -/

namespace Sys2Proof.Machine

/-! ## Tables and vectors -/

theorem Table.get_put {α : Type} (t : Table α) (k j : Nat) (v : α) :
    (t.put k v).get j = if j = k then some v else t.get j := by
  induction t with
  | nil =>
    by_cases h : j = k
    · simp [Table.put, Table.get, h]
    · simp [Table.put, Table.get, h, Ne.symm h]
  | cons x t ih =>
    obtain ⟨i, y⟩ := x
    unfold Table.put
    split
    · next hi =>
      by_cases h : i = j
      · simp [Table.get, h, show j ≠ k by omega]
      · simp [Table.get, h, ih]
    · split
      · next he =>
        by_cases h : j = k
        · simp [Table.get, h]
        · simp [Table.get, he, h, Ne.symm h]
      · by_cases h : j = k
        · simp [Table.get, h]
        · simp [Table.get, h, Ne.symm h]

theorem Table.mem_put {α : Type} {t : Table α} {k : Nat} {v : α} {c : Nat × α} (h : c ∈ t.put k v) :
    c = (k, v) ∨ c ∈ t := by
  induction t with
  | nil => exact .inl (by simpa [Table.put] using h)
  | cons x t ih =>
    obtain ⟨i, y⟩ := x
    unfold Table.put at h
    split at h
    · rcases List.mem_cons.1 h with rfl | h
      · exact .inr (by simp)
      · exact (ih h).imp id fun h => List.mem_cons_of_mem _ h
    · split at h
      · rcases List.mem_cons.1 h with rfl | h
        · exact .inl rfl
        · exact .inr (List.mem_cons_of_mem _ h)
      · rcases List.mem_cons.1 h with rfl | h
        · exact .inl rfl
        · exact .inr h

theorem Table.mem_of_get {α : Type} {t : Table α} {k : Nat} {v : α} (h : t.get k = some v) : (k, v) ∈ t := by
  induction t with
  | nil => simp [Table.get] at h
  | cons x t ih =>
    obtain ⟨i, y⟩ := x
    unfold Table.get at h
    split at h
    · next he => simp_all
    · exact List.mem_cons_of_mem _ (ih h)

theorem vget_vset {α : Type} {n : Nat} (v : Vector α n) (i j : Nat) (x d : α) :
    vget (vset v i x) j d = if j = i ∧ i < n then x else vget v j d := by
  grind [vget, vset]

theorem Core.slot_setSlot (c : Core) (i j : Nat) (t : Slot) :
    (c.setSlot i t).slot j = if j = i ∧ i < 8 then t else c.slot j := vget_vset _ _ _ _ _
theorem Core.ticket_setTicket (c : Core) (i j : Nat) (t : Ticket) :
    (c.setTicket i t).ticket j = if j = i ∧ i < 32 then t else c.ticket j := vget_vset _ _ _ _ _

/-! ## Cores, clusters, dies -/

theorem State.core_setCore (s : State) (k j : Nat) (c : Core) :
    (s.setCore k c).core j = if j = k then c else s.core j := by
  unfold State.setCore State.core
  by_cases hk : k = s.hereCid
  · subst hk
    by_cases hj : j = s.hereCid <;> simp [hj]
  · by_cases hj : j = s.hereCid
    · subst hj
      simp [hk, Ne.symm hk]
    · by_cases h : j = k <;> simp [hk, hj, Table.get_put, h]

theorem State.core_modCore (s : State) (k j : Nat) (f : Core → Core) :
    (s.modCore k f).core j = if j = k then f (s.core k) else s.core j := s.core_setCore k j _

theorem State.cluster_setCluster (s : State) (k j : Nat) (x : Cluster) :
    (s.setCluster k x).cluster j = if j = k then x else s.cluster j := by
  unfold State.setCluster State.cluster
  by_cases h : j = k <;> simp [Table.get_put, h]

theorem State.cluster_modCluster (s : State) (k j : Nat) (f : Cluster → Cluster) :
    (s.modCluster k f).cluster j = if j = k then f (s.cluster k) else s.cluster j := s.cluster_setCluster k j _

theorem State.die_setDie (s : State) (k j : Nat) (x : Die) :
    (s.setDie k x).die j = if j = k then x else s.die j := by
  unfold State.setDie State.die
  by_cases h : j = k <;> simp [Table.get_put, h]

theorem State.die_modDie (s : State) (k j : Nat) (f : Die → Die) :
    (s.modDie k f).die j = if j = k then f (s.die k) else s.die j := s.die_setDie k j _

theorem State.slot_modSlot (s : State) (cid i k j : Nat) (f : Slot → Slot) :
    ((s.modSlot cid i f).core k).slot j = if k = cid ∧ j = i ∧ i < 8 then f ((s.core cid).slot i) else
      (s.core k).slot j := by
  unfold State.modSlot
  rw [State.core_modCore]
  by_cases h : k = cid
  · subst h
    simp only [if_true, true_and, Core.modSlot, Core.slot_setSlot]
  · simp [h]

/-! ## Registers -/

/-- Writing one physical register leaves every other. -/
theorem State.g_setG_other (s : State) (r q : GReg) (v : Word) (h : s.ws.ctl.phys q ≠ s.ws.ctl.phys r) :
    (s.setG r v).g q = s.g q := by
  simp only [State.g, State.setG_ctl]
  have hv : (s.ws.ctl.phys r).toNat ≠ (s.ws.ctl.phys q).toNat := fun e => h (BitVec.eq_of_toNat_eq e.symm)
  simp [State.setG_eq, Workspace.setReg, Workspace.reg, Workspace.raw, hv]

/-- A register other than g0 reads as the value written last. -/
theorem State.g_setG_same (s : State) (r : GReg) (v : Word) (h : s.ws.ctl.phys r ≠ 0) : (s.setG r v).g r = v := by
  have h' : ¬ s.ws.ctl.phys r = 0#5 := h
  simp only [State.g, State.setG_ctl, Workspace.reg, if_neg h']
  simp [State.setG_eq, Workspace.setReg, Workspace.raw]

/-! ## Free choices -/

theorem State.choose_lt (s : State) (n : Nat) (h : 0 < n) : (s.choose n).1 < n := Nat.mod_lt _ h
theorem State.choose_state (s : State) (n : Nat) : (s.choose n).2 = { s with tick := s.tick + 1 } := rfl

/-! ## Stores that other tasks of a cluster may not see yet (R198, R200 to R203) -/

/-- With no such store in a cluster there is nothing to change. -/
theorem State.modLate_nil (s : State) (c : Nat) (f : List Late → List Late) (h : (s.cluster c).late = []) :
    s.modLate c f = s := by
  simp [State.modLate, h]

/-- What a task may see of stores is all that changes, in one cluster. -/
theorem State.modLate_eq (s : State) (c : Nat) (f : List Late → List Late) :
    ∃ k, s.modLate c f = { s with clusters := k } := by
  unfold State.modLate
  split
  · exact ⟨s.clusters, rfl⟩
  · exact ⟨_, rfl⟩

/-- An acquire at core or cluster scope: the task sees the stores that a release in scope covers, and nothing else changes. -/
theorem State.acquire_narrow (s : State) (sc : Scope) (h : scopeWide sc = false) :
    s.acquire sc = s.modLate (clusterOf s.hereCid) fun l =>
      l.map fun y => if y.reaches s.hereCid (sc != .core) then y.bar s.me else y := by
  simp [State.acquire, State.acquireFor, State.me, h]

/-- A release at core or cluster scope: it covers what the task has made or seen, and nothing else changes. -/
theorem State.releaseTo_narrow (s : State) (sc : Scope) (h : scopeWide sc = false) :
    s.releaseTo sc = s.modLate (clusterOf s.hereCid) fun l =>
      l.map fun y => if y.barred.contains s.me then y.free (s.hereCid, sc != .core) else y := by
  simp [State.releaseTo, State.releaseFor, State.me, h]
theorem State.acquireIf_rlx (s : State) (sc : Scope) : s.acquireIf .rlx sc = s := rfl
theorem State.releaseIf_rlx (s : State) (sc : Scope) : s.releaseIf .rlx sc = s := rfl

/-! ## Elements of a tile (R139) -/

theorem tileElem_lt (t : Tile) (w e : Nat) : tileElem t w e < 2 ^ w := Nat.mod_lt _ (Nat.two_pow_pos w)

/-- A tile after an element of w bits has been replaced: the number below it, the element, and the number above it. -/
theorem tileSet_parts (t : Tile) (w e v : Nat) (h : w * (e + 1) ≤ 8192) :
    (tileSet t w e v).toNat % 2 ^ (w * e) = t.toNat % 2 ^ (w * e) ∧
      (tileSet t w e v).toNat / 2 ^ (w * e) % 2 ^ w = v % 2 ^ w ∧
      (tileSet t w e v).toNat / 2 ^ (w * e) / 2 ^ w = t.toNat / 2 ^ (w * e) / 2 ^ w := by
  have hP : 0 < 2 ^ (w * e) := Nat.two_pow_pos _
  have hQ : 0 < 2 ^ w := Nat.two_pow_pos _
  have hX := t.isLt
  generalize hx : t.toNat = X at *
  generalize hp : 2 ^ (w * e) = P at *
  generalize hq : 2 ^ w = Q at *
  have hm : tileElem t w e = X / P % Q := by simp [tileElem, hx, Nat.shiftRight_eq_div_pow, hp, hq]
  have h1 : X = P * (Q * (X / P / Q) + X / P % Q) + X % P := by
    rw [Nat.div_add_mod (X / P) Q, Nat.div_add_mod]
  have hsub : X - X / P % Q * P + v % Q * P = P * (Q * (X / P / Q) + v % Q) + X % P := by
    have : X - X / P % Q * P = P * (Q * (X / P / Q)) + X % P := by
      conv => lhs; lhs; rw [h1]
      rw [Nat.mul_add, Nat.mul_comm (X / P % Q) P]
      omega
    rw [this, Nat.mul_add, Nat.mul_comm (v % Q) P]
    omega
  have hval : (tileSet t w e v).toNat = (P * (Q * (X / P / Q) + v % Q) + X % P) % 2 ^ 8192 := by
    rw [tileSet, hm, hx, BitVec.toNat_ofNat]
    simp only [Nat.shiftLeft_eq, hp, hq]
    rw [hsub]
  have hlt : P * (Q * (X / P / Q) + v % Q) + X % P < 2 ^ 8192 := by
    have hdvd : P * Q ∣ 2 ^ 8192 := by
      rw [← hp, ← hq, ← Nat.pow_add]
      exact Nat.pow_dvd_pow 2 (by rw [Nat.mul_add] at h; omega)
    obtain ⟨R, hR⟩ := hdvd
    have hH : X / P / Q < R := by
      rw [Nat.div_div_eq_div_mul]
      exact Nat.div_lt_of_lt_mul (by rw [← hR]; exact hX)
    have hv : v % Q < Q := Nat.mod_lt _ hQ
    have hl : X % P < P := Nat.mod_lt _ hP
    calc P * (Q * (X / P / Q) + v % Q) + X % P
        < P * (Q * (X / P / Q) + v % Q) + P := by omega
      _ = P * (Q * (X / P / Q) + v % Q + 1) := by rw [Nat.mul_add P _ 1, Nat.mul_one]
      _ ≤ P * (Q * (X / P / Q) + Q) := Nat.mul_le_mul_left _ (by omega)
      _ = P * Q * (X / P / Q + 1) := by rw [Nat.mul_assoc, Nat.mul_add Q _ 1, Nat.mul_one]
      _ ≤ P * Q * R := Nat.mul_le_mul_left _ hH
      _ = 2 ^ 8192 := hR.symm
  rw [hval, Nat.mod_eq_of_lt hlt]
  have hl : X % P < P := Nat.mod_lt _ hP
  have hd : (P * (Q * (X / P / Q) + v % Q) + X % P) / P = Q * (X / P / Q) + v % Q := by
    rw [Nat.mul_add_div hP, Nat.div_eq_of_lt hl, Nat.add_zero]
  refine ⟨?_, ?_, ?_⟩
  · rw [Nat.mul_add_mod, Nat.mod_mod]
  · rw [hd, Nat.mul_add_mod, Nat.mod_mod]
  · rw [hd, Nat.mul_add_div hQ, Nat.div_eq_of_lt (Nat.mod_lt _ hQ), Nat.add_zero]

/-- A replaced element reads as its new value, every other element of the tile as before. -/
theorem tileElem_tileSet (t : Tile) (w e v k : Nat) (h : w * (e + 1) ≤ 8192) :
    tileElem (tileSet t w e v) w k = if k = e then v % 2 ^ w else tileElem t w k := by
  obtain ⟨h1, h2, h3⟩ := tileSet_parts t w e v h
  simp only [tileElem, Nat.shiftRight_eq_div_pow]
  rcases Nat.lt_trichotomy k e with hk | hk | hk
  · rw [if_neg (by omega)]
    have low (X : Nat) : X / 2 ^ (w * k) % 2 ^ w = X % 2 ^ (w * e) / 2 ^ (w * k) % 2 ^ w := by
      have he : w * e = w * k + (w + w * (e - k - 1)) := by
        have : e = k + (1 + (e - k - 1)) := by omega
        conv => lhs; rw [this, Nat.mul_add, Nat.mul_add, Nat.mul_one]
      rw [he, Nat.pow_add, Nat.mod_mul_right_div_self, Nat.pow_add, Nat.mod_mul_right_mod]
    rw [low, low t.toNat, h1]
  · subst hk
    rw [if_pos rfl, h2]
  · rw [if_neg (by omega)]
    have high (X : Nat) : X / 2 ^ (w * k) = X / 2 ^ (w * e) / 2 ^ w / 2 ^ (w * (k - e - 1)) := by
      rw [Nat.div_div_eq_div_mul, Nat.div_div_eq_div_mul, ← Nat.pow_add, ← Nat.pow_add]
      congr 2
      have : k = e + (1 + (k - e - 1)) := by omega
      conv => lhs; rw [this, Nat.mul_add, Nat.mul_add, Nat.mul_one]
    rw [high, high t.toNat, h3]

/-! ## The canonical form -/

theorem Core.canonical_reset : Core.reset.Canonical := by
  refine ⟨rfl, fun i => ?_⟩
  simp [Core.reset, Ticket.reset, Memory.wf]

theorem State.canonical_core {s : State} (h : s.Canonical) (k : Nat) : (s.core k).Canonical := by
  unfold State.core
  split
  · exact h.1
  · cases hg : s.others.get k with
    | none => exact Core.canonical_reset
    | some c => exact h.2.1 _ (Table.mem_of_get hg)

theorem State.canonical_cluster {s : State} (h : s.Canonical) (k : Nat) : (s.cluster k).csp.wf = true := by
  unfold State.cluster
  cases hg : s.clusters.get k with
  | none => rfl
  | some c => exact h.2.2.1 _ (Table.mem_of_get hg)

theorem State.canonical_die {s : State} (h : s.Canonical) (k : Nat) : (s.die k).dsw.wf = true := by
  unfold State.die
  cases hg : s.dies.get k with
  | none => rfl
  | some c => exact h.2.2.2.1 _ (Table.mem_of_get hg)

theorem State.canonical_setCore {s : State} (h : s.Canonical) {c : Core} (hc : c.Canonical) (k : Nat) :
    (s.setCore k c).Canonical := by
  unfold State.setCore
  split
  · exact ⟨hc, h.2⟩
  · refine ⟨h.1, fun x hx => ?_, h.2.2⟩
    rcases Table.mem_put hx with rfl | hx
    · exact hc
    · exact h.2.1 x hx

theorem State.canonical_setCluster {s : State} (h : s.Canonical) {x : Cluster} (hx : x.csp.wf = true) (k : Nat) :
    (s.setCluster k x).Canonical := by
  refine ⟨h.1, h.2.1, fun y hy => ?_, h.2.2.2⟩
  rcases Table.mem_put hy with rfl | hy
  · exact hx
  · exact h.2.2.1 y hy

theorem State.canonical_setDie {s : State} (h : s.Canonical) {x : Die} (hx : x.dsw.wf = true) (k : Nat) :
    (s.setDie k x).Canonical := by
  refine ⟨h.1, h.2.1, h.2.2.1, fun y hy => ?_, h.2.2.2.2⟩
  rcases Table.mem_put hy with rfl | hy
  · exact hx
  · exact h.2.2.2.1 y hy

theorem Core.canonical_setSlot {c : Core} (h : c.Canonical) (i : Nat) (t : Slot) : (c.setSlot i t).Canonical := h

theorem Core.canonical_setLmByte {c : Core} (h : c.Canonical) (o : Nat) (b : Byte) : (c.setLmByte o b).Canonical := by
  unfold Core.setLmByte
  split
  · exact h
  · exact ⟨Memory.put_wf h.1 _ _, h.2⟩

theorem State.canonical_setByteAt {s : State} (h : s.Canonical) (l : Loc) (b : Byte) : (s.setByteAt l b).Canonical := by
  cases l with
  | lm cid o => exact s.canonical_setCore h (Core.canonical_setLmByte (s.canonical_core h cid) o b) cid
  | csp c o => exact s.canonical_setCluster h (Memory.put_wf (s.canonical_cluster h c) o b) c
  | dsw d o => exact s.canonical_setDie h (Memory.put_wf (s.canonical_die h d) o b) d
  | mqw o => exact h
  | phys a => exact ⟨h.1, h.2.1, h.2.2.1, h.2.2.2.1, Memory.put_wf h.2.2.2.2.1 a b, h.2.2.2.2.2⟩

theorem State.canonical_poke {s : State} (h : s.Canonical) (l : Loc) (n v : Nat) : (s.poke l n v).Canonical := by
  induction n generalizing s l v with
  | zero => exact h
  | succ n ih => exact ih (s.canonical_setByteAt h l _) _ _

theorem State.canonical_setTask {s : State} (h : s.Canonical) (t : Slot) : (s.setTask t).Canonical := h

theorem State.canonical_modSlot {s : State} (h : s.Canonical) (cid i : Nat) (f : Slot → Slot) :
    (s.modSlot cid i f).Canonical := s.canonical_setCore h (Core.canonical_setSlot (s.canonical_core h cid) i _) cid

theorem State.canonical_advance {s : State} (h : s.Canonical) : s.advance.Canonical := h

/-! ## One byte -/

theorem Core.lmByte_setLmByte {c : Core} (h : c.Canonical) (o x : Nat) (b : Byte) (ho : Config.slotBytes ≤ o) :
    (c.setLmByte o b).lmByte x = if x = o then b else c.lmByte x := by
  have he : c.setLmByte o b = { c with lm := c.lm.put o b } := if_neg (Nat.not_lt.2 ho)
  rw [he]
  unfold Core.lmByte
  by_cases hx : x < Config.slotBytes
  · have hxo : x ≠ o := fun e => Nat.not_lt.2 ho (e ▸ hx)
    simp only [if_pos hx, if_neg hxo]
    rfl
  · simp only [if_neg hx]
    exact Memory.get_put h.1 o x b

/-- What a write of one byte outside the workspace slots leaves: that byte, and every other byte as before. -/
theorem State.byteAt_setByteAt {s : State} (h : s.Canonical) (l x : Loc) (b : Byte) (hp : l.plain)
    (hl : ∀ o, l ≠ .mqw o) : (s.setByteAt l b).byteAt x = if x = l then b else s.byteAt x := by
  cases l with
  | lm cid o =>
    cases x with
    | lm cid' o' =>
      show ((s.modCore cid _).core cid').lmByte o' = _
      rw [State.core_modCore]
      by_cases hc : cid' = cid
      · subst hc
        rw [if_pos rfl, Core.lmByte_setLmByte (s.canonical_core h cid') o o' b hp]
        by_cases ho : o' = o <;> simp [ho, State.byteAt]
      · simp [hc, State.byteAt]
    | csp => simp [State.setByteAt, State.byteAt, State.modCore, State.cluster]
    | dsw => simp [State.setByteAt, State.byteAt, State.modCore, State.die]
    | mqw => simp [State.byteAt]
    | phys => simp [State.setByteAt, State.byteAt, State.modCore]
  | csp c o =>
    cases x with
    | csp c' o' =>
      show ((s.modCluster c _).cluster c').csp.get o' = _
      rw [State.cluster_modCluster]
      by_cases hc : c' = c
      · subst hc
        rw [if_pos rfl, Memory.get_put (s.canonical_cluster h c')]
        by_cases ho : o' = o <;> simp [ho, State.byteAt]
      · simp [hc, State.byteAt]
    | lm => simp [State.setByteAt, State.byteAt, State.modCluster, State.setCluster, State.core]; rfl
    | dsw => simp [State.setByteAt, State.byteAt, State.modCluster, State.setCluster, State.die]
    | mqw => simp [State.byteAt]
    | phys => simp [State.setByteAt, State.byteAt, State.modCluster, State.setCluster]
  | dsw c o =>
    cases x with
    | dsw c' o' =>
      show ((s.modDie c _).die c').dsw.get o' = _
      rw [State.die_modDie]
      by_cases hc : c' = c
      · subst hc
        rw [if_pos rfl, Memory.get_put (s.canonical_die h c')]
        by_cases ho : o' = o <;> simp [ho, State.byteAt]
      · simp [hc, State.byteAt]
    | lm => simp [State.setByteAt, State.byteAt, State.modDie, State.setDie, State.core]; rfl
    | csp => simp [State.setByteAt, State.byteAt, State.modDie, State.setDie, State.cluster]
    | mqw => simp [State.byteAt]
    | phys => simp [State.setByteAt, State.byteAt, State.modDie, State.setDie]
  | mqw o => exact absurd rfl (hl o)
  | phys a =>
    cases x with
    | phys a' =>
      show (s.mem.put a b).get a' = _
      rw [Memory.get_put h.2.2.2.2.1]
      by_cases ho : a' = a <;> simp [ho, State.byteAt]
    | lm => simp [State.setByteAt, State.byteAt, State.core]; rfl
    | csp => simp [State.setByteAt, State.byteAt, State.cluster]
    | dsw => simp [State.setByteAt, State.byteAt, State.die]
    | mqw => simp [State.byteAt]

/-! ## Parking (R272) -/

@[simp] theorem State.park_mem (s : State) (w : Wait) : (s.park w).mem = s.mem := rfl
@[simp] theorem State.park_clusters (s : State) (w : Wait) : (s.park w).clusters = s.clusters := rfl
@[simp] theorem State.park_dies (s : State) (w : Wait) : (s.park w).dies = s.dies := rfl
@[simp] theorem State.park_others (s : State) (w : Wait) : (s.park w).others = s.others := rfl
@[simp] theorem State.park_here_lm (s : State) (w : Wait) : (s.park w).here.lm = s.here.lm := rfl
theorem State.canonical_park {s : State} (h : s.Canonical) (w : Wait) : (s.park w).Canonical := h

/-! ## Mending, and replies to waiters (R225, R375) -/

theorem State.mend_of_sound {s : State} {l : Loc} (h : s.sound l = true) (n : Nat) : s.mend l n = s := by
  simp [State.mend, h]

/-- The reply to a WAITA of another X40 leaves everything but the word that has left the machine. -/
theorem State.answerFar_cases (s : State) (w : FarWait) :
    s.answerFar w = s ∨ ∃ v, s.answerFar w = { s with lastRead := v } := by
  unfold State.answerFar
  generalize (if w.w64 = true then 8 else 4) = n
  dsimp only
  split
  · exact .inr ⟨_, rfl⟩
  · exact .inl rfl

/-- Before an instruction that is no vector instruction the vector unit stays as it is (R144). -/
theorem State.readied_scalar {s : State} {i : Instr} (h : Instr.isVector i = false) : s.readied i = s := by
  simp [State.readied, h]

end Sys2Proof.Machine
end

