-- ==== Sys2Proof/Laws/PerInstr.lean ====
section
/-! SUPPORT. R54, instruction by instruction: an encoding is a base word behind at most four prefix words. -/

namespace Sys2Proof

theorem pfxWords_length (w : Nat) (imm : Word) (k : Nat) : (pfxWords w imm k).length = k := by
  induction k with
  | zero => rfl
  | succ k ih => simp [pfxWords, ih]

theorem pfxCount_le (w : Nat) (imm : Word) : pfxCount w imm ≤ 4 := by
  unfold pfxCount
  repeat' split
  all_goals omega

/-- An immediate that fits behind n other prefix words needs at most 4 - n of its own (R38, R54). -/
theorem pfxCount_le_of_fits (w n : Nat) (imm : Word) (hn : n ≤ 4) (h : immFits w n imm = true) :
    pfxCount w imm ≤ 4 - n := by
  unfold immFits at h
  unfold pfxCount
  have : n = 0 ∨ n = 1 ∨ n = 2 ∨ n = 3 ∨ n = 4 := by omega
  rcases this with rfl | rfl | rfl | rfl | rfl <;> simp only [Nat.sub_zero, Nat.reduceSub, Nat.reduceMul, Nat.add_zero] at h
  all_goals (repeat' split) <;> simp_all

/-- The prefix words beside PFX.I. -/
def Form.others (f : Form) : Nat :=
  (if f.page = 0#4 ∧ f.md = 0#6 then 0 else 1) + if f.base.regBits = 0#10 then 0 else 1

theorem Form.others_le (f : Form) : f.others ≤ 2 := by
  unfold Form.others
  split <;> split <;> omega

theorem Form.words_length (f : Form) :
    f.words.length = f.others + (match f.base.immOf with | some (w, i) => pfxCount w i | none => 0) + 1 := by
  unfold Form.words Form.others
  simp only [List.length_append, List.length_cons, List.length_nil]
  split <;> split <;> split <;> simp_all [pfxWords_length]

theorem Form.words_length_noImm (f : Form) (h : f.base.immOf = none) : f.words.length ≤ 5 := by
  have h0 : f.words.length = f.others + 0 + 1 := f.words_length.trans (by simp only [h])
  have := f.others_le
  omega

theorem Form.words_length_imm (f : Form) (w n : Nat) (imm : Word) (hi : f.base.immOf = some (w, imm))
    (ho : f.others ≤ n) (hn : n ≤ 4) (h : immFits w n imm = true) : f.words.length ≤ 5 := by
  rw [f.words_length, hi]
  have := pfxCount_le_of_fits w n imm hn h
  simp only
  omega

/-- A register below 8 has no high bits (R46). -/
theorem highBits_zero (r : BitVec 5) (h : r.toNat < 8) : r.extractLsb' 3 2 = 0#2 := by
  apply BitVec.eq_of_toNat_eq
  simp [Nat.shiftRight_eq_div_pow]
  omega

theorem highRegs_le (rs : List (BitVec 5)) : highRegs rs ≤ 1 := by
  unfold highRegs
  split <;> omega

theorem regs_le0 (rs : List (BitVec 5)) : highRegs rs ≤ 4 := by have := highRegs_le rs; omega
theorem regs_le1 (rs : List (BitVec 5)) : 1 + highRegs rs ≤ 4 := by have := highRegs_le rs; omega

/-- A PFX.R that only carries high bits of the registers listed is there for one of them. -/
theorem regPrefix_le (rs : List (BitVec 5)) (x : BitVec 10) (h : (∀ r ∈ rs, r.toNat < 8) → x = 0#10) :
    (if x = 0#10 then 0 else 1) ≤ highRegs rs := by
  unfold highRegs
  by_cases hr : rs.all (fun r => decide (r.toNat < 8)) = true
  · rw [if_pos hr, if_pos (h (by simpa using hr))]
  · rw [if_neg hr]
    split <;> omega

theorem others_le_regs (f : Form) (rs : List (BitVec 5)) (h : (∀ r ∈ rs, r.toNat < 8) → f.base.regBits = 0#10) :
    f.others ≤ 1 + highRegs rs := by
  have := regPrefix_le rs _ h
  unfold Form.others
  split <;> omega

theorem others_le_regs0 (f : Form) (rs : List (BitVec 5)) (hp : f.page = 0#4 ∧ f.md = 0#6)
    (h : (∀ r ∈ rs, r.toNat < 8) → f.base.regBits = 0#10) : f.others ≤ highRegs rs := by
  have := regPrefix_le rs _ h
  unfold Form.others
  rw [if_pos hp]
  omega

/-! The register fields of the formats with an immediate. -/

theorem riBits (mj : BitVec 4) (d : BitVec 5) (i : Word) (h : ∀ r ∈ [d], r.toNat < 8) :
    (BaseForm.ri mj d i).regBits = 0#10 := by
  simp only [BaseForm.regBits, highBits_zero d (h d (by simp))]; decide

theorem rriBits (mj : BitVec 4) (d a : BitVec 5) (i : Word) (h : ∀ r ∈ [d, a], r.toNat < 8) :
    (BaseForm.rri mj d a i).regBits = 0#10 := by
  simp only [BaseForm.regBits, highBits_zero d (h d (by simp)), highBits_zero a (h a (by simp))]; decide

theorem mBits (mj : BitVec 4) (d a : BitVec 5) (z : BitVec 2) (i : Word) (h : ∀ r ∈ [d, a], r.toNat < 8) :
    (BaseForm.m mj d a z i).regBits = 0#10 := by
  simp only [BaseForm.regBits, highBits_zero d (h d (by simp)), highBits_zero a (h a (by simp))]; decide

end Sys2Proof

namespace Sys2Proof.Laws.Encoding

open Sys2Proof

/-- R54: a well-formed instruction has at most five words. -/
def Statement (i : Instr) : Prop := i.wf = true → (encode i).length ≤ 5

theorem and_right {a b : Bool} (h : (a && b) = true) : b = true := by
  cases a <;> simp_all

/-- A row without words. -/
theorem of_none {i : Instr} (h : i.form = none) : Statement i := by
  intro _
  simp [encode, h]

/-- A format without an immediate. -/
theorem of_noImm {i : Instr} (f : Form) (h : i.form = some f) (hi : f.base.immOf = none) : Statement i := by
  intro _
  simp only [encode, h]
  exact f.words_length_noImm hi

/-- A format with an immediate of w bits beside n other prefix words. -/
theorem of_imm {i : Instr} (f : Form) (w n : Nat) (imm : Word) (h : i.form = some f) (hi : f.base.immOf = some (w, imm))
    (ho : f.others ≤ n) (hn : n ≤ 4) (hw : i.wf = true → immFits w n imm = true) : Statement i := by
  intro k
  simp only [encode, h]
  exact f.words_length_imm w n imm hi ho hn (hw k)

theorem ret : Statement (.ret) := of_noImm _ rfl rfl
theorem add (d a b : GReg) : Statement (.add d a b) := of_noImm _ rfl rfl
theorem sub (d a b : GReg) : Statement (.sub d a b) := of_noImm _ rfl rfl
theorem mul (d a b : GReg) : Statement (.mul d a b) := of_noImm _ rfl rfl
theorem mulh (ty : IntTy) (d a b : GReg) : Statement (.mulh ty d a b) := of_noImm _ rfl rfl
theorem div (ty : IntTy) (d a b : GReg) : Statement (.div ty d a b) := of_noImm _ rfl rfl
theorem rem (ty : IntTy) (d a b : GReg) : Statement (.rem ty d a b) := of_noImm _ rfl rfl
theorem min (ty : IntTy) (d a b : GReg) : Statement (.min ty d a b) := of_noImm _ rfl rfl
theorem max (ty : IntTy) (d a b : GReg) : Statement (.max ty d a b) := of_noImm _ rfl rfl
theorem ldi (d : GReg) (imm : Word) : Statement (.ldi d imm) :=
  of_imm _ 9 (highRegs [d]) imm rfl rfl (others_le_regs0 _ [d] ⟨rfl, rfl⟩ (riBits _ d _)) (regs_le0 _) (fun h => h)
theorem and (d a b : GReg) : Statement (.and d a b) := of_noImm _ rfl rfl
theorem or (d a b : GReg) : Statement (.or d a b) := of_noImm _ rfl rfl
theorem xor (d a b : GReg) : Statement (.xor d a b) := of_noImm _ rfl rfl
theorem andn (d a b : GReg) : Statement (.andn d a b) := of_noImm _ rfl rfl
theorem shl (d a b : GReg) : Statement (.shl d a b) := of_noImm _ rfl rfl
theorem shr (d a b : GReg) : Statement (.shr d a b) := of_noImm _ rfl rfl
theorem sar (d a b : GReg) : Statement (.sar d a b) := of_noImm _ rfl rfl
theorem rol (d a b : GReg) : Statement (.rol d a b) := of_noImm _ rfl rfl
theorem mov (d : GReg) (a : MovReg) : Statement (.mov d a) := of_noImm _ rfl rfl
theorem movDestSelect (d : MovReg) (a : GReg) : Statement (.movDestSelect d a) := of_noImm _ rfl rfl
theorem clz (d a : GReg) : Statement (.clz d a) := of_noImm _ rfl rfl
theorem ctz (d a : GReg) : Statement (.ctz d a) := of_noImm _ rfl rfl
theorem popc (d a : GReg) : Statement (.popc d a) := of_noImm _ rfl rfl
theorem cmp (a b : GReg) : Statement (.cmp a b) := of_noImm _ rfl rfl
theorem tst (a b : GReg) : Statement (.tst a b) := of_noImm _ rfl rfl
theorem sel (c : Cond) (d a b : GReg) : Statement (.sel c d a b) := of_noImm _ rfl rfl
theorem lea (d a : GReg) (disp : Word) : Statement (.lea d a disp) :=
  of_imm _ 6 (highRegs [d, a]) disp rfl rfl (others_le_regs0 _ [d, a] ⟨rfl, rfl⟩ (rriBits _ d a _)) (regs_le0 _)
    (fun h => h)
theorem ext (ty : ExtTy) (d a : GReg) : Statement (.ext ty d a) := of_noImm _ rfl rfl
theorem jmpr (d a : GReg) : Statement (.jmpr d a) := of_noImm _ rfl rfl
theorem brc (c : Cond) (off : Word) : Statement (.brc c off) :=
  of_imm _ 8 0 off rfl rfl (by simp [Form.others, BaseForm.regBits]) (by omega) (fun h => h)
theorem br (off : Word) : Statement (.br off) :=
  of_imm _ 12 0 off rfl rfl (by simp [Form.others, BaseForm.regBits]) (by omega) (fun h => h)
theorem call (off : Word) : Statement (.call off) :=
  of_imm _ 12 0 off rfl rfl (by simp [Form.others, BaseForm.regBits]) (by omega) (fun h => h)
theorem loop (d : GReg) (off : Word) : Statement (.loop d off) :=
  of_imm _ 9 (highRegs [d]) off rfl rfl (others_le_regs0 _ [d] ⟨rfl, rfl⟩ (riBits _ d _)) (regs_le0 _) (fun h => h)
theorem cmpImm (d : GReg) (imm : Word) : Statement (.cmpImm d imm) :=
  of_imm _ 9 (highRegs [d]) imm rfl rfl (others_le_regs0 _ [d] ⟨rfl, rfl⟩ (riBits _ d _)) (regs_le0 _) (fun h => h)
theorem ldk (d : GReg) (imm : Word) : Statement (.ldk d imm) :=
  of_imm _ 9 (highRegs [d]) imm rfl rfl (others_le_regs0 _ [d] ⟨rfl, rfl⟩ (riBits _ d _)) (regs_le0 _) (fun h => h)
theorem blkend : Statement (.blkend) := of_noImm _ rfl rfl
theorem hintNop (modifier : BitVec 6) (base : Half) : Statement (.hintNop modifier base) := of_noImm _ rfl rfl
theorem unassignedEncoding : Statement (.unassignedEncoding) := of_none rfl
theorem trap (n : Byte) : Statement (.trap n) := of_noImm _ rfl rfl
theorem svc (n : Byte) : Statement (.svc n) := of_noImm _ rfl rfl
theorem rft : Statement (.rft) := of_noImm _ rfl rfl
theorem snap (n : Byte) : Statement (.snap n) := of_noImm _ rfl rfl
theorem shlImm (n : BitVec 6) (d a : GReg) : Statement (.shlImm n d a) := of_noImm _ rfl rfl
theorem shrImm (n : BitVec 6) (d a : GReg) : Statement (.shrImm n d a) := of_noImm _ rfl rfl
theorem sarImm (n : BitVec 6) (d a : GReg) : Statement (.sarImm n d a) := of_noImm _ rfl rfl
theorem rolImm (n : BitVec 6) (d a : GReg) : Statement (.rolImm n d a) := of_noImm _ rfl rfl
theorem bfx (pos : BitVec 6) (d a : GReg) (wm1 : BitVec 6) : Statement (.bfx pos d a wm1) := of_noImm _ rfl rfl
theorem bfi (pos : BitVec 6) (d a : GReg) (wm1 : BitVec 6) : Statement (.bfi pos d a wm1) := of_noImm _ rfl rfl
theorem mfs (d : GReg) (n : BitVec 12) : Statement (.mfs d n) := of_noImm _ rfl rfl
theorem mts (d : GReg) (n : BitVec 12) : Statement (.mts d n) := of_noImm _ rfl rfl
theorem rep (stagger : BitVec 3) (a : GReg) (len : BitVec 6) : Statement (.rep stagger a len) := of_noImm _ rfl rfl
theorem tlbi (cluster : Bool) (a b : GReg) : Statement (.tlbi cluster a b) := of_noImm _ rfl rfl
theorem vadd (m : VMod) (d a b : VReg) : Statement (.vadd m d a b) := of_noImm _ rfl rfl
theorem vsub (m : VMod) (d a b : VReg) : Statement (.vsub m d a b) := of_noImm _ rfl rfl
theorem vmul (m : VMod) (d a b : VReg) : Statement (.vmul m d a b) := of_noImm _ rfl rfl
theorem vfma (m : VMod) (d a b : VReg) : Statement (.vfma m d a b) := of_noImm _ rfl rfl
theorem vmax (mask : KReg) (d a b : VReg) : Statement (.vmax mask d a b) := of_noImm _ rfl rfl
theorem vmin (mask : KReg) (d a b : VReg) : Statement (.vmin mask d a b) := of_noImm _ rfl rfl
theorem vdiv (m : VMod) (d a b : VReg) : Statement (.vdiv m d a b) := of_noImm _ rfl rfl
theorem vsel (k : KReg) (d a b : VReg) : Statement (.vsel k d a b) := of_noImm _ rfl rfl
theorem vcmp (p : VPred) (mask : KReg) (d : KReg) (a b : VReg) : Statement (.vcmp p mask d a b) := of_noImm _ rfl rfl
theorem vabs (mask : KReg) (sat : Bool) (d a : VReg) : Statement (.vabs mask sat d a) := of_noImm _ rfl rfl
theorem vneg (mask : KReg) (sat : Bool) (d a : VReg) : Statement (.vneg mask sat d a) := of_noImm _ rfl rfl
theorem vbcast (mask : KReg) (d : VReg) (a : GReg) : Statement (.vbcast mask d a) := of_noImm _ rfl rfl
theorem vclr (d : VReg) : Statement (.vclr d) := of_noImm _ rfl rfl
theorem vredr (op : VRedOp) (m : VMod) (d a : VReg) : Statement (.vredr op m d a) := of_noImm _ rfl rfl
theorem vredc (op : VRedOp) (m : VMod) (d a : VReg) : Statement (.vredc op m d a) := of_noImm _ rfl rfl
theorem vrdq (d : VReg) (a : QReg) (b : GReg) : Statement (.vrdq d a b) := of_noImm _ rfl rfl
theorem vsets (a : GReg) : Statement (.vsets a) := of_noImm _ rfl rfl
theorem vld (mask : KReg) (d : VReg) (a : GReg) (disp : Word) : Statement (.vld mask d a disp) :=
  of_imm _ 6 (1 + highRegs [d.setWidth 5, a]) disp rfl rfl (others_le_regs _ [d.setWidth 5, a] (rriBits _ (d.setWidth 5) a _)) (regs_le1 _)
    (fun h => h)
theorem vst (mask : KReg) (d : VReg) (a : GReg) (disp : Word) : Statement (.vst mask d a disp) :=
  of_imm _ 6 (1 + highRegs [d.setWidth 5, a]) disp rfl rfl (others_le_regs _ [d.setWidth 5, a] (rriBits _ (d.setWidth 5) a _)) (regs_le1 _)
    (fun h => h)
theorem vldt (mask : KReg) (d : VReg) (a : GReg) (disp : Word) : Statement (.vldt mask d a disp) :=
  of_imm _ 6 (1 + highRegs [d.setWidth 5, a]) disp rfl rfl (others_le_regs _ [d.setWidth 5, a] (rriBits _ (d.setWidth 5) a _)) (regs_le1 _)
    (fun h => h)
theorem vsetsImm (imm : Word) : Statement (.vsetsImm imm) :=
  of_imm _ 9 1 imm rfl rfl (by simp [Form.others, BaseForm.regBits]) (by omega) (fun h => h)
theorem vcvt (target : VTarget) (mx : Bool) (ct : BitVec 2) (r : Round) (s : Sat) (d a : VReg) : Statement (.vcvt target mx ct r s d a) := of_noImm _ rfl rfl
theorem vexp2 (d a : VReg) : Statement (.vexp2 d a) := of_noImm _ rfl rfl
theorem vsmx (d a b : VReg) : Statement (.vsmx d a b) := of_noImm _ rfl rfl
theorem vrng (d : VReg) (a : GReg) : Statement (.vrng d a) := of_noImm _ rfl rfl
theorem vqmax (d a : VReg) (g : BitVec 3) : Statement (.vqmax d a g) := of_noImm _ rfl rfl
theorem vqz (r : Round) (s : Sat) (d a b : VReg) : Statement (.vqz r s d a b) := of_noImm _ rfl rfl
theorem lqz (d a : VReg) : Statement (.lqz d a) := of_noImm _ rfl rfl
theorem ldec (d a b : VReg) : Statement (.ldec d a b) := of_noImm _ rfl rfl
theorem ctld (ct : BitVec 2) (a : GReg) (disp : Word) : Statement (.ctld ct a disp) :=
  of_imm _ 6 (1 + highRegs [a]) disp rfl rfl (others_le_regs _ [a] (fun h => rriBits _ (ct.setWidth 5) a _ (by
      intro r hr
      simp only [List.mem_cons, List.not_mem_nil, or_false] at hr
      rcases hr with rfl | rfl
      · have := ct.isLt; simp; omega
      · exact h _ (by simp)))) (regs_le1 _)
    (fun h => h)
theorem ctldPreset (ct : BitVec 2) (n : BitVec 9) : Statement (.ctldPreset ct n) := of_noImm _ rfl rfl
theorem castle (a b : GReg) : Statement (.castle a b) := of_noImm _ rfl rfl
theorem ld (sz : Size) (o : Ordering) (sc : Scope) (nc : Bool) (d a : GReg) (disp : Word) : Statement (.ld sz o sc nc d a disp) :=
  of_imm _ 4 (1 + highRegs [d, a]) disp rfl rfl (others_le_regs _ [d, a] (mBits _ d a _ _)) (regs_le1 _)
    (fun h => and_right h)
theorem ldSigned (sz : Size) (o : Ordering) (sc : Scope) (nc : Bool) (d a : GReg) (disp : Word) : Statement (.ldSigned sz o sc nc d a disp) :=
  of_imm _ 4 (1 + highRegs [d, a]) disp rfl rfl (others_le_regs _ [d, a] (mBits _ d a _ _)) (regs_le1 _)
    (fun h => and_right h)
theorem st (sz : Size) (o : Ordering) (sc : Scope) (stream : Bool) (d a : GReg) (disp : Word) : Statement (.st sz o sc stream d a disp) :=
  of_imm _ 4 (1 + highRegs [d, a]) disp rfl rfl (others_le_regs _ [d, a] (mBits _ d a _ _)) (regs_le1 _)
    (fun h => and_right h)
theorem ldIndexed (ty : LdTy) (o : Ordering) (sc : Scope) (nc : Bool) (d a b : GReg) : Statement (.ldIndexed ty o sc nc d a b) := of_noImm _ rfl rfl
theorem stIndexed (sz : Size) (o : Ordering) (sc : Scope) (stream : Bool) (d a b : GReg) : Statement (.stIndexed sz o sc stream d a b) := of_noImm _ rfl rfl
theorem lds (d a : GReg) (disp : Word) : Statement (.lds d a disp) :=
  of_imm _ 4 (1 + highRegs [d, a]) disp rfl rfl (others_le_regs _ [d, a] (mBits _ d a _ _)) (regs_le1 _)
    (fun h => h)
theorem ldt (d a : GReg) (disp : Word) : Statement (.ldt d a disp) :=
  of_imm _ 4 (1 + highRegs [d, a]) disp rfl rfl (others_le_regs _ [d, a] (mBits _ d a _ _)) (regs_le1 _)
    (fun h => h)
theorem stf (d a : GReg) (disp : Word) : Statement (.stf d a disp) :=
  of_imm _ 4 (1 + highRegs [d, a]) disp rfl rfl (others_le_regs _ [d, a] (mBits _ d a _ _)) (regs_le1 _)
    (fun h => h)
theorem ste (a : GReg) (disp : Word) : Statement (.ste a disp) :=
  of_imm _ 4 (1 + highRegs [a]) disp rfl rfl (others_le_regs _ [a] (fun h => mBits _ 0 a _ _ (by
      intro r hr
      simp only [List.mem_cons, List.not_mem_nil, or_false] at hr
      rcases hr with rfl | rfl
      · decide
      · exact h _ (by simp)))) (regs_le1 _)
    (fun h => h)
theorem ldmb (o : Ordering) (sc : Scope) (nc : Bool) (a : GReg) (disp : Word) : Statement (.ldmb o sc nc a disp) :=
  of_imm _ 4 (1 + highRegs [a]) disp rfl rfl (others_le_regs _ [a] (fun h => mBits _ 0 a _ _ (by
      intro r hr
      simp only [List.mem_cons, List.not_mem_nil, or_false] at hr
      rcases hr with rfl | rfl
      · decide
      · exact h _ (by simp)))) (regs_le1 _)
    (fun h => and_right h)
theorem stmb (o : Ordering) (sc : Scope) (stream : Bool) (a : GReg) (disp : Word) : Statement (.stmb o sc stream a disp) :=
  of_imm _ 4 (1 + highRegs [a]) disp rfl rfl (others_le_regs _ [a] (fun h => mBits _ 0 a _ _ (by
      intro r hr
      simp only [List.mem_cons, List.not_mem_nil, or_false] at hr
      rcases hr with rfl | rfl
      · decide
      · exact h _ (by simp)))) (regs_le1 _)
    (fun h => and_right h)
theorem fence (o : Ordering) (sc : Scope) : Statement (.fence o sc) := of_noImm _ rfl rfl
theorem acqr (sc : Scope) (a b : GReg) : Statement (.acqr sc a b) := of_noImm _ rfl rfl
theorem relr (sc : Scope) (a b : GReg) : Statement (.relr sc a b) := of_noImm _ rfl rfl
theorem ccln (l : Level) (a b : GReg) : Statement (.ccln l a b) := of_noImm _ rfl rfl
theorem cinv (l : Level) (a b : GReg) : Statement (.cinv l a b) := of_noImm _ rfl rfl
theorem cflu (l : Level) (a b : GReg) : Statement (.cflu l a b) := of_noImm _ rfl rfl
theorem amo (op : AmoOp) (signed : Bool) (o : Ordering) (sc : Scope) (d a b : GReg) : Statement (.amo op signed o sc d a b) := of_noImm _ rfl rfl
theorem amoN32 (op : AmoOp) (signed : Bool) (o : Ordering) (sc : Scope) (d a b : GReg) : Statement (.amoN32 op signed o sc d a b) := of_noImm _ rfl rfl
theorem amoFadd (o : Ordering) (sc : Scope) (d a b : GReg) : Statement (.amoFadd o sc d a b) := of_noImm _ rfl rfl
theorem redFadd (a b : GReg) : Statement (.redFadd a b) := of_noImm _ rfl rfl
theorem topk (o : Ordering) (sc : Scope) (a b : GReg) : Statement (.topk o sc a b) := of_noImm _ rfl rfl
theorem waita (o : Ordering) (sc : Scope) (d a b : GReg) : Statement (.waita o sc d a b) := of_noImm _ rfl rfl
theorem waitaN32 (o : Ordering) (sc : Scope) (d a b : GReg) : Statement (.waitaN32 o sc d a b) := of_noImm _ rfl rfl
theorem red (op : RedOp) (signed : Bool) (a b : GReg) : Statement (.red op signed a b) := of_noImm _ rfl rfl
theorem redN32 (op : RedOp) (signed : Bool) (a b : GReg) : Statement (.redN32 op signed a b) := of_noImm _ rfl rfl
theorem cpy (ch : BitVec 3) (d a b : GReg) : Statement (.cpy ch d a b) := of_noImm _ rfl rfl
theorem cpyg (ch : BitVec 3) (d a b : GReg) : Statement (.cpyg ch d a b) := of_noImm _ rfl rfl
theorem cpyw (ch : BitVec 3) (d a : GReg) : Statement (.cpyw ch d a) := of_noImm _ rfl rfl
theorem pmove (t : BitVec 2) (d a b : GReg) : Statement (.pmove t d a b) := of_noImm _ rfl rfl
theorem pconf (a b : GReg) : Statement (.pconf a b) := of_noImm _ rfl rfl
theorem pcanc (a : GReg) : Statement (.pcanc a) := of_noImm _ rfl rfl
theorem pstat (d a : GReg) : Statement (.pstat d a) := of_noImm _ rfl rfl
theorem prld (t : BitVec 2) (d a : GReg) : Statement (.prld t d a) := of_noImm _ rfl rfl
theorem prst (t : BitVec 2) (a b : GReg) : Statement (.prst t a b) := of_noImm _ rfl rfl
theorem exit : Statement (.exit) := of_noImm _ rfl rfl
theorem yield : Statement (.yield) := of_noImm _ rfl rfl
theorem dcmp : Statement (.dcmp) := of_noImm _ rfl rfl
theorem barv (sc : BScope) (n : Byte) : Statement (.barv sc n) := of_noImm _ rfl rfl
theorem barwEven (sc : BScope) (n : Byte) : Statement (.barwEven sc n) := of_noImm _ rfl rfl
theorem barwOdd (sc : BScope) (n : Byte) : Statement (.barwOdd sc n) := of_noImm _ rfl rfl
theorem compose (n : Byte) : Statement (.compose n) := of_noImm _ rfl rfl
theorem send (a : GReg) : Statement (.send a) := of_noImm _ rfl rfl
theorem sendd (a b : GReg) : Statement (.sendd a b) := of_noImm _ rfl rfl
theorem spawn (d : GReg) : Statement (.spawn d) := of_noImm _ rfl rfl
theorem popd (d : GReg) : Statement (.popd d) := of_noImm _ rfl rfl
theorem cnti (d a b : GReg) : Statement (.cnti d a b) := of_noImm _ rfl rfl
theorem dec (a b : GReg) : Statement (.dec a b) := of_noImm _ rfl rfl
theorem exits (a : GReg) : Statement (.exits a) := of_noImm _ rfl rfl
theorem launch (d a : GReg) : Statement (.launch d a) := of_noImm _ rfl rfl
theorem ttset (d a b : GReg) : Statement (.ttset d a b) := of_noImm _ rfl rfl
theorem tblk (a : GReg) : Statement (.tblk a) := of_noImm _ rfl rfl
theorem tublk (a : GReg) : Statement (.tublk a) := of_noImm _ rfl rfl
theorem kvlook (d a b : GReg) : Statement (.kvlook d a b) := of_noImm _ rfl rfl
theorem kvmap (d a b : GReg) : Statement (.kvmap d a b) := of_noImm _ rfl rfl
theorem sptlook (d a b : GReg) : Statement (.sptlook d a b) := of_noImm _ rfl rfl
theorem sptins (d a : GReg) : Statement (.sptins d a) := of_noImm _ rfl rfl
theorem bhash (d a b : GReg) : Statement (.bhash d a b) := of_noImm _ rfl rfl
theorem smax (a b : GReg) : Statement (.smax a b) := of_noImm _ rfl rfl
theorem tokc (d a b : GReg) : Statement (.tokc d a b) := of_noImm _ rfl rfl
theorem firmwareFaultDecision (cid slot : Nat) (dec : FwDecision) : Statement (.firmwareFaultDecision cid slot dec) := of_none rfl
theorem fmtset (cid : Nat) : Statement (.fmtset cid) := of_none rfl
theorem bload (cid : Nat) : Statement (.bload cid) := of_none rfl
theorem brot (cid : Nat) : Statement (.brot cid) := of_none rfl
theorem mma (cid : Nat) : Statement (.mma cid) := of_none rfl
theorem accrd (cid : Nat) : Statement (.accrd cid) := of_none rfl
theorem accz (cid : Nat) : Statement (.accz cid) := of_none rfl
theorem mxfence (cid : Nat) : Statement (.mxfence cid) := of_none rfl
theorem copyDelivery (cid ch : Nat) : Statement (.copyDelivery cid ch) := of_none rfl
theorem gatherDelivery (cid ch : Nat) : Statement (.gatherDelivery cid ch) := of_none rfl
theorem faultListClose (die : Nat) : Statement (.faultListClose die) := of_none rfl
theorem faultResolutionResume (die cxid page : Nat) : Statement (.faultResolutionResume die cxid page) := of_none rfl
theorem faultResolutionAbandon (die cxid page : Nat) : Statement (.faultResolutionAbandon die cxid page) := of_none rfl
theorem speculativeRequest (cid t : Nat) : Statement (.speculativeRequest cid t) := of_none rfl
theorem speculativeArrival (cid t : Nat) : Statement (.speculativeArrival cid t) := of_none rfl
theorem exposure (cid t : Nat) : Statement (.exposure cid t) := of_none rfl
theorem atomicAtHome (r : HomeReq) : Statement (.atomicAtHome r) := of_none rfl
theorem redDswApply (r : HomeReq) : Statement (.redDswApply r) := of_none rfl
theorem accessReply (cid : Nat) : Statement (.accessReply cid) := of_none rfl
theorem cdcCopyExpiry (cluster line : Nat) : Statement (.cdcCopyExpiry cluster line) := of_none rfl
theorem waitaAtHome (cid slot : Nat) : Statement (.waitaAtHome cid slot) := of_none rfl
theorem waitaTimeout (cid slot : Nat) : Statement (.waitaTimeout cid slot) := of_none rfl
theorem topkAtHome (r : HomeReq) : Statement (.topkAtHome r) := of_none rfl
theorem tokcAtHome (r : HomeReq) : Statement (.tokcAtHome r) := of_none rfl
theorem messageArrival (src k : Nat) : Statement (.messageArrival src k) := of_none rfl
theorem messageReoffer (src k : Nat) : Statement (.messageReoffer src k) := of_none rfl
theorem waitingMessageRelease (cid k : Nat) : Statement (.waitingMessageRelease cid k) := of_none rfl
theorem activation (cid : Nat) : Statement (.activation cid) := of_none rfl
theorem runListAging (cid k : Nat) : Statement (.runListAging cid k) := of_none rfl
theorem issueAgePromotion (cid slot : Nat) : Statement (.issueAgePromotion cid slot) := of_none rfl
theorem yieldExpiry (cid slot : Nat) : Statement (.yieldExpiry cid slot) := of_none rfl
theorem taskWakeUp (cid slot : Nat) : Statement (.taskWakeUp cid slot) := of_none rfl
theorem stealRoundStart (cid : Nat) : Statement (.stealRoundStart cid) := of_none rfl
theorem stealRequest (thief : Nat) : Statement (.stealRequest thief) := of_none rfl
theorem stealAnswer (thief : Nat) : Statement (.stealAnswer thief) := of_none rfl
theorem stealBackoffExpiry (cid : Nat) : Statement (.stealBackoffExpiry cid) := of_none rfl
theorem dequeCountReport (cid : Nat) : Statement (.dequeCountReport cid) := of_none rfl
theorem decApply (src k : Nat) : Statement (.decApply src k) := of_none rfl
theorem pendingCounterEnqueue (cid off : Nat) : Statement (.pendingCounterEnqueue cid off) := of_none rfl
theorem hostLaunchEnqueue (die cxid : Nat) (addr : Word) (record : BitVec 2048) : Statement (.hostLaunchEnqueue die cxid addr record) := of_none rfl
theorem launchExecute (die : Nat) : Statement (.launchExecute die) := of_none rfl
theorem preemptionRequest (cid : Nat) (slot : Option Nat) : Statement (.preemptionRequest cid slot) := of_none rfl
theorem preemptionSave (cid slot : Nat) : Statement (.preemptionSave cid slot) := of_none rfl
theorem preemptionForcedSave (cid slot : Nat) : Statement (.preemptionForcedSave cid slot) := of_none rfl
theorem savedTaskSlotRelease (cid slot : Nat) : Statement (.savedTaskSlotRelease cid slot) := of_none rfl
theorem resumption (cid slot : Nat) : Statement (.resumption cid slot) := of_none rfl
theorem coreMove (src dst : Nat) : Statement (.coreMove src dst) := of_none rfl
theorem clusterContextSwitch (cluster : Nat) (cxid : Option Nat) : Statement (.clusterContextSwitch cluster cxid) := of_none rfl
theorem composeGrant (cluster : Nat) : Statement (.composeGrant cluster) := of_none rfl
theorem composeTimeout (cid slot : Nat) : Statement (.composeTimeout cid slot) := of_none rfl
theorem reclaim (cid : Nat) : Statement (.reclaim cid) := of_none rfl
theorem recomposeGrant (cluster : Nat) : Statement (.recomposeGrant cluster) := of_none rfl
theorem kvLookupRequest (cid : Nat) : Statement (.kvLookupRequest cid) := of_none rfl
theorem kvMapRequest (cid : Nat) : Statement (.kvMapRequest cid) := of_none rfl
theorem pageInComplete (cid k : Nat) (ok : Bool) : Statement (.pageInComplete cid k ok) := of_none rfl
theorem prefixLookupRequest (cxid : Nat) : Statement (.prefixLookupRequest cxid) := of_none rfl
theorem prefixInsertRequest (cxid : Nat) : Statement (.prefixInsertRequest cxid) := of_none rfl
theorem smaxRouterCombine (src k src' k' : Nat) : Statement (.smaxRouterCombine src k src' k') := of_none rfl
theorem smaxPacketAtOwner (src k : Nat) : Statement (.smaxPacketAtOwner src k) := of_none rfl
theorem walkerGrant (die : Nat) : Statement (.walkerGrant die) := of_none rfl
theorem pageMigration (cxid va newPa : Nat) : Statement (.pageMigration cxid va newPa) := of_none rfl
theorem redirectionEnd (k : Nat) : Statement (.redirectionEnd k) := of_none rfl
theorem patrolScrub (sp : Space) (key unit : Nat) : Statement (.patrolScrub sp key unit) := of_none rfl
theorem coreRetirement (cid : Nat) : Statement (.coreRetirement cid) := of_none rfl
theorem hostSnapTrigger (n : Nat) : Statement (.hostSnapTrigger n) := of_none rfl
theorem flagFallLatch : Statement (.flagFallLatch) := of_none rfl
theorem snapshotRearm : Statement (.snapshotRearm) := of_none rfl
theorem thermalThrottle (die : Nat) : Statement (.thermalThrottle die) := of_none rfl
theorem thermalTrip (die : Nat) : Statement (.thermalTrip die) := of_none rfl
theorem reset : Statement (.reset) := of_none rfl
theorem firmwareStart (base len : Nat) (crc : BitVec 32) : Statement (.firmwareStart base len crc) := of_none rfl
theorem hostBarAccess (write : Bool) (pa : Nat) (data : Word) : Statement (.hostBarAccess write pa data) := of_none rfl
theorem marhelRemoteAccess (dev cxid : Nat) (op : RemoteOp) (pa : Nat) (data : Line) :
    Statement (.marhelRemoteAccess dev cxid op pa data) := of_none rfl
theorem contextCreation (cfg : ContextCfg) : Statement (.contextCreation cfg) := of_none rfl
theorem contextTeardown (cxid : Nat) : Statement (.contextTeardown cxid) := of_none rfl

end Sys2Proof.Laws.Encoding
end

