-- ==== Sys2Proof/Tests/Slice0.lean ====
section
/-! SUPPORT. Tests: words of the encoding tables and what they decode to, ill-formed terms, single steps whose results are
the spec's own numbers, and for each statement a state and operands that meet its hypotheses. -/

namespace Sys2Proof.Tests

open Sys2Proof Sys2Proof.Machine

set_option Elab.async false

/-! ## Decoding: words written out from R46 to R69 -/

/-- Each chain decodes to its instruction and to its own length. -/
def agree (l : List (List Half × Instr)) : Bool := l.all fun p => decide (decode p.1 = .ok (p.2, p.1.length))

/-- No chain decodes. -/
def refuses (l : List (List Half)) : Bool := l.all fun w => !(decode w).isOk

/-- No term is well-formed. -/
def illFormed (l : List Instr) : Bool := l.all fun i => !i.wf

/-- Words of page 0 (R62). -/
theorem test_decode_page0 : agree [
    ([0x0100], .ret),
    ([0x1298], .add 1 2 3),
    ([0xF5B0, 0x1299], .sub 9 18 27),
    ([0x1FAA], .mul 7 6 5),
    ([0xF801, 0x129B], .mulh .n64 1 2 3),
    ([0x129B], .mulh .i64 1 2 3),
    ([0x1974], .div .i64 4 5 6),
    ([0xF801, 0x1975], .rem .n64 4 5 6),
    ([0xF801, 0x1056], .min .n64 0 1 2),
    ([0x1057], .max .i64 0 1 2),
    ([0x23FF], .ldi 1 (-1)),
    ([0xF001, 0x2200], .ldi 1 512),
    ([0xF200, 0xF000, 0x2205], .ldi 1 (BitVec.ofInt 64 (-268435456 + 5))),
    ([0x3298], .and 1 2 3),
    ([0x3299], .or 1 2 3),
    ([0x329A], .xor 1 2 3),
    ([0x329B], .andn 1 2 3),
    ([0x329C], .shl 1 2 3),
    ([0x329D], .shr 1 2 3),
    ([0x329E], .sar 1 2 3),
    ([0x329F], .rol 1 2 3),
    ([0x4280], .mov 1 (.g 2)),
    ([0xF403, 0x4200], .mov 1 (.q 0)),
    ([0xF502, 0x41C0], .mov 8 (.mb 7)),
    ([0xF403, 0x4841], .movDestSelect (.q 4) 1),
    ([0xF482, 0x4601], .movDestSelect (.mb 3) 16),
    ([0x4701], .movDestSelect (.g 3) 4),
    ([0x4282], .clz 1 2),
    ([0x4283], .ctz 1 2),
    ([0x4284], .popc 1 2),
    ([0x409D], .cmp 2 3),
    ([0x409E], .tst 2 3),
    ([0xF80E, 0x429F], .sel .al 1 2 3),
    ([0xF806, 0x429F], .sel .ltu 1 2 3),
    ([0x52A0], .lea 1 2 (-32)),
    ([0x62A8], .ext .n32 1 2),
    ([0x6288], .ext .i16 1 2),
    ([0x6281], .jmpr 1 2),
    ([0x7280], .brc .lt (-128)),
    ([0x7D7F], .brc .vc 127),
    ([0x8800], .br (-2048)),
    ([0xF001, 0x9001], .call 4097),
    ([0xABFD], .loop 5 (-3)),
    ([0xBCFF], .cmpImm 6 255),
    ([0xCF00], .ldk 7 (-256)),
    ([0xFC00], .blkend),
    ([0xFBEA, 0x1234], .hintNop 0x2A 0x1234)] = true := by decide +kernel

/-- Words of page 1 (R63). -/
theorem test_decode_page1 : agree [
    ([0xF840, 0x01C8], .trap 200),
    ([0xF840, 0x02FF], .svc 255),
    ([0xF840, 0x0300], .rft),
    ([0xF840, 0x047F], .snap 127),
    ([0xF868, 0xF500, 0x1280], .shlImm 40 9 2),
    ([0xF87F, 0x1281], .shrImm 63 1 2),
    ([0xF841, 0x1282], .sarImm 1 1 2),
    ([0xF860, 0x1283], .rolImm 32 1 2),
    ([0xF87C, 0x2283], .bfx 60 1 2 3),
    ([0xF845, 0x32BF], .bfi 5 1 2 63),
    ([0xF840, 0x4218], .mfs 1 0x018),
    ([0xF844, 0x5203], .mts 1 0x803),
    ([0xF840, 0x6EBF], .rep 7 2 63),
    ([0xF840, 0x7098], .tlbi false 2 3),
    ([0xF840, 0x7298], .tlbi true 2 3)] = true := by decide +kernel

/-- Words of page 2 (R64). -/
theorem test_decode_page2 : agree [
    ([0xF8AA, 0x1298], .vadd { mask := 2, round := .rup, sat := true } 1 2 3),
    ([0xF8AA, 0x1299], .vsub { mask := 2, round := .rup, sat := true } 1 2 3),
    ([0xF8AA, 0x129A], .vmul { mask := 2, round := .rup, sat := true } 1 2 3),
    ([0xF8AA, 0x129B], .vfma { mask := 2, round := .rup, sat := true } 1 2 3),
    ([0xF8AA, 0x129E], .vdiv { mask := 2, round := .rup, sat := true } 1 2 3),
    ([0xF8B0, 0x129C], .vmax 3 1 2 3),
    ([0xF880, 0xF540, 0x1E1D], .vmin 0 15 8 3),
    ([0xF890, 0x129F], .vsel 1 1 2 3),
    ([0xF890, 0x268E], .vcmp .un 1 3 2 1),
    ([0xF880, 0x208B], .vcmp .le 0 0 2 1),
    ([0xF892, 0x3280], .vabs 1 true 1 2),
    ([0xF880, 0x3281], .vneg 0 false 1 2),
    ([0xF880, 0xF4C0, 0x33C2], .vbcast 0 1 31),
    ([0xF880, 0x3A03], .vclr 5),
    ([0xF8AA, 0x328C], .vredr .max { mask := 2, round := .rup, sat := true } 1 2),
    ([0xF8AA, 0x3285], .vredc .add { mask := 2, round := .rup, sat := true } 1 2),
    ([0xF880, 0x32FE], .vrdq 1 3 7),
    ([0xF880, 0x3087], .vsets 2),
    ([0xF890, 0x42BF], .vld 1 1 2 (-1)),
    ([0xF880, 0x529F], .vst 0 1 2 31),
    ([0xF880, 0xF500, 0xF003, 0x6080], .vldt 0 8 2 192),
    ([0xF880, 0xF100, 0xF000, 0x7001], .vsetsImm (BitVec.ofInt 64 (256 * 2 ^ 19 + 1)))] = true := by decide +kernel

/-- Words of page 3 (R65). -/
theorem test_decode_page3 : agree [
    ([0xF8CC, 0x12AA], .vcvt .c8 false 2 .sr .wrap 1 2),
    ([0xF8C0, 0x12A4], .vcvt .fp4 true 0 .rne .sat 1 2),
    ([0xF8C0, 0x2280], .vexp2 1 2),
    ([0xF8C0, 0x2299], .vsmx 1 2 3),
    ([0xF8C0, 0x2282], .vrng 1 2),
    ([0xF8C0, 0x22A3], .vqmax 1 2 4),
    ([0xF8D3, 0x229C], .vqz .rdn .inf 1 2 3),
    ([0xF8C0, 0x2285], .lqz 1 2),
    ([0xF8C0, 0x229E], .ldec 1 2 3),
    ([0xF8C0, 0x3688], .ctld 3 2 8),
    ([0xF8C0, 0x4401], .ctldPreset 2 1),
    ([0xF8C0, 0x5098], .castle 2 3)] = true := by decide +kernel

/-- Words of page 4 (R66). -/
theorem test_decode_page4 : agree [
    ([0xF918, 0x1974], .ld .n32 .acq .die false 4 5 4),
    ([0xF901, 0x1288], .ld .n64 .rlx .package true 1 2 (-8)),
    ([0xF900, 0x2297], .ldSigned .n8 .rlx .package false 1 2 7),
    ([0xF92D, 0x32A0], .st .n16 .rel .system true 1 2 0),
    ([0xF900, 0x429E], .ldIndexed .i32 .rlx .package false 1 2 3),
    ([0xF900, 0x5299], .stIndexed .n8 .rlx .package false 1 2 3),
    ([0xF900, 0x6281], .lds 1 2 1),
    ([0xF900, 0x629F], .ldt 1 2 (-1)),
    ([0xF900, 0x62A0], .stf 1 2 0),
    ([0xF900, 0x60B0], .ste 2 0),
    ([0xF914, 0x7081], .ldmb .acq .cluster false 2 1),
    ([0xF901, 0x7091], .stmb .rlx .package true 2 1),
    ([0xF916, 0x8000], .fence .acq .quad),
    ([0xF91A, 0x8099], .acqr .domain 2 3),
    ([0xF922, 0x809A], .relr .core 2 3),
    ([0xF900, 0x829B], .ccln .hs 2 3),
    ([0xF900, 0x869C], .cinv .ic 2 3),
    ([0xF900, 0x849D], .cflu .dm 2 3),
    ([0xF901, 0x929E], .amo .min true .rlx .package 1 2 3),
    ([0xF910, 0xA299], .amoN32 .cas false .acq .package 1 2 3),
    ([0xF900, 0xB298], .amoFadd .rlx .package 1 2 3),
    ([0xF900, 0xB099], .redFadd 2 3),
    ([0xF920, 0xB09A], .topk .rel .package 2 3),
    ([0xF900, 0xB29B], .waita .rlx .package 1 2 3),
    ([0xF900, 0xB29C], .waitaN32 .rlx .package 1 2 3),
    ([0xF901, 0xC09D], .red .max true 2 3),
    ([0xF900, 0xD098], .redN32 .add false 2 3)] = true := by decide +kernel

/-- Words of page 5 (R67). -/
theorem test_decode_page5 : agree [
    ([0xF947, 0x1298], .cpy 7 1 2 3),
    ([0xF941, 0x1299], .cpyg 1 1 2 3),
    ([0xF942, 0x1282], .cpyw 2 1 2),
    ([0xF943, 0x12A3], .pmove 3 1 2 4),
    ([0xF940, 0x109C], .pconf 2 3),
    ([0xF940, 0x1085], .pcanc 2),
    ([0xF940, 0x1286], .pstat 1 2),
    ([0xF941, 0x2940], .prld 1 4 5),
    ([0xF942, 0x2099], .prst 2 2 3)] = true := by decide +kernel

/-- Words of page 6 (R68). -/
theorem test_decode_page6 : agree [
    ([0xF980, 0x0100], .exit),
    ([0xF980, 0x0200], .yield),
    ([0xF980, 0x0300], .dcmp),
    ([0xF984, 0x043F], .barv .die 63),
    ([0xF982, 0x050F], .barwEven .cluster 15),
    ([0xF980, 0x06FF], .barwOdd .package 255),
    ([0xF980, 0x0710], .compose 16),
    ([0xF980, 0x1080], .send 2),
    ([0xF980, 0x1099], .sendd 2 3),
    ([0xF980, 0x1202], .spawn 1),
    ([0xF980, 0x1203], .popd 1),
    ([0xF980, 0x129C], .cnti 1 2 3),
    ([0xF980, 0x109D], .dec 2 3),
    ([0xF980, 0x1086], .exits 2),
    ([0xF980, 0x1287], .launch 1 2),
    ([0xF980, 0x22A0], .ttset 1 2 4),
    ([0xF980, 0x2081], .tblk 2),
    ([0xF980, 0x2082], .tublk 2)] = true := by decide +kernel

/-- Words of page 7 (R69). -/
theorem test_decode_page7 : agree [
    ([0xF9C0, 0x12A0], .kvlook 1 2 4),
    ([0xF9C0, 0x12A1], .kvmap 1 2 4),
    ([0xF9C0, 0x12A2], .sptlook 1 2 4),
    ([0xF9C0, 0x1283], .sptins 1 2),
    ([0xF9C0, 0x12A4], .bhash 1 2 4),
    ([0xF9C0, 0x109D], .smax 2 3),
    ([0xF9C0, 0x129E], .tokc 1 2 3)] = true := by decide +kernel

/-- R57: 0x0000 on every page. -/
theorem test_refused_1 : refuses [
    [0x0000],
    [0xFBC0, 0x0000],
    [0xF8C0, 0x0000]] = true := by decide +kernel

/-- R54: a fifth prefix; two PFX.P; two PFX.R. -/
theorem test_refused_2 : refuses [
    [0xF000, 0xF000, 0xF000, 0xF000, 0xF000, 0x2200],
    [0xF840, 0xF840, 0x0300],
    [0xF500, 0xF500, 0x1298]] = true := by decide +kernel

/-- R53: BLKEND after a prefix. -/
theorem test_refused_3 : refuses [
    [0xF000, 0xFC00],
    [0xFC01]] = true := by decide +kernel

/-- R50, R51: prefixes refused by a format. -/
theorem test_refused_4 : refuses [
    [0xF000, 0x1298],
    [0xF500, 0x0100],
    [0xF440, 0x2200],
    [0xF410, 0x5280],
    [0xF840, 0xF000, 0x4200]] = true := by decide +kernel

/-- R51: selectors. -/
theorem test_refused_5 : refuses [
    [0xF405, 0x1298],
    [0xF402, 0x1298],
    [0xF401, 0x4280],
    [0xF404, 0x4281]] = true := by decide +kernel

/-- R47: unused fields, codes and register numbers. -/
theorem test_refused_6 : refuses [
    [0x4285],
    [0x62B0],
    [0xF880, 0xF600, 0x1098],
    [0xF443, 0x4200],
    [0xF880, 0x2850],
    [0xF900, 0x869B]] = true := by decide +kernel

/-- R56, R59: reserved pages, majors, minors. -/
theorem test_refused_7 : refuses [
    [0xFA00, 0x1298],
    [0xFB80, 0x1234],
    [0xF800, 0x0200],
    [0xD000],
    [0xE000],
    [0xF9C0, 0x129F],
    [0xF900, 0xC09E],
    [0xF840, 0x7498]] = true := by decide +kernel

/-- R60, R61, R63 to R68: codes of the modifier. -/
theorem test_refused_8 : refuses [
    [0x7F00],
    [0xF80F, 0x429F],
    [0xF802, 0x129C],
    [0xF881, 0x1298],
    [0xF8C5, 0x229C],
    [0xF8D8, 0x229C],
    [0xF930, 0x1280],
    [0xF902, 0x1280],
    [0xF91E, 0x1280],
    [0xF900, 0x2280],
    [0xF948, 0x1298],
    [0xF981, 0x0400],
    [0xF982, 0x0410],
    [0xF984, 0x0540],
    [0xF980, 0x0101]] = true := by decide +kernel
/-! ## Well-formedness: a term that each check refuses -/

/-- Immediates that no chain of R54 reaches: one bit too many for each field and each count of other prefixes. -/
theorem test_wf_immediates : illFormed [
    .ldi 1 (BitVec.ofInt 64 (2 ^ 48)), .ldi 8 (BitVec.ofInt 64 (2 ^ 38)), .lea 1 2 (BitVec.ofInt 64 (2 ^ 45)),
    .lea 1 8 (BitVec.ofInt 64 (2 ^ 35)), .brc .eq (BitVec.ofInt 64 (2 ^ 47)), .br (BitVec.ofInt 64 (2 ^ 51)),
    .call (BitVec.ofInt 64 (-(2 ^ 51) - 1)), .loop 8 (BitVec.ofInt 64 (2 ^ 38)), .cmpImm 1 (BitVec.ofInt 64 (2 ^ 48)),
    .ldk 9 (BitVec.ofInt 64 (2 ^ 38)), .vld 0 1 2 (BitVec.ofInt 64 (2 ^ 35)), .vst 0 9 2 (BitVec.ofInt 64 (2 ^ 25)),
    .vldt 0 1 9 (BitVec.ofInt 64 (2 ^ 25)), .vsetsImm (BitVec.ofInt 64 (2 ^ 38)), .ctld 0 1 (BitVec.ofInt 64 (2 ^ 35)),
    .ld .n8 .rlx .package false 1 2 (BitVec.ofInt 64 (2 ^ 33)), .ldSigned .n8 .rlx .package false 8 2 (BitVec.ofInt 64 (2 ^ 23)),
    .st .n8 .rlx .package false 1 2 (BitVec.ofInt 64 (2 ^ 33)), .lds 1 2 (BitVec.ofInt 64 (2 ^ 33)),
    .ldt 1 2 (BitVec.ofInt 64 (2 ^ 33)), .stf 1 2 (BitVec.ofInt 64 (2 ^ 33)), .ste 9 (BitVec.ofInt 64 (2 ^ 23)),
    .ldmb .rlx .package false 1 (BitVec.ofInt 64 (2 ^ 33)), .stmb .rlx .package false 1 (BitVec.ofInt 64 (2 ^ 33))] = true := by
  decide +kernel

/-- Roundings, orderings, scopes, levels, signed kinds and barrier numbers that no encoding gives (R64 to R68). -/
theorem test_wf_qualifiers : illFormed [
    .hintNop 0 0, .hintNop 0 0xF123, .vadd { mask := 0, round := .sr, sat := false } 1 2 3,
    .vsub { mask := 0, round := .sr, sat := false } 1 2 3, .vmul { mask := 0, round := .sr, sat := false } 1 2 3,
    .vfma { mask := 0, round := .sr, sat := false } 1 2 3, .vdiv { mask := 0, round := .sr, sat := false } 1 2 3,
    .vredr .add { mask := 0, round := .sr, sat := false } 1 2, .vredc .add { mask := 0, round := .sr, sat := false } 1 2,
    .vqmax 1 2 5, .ld .n64 .rel .package false 1 2 0, .ld .n64 .rlx .die false 1 2 0, .ldSigned .n64 .rlx .package false 1 2 0,
    .st .n64 .acq .package false 1 2 0, .ldIndexed .n64 .rel .package false 1 2 3, .ldIndexed .n64 .rlx .core false 1 2 3,
    .stIndexed .n64 .acq .package false 1 2 3, .ldmb .rel .package false 1 0, .stmb .acq .package false 1 0,
    .fence .rlx .core, .ccln .ic 1 2, .cflu .ic 1 2, .amo .add true .rlx .package 1 2 3, .amo .add false .rlx .quad 1 2 3,
    .amoN32 .cas true .rlx .package 1 2 3, .amoFadd .rlx .die 1 2 3, .topk .acq .package 1 2, .waita .rel .package 1 2 3,
    .waitaN32 .rel .package 1 2 3, .red .add true 1 2, .redN32 .xor true 1 2, .barv .cluster 16, .barwEven .die 64,
    .barwOdd .cluster 255] = true := by decide +kernel

/-- Parts that the X40 does not have: rows above 19, dies, slots, channels, tickets and contexts beyond the last. -/
theorem test_wf_places : illFormed [
    .firmwareFaultDecision 0 8 .resolved, .fmtset 5120, .bload 65536, .brot 7936, .mma 5120, .accrd 5120, .accz 5120,
    .mxfence 5120, .copyDelivery 0 8, .gatherDelivery 0 8, .faultListClose 8, .faultResolutionResume 8 1 0,
    .faultResolutionAbandon 0 4096 0, .speculativeRequest 0 32, .speculativeArrival 0 32, .exposure 0 32, .accessReply 5120,
    .cdcCopyExpiry 640 0, .waitaAtHome 0 8, .waitaTimeout 0 8, .messageArrival 65536 0, .messageReoffer 5120 0,
    .waitingMessageRelease 5120 0, .activation 5120, .runListAging 5120 0, .issueAgePromotion 0 8, .yieldExpiry 0 8,
    .taskWakeUp 0 8, .stealRoundStart 5120, .stealRequest 5120, .stealAnswer 5120, .stealBackoffExpiry 5120,
    .dequeCountReport 5120, .decApply 5120 0, .pendingCounterEnqueue 5120 0, .hostLaunchEnqueue 8 1 0 0, .launchExecute 8,
    .preemptionRequest 0 (some 8), .preemptionSave 0 8, .preemptionForcedSave 0 8, .savedTaskSlotRelease 0 8, .resumption 0 8,
    .coreMove 0 5120, .clusterContextSwitch 0 (some 4096), .composeGrant 640, .composeTimeout 0 8, .reclaim 5120,
    .recomposeGrant 640, .kvLookupRequest 5120, .kvMapRequest 5120, .pageInComplete 5120 0 true, .prefixLookupRequest 4096,
    .prefixInsertRequest 4096, .smaxRouterCombine 5120 0 0 0, .smaxPacketAtOwner 0xFFFF 0, .walkerGrant 8,
    .pageMigration 4096 0 0, .coreRetirement 5120, .hostSnapTrigger 128, .thermalThrottle 8, .thermalTrip 8,
    .marhelRemoteAccess 0 4096 ⟨false, some .n64⟩ 0 0, .contextTeardown 4096,
    .atomicAtHome { src := 5120, seq := 0, loc := .phys 0, op := .topk, val := 0, cmp := 0 },
    .redDswApply { src := 5120, seq := 0, loc := .phys 0, op := .topk, val := 0, cmp := 0 },
    .topkAtHome { src := 5120, seq := 0, loc := .phys 0, op := .topk, val := 0, cmp := 0 },
    .tokcAtHome { src := 5120, seq := 0, loc := .phys 0, op := .topk, val := 0, cmp := 0 },
    .contextCreation { placeCfg with cxid := 4096 }, .contextCreation { placeCfg with homeDie := 8 }] = true := by
  decide +kernel

/-! ## Witnesses: states and operands that meet the hypotheses of the statements

Each theorem is named after its statement; several clauses give a conjunction. -/

/-- A runnable task of context 1 in slot 0 of core 0, at a mapped page of code. -/
def tb : State := { State.reset.placed 16 0x1298 with agenda := [] }
/-- The same state at time n. -/
def atTime (s : State) (n : Nat) : State := { s with now := n }
/-- The same state with registers of the issuing task. -/
def rg (s : State) (l : List (Nat × Word)) : State :=
  s.setWs { s.ws with g := l.foldl (fun v x => vset v x.1 x.2) s.ws.g }
def withMb (s : State) (l : List (Nat × Word)) : State :=
  s.setWs { s.ws with mb := l.foldl (fun v x => vset v x.1 x.2) s.ws.mb }
def withCtl (s : State) (f : Ctl → Ctl) : State := s.modCtl f
def inRep (s : State) (off rem : Nat) : State := s.modCtl fun c =>
  { c with repA := true, repLen := 3, repOff := BitVec.ofNat 6 off, repRem := BitVec.ofNat 24 rem }
/-- A context whose handler is channel 7, and a core with tasks in some slots. -/
def withHandler (s : State) (e : TTEntry) : State :=
  { s with
    contexts := [(1, { cfg := { placeCfg with handler := some 7 }, prefixes := [], sptQ := [] })]
    here := { s.here with tt := [(7, e)] } }
def goodEntry : TTEntry := { TTEntry.reset with addr := 0x10000, valid := true, prio := 3 }
def slotAs (s : State) (i : Nat) (f : Slot → Slot) : State := s.modSlot s.hereCid i f
def coreAs (s : State) (f : Core → Core) : State := { s with here := f s.here }
/-- Offsets in the LM and the CSP windows. -/
def lmAt (o : Nat) : Word := BitVec.ofNat 64 (0xFF00000000000000 + o)
def cspAt (o : Nat) : Word := BitVec.ofNat 64 (0xFF01000000000000 + o)
def mqwAt (o : Nat) : Word := BitVec.ofNat 64 (0xFF02000000000000 + o)
def dswAt (o : Nat) : Word := BitVec.ofNat 64 (0xFF03000000000000 + o)
/-- The state after an outcome that is a next state. -/
def after (r : Result) : State := match r with | .next t => t | _ => State.reset
def okOf {α : Type} (r : Eff α) (d : α) : α := match r with | .ok x => x | .error _ => d

/-- The canonical form, computed. -/
def coreOk (c : Core) : Bool := c.lm.wf && (List.finRange 32).all fun i => c.tickets[i].data.wf
def canonicalOk (s : State) : Bool :=
  coreOk s.here && s.others.all (fun x => coreOk x.2) && s.clusters.all (fun x => x.2.csp.wf) &&
    s.dies.all (fun x => x.2.dsw.wf) && s.mem.wf && s.savedTasks.all (fun x => x.area.wf) && s.savedClusters.isEmpty

theorem core_of_ok {c : Core} (h : coreOk c = true) : c.Canonical := by
  simp only [coreOk, Bool.and_eq_true, List.all_eq_true] at h
  exact ⟨h.1, fun i => h.2 i (List.mem_finRange i)⟩

theorem canonical_of_ok {s : State} (h : canonicalOk s = true) : s.Canonical := by
  simp only [canonicalOk, Bool.and_eq_true, List.all_eq_true, List.isEmpty_iff] at h
  obtain ⟨⟨⟨⟨⟨⟨h1, h2⟩, h3⟩, h4⟩, h5⟩, h6⟩, h7⟩ := h
  exact ⟨core_of_ok h1, fun x hx => core_of_ok (h2 x hx), h3, h4, h5, h6, fun x hx => by simp [h7] at hx⟩

theorem canonical_tb : tb.Canonical := canonical_of_ok (by decide +kernel)

/-- Nothing is cached anywhere. -/
def uncachedOk (s : State) : Bool := s.clusters.all fun x =>
  x.2.ulines.isEmpty && x.2.copies.isEmpty && x.2.late.isEmpty

theorem uncached_of_ok {s : State} (h : uncachedOk s = true) (l : Loc) : s.Uncached l := by
  simp only [uncachedOk, Bool.and_eq_true, List.all_eq_true, List.isEmpty_iff] at h
  intro pa _ x hx
  simp [(h x hx).1, (h x hx).2]

theorem lm_not_mqw (c o : Nat) : ∀ k, Loc.lm c o ≠ .mqw k := fun _ h => by cases h
theorem csp_not_mqw (c o : Nat) : ∀ k, Loc.csp c o ≠ .mqw k := fun _ h => by cases h
theorem phys_not_mqw (a : Nat) : ∀ k, Loc.phys a ≠ .mqw k := fun _ h => by cases h
theorem dsw_not_mqw (d o : Nat) : ∀ k, Loc.dsw d o ≠ .mqw k := fun _ h => by cases h

/-- The leaf of the placed page of code. -/
def codeLeaf : Leaf :=
  { cx := 1, va := 0x10000, size := 0x10000, pa := 0x10000, rd := true, wr := true, ex := true, sp := false, pin := false }

theorem reaches_of {s u : State} {acc : Acc} {a : Word} {n : Nat} {l : Loc} (hl : ∀ k, l ≠ .mqw k)
    (h : a.toNat % n = 0 ∧ s.resolve acc a n = .ok (l, u) ∧ u.holders (l.lines n) = [] ∧ u.sound l = true) :
    s.Reaches acc a n l u :=
  ⟨h.1, h.2.1, hl, h.2.2⟩

theorem slot_beyond (c : Core) (i : Nat) (h : ¬ i < 8) : c.slot i = Slot.reset := by
  unfold Core.slot vget
  rw [dif_neg h]

/-- The fetch of tb's next instruction. -/
def fetched (s : State) : List Half × State :=
  let u := ({ s with agenda := [] } : State).focus 0
  let v := (u.beginIssue 0).modTask fun y => { y with wait := none }
  okOf (State.fetchChain 6 v v.addr []) ([], s)

/-- With the turn of core 0 first, s fetches and decodes instruction i, of n half-words, in state t. -/
def issues (s t : State) (n : Nat) (k : Fin 8) (ws : List Half) (i : Instr) : Prop :=
  let v := ({ s with agenda := [] } : State).focus 0 |>.beginIssue k
  let v1 := v.modTask fun y => { y with wait := none }
  s.agenda = [.issue 0] ∧ (({ s with agenda := [] } : State).focus 0).pick = some k ∧ v.requestDue v.hereCid k.val = false ∧
    v.stillBlocked = false ∧ State.fetchChain 6 v1 v1.addr [] = .ok (ws, t) ∧
    (decode ws = .ok (i, n) ∨ ((decode ws).isOk = false ∧ i = .unassignedEncoding ∧ n = ws.length))

theorem decode_refused {ws : List Half} (h : (decode ws).isOk = false) : ∃ e, decode ws = .error e := by
  cases hd : decode ws with
  | ok r => rw [hd] at h; cases h
  | error e => exact ⟨e, rfl⟩

/-- tb with a half-word pair at the PC and the turn of core 0 first. -/
def turnState (s : State) (w : Nat) : State := { s with mem := tb.mem.writeN placeVa 4 w, agenda := [.issue 0] }

/-- A resumed successor that waits for a blocked channel still. -/
def stillState : State :=
  { coreAs (slotAs tb 0 fun t => { t with wait := some (.blocked 4) }) fun c => { c with
      tt := [(4, { TTEntry.reset with valid := true, blk := true })] } with agenda := [.issue 0] }

/-- A word that decodes, one that the tables refuse, a firmware register, a table field that must be zero, one that ends beyond
a body, and one that reads a lost register. -/
theorem witness_StepRunsDecoded :
    (∀ x ∈ [(tb, 0x1298, 1, [0x1298], Instr.add 1 2 3), (tb, 0x0200, 1, [0x0200], .unassignedEncoding),
        (tb, 0x5203F844, 2, [0xF844, 0x5203], .mts 1 0x803), (tb, 0x12A5F8C0, 2, [0xF8C0, 0x12A5], .vcvt .fp4 true 1 .rne .sat 1 2),
        (inRep tb 3 2, 0x0100F980, 2, [0xF980, 0x0100], .exit), (tb, 0x3A03F880, 2, [0xF880, 0x3A03], .vclr 5),
        (slotAs tb 0 fun t => { t with lost := [2] }, 0x1298, 1, [0x1298], .add 1 2 3),
        (slotAs (withCtl tb fun c => { c with cw := 1 }) 0 fun t => { t with lost := [1] }, 0x1298, 1, [0x1298], .add 1 2 3)],
      let s := turnState x.1 x.2.1
      issues s (fetched s).2 x.2.2.1 0 x.2.2.2.1 x.2.2.2.2) ∧
    ((fetched (turnState tb 0x5203F844)).2.early (.mts 1 0x803) = some .priv ∧ 0x800 ≤ (0x803 : BitVec 12).toNat ∧
      (fetched (turnState tb 0x12A5F8C0)).2.early (.vcvt .fp4 true 1 .rne .sat 1 2) = some .illop ∧
      (fetched (turnState tb 0x1298)).2.early (.add 1 2 3) = none ∧ (fetched (turnState tb 0x1298)).2.damaged = [] ∧
      cidOk 0 = true ∧ cidOk 0x1400 = false) ∧
    (fetched (turnState (inRep tb 3 2) 0x0100F980)).2.ws.ctl.repA = true ∧
    ({ (fetched (turnState (inRep tb 3 2) 0x0100F980)).2 with ilen := 2 } : State).crossesBody = true ∧
    (fetched (turnState (slotAs tb 0 fun t => { t with lost := [2] }) 0x1298)).2.lostRead (.add 1 2 3) =
      some 0x7000000000000002 ∧
    (fetched (turnState (slotAs (withCtl tb fun c => { c with cw := 1 }) 0 fun t => { t with lost := [1] }) 0x1298)).2.lostRead
      (.add 1 2 3) = none ∧
    (let u := ({ stillState with agenda := [] } : State).focus 0;
      stillState.agenda = [.issue 0] ∧ u.pick = some 0 ∧ (u.beginIssue 0).requestDue 0 0 = false ∧
        (u.beginIssue 0).stillBlocked = true) ∧
    ∃ (s : State) (i j k : Instr) (rest : List Turn), s.agenda = .event i :: rest ∧ i.isStep = true ∧ i.wf = true ∧
      j.isStep = false ∧ k.wf = false := by
  refine ⟨?_, by decide +kernel, by decide +kernel, by decide +kernel, by decide +kernel, by decide +kernel,
    by decide +kernel, { tb with agenda := [.event .snapshotRearm] }, .snapshotRearm, .add 1 2 3, .coreMove 0 5120, [], rfl, by decide +kernel⟩
  intro x hx
  simp only [List.mem_cons, List.not_mem_nil, or_false] at hx
  rcases hx with rfl | rfl | rfl | rfl | rfl | rfl | rfl | rfl
  all_goals exact ⟨rfl, by decide +kernel⟩

theorem witness_CodeFetch : ∃ (s : State) (a : Word) (hs : List Half) (i : Instr) (x : Leaf),
    let pa (j : Nat) := x.pa + (a.toNat + 2 * j - x.va)
    decode hs = .ok (i, hs.length) ∧ a.toNat % 2 = 0 ∧ a.toNat + 2 * hs.length ≤ 2 ^ 56 ∧
    s.here.icache = [] ∧ s.here.l1 = [] ∧ (s.cluster (s.hereCid / 8)).l2 = [] ∧ s.oldWalks = [] ∧ s.damaged = [] ∧
    (∀ y ∈ s.clusters, y.2.ulines = []) ∧ s.oldCode ≠ [] ∧
    (∀ j, j < hs.length → ∀ y ∈ s.oldCode, y.1 = pa j / 2 → y.2.2 < s.task.codeSince (a.toNat + 2 * j)) ∧
    x.ex = true ∧ x.cx = s.cx ∧
    (∀ j, j < hs.length → s.walk s.cx (a.toNat + 2 * j) = .leaf x ∧ x.covers s.cx (a.toNat + 2 * j) = true ∧
      paDevice (pa j) = 0 ∧ s.mem.readN (pa j) 2 = (hs.getD j 0).toNat) :=
  ⟨{ slotAs tb 0 fun t => { t with codeFrom := 5 } with oldCode := [(0x8000, 0xFC00, 4)] }, 0x10000, [0x1298], .add 1 2 3,
    codeLeaf, by decide +kernel⟩

theorem witness_EncodingRoundTrip : ∃ (i : Instr) (rest : List Half), i.wf = true ∧ i.form.isSome = true ∧ rest ≠ [] :=
  ⟨.ldi 9 (-4096), [0x1298], by decide +kernel⟩

theorem witness_StepKeepsCanonical : ∃ s t : State, s.Canonical ∧ step s = .next t :=
  ⟨{ tb with agenda := [.pass 1] }, { tb with now := 1 }, canonical_tb, rfl⟩

theorem witness_ScalarResults :
    (∃ (s : State) (i : Instr) (w : Workspace), scalarWs s i = some w) ∧
    (∃ (s : State) (r : GReg), s.ws.ctl.phys r = 0) :=
  ⟨⟨tb, .add 1 2 3, _, rfl⟩, ⟨tb, 0, by decide +kernel⟩⟩

theorem witness_QueueMoves : ∃ (s : State) (q r p w e : QReg) (v : Word) (rest : List Word),
    s.queue q = v :: rest ∧ s.queue e = [] ∧ (4 ≤ r.toNat ∧ (s.queue r).length < 8) ∧ (4 ≤ p.toNat ∧ 8 ≤ (s.queue p).length) ∧
      w.toNat < 4 :=
  ⟨(tb.setQueue 0 [5, 6]).setQueue 5 (List.replicate 8 1), 0, 4, 5, 3, 1, 5, [6], by decide +kernel⟩

theorem witness_RefusedForms :
    (∃ pos wm1 : BitVec 6, 64 < pos.toNat + wm1.toNat + 1) ∧
    (∃ s : State, s.ws.ctl.repA = false ∧ (s.ws.raw 15).getLsbD 0 = true) ∧
    (∃ (s : State) (a : GReg), s.ws.ctl.repA = false ∧ (s.g a).getLsbD 0 = true) ∧
    (∃ s : State, s.ws.ctl.repA = true) :=
  ⟨⟨63, 1, by decide⟩, ⟨rg tb [(15, 3)], by decide +kernel⟩, ⟨rg tb [(2, 3)], 2, by decide +kernel⟩,
    ⟨inRep tb 0 2, by decide +kernel⟩⟩

theorem witness_ControlTransfers :
    ∃ (s : State) (a d : GReg), s.ws.ctl.repA = false ∧ (s.ws.raw 15).getLsbD 0 = false ∧ (s.g a).getLsbD 0 = false ∧ d ≠ 0 :=
  ⟨rg tb [(15, 4), (2, 6)], 2, 3, by decide +kernel⟩

theorem witness_RepProgress :
    (∃ s : State, s.ws.ctl.repA = true ∧ s.ws.ctl.repOff.toNat + s.ilen < s.ws.ctl.repLen.toNat + 1) ∧
    (∃ s : State, s.ws.ctl.repA = true ∧ s.ws.ctl.repOff.toNat + s.ilen = s.ws.ctl.repLen.toNat + 1 ∧ s.ws.ctl.repRem ≠ 1) ∧
    (∃ s : State, s.ws.ctl.repA = true ∧ s.ws.ctl.repOff.toNat + s.ilen = s.ws.ctl.repLen.toNat + 1 ∧ s.ws.ctl.repRem = 1) :=
  ⟨⟨inRep tb 2 2, by decide +kernel⟩, ⟨inRep tb 3 2, by decide +kernel⟩, ⟨inRep tb 3 1, by decide +kernel⟩⟩

theorem witness_TrapEntry : ∃ (s : State) (h : Nat) (e : TTEntry),
    s.HandlerReady s.hereCid s.here.cur.val h e ∧ s.Alone ∧ s.ws.ctl.repA = false :=
  ⟨withHandler tb goodEntry, 7, goodEntry, by unfold State.HandlerReady; decide +kernel, ⟨rfl, rfl⟩, by decide +kernel⟩

/-- Slot 0 holds a trapped task that no handler takes, linked to slot 2 or to none. -/
def declinedState (l : Option Nat) : State :=
  slotAs (slotAs tb 0 fun t => { t with link := l, ws := { t.ws with tsw := { t.ws.tsw with state := .trapped, cause := .svc } } })
    2 fun t => { t with held := true }

theorem witness_FaultsFirstTaken :
    (∀ l ∈ [none, some 2], ∃ s : State, s.Alone ∧ s.task.link = l ∧
      ∀ h, ((s.cxOf s.hereCid).bind s.ctxCfg).bind (·.handler) = some h →
        ((s.here.tt.get h).getD TTEntry.reset).valid = false ∨ ((s.here.tt.get h).getD TTEntry.reset).bound = true) ∧
    (∀ l ∈ [none, some 2], ∃ s : State,
      let x := s.here.slot 0
      x.held = true ∧ x.ws.tsw.state = .trapped ∧ x.fwFault = none ∧ x.handlerDue = false ∧
        (∀ r ∈ s.here.runList, r.kind ≠ .handler 0) ∧
        (∀ i, i < 8 → (s.here.slot i).held = true → (s.here.slot i).link ≠ some 0) ∧
        (∀ y ∈ s.savedTasks, ¬ (y.cid = s.hereCid ∧ y.task.link = some 0)) ∧ s.here.ownTickets 0 = [] ∧ x.members = [] ∧
        x.link = l ∧ (s.die (s.hereCid / 8192)).faults = [] ∧ (s.die (s.hereCid / 8192)).window = none ∧
        s.here.ownTickets 2 = []) := by
  refine ⟨fun l hl => ?_, fun l hl => ?_⟩
  · have h0 : ∀ l ∈ [none, some 2], (((declinedState l).cxOf (declinedState l).hereCid).bind
        (declinedState l).ctxCfg).bind (·.handler) = none ∧
        ((declinedState l).task.members = [] ∧ (declinedState l).task.lost = []) ∧ (declinedState l).task.link = l := by
      decide +kernel
    refine ⟨declinedState l, (h0 l hl).2.1, (h0 l hl).2.2, fun h e => ?_⟩
    rw [(h0 l hl).1] at e
    cases e
  · simp only [List.mem_cons, List.not_mem_nil, or_false] at hl
    rcases hl with rfl | rfl
    · exact ⟨declinedState none, by decide +kernel⟩
    · exact ⟨declinedState (some 2), by decide +kernel⟩

/-- The issuing task is linked to the trapped task of slot 2, if to any. -/
def handlerState (l : Option Nat) (f : Slot → Slot) : State :=
  slotAs (slotAs tb 0 fun t => f { t with link := l }) 2 fun t =>
    { t with held := true, ws := { t.ws with tsw := { t.ws.tsw with state := .trapped } } }

theorem witness_HandlerReturn :
    (∃ s : State, s.ws.ctl.repA = false ∧ s.task.link = none) ∧
    (∃ s : State, s.ws.ctl.repA = false ∧ s.task.link = some 2 ∧ s.task.tract = false ∧ s.task.trpc.getLsbD 0 = true) ∧
    (∃ s : State, s.ws.ctl.repA = false ∧ s.task.link = some 2 ∧ s.here.cur.val = 0 ∧ s.task.tract = true ∧
      s.here.ownTickets s.here.cur.val = [] ∧ s.here.ownTickets 2 = []) ∧
    (∃ (s : State) (l : Nat) (b : Slot), s.ws.ctl.repA = false ∧ s.task.link = some l ∧ l < 8 ∧
      l ≠ s.here.cur.val ∧ s.task.tract = false ∧ s.task.trpc.getLsbD 0 = false ∧ s.here.slot l = b ∧
      b.ws.tsw.state = .trapped ∧ b.ws.ctl.cw = 0 ∧ s.here.ownTickets s.here.cur.val = [] ∧ s.task.members = []) :=
  ⟨⟨handlerState none id, by decide +kernel⟩, ⟨handlerState (some 2) fun t => { t with trpc := 7 }, by decide +kernel⟩,
    ⟨handlerState (some 2) fun t => { t with tract := true }, by decide +kernel⟩,
    ⟨handlerState (some 2) id, 2, _, by decide +kernel, by decide +kernel, by decide, by decide +kernel, by decide +kernel,
      by decide +kernel, rfl, by decide +kernel⟩⟩

/-! ## Single steps with the spec's own numbers -/

/-- R116: ldi g4, -1 is 0x29FF and gives all ones; it is the first instruction after reset. -/
theorem test_ldi_runs : ((after (step (State.reset.withFetchWord 16 0x29FF))).ws.g[4]) = 0xFFFFFFFFFFFFFFFF := by decide +kernel

/-- R122: with g1 = A5C3, bfx g3, g1, 8, 4 gives 5, and BFI into all ones FFFFFFFFFFFFF3FF. -/
theorem test_bfx : ((after (exec (.bfx 8 3 1 3) (rg tb [(1, 0xA5C3)]))).ws.g[3]) = 5 := by decide +kernel
theorem test_bfi : ((after (exec (.bfi 8 3 1 3) (rg tb [(1, 0xA5C3), (3, 0xFFFFFFFFFFFFFFFF)]))).ws.g[3]) =
    0xFFFFFFFFFFFFF3FF := by decide +kernel

/-- R125: ext.i32 of 1234567880000001. -/
theorem test_ext : ((after (exec (.ext .i32 3 1) (rg tb [(1, 0x1234567880000001)]))).ws.g[3]) = 0xFFFFFFFF80000001 := by
  decide +kernel

/-- R98: 300 and 304 into preset 0, 1,000 saturated, 60,000 and 62,000 into preset 1 with infinities. -/
def intoPreset (e5m2 sat : Bool) (n : Nat) : Byte × Byte :=
  (CodeTable.preset e5m2).encode .rne 0 sat false (n * 2 ^ 298) 1
theorem test_presets : intoPreset false false 300 = (0x79, fInx) ∧ intoPreset false false 304 = (0x7A, fInx) ∧
    intoPreset false true 1000 = (0x7E, fOvf ||| fInx) ∧ intoPreset true false 60000 = (0x7B, fOvf ||| fInx) ∧
    intoPreset true false 62000 = (0x7C, fOvf ||| fInx) := by decide +kernel

/-- R251: a ticket of table 1 that speculates on index 0x42 with all its data in place. -/
theorem test_pstat : ({ Ticket.reset with state := .spec, tbl := 1, pidx := 0x42, len := 64, asked := 64, got := 64 } : Ticket).status =
    0x0000004200040009 := by decide +kernel

/-- R351: the key of block 1 of sequence 5A17C0DE, and the point it goes to. -/
theorem test_kv_key : kvKey 0x5A17C0DE 1 = 0xE1674920 ∧
    nearestPoint 0xE1674920 [0x10000000, 0x50000000, 0x90000000, 0xD0000000, 0x130000000, 0x170000000, 0x1B0000000,
      0x1F0000000] = 0x1F0000000 := by decide +kernel

/-- R351: the agent sets TIER 2 and replies 0000010000120031. -/
def lookupAt : KvReq :=
  { map := false, src := 0, slot := 0, sq := 0x5A17C0DE, blk := 1, key := 0xE1674920, ovr := false, toff := 0x4000, logt := 6,
    near := 0x10000000000, far := 0x20000000000, arg := 0xFF00000000009000, hops := 0 }
def lookupState : State :=
  coreAs (slotAs tb 0 fun t => { t with
    wait := some (.reply 1 true), ws := { t.ws with tsw := { t.ws.tsw with state := .parked } } }) fun c =>
    { c with dirQ := [lookupAt], lm := (c.lm.writeN 0x4200 8 0x5A17C0DE00000001).writeN 0x4208 8 0x9003000005000012 }
theorem test_kv_lookup :
    (after (exec (.kvLookupRequest 0) lookupState)).here.lm.readN 0x4208 8 = 0xA003000005000012 ∧
      ((after (exec (.kvLookupRequest 0) lookupState)).here.slot 0).reply = some 0x0000010000120031 := by decide +kernel

/-- The state that resolving an address leaves. -/
def resolved (s : State) (acc : Acc) (a : Word) (n : Nat) : State := (okOf (s.resolve acc a n) (.lm 0 0, s)).2

theorem witness_AccessesComplete :
    (∃ (s u : State) (a b : GReg) (disp : Word) (l : Loc), s.Reaches .load (s.g a + disp * 8) 8 l u ∧
      s.Reaches .load (s.g a + s.g b) (ldBytes .i16) l u ∧ s.Reaches .load (s.g a + 0 * 64) 64 l u) ∧
    (∃ (s u : State) (a : GReg) (disp : Word) (l : Loc), s.Reaches .load (s.g a + disp * 4) 4 l u ∧ l = .phys 0x10004) ∧
    (∃ (s u : State) (disp : Word) (l : Loc), isGlobal ((s.ws.pc &&& ~~~7#64) + 8 * disp) = true ∧
      s.Reaches .load ((s.ws.pc &&& ~~~7#64) + 8 * disp) 8 l u) ∧
    (∃ (s u : State) (a b : GReg) (o : Sys2Proof.Ordering) (sc : Scope) (l : Loc),
      (s.releaseIf o sc).Reaches .store (s.g a + 0 * 8) 8 l u ∧ (s.releaseIf o sc).Reaches .store (s.g a + s.g b) 2 l u ∧
        (s.releaseIf o sc).Reaches .store (s.g a + 0 * 64) 64 l u ∧ o = .rel) := by
  refine ⟨⟨rg tb [(2, lmAt 0x1040)], rg tb [(2, lmAt 0x1040)], 2, 3, 0, .lm 0 0x1040, ?_, ?_, ?_⟩,
    ⟨rg tb [(2, 0x10000)], resolved (rg tb [(2, 0x10000)]) .load 0x10004 4, 2, 1, .phys 0x10004, ?_, rfl⟩,
    ⟨tb, resolved tb .load 0x10008 8, 1, .phys 0x10008, by decide +kernel, ?_⟩,
    ⟨rg tb [(2, cspAt 0x40)], rg tb [(2, cspAt 0x40)], 2, 3, .rel, .die, .csp 0 0x40, ?_, ?_, ?_, rfl⟩⟩
  all_goals refine reaches_of ?_ (by decide +kernel)
  all_goals first
    | exact lm_not_mqw _ _
    | exact csp_not_mqw _ _
    | exact phys_not_mqw _

theorem witness_AccessedBytes :
    (∃ l : Loc, (∀ o, l ≠ .mqw o) ∧ ∀ pa, l ≠ .phys pa) ∧
    (∃ (s : State) (l : Loc), (∀ o, l ≠ .mqw o) ∧ s.Uncached l ∧ l = .phys 0x20000) ∧
    (∃ (s : State) (n : Nat) (l x : Loc), (∀ o, l ≠ .mqw o) ∧ l.plain ∧ s.Canonical ∧ s.Uncached l ∧ l.off % 64 + n ≤ 64 ∧
      x.outside l n ∧ x.plain ∧ s.waiters = []) := by
  refine ⟨⟨.csp 0 0, csp_not_mqw _ _, fun _ h => by cases h⟩,
    ⟨tb, .phys 0x20000, phys_not_mqw _, uncached_of_ok (by decide +kernel) _, rfl⟩,
    ⟨tb, 8, .phys 0x20038, .phys 0x20037, phys_not_mqw _, trivial, canonical_tb, uncached_of_ok (by decide +kernel) _,
      by decide, fun i hi h => ?_, trivial, by decide +kernel⟩⟩
  simp only [Loc.add, Loc.phys.injEq] at h
  omega

/-- A task with a save area at 0x2000, an armed counter at 0x1040, and 64 KiB of DSW. -/
def windowState : State :=
  { coreAs (slotAs tb 0 fun t => { t with ws := { t.ws with vsd := { t.ws.vsd with vsa := 0x80, vcap := 1 } } })
      (fun c => { c with counters := [0x1040] }) with
    contexts := [(1, { cfg := { placeCfg with dsw := [(0, 2, 1)] }, prefixes := [], sptQ := [] })] }

/-- Boundary addresses of the windows: the last bytes of a slot, of the task's own slot, of the LM, of the CSP; the first
beyond; an armed counter; a save area; a window that does not exist; an address that is neither local nor global. -/
theorem witness_Windows :
    (∀ o ∈ [0, 318, 510], isLocal (lmAt o) = true ∧ winSel (lmAt o) = 0 ∧
      winOff (lmAt o) / 512 = windowState.here.cur.val ∧ (winOff (lmAt o) + 2 - 1) / 512 = windowState.here.cur.val) ∧
    (winOff (lmAt 318) % 512 + 2 ≤ 320 ∧ 320 < winOff (lmAt 319) % 512 + 2 ∧ winOff (lmAt 319) < 0x1000) ∧
    (winOff (lmAt 512) < 0x1000 ∧ winOff (lmAt 512) / 512 ≠ windowState.here.cur.val) ∧
    (0x1000 ≤ winOff (lmAt 0xBFFE) ∧ winOff (lmAt 0xBFFE) + 2 ≤ 0xC000) ∧
    (windowState.here.inArea 0xBFFE 2 = false ∧ windowState.here.onCounter 0xBFFE 2 = false) ∧
    (windowState.here.inArea 0x2000 2 = true ∧ windowState.here.onCounter 0x1040 2 = true) ∧
    0xC000 < winOff (lmAt 0xBFFF) + 2 ∧
    (isLocal (cspAt 0) = true ∧ winSel (cspAt 0) = 1 ∧ winOff (cspAt 0x3FFFE) + 2 ≤ 0x40000 ∧
      0x40000 < winOff (cspAt 0x3FFFF) + 2) ∧
    (winSel (dswAt 0) = 3 ∧
      winOff (dswAt 0xFFFE) + 2 ≤ (windowState.dswRange windowState.cx (windowState.hereCid / 8192)).2 ∧
      (windowState.dswRange windowState.cx (windowState.hereCid / 8192)).2 < winOff (dswAt 0xFFFF) + 2) ∧
    (winSel (mqwAt 0xFFE) = 2 ∧ winOff (mqwAt 0xFFE) + 2 ≤ 0x1000 ∧ 0x1000 < winOff (mqwAt 0xFFF) + 2) ∧
    (isLocal 0xFF04000000000000 = true ∧ 4 ≤ winSel 0xFF04000000000000) ∧
    (isLocal 0x0100000000000000 = false ∧ isGlobal 0x0100000000000000 = false) := by
  decide +kernel

theorem witness_Translation :
    (∃ (s : State) (cid va va' : Nat), (s.core cid).l1 = [] ∧ (s.cluster (clusterOf cid)).l2 = [] ∧ s.oldWalks = [] ∧
      s.walk ((s.cxOf cid).getD 0) va = .absent ∧ s.walk ((s.cxOf cid).getD 0) va' = .malformed) ∧
    (∃ (s : State) (cid va : Nat) (x : Leaf), (s.core cid).l1 = [] ∧ (s.cluster (clusterOf cid)).l2 = [] ∧
      s.walk ((s.cxOf cid).getD 0) va = .leaf x ∧ x.allows .load = true ∧ paDevice (x.pa + (va - x.va)) = 0 ∧
      paKind (x.pa + (va - x.va)) = .device) ∧
    (∃ (s : State) (cid va : Nat) (x : Leaf), (s.core cid).l1 = [] ∧ (s.cluster (clusterOf cid)).l2 = [] ∧
      s.walk ((s.cxOf cid).getD 0) va = .leaf x ∧ x.allows .store = false) ∧
    (∃ (s : State) (a : GReg) (disp : Word), (s.g a + disp * BitVec.ofNat 64 (sizeBytes .n64)).toNat % sizeBytes .n64 ≠ 0) ∧
    (∃ (s : State) (a : GReg) (disp info : Word) (c : Cause),
      let at' := s.g a + disp * BitVec.ofNat 64 (sizeBytes .n64)
      at'.toNat % sizeBytes .n64 = 0 ∧ ¬ (isLocal at' = true ∧ winSel at' = 2) ∧
        s.resolve .load at' (sizeBytes .n64) = .error (.trap c info) ∧
        s.resolve .store at' (sizeBytes .n64) = .error (.trap c info)) :=
  ⟨⟨{ tb with mem := tb.mem.writeN (placeRoot + 0x102010) 8 0x0F00000000000001 }, 0, 0x30000, 0x20000, by decide +kernel⟩,
    ⟨tb, 0, 0x1FFFF, codeLeaf, by decide +kernel⟩,
    ⟨{ tb with mem := tb.mem.writeN (placeRoot + 0x102008) 8 (placeVa + 0x17) }, 0, 0x10000,
      { codeLeaf with wr := false }, by decide +kernel⟩,
    ⟨rg tb [(2, 4)], 2, 0, by decide +kernel⟩, ⟨rg tb [(2, 0x40000)], 2, 0, 0x40000, .xlate, by decide +kernel⟩⟩

theorem witness_FullEmptyWords :
    (∃ (s : State) (a : GReg) (l : Loc), s.ReachesWord .load (s.g a + 1 * 4) l ∧ s.isFull l = true) ∧
    (∃ (s : State) (a : GReg) (l : Loc), s.ReachesWord .load (s.g a + 1 * 4) l ∧ s.isFull l = false) ∧
    (∃ (s : State) (a : GReg) (l : Loc), s.ReachesWord .store (s.g a + 1 * 4) l) ∧
    (∃ s : State, (s.core 0).arrivals.get 0x401 = some 0x30000) ∧
    (∃ l x : Loc, x.line ≠ l.line ∨ x.off / 4 ≠ l.off / 4) := by
  refine ⟨⟨(rg tb [(2, lmAt 0x1000)]).setFull (.lm 0 0x1004) true, 2, .lm 0 0x1004, ?_, by decide +kernel⟩,
    ⟨rg tb [(2, cspAt 0x100)], 2, .csp 0 0x104, ?_, by decide +kernel⟩, ⟨rg tb [(2, cspAt 0x100)], 2, .csp 0 0x104, ?_⟩,
    ⟨coreAs tb fun c => { c with arrivals := [(0x401, 0x30000)] }, rfl⟩,
    ⟨.lm 0 0x1000, .lm 0 0x1004, by decide⟩⟩
  all_goals
    unfold State.ReachesWord
    decide +kernel

/-- A store of line 0x403 that the issuing task has made and no other has seen. -/
def anOldLine : Late := { line := 0x403, data := 0, since := 0, barred := [tb.me], freed := [], stale := false }
def lateState : State :=
  { tb with clusters := tb.clusters.put 0 { tb.cluster 0 with late := [anOldLine] } }

/-- What a line held before a store that another task of the cluster has made: a stale copy's bytes, or the home's. -/
def othersLine (stale : Bool) : State :=
  { tb with clusters := tb.clusters.put 0 { tb.cluster 0 with late := [{ anOldLine with barred := [], stale := stale }] } }

theorem witness_FencesAndRanges :
    (∃ (s : State) (a b : GReg), rangeOk (s.g a) (s.g b) = true ∧ s.g b = 0) ∧
    (∃ (s : State) (a b : GReg), rangeOk (s.g a) (s.g b) = true ∧ isLocal (s.g a) = true) ∧
    (∃ (s : State) (a b : GReg), rangeOk (s.g a) (s.g b) = true ∧ ¬ (s.g b = 0 ∨ isLocal (s.g a) = true) ∧
      s.task.members = []) ∧
    (∃ (s : State) (a b : GReg), rangeOk (s.g a) (s.g b) = false) ∧
    (∃ (s : State) (y : Late), y ∈ ((s.releaseTo .package).cluster (s.hereCid / 8)).late ∧ s.me ∈ y.barred) ∧
    (∀ st ∈ [true, false], ∃ (s : State) (y : Late), y ∈ ((s.acquire .quad).cluster (s.hereCid / 8)).late ∧ y.stale = st ∧
      (s.me ∈ y.barred ↔ st = true)) :=
  ⟨⟨tb, 2, 3, by decide +kernel⟩, ⟨rg tb [(2, lmAt 0), (3, 64)], 2, 3, by decide +kernel⟩,
    ⟨rg tb [(2, 0xFFFFFFFFFFFF00), (3, 256)], 2, 3, by decide +kernel⟩,
    ⟨rg tb [(2, 0xFF), (3, 0xFFFFFFFFFFFFFF02)], 2, 3, by decide +kernel⟩,
    ⟨lateState, { anOldLine with freed := [(0, true)] }, by decide +kernel⟩, fun st hst => by
      simp only [List.mem_cons, List.not_mem_nil, or_false] at hst
      rcases hst with rfl | rfl
      · exact ⟨othersLine true, { anOldLine with stale := true, barred := [tb.me] }, by decide +kernel⟩
      · exact ⟨othersLine false, { anOldLine with barred := [] }, by decide +kernel⟩⟩

/-! ### Atomics -/

/-- A ring of four words at 0x10100 with its counter record at 0x10040 and the consumer's counter u at 0x10080. -/
def ringState (c u : Nat) : State :=
  let m := ((tb.mem.writeN 0x10040 8 c).writeN 0x10048 8 0x10100).writeN 0x10050 8 0x10080
  { rg tb [(2, 0x10040), (3, 77)] with mem := (m.writeN 0x10058 8 2).writeN 0x10080 8 u }

theorem witness_AtomicsComplete :
    (∃ (s u : State) (a : GReg) (l : Loc), u.here.unanswered = [] ∧ s.Reaches .atomic (s.g a) 8 l u ∧ l = .phys 0x10040) ∧
    (∃ (s u : State) (a : GReg) (l : Loc), u.here.unanswered = [] ∧ s.Reaches .atomic (s.g a) 4 l u ∧ l = .phys 0x10044) ∧
    (∃ (s u : State) (a : GReg) (l : Loc), u.here.unanswered = [] ∧ s.Reaches .atomic (s.g a) 64 l u) ∧
    (∃ (s u : State) (a : GReg) (l : Loc), u.here.unanswered = [] ∧ s.Reaches .atomic (s.g a) 8 l u ∧ l = .dsw 0 0x20008) ∧
    (∃ (s u : State) (a : GReg) (l : Loc), u.here.unanswered = [] ∧ s.Reaches .atomic (s.g a) 4 l u ∧ l = .dsw 0 0x20004) := by
  refine ⟨⟨ringState 0 0, resolved (ringState 0 0) .atomic 0x10040 8, 2, .phys 0x10040, by decide +kernel, ?_, rfl⟩,
    ⟨rg tb [(2, 0x10044)], resolved (rg tb [(2, 0x10044)]) .atomic 0x10044 4, 2, .phys 0x10044, by decide +kernel, ?_, rfl⟩,
    ⟨ringState 0 0, resolved (ringState 0 0) .atomic 0x10040 64, 2, .phys 0x10040, by decide +kernel, ?_⟩,
    ⟨rg windowState [(2, dswAt 8)], rg windowState [(2, dswAt 8)], 2, .dsw 0 0x20008, by decide +kernel, ?_, rfl⟩,
    ⟨rg windowState [(2, dswAt 4)], rg windowState [(2, dswAt 4)], 2, .dsw 0 0x20004, by decide +kernel, ?_, rfl⟩⟩
  all_goals refine reaches_of ?_ (by decide +kernel)
  all_goals first
    | exact phys_not_mqw _
    | exact dsw_not_mqw _ _

theorem unanswered_of {s : State} (h : s.replies = []) (slice src seq : Nat) : s.Unanswered slice src seq := by
  simp [State.Unanswered, h]

/-- The issuing core waits for an answer to its request 0 to the home of a place. -/
def asking (s : State) (l : Loc) : State := coreAs s fun c => { c with unanswered := [(l.slice, 0)] }

theorem asking_issued (s : State) (q : HomeReq) (h : q.src = s.hereCid) (h0 : q.seq = 0) :
    (asking s (homePlace q.loc)).issued q = true := by
  simp [State.issued, State.core, asking, coreAs, h, h0]

theorem witness_AtomicAtHome : ∃ (s : State) (src seq : Nat) (h : HomeLoc) (op : AmoOp) (w64 : Bool) (q : HomeReq),
    let l := homePlace h
    s.Canonical ∧ s.Uncached l ∧ s.redirects = [] ∧ s.Unanswered l.slice src seq ∧ s.damaged = [] ∧
      l.off % (if w64 then 8 else 4) = 0 ∧ q.src = src ∧ q.seq = seq ∧ q.loc = h ∧ q.op = .amo op w64 false ∧
      (l.slice, seq) ∈ (s.core src).unanswered :=
  ⟨asking tb (.phys 0x20004), 0, 0, .phys 0x20004, .cas, false,
    { src := 0, seq := 0, loc := .phys 0x20004, op := .amo .cas false false, val := 1, cmp := 0 },
    canonical_of_ok (by decide +kernel), uncached_of_ok (by decide +kernel) _, by decide +kernel, unanswered_of rfl _ _ _,
    by decide +kernel, by decide, rfl, rfl, rfl, rfl, List.mem_singleton.mpr rfl⟩

theorem witness_HomeEvents :
    (∀ q ∈ [({ src := 0, seq := 0, loc := .dsw 0 8, op := .red .add true false, val := 1, cmp := 0 } : HomeReq),
        { src := 0, seq := 0, loc := .dsw 0 4, op := .redFadd, val := 1, cmp := 0 },
        { src := 0, seq := 0, loc := .phys 64, op := .topk, val := 1, cmp := 0 },
        { src := 0, seq := 0, loc := .phys 4, op := .fadd, val := 1, cmp := 0 }],
      let s := asking tb (homePlace q.loc)
      s.damaged = [] ∧ s.issued q = true ∧ tb.issued q = false ∧
        (homePlace q.loc).off % (match q.op with | .red _ _ _ => 8 | .topk => 64 | _ => 4) = 0) ∧
    (∃ q : HomeReq, q.op = .tokc ∧ tb.issued q = false) ∧
    (∃ (s : State) (src seq : Nat) (h : HomeLoc), s.Canonical ∧ s.Uncached (homePlace h) ∧ s.redirects = [] ∧
      s.Unanswered (homePlace h).slice src seq ∧ s.damaged = [] ∧ (homePlace h).off % 64 = 0) := by
  refine ⟨fun q hq => ?_, ⟨{ src := 0, seq := 0, loc := .phys 64, op := .tokc, val := 1, cmp := 0 }, by decide +kernel⟩,
    ⟨tb, 0, 0, .phys 0x20040, canonical_tb, uncached_of_ok (by decide +kernel) _, by decide +kernel, unanswered_of rfl _ _ _,
      by decide +kernel, by decide⟩⟩
  simp only [List.mem_cons, List.not_mem_nil, or_false] at hq
  rcases hq with rfl | rfl | rfl | rfl <;>
    exact ⟨by decide +kernel, asking_issued _ _ rfl rfl, by decide +kernel, by decide⟩

theorem witness_ReductionReachesHome :
    (∃ (s : State) (pa : Nat) (v : Word), s.Canonical ∧ s.Uncached (.phys pa) ∧ s.damaged = [] ∧ pa % 4 = 0 ∧
      v.toNat < 2 ^ 32 ∧ (s.cluster (s.hereCid / 8)).ulines.length < 2048) ∧
    (∃ (s : State) (pa : Nat), s.Canonical ∧ s.Uncached (.phys pa) ∧ s.damaged = [] ∧ pa % 8 = 0 ∧
      (s.cluster (s.hereCid / 8)).ulines.length < 2048) :=
  ⟨⟨tb, 0x20004, 0xFFFFFFFF, canonical_tb, uncached_of_ok (by decide +kernel) _, by decide +kernel⟩,
    ⟨tb, 0x20008, canonical_tb, uncached_of_ok (by decide +kernel) _, by decide +kernel⟩⟩

/-- A task that waits in a WAITA of the word at 0x20008. -/
def waitaState (old : Nat) (reply : Option Word) : State :=
  { slotAs tb 0 fun t => { t with wait := some (.waita (.phys 0x20008) true 5 3 none 0x20008), reply := reply } with
    mem := tb.mem.writeN 0x20008 8 old }

theorem witness_WaitaProtocol :
    (∃ (s u : State) (a : GReg) (l : Loc), s.Reaches .atomic (s.g a) 8 l u) ∧
    (∃ (s u : State) (a : GReg) (l : Loc), s.Reaches .atomic (s.g a) 4 l u) ∧
    (∃ (s s' s'' : State) (cid slot : Nat) (l : Loc) (e va : Word) (d : GReg) (acq : Option Scope), slot < 8 ∧
      (∀ x ∈ [s, s', s''], x.Uncached l ∧ x.sound l = true ∧ ((x.core cid).slot slot).wait = some (.waita l true e d acq va) ∧
        ((x.core cid).slot slot).reply = none ∧ ∀ y ∈ x.waiters, ¬ (y.cid = cid ∧ y.slot = slot)) ∧
      BitVec.ofNat 64 (s.bytesAt l 8) ≠ e ∧
      (BitVec.ofNat 64 (s'.bytesAt l 8) = e ∧ (s'.waiters.filter fun x => x.line == l.line).length < 16) ∧
      (BitVec.ofNat 64 (s''.bytesAt l 8) = e ∧ 16 ≤ (s''.waiters.filter fun x => x.line == l.line).length)) ∧
    (∃ (s : State) (cid slot : Nat) (l : Loc) (e v va : Word) (d : GReg) (acq : Option Scope), slot < 8 ∧
      ((s.core cid).slot slot).wait = some (.waita l true e d acq va) ∧ (s.core cid).repliedSlot = some slot ∧
      ((s.core cid).slot slot).reply = some v) ∧
    (∃ (s : State) (cid slot : Nat) (l : Loc) (e va : Word) (d : GReg) (acq : Option Scope), slot < 8 ∧
      ((s.core cid).slot slot).wait = some (.waita l true e d acq va) ∧ (s.core cid).repliedSlot = none ∧
      ((s.core cid).slot slot).waitSince + 2 ^ 20 ≤ s.now ∧ s.Uncached l ∧ s.sound l = true) := by
  refine ⟨⟨ringState 0 0, resolved (ringState 0 0) .atomic 0x10040 8, 2, .phys 0x10040, ?_⟩,
    ⟨rg tb [(2, 0x10044)], resolved (rg tb [(2, 0x10044)]) .atomic 0x10044 4, 2, .phys 0x10044, ?_⟩,
    ⟨waitaState 4 none, waitaState 5 none, { waitaState 5 none with
        waiters := List.replicate 16 { line := (Loc.phys 0x20008).line, cid := 9, slot := 0 } },
      0, 0, .phys 0x20008, 5, 0x20008, 3, none, by decide, ?_, by decide +kernel, by decide +kernel, by decide +kernel⟩,
    ⟨waitaState 4 (some 4), 0, 0, .phys 0x20008, 5, 4, 0x20008, 3, none, by decide +kernel⟩,
    ⟨atTime (waitaState 5 none) (2 ^ 20), 0, 0, .phys 0x20008, 5, 0x20008, 3, none, by decide, by decide +kernel, by decide +kernel,
      by decide +kernel, uncached_of_ok (by decide +kernel) _, by decide +kernel⟩⟩
  · exact reaches_of (phys_not_mqw _) (by decide +kernel)
  · exact reaches_of (phys_not_mqw _) (by decide +kernel)
  · intro x hx
    simp only [List.mem_cons, List.not_mem_nil, or_false] at hx
    rcases hx with rfl | rfl | rfl <;>
      exact ⟨uncached_of_ok (by decide +kernel) _, by decide +kernel, by decide +kernel, by decide +kernel, by decide +kernel⟩

theorem witness_TokenRings :
    (∀ x ∈ [(3, TokcReply.done 3), (4, .full 0x10080 0 0x10080)], ∃ (s u : State) (a : GReg) (pa : Nat),
      let s2 := (u.releaseTo .system).acknowledge u.hereCid (Loc.phys pa).slice (u.here.seqFor (Loc.phys pa).slice)
      s.Reaches .atomic (s.g a) 64 (.phys pa) u ∧ paKind pa = .device ∧ paDevice pa = 0 ∧ u.here.unanswered = [] ∧
        (s2.tokcHome s2.hereCid (s2.here.seqFor (Loc.phys pa).slice) pa (s.g 3)).1 = x.2) ∧
    (∀ c ∈ [(3, 0x10118), (4, 0x10100)], ∃ (s : State) (src pa cons ring place : Nat) (q : HomeReq),
      let word (i : Nat) : Word := BitVec.ofNat 64 (s.bytesAt (.phys (pa + 8 * i)) 8)
      let slot := word 1 + BitVec.ofNat 64 (8 * ((word 0).toNat % 2 ^ (word 3).toNat))
      s.issued q = true ∧ q.loc = .phys pa ∧ q.seq = 0 ∧ q.src = src ∧ q.op = .tokc ∧ q.cmp = 0 ∧
        s.Canonical ∧ s.Unanswered (Loc.phys pa).slice src 0 ∧ s.Uncached (.phys pa) ∧
        s.Uncached (.phys cons) ∧ s.Uncached (.phys place) ∧
        ((word 0).toNat = c.1 ∧ place = c.2 ∧ s.damaged = [] ∧ s.redirects = [] ∧ pa % 64 = 0 ∧ place % 8 = 0 ∧
          (word 3).toNat ≤ 20 ∧ (word 4 = 0 ∧ word 5 = 0 ∧ word 6 = 0 ∧ word 7 = 0) ∧ (∀ i, i < 8 → place ≠ pa + i) ∧
          s.tokcAddr src (word 2) = .ok cons ∧ s.tokcAddr src (word 1) = .ok ring ∧
          s.tokcAddr src slot = .ok place ∧ paKind pa = .device ∧ paDevice pa = 0 ∧ (s.cxOf src).isSome = true)) := by
  refine ⟨fun x hx => ?_, fun c hc => ?_⟩
  · simp only [List.mem_cons, List.not_mem_nil, or_false] at hx
    rcases hx with rfl | rfl
    · exact ⟨ringState 3 0, resolved (ringState 3 0) .atomic 0x10040 64, 2, 0x10040,
        reaches_of (phys_not_mqw _) (by decide +kernel), by decide, by decide, by decide +kernel⟩
    · exact ⟨ringState 4 0, resolved (ringState 4 0) .atomic 0x10040 64, 2, 0x10040,
        reaches_of (phys_not_mqw _) (by decide +kernel), by decide, by decide, by decide +kernel⟩
  · let q : HomeReq := { src := 0, seq := 0, loc := .phys 0x10040, op := .tokc, val := 77, cmp := 0 }
    have hu : ∀ n, uncachedOk (asking (ringState n 0) (.phys 0x10040)) = true := fun n => rfl
    simp only [List.mem_cons, List.not_mem_nil, or_false] at hc
    rcases hc with rfl | rfl
    · exact ⟨asking (ringState 3 0) (.phys 0x10040), 0, 0x10040, 0x10080, 0x10100, 0x10118, q, asking_issued _ q rfl rfl,
        rfl, rfl, rfl, rfl, rfl, canonical_of_ok (by decide +kernel), unanswered_of rfl _ _ _, uncached_of_ok (hu 3) _,
        uncached_of_ok (hu 3) _, uncached_of_ok (hu 3) _, by decide +kernel⟩
    · exact ⟨asking (ringState 4 0) (.phys 0x10040), 0, 0x10040, 0x10080, 0x10100, 0x10100, q, asking_issued _ q rfl rfl,
        rfl, rfl, rfl, rfl, rfl, canonical_of_ok (by decide +kernel), unanswered_of rfl _ _ _, uncached_of_ok (hu 4) _,
        uncached_of_ok (hu 4) _, uncached_of_ok (hu 4) _, by decide +kernel⟩

/-! ### System registers -/

theorem witness_SystemRegisterReads : ∃ (s : State) (n m p : BitVec 12) (v : Nat),
    (n.toNat < 0x800 ∧ sysWord s n.toNat = some v) ∧ (m.toNat < 0x800 ∧ sysWord s m.toNat = none) ∧ 0x800 ≤ p.toNat :=
  ⟨tb, 0, 0x7FF, 0x800, 0x10000, by decide +kernel⟩

theorem witness_SnapshotTriggers :
    (∃ n m : Byte, n.toNat < 128 ∧ 128 ≤ m.toNat) ∧
    (∀ held : Bool, ∃ s : State, (127 < 128 ∨ 127 ∈ s.trigEn) ∧ 128 ∈ s.trigEn ∧ ¬ (133 < 128 ∨ 133 ∈ s.trigEn) ∧
      s.snapHeld = held) ∧
    (∀ now ∈ [50, 49], ∃ (s : State) (n t0 : Nat) (rest : List (Nat × Nat)), s.fallAt = (n, t0) :: rest ∧ s.now = now ∧
      (t0 + 40 ≤ s.now ↔ now = 50)) ∧
    tb.fallAt = [] :=
  ⟨⟨127, 128, by decide⟩, fun b => ⟨{ tb with snapHeld := b, trigEn := [128] }, by cases b <;> decide +kernel⟩,
    fun n _ => ⟨{ tb with fallAt := [(5, 10), (6, 11)], now := n }, 5, 10, [(6, 11)], rfl, rfl, by
      simp_all; omega⟩, by decide +kernel⟩

/-- A task in slot 1 waits in a WAITA at the page that its address named before. -/
def strayState : State :=
  { slotAs (rg tb [(2, 0x10000), (3, 0x10000)]) 1 fun t => { t with
      held := true, wait := some (.waita (.phys 0x20008) true 5 3 none 0x10008) } with
    clusters := [(0, { Cluster.reset with owner := some 1, l2 := [codeLeaf] })] }

theorem witness_TlbInvalidation :
    (∃ (s : State) (a b : GReg), (s.g a).toNat < 2 ^ 56 ∧ (s.g a).toNat + (s.g b).toNat ≤ 2 ^ 64 ∧
      (s.cluster (s.hereCid / 8)).owner = some s.cx ∧ (s.cluster (s.hereCid / 8)).l2 = [codeLeaf] ∧
      (∀ x ∈ s.clusters, x.2.ulines = []) ∧ ∀ c ∈ s.coreIds, ∀ i, i < 8 → ((s.core c).slot i).wait = none) ∧
    (∃ (s : State) (a b : GReg), (s.g a).toNat < 2 ^ 56 ∧ (s.g a).toNat + (s.g b).toNat ≤ 2 ^ 64 ∧ 0 ∈ s.coreIds ∧
      s.cxOf 0 = some s.cx ∧ ((s.core 0).slot 1).held = true ∧ ((s.core 0).slot 1).reply = none ∧
      ((s.core 0).slot 1).wait = some (.waita (.phys 0x20008) true 5 3 none 0x10008) ∧
      s.walk s.cx 0x10008 = .leaf codeLeaf ∧ codeLeaf.pa + (0x10008 - codeLeaf.va) ≠ 0x20008) ∧
    (∃ (s : State) (a b : GReg), 2 ^ 56 ≤ (s.g a).toNat ∨ 2 ^ 64 < (s.g a).toNat + (s.g b).toNat) :=
  ⟨⟨{ rg tb [(2, 0x10000), (3, 0x10000)] with clusters := [(0, { Cluster.reset with owner := some 1, l2 := [codeLeaf] })] }, 2, 3,
      by decide +kernel⟩,
    ⟨strayState, 2, 3, by decide +kernel⟩, ⟨rg tb [(2, 0x100000000000000)], 2, 3, by decide +kernel⟩⟩

/-- R380: TLBI drops its entry and stays at A while a WAITA of the context waits where its address no longer leads. -/
theorem test_tlbi_waits : (after (exec (.tlbi false 2 3) strayState)).ws.pc = placeVa ∧
    ((after (exec (.tlbi false 2 3) strayState)).cluster 0).l2 = [] ∧
    (after (exec (.tlbi false 2 3) (slotAs strayState 1 fun t => { t with reply := some 5 }))).ws.pc = placeVa + 2 := by
  decide +kernel

theorem witness_SystemRegisterWrites : ∀ n ∈ [0x000, 0x021, 0x026, 0x031, 0x036, 0x039, 0x03E, 0x007, 0x7FF],
    (BitVec.ofNat 12 n).toNat < 0x800 ∧ BitVec.ofNat 12 n ∉ [0x002#12, 0x003#12, 0x008#12, 0x009#12, 0x00A#12, 0x011#12, 0x012#12,
      0x014#12, 0x015#12, 0x016#12, 0x017#12, 0x043#12, 0x044#12] := by decide

/-! ### Vector instructions -/

/-- A task with a save area for sixteen tiles and a shape. -/
def vecState (ty cols rows : Nat) : State :=
  slotAs tb 0 fun t => { t with ws := { t.ws with
    vshape := BitVec.ofNat 24 (ty * 2 ^ 20 + (cols - 1) * 2 ^ 10 + (rows - 1))
    vsd := { t.ws.vsd with vsa := 0x40, vcap := 16 } } }

theorem tile_ready {s : State} {mask : KReg} {d : VReg}
    (h : (mask = 0 ∨ s.shape.count ≤ 1024) ∧ s.ws.vsd.tileOk d.toNat = true) : s.TileReady mask d := h

theorem tile_open {s : State} {mask : KReg} {d : VReg}
    (h : (mask = 0 ∨ s.shape.count ≤ 1024) ∧ (s.anyLit mask = true → s.ws.vsd.tileOk d.toNat = true)) : s.TileOpen mask d := h

/-- The same state with mask register k1. -/
def withK1 (s : State) (m : Mask) : State :=
  coreAs (slotAs s 0 fun t => { t with ws := { t.ws with vsd := { t.ws.vsd with vhome := true, kused := 2 } } }) fun c =>
    { c with masks := c.masks.set 1 m }

/-- The same task without a save area, with rows of 64 bytes in the LM. -/
def bareState (ty cols rows : Nat) : State :=
  slotAs (rg (vecState ty cols rows) [(2, lmAt 0x8000), (3, 64)]) 0 fun t => { t with ws := { t.ws with
    vsd := { t.ws.vsd with vsa := 0 } } }

theorem witness_ElementArithmetic :
    (∃ (s : State) (m : VMod) (d : VReg) (f : Fmt), s.shape.ty.arith = true ∧ s.TileOpen m.mask d ∧ s.anyLit m.mask = true ∧
      s.shape.ty.fmt = some f) ∧
    (∃ (s : State) (m : VMod) (d : VReg), s.shape.ty.arith = true ∧ s.TileOpen m.mask d ∧ s.anyLit m.mask = false ∧
      s.ws.vsd.tileOk d.toNat = false ∧ s.shape.ty.int = some (s.shape.ty.bits, true)) :=
  ⟨⟨vecState 0 16 16, { mask := 0, round := .rup, sat := false }, 15, fp32, by decide +kernel,
      tile_open (by decide +kernel), by decide +kernel⟩,
    ⟨bareState 4 32 32, { mask := 1, round := .rne, sat := true }, 0, by decide +kernel, tile_open (by decide +kernel),
      by decide +kernel⟩⟩

theorem witness_ElementDivisionAndSelection :
    (∃ (s : State) (m : VMod) (d : VReg) (f : Fmt), s.shape.ty.arith = true ∧ s.TileOpen m.mask d ∧
      s.shape.ty.fmt = some f ∧ s.shape.count ≤ 1024 ∧ s.ws.vsd.tileOk d.toNat = true) ∧
    (∃ (s : State) (m : VMod) (d : VReg), s.shape.ty.arith = true ∧ s.TileOpen m.mask d ∧
      s.shape.ty.int = some (s.shape.ty.bits, false)) :=
  ⟨⟨vecState 1 8 2, { mask := 1, round := .rup, sat := false }, 15, fp16, by decide +kernel,
      tile_open (by decide +kernel), by decide +kernel⟩,
    ⟨vecState 9 4 4, { mask := 0, round := .rne, sat := true }, 0, by decide +kernel, tile_open (by decide +kernel),
      by decide +kernel⟩⟩

theorem witness_ComparesAndFills :
    (∃ (s : State) (f : Fmt), s.shape.ty.arith = true ∧ s.shape.count ≤ 1024 ∧ s.ws.vsd.vsa ≠ 0 ∧ s.shape.ty.fmt = some f) ∧
    (∃ (s : State) (p : VPred), s.shape.ty.arith = true ∧ s.shape.count ≤ 1024 ∧ s.ws.vsd.vsa ≠ 0 ∧
      s.shape.ty.int = some (s.shape.ty.bits, true) ∧ p ≠ .un ∧ p ≠ .ord ∧ s.shape.ty.fmt = none) ∧
    (∃ (s : State) (mask : KReg) (d : VReg), s.TileOpen mask d ∧ s.shape.ty ≠ .lx8) ∧
    (∀ x ∈ [((0xFF : Mask), none), (0x7F, some 0)],
      let s := withK1 (vecState 12 8 2) x.1
      let act := (List.range s.shape.count).filter (s.claim.lit 1)
      s.TileOpen 1 3 ∧ s.TileReady 0 3 ∧ s.shape.ty = .lx8 ∧ openGroup act s.shape.count = x.2) ∧
    (∀ ty ∈ [0, 3, 4, 10, 11, 12],
      let s := bareState ty 32 8
      let h := s.shape
      let act := (List.range h.count).filter (s.claim.lit 0)
      let base (r : Nat) : Word := s.g 2 + 0 + BitVec.ofNat 64 r * s.g 3
      s.ws.vsd.vsa = 0 ∧ s.ws.vsd.tileOk 3 = false ∧ s.anyLit 0 = true ∧ h.count ≤ 1024 ∧ h.count % 32 = 0 ∧ 3 ≤ h.cols ∧ h.cols % h.ty.pack = 0 ∧
        h.rows % 2 ^ 3 = 0 ∧ s.ws.resid.msb = false ∧ s.g 2 ≠ 0 ∧ (s.g 3).toNat < 2 ^ 31 ∧ s.g 3 ≠ 0 ∧
        (∀ r, r < 32 → (base r).toNat % h.ty.accBytes = 0) ∧ (h.ty.arith = true ↔ ty = 0 ∨ ty = 4) ∧
        (ty = 0 → h.ty = .f32 ∧ cvtOk h.ty .c8 = true) ∧ (ty = 3 → h.ty = .w19) ∧ (ty = 4 → h.ty = .i8) ∧
        (ty = 10 → h.ty = .fp4) ∧ (ty = 11 → h.ty = .c8) ∧ (ty = 12 → h.ty = .lx8 ∧ openGroup act h.count = none)) := by
  refine ⟨⟨vecState 0 16 16, fp32, by decide +kernel⟩, ⟨vecState 4 32 32, .gt, by decide +kernel⟩,
    ⟨vecState 11 32 32, 1, 3, tile_open (by decide +kernel), by decide +kernel⟩, fun x hx => ?_, by decide +kernel⟩
  simp only [List.mem_cons, List.not_mem_nil, or_false] at hx
  rcases hx with rfl | rfl <;>
    exact ⟨tile_open (by decide +kernel), tile_ready (by decide +kernel), by decide +kernel⟩

theorem witness_VectorReductions :
    (∃ (s : State) (m : VMod) (d : VReg), s.shape.ty.arith = true ∧ s.TileReady m.mask d) ∧
    (∃ (s s' s'' : State) (d : VReg) (q : QReg) (b : GReg), (∀ x ∈ [s, s', s''], x.shape.ty = .f32 ∧ x.shape.count % 2 = 0 ∧
      x.ws.resid.msb = false ∧ (x.g b).toNat < 2 ^ 31 ∧ x.ws.vsd.tileOk d.toNat = true) ∧ (s.g b).toNat = 0 ∧
      (0 < (s'.g b).toNat ∧ (s'.g b).toNat ≤ (s'.queue q).length) ∧ s''.queue q ≠ [] ∧
      (s''.queue q).length < (s''.g b).toNat) ∧
    (∃ (s : State) (d : VReg) (q : QReg) (b : GReg), s.shape.ty = .f32 ∧ s.shape.count % 2 = 0 ∧ s.ws.resid.msb = false ∧
      (s.g b).toNat < 2 ^ 31 ∧ s.ws.vsd.tileOk d.toNat = true ∧ s.queue q = [] ∧ 0 < (s.g b).toNat) :=
  ⟨⟨vecState 0 4 4, { mask := 2, round := .rne, sat := false }, 3, by decide +kernel, tile_ready (by decide +kernel)⟩,
    ⟨vecState 0 4 4, (rg (vecState 0 4 4) [(2, 2)]).setQueue 0 [1, 2], (rg (vecState 0 4 4) [(2, 3)]).setQueue 0 [1, 2],
      3, 0, 2, by decide +kernel⟩,
    ⟨rg (vecState 0 4 4) [(2, 3)], 3, 0, 2, by decide +kernel⟩⟩

/-- A tile of two rows of two f32 in the LM, 64 bytes apart. -/
def loadState : State := rg (vecState 0 2 2) [(2, lmAt 0x8000), (3, 64)]
def tileLoads : List TileAcc := rowAccesses loadState.shape (loadState.g 2) (loadState.g 3) 0
def columnLoads : List TileAcc := transposedAccesses loadState.shape (loadState.g 2) (loadState.g 3) 0
def loaded (l : List TileAcc) : Tile × State :=
  okOf (loadState.claim.loadTileAccs loadState.shape.ty
    (fun e => ((List.range loadState.shape.count).filter (loadState.claim.lit 0)).contains e)
    (l.filter fun x => x.elems.any fun e =>
      ((List.range loadState.shape.count).filter (loadState.claim.lit 0)).contains e) (loadState.claim.tile 1)) (0, loadState)

/-- The access may be made, computed. -/
def goodB (v : State) (y : Acc × Word × Nat) : Bool :=
  decide (¬ (isLocal y.2.1 = true ∧ winSel y.2.1 = 0 ∧ winOff y.2.1 < 0x1000)) &&
  match v.resolve y.1 y.2.1 y.2.2 with
  | .ok (.mqw _, _) => false
  | .ok _ => true
  | .error _ => false

theorem good_of {v : State} {y : Acc × Word × Nat} (h : goodB v y = true) :
    ¬ (isLocal y.2.1 = true ∧ winSel y.2.1 = 0 ∧ winOff y.2.1 < 0x1000) ∧
      ∃ p, v.resolve y.1 y.2.1 y.2.2 = .ok p ∧ ∀ o, p.1 ≠ .mqw o := by
  unfold goodB at h
  rw [Bool.and_eq_true, decide_eq_true_eq] at h
  refine ⟨h.1, ?_⟩
  have h := h.2
  split at h
  · cases h
  · rename_i p hn hp
    exact ⟨p, hp, fun o ho => hn o p.2 (by rw [← ho])⟩
  · cases h

theorem witness_TileMoves :
    (let s := loadState
     let h := s.shape
     let v := s.claim
     let act := (List.range h.count).filter (v.lit 0)
     let row (r : Nat) : Word := s.g 2 + 0 + BitVec.ofNat 64 r * s.g 3
     let accs (l : List TileAcc) := l.filter fun x => x.elems.any fun e => act.contains e
     let loads (l : List TileAcc) : List (Acc × Word × Nat) := (accs l).map fun x => (.load, x.addr, x.bytes)
     let stores (l : List TileAcc) : List (Acc × Word × Nat) :=
       (accs l).flatMap fun x => x.storeAccs h.ty fun e => act.contains e
     s.TileOpen 0 1 ∧ act ≠ [] ∧
     (∀ y ∈ loads tileLoads ++ loads columnLoads ++ stores tileLoads,
       ¬ (isLocal y.2.1 = true ∧ winSel y.2.1 = 0 ∧ winOff y.2.1 < 0x1000) ∧ ∃ p, v.resolve y.1 y.2.1 y.2.2 = .ok p ∧ ∀ o, p.1 ≠ .mqw o) ∧
     ((2 : GReg).getLsbD 0 = false ∧ h.cols % h.ty.pack = 0 ∧ h.ty ≠ .lx8 ∧ h.ty ≠ .fp4) ∧
     (∀ r, r < 2 → (row r).toNat % h.ty.accBytes = 0) ∧ h.rows = 2 ∧ h.cols = 2 ∧
     v.loadTileAccs h.ty (fun e => act.contains e) (accs tileLoads) (v.tile 1) = .ok (loaded tileLoads) ∧
     (v.storeTileAccs h.ty (fun e => act.contains e) (v.tile 1) (accs tileLoads)).isOk = true ∧
     v.loadTileAccs h.ty (fun e => act.contains e) (accs columnLoads) (v.tile 1) = .ok (loaded columnLoads)) ∧
    -- the second row lies beyond the LM
    (let s := rg (vecState 0 2 2) [(2, lmAt 0xBFF8), (3, 8)]
     let v := s.claim
     let l := rowAccesses s.shape (s.g 2) (s.g 3) 0
     ∀ acc ∈ [Acc.load, Acc.store], v.resolve acc (lmAt 0xC000) 4 = .error (.trap .xlate (lmAt 0xC000)) ∧
       (acc, lmAt 0xC000, 4) ∈ l.map (fun x => (acc, x.addr, x.bytes)) ∧
       ∀ z ∈ l.map (fun x => (acc, x.addr, x.bytes)), z.2.1.toNat ≤ (lmAt 0xC000).toNat →
         z = (acc, lmAt 0xC000, 4) ∨ (¬ (isLocal z.2.1 = true ∧ winSel z.2.1 = 0 ∧ winOff z.2.1 < 0x1000) ∧
           ∃ p, v.resolve z.1 z.2.1 z.2.2 = .ok p ∧ ∀ o, p.1 ≠ .mqw o)) ∧
    -- an address in the task's own workspace, and one in the command window
    (let v := (vecState 0 2 2).claim
     (isLocal (lmAt 320) = true ∧ winSel (lmAt 320) = 0 ∧ winOff (lmAt 320) < 0x1000) ∧
       ∃ u, v.resolve .load (mqwAt 0x40) 4 = .ok (.mqw 0x40, u)) ∧
    (∃ (s : State) (place : Word → Loc),
      let h := s.shape
      let v := s.claim
      let at' (r c : Nat) : Word := s.g 2 + 0 + BitVec.ofNat 64 r * s.g 3 + BitVec.ofNat 64 (c * h.ty.accBytes)
      s.TileOpen 0 1 ∧ (h.ty.pack = 1 ∧ h.rows = 2 ∧ h.cols = 2 ∧
        ∀ r, r < 2 → (at' r 0).toNat % h.ty.accBytes = 0) ∧
        ∀ r, r < 2 → ∀ c, c < 2 → isLocal (at' r c) = true ∧ (winSel (at' r c) = 0 → 0x1000 ≤ winOff (at' r c)) ∧
          v.resolve .load (at' r c) h.ty.accBytes = .ok (place (at' r c), v) ∧ (∀ o, place (at' r c) ≠ .mqw o) ∧
          v.holders ((place (at' r c)).lines h.ty.accBytes) = [] ∧ v.sound (place (at' r c)) = true) := by
  refine ⟨⟨tile_open (by decide +kernel), by decide +kernel, fun y hy => good_of ?_, by decide +kernel⟩, ?_,
    ⟨by decide +kernel, _, rfl⟩, ⟨loadState, fun x => .lm 0 (winOff x), tile_open (by decide +kernel), by decide +kernel, ?_⟩⟩
  · revert y
    decide +kernel
  · intro s v l acc hacc
    have h : ∀ acc ∈ [Acc.load, Acc.store], v.resolve acc (lmAt 0xC000) 4 = .error (.trap .xlate (lmAt 0xC000)) ∧
        (acc, lmAt 0xC000, 4) ∈ l.map (fun x => (acc, x.addr, x.bytes)) ∧
        ∀ z ∈ l.map (fun x => (acc, x.addr, x.bytes)), z.2.1.toNat ≤ (lmAt 0xC000).toNat →
          z = (acc, lmAt 0xC000, 4) ∨ goodB v z = true := by decide +kernel
    exact ⟨(h acc hacc).1, (h acc hacc).2.1, fun z hz hle => ((h acc hacc).2.2 z hz hle).imp id good_of⟩
  · have h : ∀ r, r < 2 → ∀ c, c < 2 →
        let a : Word := loadState.g 2 + 0 + BitVec.ofNat 64 r * loadState.g 3 + BitVec.ofNat 64 (c * loadState.shape.ty.accBytes)
        isLocal a = true ∧ (winSel a = 0 → 0x1000 ≤ winOff a) ∧ loadState.claim.resolve .load a loadState.shape.ty.accBytes = .ok (.lm 0 (winOff a), loadState.claim) ∧
          loadState.claim.holders ((Loc.lm 0 (winOff a)).lines loadState.shape.ty.accBytes) = [] ∧
          loadState.claim.sound (.lm 0 (winOff a)) = true := by decide +kernel
    exact fun r hr c hc => ⟨(h r hr c hc).1, (h r hr c hc).2.1, (h r hr c hc).2.2.1, lm_not_mqw _ _, (h r hr c hc).2.2.2⟩

/-- R152: VLD of the task's own workspace traps PERM at its lowest address. -/
theorem test_vld_own_workspace : (after (exec (.vld 0 1 2 0) (rg (vecState 0 2 2) [(2, lmAt 8), (3, 0)]))).ws.tsw.cause = .perm ∧
    (after (exec (.vld 0 1 2 0) (rg (vecState 0 2 2) [(2, lmAt 8), (3, 0)]))).ws.trinfo = lmAt 8 := by decide +kernel

/-- R144: a vector instruction that traps has moved the vector unit to its task all the same. -/
theorem test_vclr_moves_the_unit :
    (let s := slotAs tb 1 fun t => { t with held := true, ws := { t.ws with vsd := { t.ws.vsd with vhome := true } } }
     let t := (after (step (turnState s 0x3A03F880))).here
     (t.slot 0).ws.tsw.cause = .perm ∧ (t.slot 0).ws.vsd.vhome = true ∧ (t.slot 1).ws.vsd.vhome = false) := by decide +kernel

theorem witness_SpecialFunctions :
    (∃ (s : State) (d : VReg), s.TileReady 0 d ∧ s.shape.ty = .f32 ∧ 3 ≤ s.shape.cols) ∧
    (∃ (s : State) (d : VReg) (f : Fmt) (g : BitVec 3) (st : Sat), s.TileReady 0 d ∧ s.shape.ty.fmt = some f ∧ g.toNat < 5 ∧
      s.shape.rows % 2 ^ g.toNat = 0 ∧ st ≠ .inf) ∧
    (∃ (s : State) (d : VReg), s.TileReady 0 d ∧ s.shape.ty.fmt = none) :=
  ⟨⟨vecState 0 3 2, 1, tile_ready (by decide +kernel), by decide +kernel⟩,
    ⟨vecState 2 8 16, 1, bf16, 4, .wrap, tile_ready (by decide +kernel), by decide +kernel⟩,
    ⟨vecState 4 8 16, 1, tile_ready (by decide +kernel), by decide +kernel⟩⟩

/-- Shapes and targets that VCVT takes and that it refuses, the table field being 1 in the third. -/
theorem witness_Conversions :
    (∀ x ∈ [((0, 16, 16), VTarget.c8, (1 : BitVec 2), true, true), ((12, 8, 2), .f32, 0, true, true),
        ((0, 16, 16), .f16, 1, false, true), ((13, 8, 2), .fp4, 0, true, false)],
      let s := vecState x.1.1 x.1.2.1 x.1.2.2
      let ok : Bool := satOk x.2.1 .sat && (s.shape.ty == .c8 || x.2.1 == .c8 || x.2.2.1 == 0) &&
        decide ((targetElem x.2.1).bytes s.shape.count ≤ 1024)
      s.TileReady 0 15 ∧ ok = x.2.2.2.1 ∧ cvtOk s.shape.ty x.2.1 = x.2.2.2.2 ∧ (s.shape.ty = .lx8 ↔ x.1.1 = 12)) ∧
    (∀ x ∈ [(2, VTarget.fp4), (11, .f16)],
      let s := vecState x.1 32 2
      s.TileReady 0 14 ∧ satOk x.2 .sat = true ∧ (targetElem x.2).bytes s.shape.count ≤ 1024 ∧ s.shape.count % 32 = 0 ∧
        (s.shape.ty.fmt.isSome = true ↔ x.1 = 2) ∧ (s.shape.ty = .c8 ↔ x.1 = 11) ∧
        (s.withTile 14 0).ws.vsd.tileOk ((14 : VReg) + 1).toNat = true) := by
  constructor <;> intro x hx <;> simp only [List.mem_cons, List.not_mem_nil, or_false] at hx
  · rcases hx with rfl | rfl | rfl | rfl <;> exact ⟨tile_ready (by decide +kernel), by decide +kernel⟩
  · rcases hx with rfl | rfl <;> exact ⟨tile_ready (by decide +kernel), by decide +kernel⟩

theorem witness_LatticeCodes :
    (∃ (s : State) (d : VReg), s.TileReady 0 d ∧ s.shape.ty = .w19) ∧ (∃ (s : State) (d : VReg), s.TileReady 0 d ∧ s.shape.ty = .i8) ∧
    (∃ (s : State) (d : VReg) (f : Fmt), s.TileReady 0 d ∧ s.shape.ty.fmt = some f) :=
  ⟨⟨vecState 3 16 16, 15, tile_ready (by decide +kernel), by decide +kernel⟩,
    ⟨vecState 4 8 2, 1, tile_ready (by decide +kernel), by decide +kernel⟩,
    ⟨vecState 1 8 2, 1, fp16, tile_ready (by decide +kernel), by decide +kernel⟩⟩

/-- A table image of zeros in the LM with an attribute word. -/
def imageState (attr : Nat) : State :=
  coreAs (rg tb [(2, lmAt 0x1000)]) fun c => { c with lm := c.lm.writeN 0x1400 8 attr }
def imageOf (attr : BitVec 27) : CodeTable :=
  .image ((List.replicate 128 0).flatMap fun w => [BitVec.ofNat 19 (w / 2 ^ 13), BitVec.ofNat 19 (w / 2 ^ 45)]) attr

theorem witness_CodeTables :
    ((imageState 0).g 2 + 0).toNat % 8 = 0 ∧
    (imageState 0).loadWords 8 129 ((imageState 0).g 2 + 0) = .ok (List.replicate 129 0, imageState 0) ∧
    attrClash 0 = false ∧ (imageOf 0).finite ≠ [] ∧
    -- NaN and -inf are both code 0
    (imageState 0x4000100).loadWords 8 129 ((imageState 0x4000100).g 2 + 0) =
      .ok (List.replicate 128 0 ++ [0x4000100], imageState 0x4000100) ∧
    attrClash 0x4000100 = true :=
  by decide +kernel

/-- A descriptor of 2 rows of 2 bytes at a stride of 2, for partner p. -/
def castleDesc (p : Nat) : Word := BitVec.ofNat 64 (p + 0x100 + 0x10000 + 2 * 2 ^ 32)
/-- Core 0 issues CASTLE with core 1, whose task in slot 0 waits in its own with a descriptor, or not. -/
def castleState (w : Option Word) : State :=
  { rg tb [(2, lmAt 0x1000), (3, castleDesc 1)] with
    others := match w with
      | some x => [(1, { Core.reset with slots := Core.reset.slots.set 0 { Slot.reset with
          held := true, wait := some (.castle 0 0x2000 x) } })]
      | none => [] }
/-- No task beside slot k of core 1 waits in a CASTLE. -/
theorem castle_alone {s : State} {k : Nat} (h : ∀ i, i < 8 → i ≠ k → ((s.core 1).slot i).wait = none) (i : Nat)
    (hi : i ≠ k) (q : BitVec 3) (x : Nat) (y : Word) : ((s.core 1).slot i).wait ≠ some (.castle q x y) := by
  intro e
  by_cases h8 : i < 8
  · rw [h i h8 hi] at e
    cases e
  · rw [slot_beyond _ _ h8] at e
    cases e

/-- A partner that waits with the same descriptor, with another, and none. -/
theorem witness_CastleExchange : ∀ w ∈ [some (castleDesc 0), some (castleDesc 0 + 0x100), none],
    let s := castleState w
    (castleOk (s.g 3) = true ∧ (s.g 3).toNat % 8 ≠ s.hereCid % 8 ∧ (s.g 2).toNat % castleSize (s.g 3) = 0 ∧
      castleStride (s.g 3) % castleSize (s.g 3) = 0 ∧ isLocal (s.g 2) = true ∧ winSel (s.g 2) = 0 ∧
      winOff (s.g 2) + castleSpan (s.g 3) ≤ 0xC000 ∧
      (∀ x, x ∈ castleRowsAt (winOff (s.g 2)) (s.g 3) → s.here.reserved x (castleRowBytes (s.g 3)) = false ∧
        s.here.onCounter x (castleRowBytes (s.g 3)) = false) ∧
      s.holders (castleLines 0 (winOff (s.g 2)) (s.g 3)) = [] ∧ s.damaged = []) ∧
    s.Canonical ∧ (∀ i, i ≠ 0 → ∀ q x y, ((s.core 1).slot i).wait ≠ some (.castle q x y)) ∧
    (w = none → ∀ q x y, ((s.core 1).slot 0).wait ≠ some (.castle q x y)) ∧
    ∀ d, w = some d → ((s.core 1).slot 0).held = true ∧
      ((s.core 1).slot 0).wait = some (.castle (BitVec.ofNat 3 s.hereCid) 0x2000 d) ∧
      (s.g 3 / 8 = d / 8 ↔ d = castleDesc 0) ∧ s.holders (castleLines 1 0x2000 d) = [] := by
  intro w hw
  simp only [List.mem_cons, List.not_mem_nil, or_false] at hw
  rcases hw with rfl | rfl | rfl
  · exact ⟨by decide +kernel, canonical_of_ok (by decide +kernel), castle_alone (by decide +kernel), fun h => (by cases h),
      fun d h => (by cases h; decide +kernel)⟩
  · exact ⟨by decide +kernel, canonical_of_ok (by decide +kernel), castle_alone (by decide +kernel), fun h => (by cases h),
      fun d h => (by cases h; decide +kernel)⟩
  · refine ⟨by decide +kernel, canonical_of_ok (by decide +kernel), castle_alone (by decide +kernel),
      fun _ => ?_, fun d h => (by cases h)⟩
    have : ((castleState none).core 1).slot 0 = Slot.reset := by decide +kernel
    rw [this]
    intro q x y h
    cases h
/-! ### Copies and premoves -/

def copyOf (src dst : Word) (len : Nat) (f : Option (Nat × Cause)) : Transfer :=
  { gather := false, src := src, dst := dst, len := len, row := 0, limit := 0, list := 0, pos := 0, cur := none, fault := f,
    reported := false, listReported := false, slot := 0 }
def gatherOf (limit : Nat) : Transfer :=
  { gather := true, src := lmAt 0x4000, dst := lmAt 0x2000, len := 16, row := 8, limit := limit, list := lmAt 0x3000, pos := 0,
    cur := none, fault := none, reported := false, listReported := false, slot := 0 }
/-- Channel 1 has transfers in flight. -/
def flying (s : State) (l : List Transfer) : State := coreAs s fun c => c.setChan 1 { c.chan 1 with flight := l }

def copyState : State := rg tb [(1, 64), (2, 0x10000), (3, lmAt 0x2000)]
theorem destFree_of {s : State} {dst : Word} {n : Nat} {l : Loc} (h : s.window s.hereCid dst = some l)
    (hq : s.ownQ s.hereCid s.here.cur.val (l.lines n) = false) : s.DestFree dst n := by
  intro l' h'
  rw [h] at h'
  cases h'
  exact hq

/-- CPYG of 2 rows of 8 bytes from a table of 16 rows at a, its list in the LM. -/
def tableAt (a : Word) : State := rg tb [(1, 2), (2, a), (3, 16 * 2 ^ 32 + 8), (4, lmAt 0x2000), (5, lmAt 0x3000)]

theorem witness_CopiesStart :
    (∃ (s : State) (d a b : GReg), ((s.g d).toNat ≤ 2 ^ 24 ∧ (s.g d).toNat % 4 = 0 ∧ (s.g a).toNat % 4 = 0 ∧
      (s.g b).toNat % 4 = 0 ∧ s.engineCheck false (s.g a) (s.g d).toNat = .ok () ∧
      s.engineCheck true (s.g b) (s.g d).toNat = .ok ()) ∧ s.DestFree (s.g b) (s.g d).toNat ∧ (s.g d).toNat ≠ 0 ∧
      (s.here.chan 1).flight.length < 32 ∧ 32 ≤ ((flying s (List.replicate 32 (gatherOf 1))).here.chan 1).flight.length) ∧
    (∀ x ∈ [(0x10000, true, false), (lmAt 0x1000, false, true), (0xFF04000000000000, false, false), (lmAt 0xC000, false, false)],
      let s := tableAt x.1
      let row := (s.g 3).toNat % 2 ^ 32
      let n := (s.g 1).toNat
      let list := s.g 5
      (row % 4 = 0 ∧ row ≠ 0 ∧ row ≤ 65536 ∧ n ≤ 65536 ∧
        n * row ≤ 2 ^ 24 ∧ (s.g 2).toNat % 4 = 0 ∧ (s.g 4).toNat % 4 = 0 ∧ list.toNat % 4 = 0 ∧
        isGlobal (s.g 2) = x.2.1 ∧
        (x.2.2 = true ↔ isLocal (s.g 2) = true ∧ winOff (s.g 2) + 1 ≤ s.extent s.hereCid (winSel (s.g 2))) ∧
        s.engineCheck true (s.g 4) (n * row) = .ok () ∧ isLocal list = true ∧
        winSel list ≤ 1 ∧ s.engineCheck false list (4 * n) = .ok () ∧ n * row ≠ 0) ∧ s.DestFree (s.g 4) (n * row)) ∧
    (∃ (s : State) (a b c : GReg), (s.g a).toNat < 2 ^ 48 ∧ (s.g b).toNat < 2 ^ 48 ∧ 2 ^ 48 ≤ (s.g c).toNat ∧
      ((s.here.chan 1).bytes - BitVec.ofNat 48 (s.g a).toNat).toNat < 2 ^ 47 ∧
      2 ^ 47 ≤ ((s.here.chan 1).bytes - BitVec.ofNat 48 (s.g b).toNat).toNat) := by
  refine ⟨⟨copyState, 1, 2, 3, by decide +kernel, destFree_of (l := .lm 0 0x2000) (by decide +kernel) (by decide +kernel),
      by decide +kernel⟩, fun x hx => ?_, ⟨rg tb [(2, 0), (3, 1), (4, 2 ^ 48)], 2, 3, 4, by decide +kernel⟩⟩
  simp only [List.mem_cons, List.not_mem_nil, or_false] at hx
  rcases hx with rfl | rfl | rfl | rfl <;>
    exact ⟨by decide +kernel, destFree_of (l := .lm 0 0x2000) (by decide +kernel) (by decide +kernel)⟩

def copyFlight : State := flying tb [copyOf (lmAt 0x3000) (lmAt 0x2000) 4 none]

theorem open_lm {s : State} {c o : Nat} (h : uncachedOk s = true) (hh : s.holders ((Loc.lm c o).lines 4) = [])
    (ho : o % 64 + 4 ≤ 64) : s.Open (.lm c o) := ⟨lm_not_mqw _ _, uncached_of_ok h _, hh, ho⟩

theorem witness_EngineDeliveries :
    (∃ (s : State) (x : Transfer) (rest : List Transfer) (ls ld : Loc), s.Canonical ∧ s.Open ls ∧ s.Open ld ∧ ld.plain ∧
      ((s.core 0).chan 1).flight = x :: rest ∧ x.gather = false ∧ x.fault = none ∧ s.sound ls = true ∧
      s.engineLoc 0 .load (x.src + BitVec.ofNat 64 x.pos) = .ok (ls, s) ∧
      s.engineLoc 0 .store (x.dst + BitVec.ofNat 64 x.pos) = .ok (ld, s)) ∧
    (∃ (s : State) (x : Transfer) (rest : List Transfer) (e : XErr), ((s.core 0).chan 1).flight = x :: rest ∧
      x.gather = false ∧ x.fault = none ∧ s.engineLoc 0 .load (x.src + BitVec.ofNat 64 x.pos) = .error e) ∧
    (∀ limit ∈ [1, 0], ∃ (s : State) (x : Transfer) (rest : List Transfer) (ls ld li : Loc),
      let idx := x.cur.getD (s.bytesAt li 4)
      s.Canonical ∧ s.Open ls ∧ s.Open ld ∧ ld.plain ∧
      ((s.core 0).chan 1).flight = x :: rest ∧ x.gather = true ∧ x.fault = none ∧ s.damaged = [] ∧ s.sound li = true ∧ s.sound ls = true ∧
      s.window 0 (x.list + BitVec.ofNat 64 (4 * (x.pos / x.row))) = some li ∧ s.holders (li.lines 4) = [] ∧
      (if limit = 1 then idx < x.limit else x.limit ≤ idx) ∧
      s.engineLoc 0 .load (x.src + BitVec.ofNat 64 (idx * x.row + x.pos % x.row)) = .ok (ls, s) ∧
      s.engineLoc 0 .store (x.dst + BitVec.ofNat 64 x.pos) = .ok (ld, s)) := by
  refine ⟨⟨copyFlight, copyOf (lmAt 0x3000) (lmAt 0x2000) 4 none, [], .lm 0 0x3000, .lm 0 0x2000,
      canonical_of_ok (by decide +kernel), open_lm (by decide +kernel) (by decide +kernel) (by decide),
      open_lm (by decide +kernel) (by decide +kernel) (by decide), by show Config.slotBytes ≤ 0x2000; decide, by decide +kernel⟩,
    ⟨flying tb [copyOf 0x40000 (lmAt 0x2000) 4 none], copyOf 0x40000 (lmAt 0x2000) 4 none, [], .xlate, by decide +kernel⟩, ?_⟩
  intro limit hl
  have hl : limit = 1 ∨ limit = 0 := by simpa using hl
  refine ⟨flying tb [gatherOf limit], gatherOf limit, [], .lm 0 0x4000, .lm 0 0x2000, .lm 0 0x3000, ?_, ?_, ?_, ?_, ?_⟩ <;>
    rcases hl with rfl | rfl
  all_goals first
    | decide +kernel
    | exact canonical_of_ok (by decide +kernel)
    | exact open_lm (by decide +kernel) (by decide +kernel) (by decide)
    | (show Config.slotBytes ≤ 0x2000; decide)

def waitingCopy : Transfer := copyOf 0x40000 (lmAt 0x2000) 4 (some (4, .xlate))

theorem witness_EngineFaults :
    (∀ now ∈ [2053, 2052], ∃ (s : State) (die t0 : Nat), (s.die die).window = some t0 ∧ s.now = now ∧
      (t0 + 2048 ≤ s.now ↔ now = 2053)) ∧
    (∃ (s : State) (x : Transfer) (page o : Nat), (0 ∈ s.coresOf 0 1 ∧ ((s.core 0).chan 1).flight = [x] ∧
      x.fault.map (·.1) = some page ∧ s.openTail 0 x = true ∧ s.coresOf 0 1 = [0] ∧ s.hereCid = 0 ∧
      (s.core 0).pageIns = [] ∧ (∀ i, i < 32 → ((s.core 0).ticket i).waitsAt page = false) ∧
      s.window 0 (x.dst + BitVec.ofNat 64 x.pos) = some (.lm 0 o) ∧ 0x1000 ≤ o ∧ o + (x.len - x.pos) ≤ 2 ^ 48 ∧
      (x.len - x.pos) % 4 = 0 ∧ s.damaged = [] ∧ s.holders ((Loc.lm 0 o).lines (x.len - x.pos)) = [] ∧ 8 ∉ s.coresOf 0 1) ∧
      s.Canonical ∧ ∀ k, k ≠ 1 → ((s.core 0).chan k).flight = []) := by
  refine ⟨fun n hn => ⟨{ tb with dies := [(0, { Die.reset with window := some 5 })], now := n }, 0, 5, rfl, rfl, ?_⟩,
    ⟨flying tb [waitingCopy], waitingCopy, 4, 0x2000, by decide +kernel, canonical_of_ok (by decide +kernel), fun k hk => ?_⟩⟩
  · simp only [List.mem_cons, List.not_mem_nil, or_false] at hn
    show 5 + 2048 ≤ n ↔ n = 2053
    omega
  · by_cases h8 : k < 8
    · have : ∀ k, k < 8 → k ≠ 1 → (((flying tb [waitingCopy]).core 0).chan k).flight = [] := by decide +kernel
      exact this k h8 hk
    · unfold Core.chan vget
      rw [dif_neg h8]
      rfl

theorem witness_Predictors :
    (∃ (s : State) (a b : GReg), (s.g a).toNat < 16 ∧ (s.g b).toNat < 2 ^ 44 ∧ (s.g b).toNat / 2 ^ 36 % 16 = 0) ∧
    (∃ (s : State) (a b : GReg), 16 ≤ (s.g a).toNat ∧ (s.g b).toNat / 2 ^ 36 % 16 ≠ 0) ∧
    (∃ (p : Pred) (cx : Nat) (key : BitVec 16), p.valid = true ∧ p.cx = cx ∧ p.tag.toNat = key.toNat / 16 ∧ 2 ≤ p.conf.toNat) ∧
    (∃ (p : Pred) (cx : Nat) (key : BitVec 16), p.valid = true ∧ p.cx = cx ∧ p.tag.toNat = key.toNat / 16 ∧ p.conf.toNat < 2) :=
  ⟨⟨rg tb [(2, 15), (3, 0x80F00000000)], 2, 3, by decide +kernel⟩, ⟨rg tb [(2, 16), (3, 0x1000000000)], 2, 3, by decide +kernel⟩,
    ⟨{ Pred.reset with valid := true, conf := 2, tag := 1, cx := 1 }, 1, 0x12, by decide⟩,
    ⟨{ Pred.reset with valid := true, conf := 1, tag := 1, cx := 1 }, 1, 0x12, by decide⟩⟩

/-- PMOVE of 64 bytes from rows of 64 at 0x10000 into the LM, key 0x12, over a page marked for speculation, with a
predictor entry of some confidence. -/
def premoveState (valid : Bool) (conf : BitVec 3) : State :=
  { coreAs (rg tb [(2, 0x10000), (3, 64 * 2 ^ 32 + 64), (4, lmAt 0x2000), (5, 0x12)]) fun c =>
      c.setPred 0 2 { valid := valid, conf := conf, tag := 1, index := 3, cx := 1 } with
    mem := tb.mem.writeN (placeRoot + 0x102008) 8 (placeVa + 0x3F) }

theorem witness_PremoveStarts :
    (∀ x ∈ [(false, 0), (true, 3), (true, 4)],
      let s := premoveState x.1 x.2
      let w := s.g 3
      let len := w.toNat % 2 ^ 17
      w.toNat / 2 ^ 17 % 2 ^ 15 = 0 ∧ (s.g 5).toNat < 2 ^ 16 ∧ 0 < len ∧ len ≤ 65536 ∧ len % 4 = 0 ∧ (s.g 2).toNat % 4 = 0 ∧
        (s.g 4).toNat % 4 = 0 ∧ s.ticketDst (s.g 4) len = .ok (.lm 0 0x2000) ∧ s.holders ((Loc.lm 0 0x2000).lines len) = [] ∧
        s.here.ownTickets s.here.cur.val = [] ∧ (s.here.ticket 0).state = .free ∧
        s.here.slotOf s.task.taskId = some s.here.cur.val ∧
        (s.here.pred 0 2).cx = s.cx ∧ (s.here.pred 0 2).tag.toNat = (s.g 5).toNat / 16 ∧ (s.here.pred 0 2).valid = x.1 ∧
        ((vget s.here.pth 0 0).toNat ≤ (s.here.pred 0 2).conf.toNat ↔ x.2 = 4)) ∧
    (∃ s : State, s.ticketDst (s.g 4) 64 = .ok (.lm 0 0x2000) ∧
      ∃ i ∈ s.here.ownTickets s.here.cur.val, ∃ y ∈ s.ticketLines s.hereCid (s.here.ticket i), y ∈ (Loc.lm 0 0x2000).lines 64) ∧
    ∀ va ∈ pageStarts 0x100C0 64, (premoveState true 4).PlainPage va := by
  refine ⟨by decide +kernel, ⟨coreAs (premoveState true 4) fun c => c.setTicket 9
    { Ticket.reset with state := .dry, len := 64, dst := lmAt 0x2020, owner := (premoveState true 4).task.taskId }, by decide +kernel⟩, ?_⟩
  have h : pageStarts 0x100C0 64 = [0x100C0] := by decide +kernel
  intro va hva
  rw [h] at hva
  simp only [List.mem_cons, List.not_mem_nil, or_false] at hva
  subst hva
  exact ⟨by decide, by decide +kernel, by decide +kernel, { codeLeaf with sp := true }, by decide +kernel⟩

/-- Entry 3 of the task's tickets. -/
def ticketState (t : Ticket) : State :=
  { coreAs (rg tb [(2, ticketHandle t.gen 3), (3, 3), (4, 2 ^ 24)]) fun c => c.setTicket 3 t with
    mem := tb.mem.writeN (placeRoot + 0x102008) 8 (placeVa + 0x3F) }
def specTicket : Ticket :=
  { Ticket.reset with state := .spec, gen := 9, key := 0x12, base := 0x10000, stride := 64, len := 64, dst := lmAt 0x2000,
                      pidx := 3, src := 0x100C0 }

theorem witness_PremoveEnds :
    (∃ (s : State) (a b : GReg) (i : Nat) (t : Ticket), s.ticketOf (s.g a) = some (i, t) ∧ t.state = .spec ∧
      (s.g b).toNat < 2 ^ 24 ∧ t.pidx = BitVec.ofNat 24 (s.g b).toNat ∧ t.fault = .none ∧
      s.here.slotOf s.task.taskId = some s.here.cur.val) ∧
    (∃ (s v : State) (a b : GReg) (i : Nat) (t : Ticket), s.ticketOf (s.g a) = some (i, t) ∧ t.state ≠ .exposing ∧
      (s.g b).toNat < 2 ^ 24 ∧ t.state ≠ .spec ∧
      s.demandCheck (pageStarts (t.base + BitVec.ofNat 64 ((s.g b).toNat * t.stride.toNat)).toNat t.len) = .ok v) ∧
    (∃ (s : State) (a b : GReg) (i : Nat) (t : Ticket), s.ticketOf (s.g a) = some (i, t) ∧ t.state = .spec ∧
      (s.g b).toNat < 2 ^ 24 ∧ t.pidx ≠ BitVec.ofNat 24 (s.g b).toNat ∧
      s.demandCheck (pageStarts (t.base + BitVec.ofNat 64 ((s.g b).toNat * t.stride.toNat)).toNat t.len) =
        .error (.trap .xlate 0x400C0)) ∧
    (∀ o ∈ [1, 0], ∃ (s : State) (a : GReg), s.ticketOf (s.g a) = none ∧ (s.here.ticket 3).owner = o) ∧
    (∃ (s : State) (a b : GReg) (i : Nat) (t : Ticket), s.ticketOf (s.g a) = some (i, t) ∧ t.state = .exposing ∧
      2 ^ 24 ≤ (s.g b).toNat) ∧
    (∃ (s : State) (a : GReg) (i o : Nat) (t : Ticket), (∀ l, s.window s.hereCid t.dst = some l → l.plain) ∧ s.Canonical ∧
      s.ticketOf (s.g a) = some (i, t) ∧ t.state = .spec ∧ s.window s.hereCid t.dst = some (.lm s.hereCid o) ∧ 0x1000 ≤ o ∧
      s.here.slotOf s.task.taskId = some s.here.cur.val) := by
  have hw : (ticketState specTicket).window (ticketState specTicket).hereCid specTicket.dst = some (.lm 0 0x2000) := by
    decide +kernel
  refine ⟨⟨ticketState specTicket, 2, 3, 3, specTicket, by decide +kernel⟩,
    ⟨ticketState { specTicket with state := .dry },
      okOf ((ticketState { specTicket with state := .dry }).demandCheck (pageStarts 0x100C0 64)) tb, 2, 3, 3,
      { specTicket with state := .dry }, by decide +kernel⟩,
    ⟨ticketState { specTicket with pidx := 2, base := 0x40000 }, 2, 3, 3, { specTicket with pidx := 2, base := 0x40000 },
      by decide +kernel⟩, fun o ho => ?_,
    ⟨ticketState { specTicket with state := .exposing }, 2, 4, 3, { specTicket with state := .exposing }, by decide +kernel⟩,
    ⟨ticketState specTicket, 2, 3, 0x2000, specTicket, fun l h => ?_, canonical_of_ok (by decide +kernel), by decide +kernel⟩⟩
  · simp only [List.mem_cons, List.not_mem_nil, or_false] at ho
    rcases ho with rfl | rfl
    · exact ⟨ticketState { specTicket with owner := 1 }, 2, by decide +kernel⟩
    · exact ⟨rg (ticketState specTicket) [(2, ticketHandle 8 3)], 2, by decide +kernel⟩
  · rw [hw] at h
    cases h
    show Config.slotBytes ≤ 0x2000
    decide

/-- The leaf over the placed page once it is marked for speculation. -/
def specLeaf : Leaf := { codeLeaf with sp := true }
/-- An older ticket of the core that is still to request. -/
def behindState : State := coreAs (ticketState { specTicket with no := 2 }) fun c => c.setTicket 1 { specTicket with no := 1 }
/-- A line in U state at the row. -/
def uState (t : Ticket) : State :=
  { ticketState t with clusters := tb.clusters.put 0 { tb.cluster 0 with
      ulines := [{ line := 0x403, kind := { op := some .add, w64 := true, signed := false }, contrib := [], src := 0 }] } }

theorem witness_Speculation_requests :
    (∀ s ∈ [ticketState specTicket, behindState, ticketState { specTicket with len := 65536 },
        uState specTicket, coreAs (ticketState specTicket) fun c => { c with specbud := 63 }],
      let c := s.core 0
      let t := c.ticket 3
      let a := t.src + BitVec.ofNat 64 t.asked
      t.state = .spec ∧ t.fault = .none ∧ t.asked < t.len ∧ isGlobal a = true ∧
        s.translations 0 ((s.cxOf 0).getD 0) a.toNat = [.leaf specLeaf]) ∧
    ((ticketState specTicket).core 0).inFlight + 64 ≤ 65536 ∧ (ticketState specTicket).uHeld (0x100C0 / 64) = false ∧
    (∀ j, j < 32 → j ≠ 3 → (((ticketState specTicket).core 0).ticket j).state ≠ .spec) ∧
    (∃ j, j < 32 ∧ ((behindState.core 0).ticket j).no < ((behindState.core 0).ticket 3).no ∧
      ((behindState.core 0).ticket j).state = .spec ∧ ((behindState.core 0).ticket j).fault = .none ∧
      ((behindState.core 0).ticket j).asked < ((behindState.core 0).ticket j).len ∧
      ((behindState.core 0).ticket j).chunk ((behindState.core 0).ticket j).asked ≤ (behindState.core 0).specbud.toNat) ∧
    (uState specTicket).uHeld (0x100C0 / 64) = true ∧ paKind (specLeaf.pa + (0x100C0 - specLeaf.va)) = .device := by
  decide +kernel

theorem witness_Speculation_arrivals :
    (∃ s : State, (s.core 0).strays.get 3 = some 64 ∧ ((s.core 0).ticket 3).state = .spec) ∧
    (∃ s : State, (s.core 0).strays.get 3 = none ∧ ((s.core 0).ticket 3).state = .spec ∧ ((s.core 0).ticket 3).fault = .none ∧
      ((s.core 0).ticket 3).got < ((s.core 0).ticket 3).asked ∧ ((s.core 0).ticket 3).got ∈ ((s.core 0).ticket 3).skipped) ∧
    (∀ s ∈ [ticketState { specTicket with asked := 64 }, uState { specTicket with asked := 64 }],
      let t := (s.core 0).ticket 3
      let a := t.src + BitVec.ofNat 64 t.got
      s.Canonical ∧ t.state = .spec ∧ t.fault = .none ∧ (s.core 0).strays.get 3 = none ∧ t.got < t.asked ∧ t.got ∉ t.skipped ∧
        s.translations 0 ((s.cxOf 0).getD 0) a.toNat = [.leaf specLeaf] ∧ specLeaf.rd = true ∧
        s.granted ((s.cxOf 0).getD 0) 0x100C0 = true ∧ s.damaged = []) ∧
    (ticketState { specTicket with asked := 64 }).uHeld (0x100C0 / 64) = false ∧
    (uState { specTicket with asked := 64 }).uHeld (0x100C0 / 64) = true ∧
    (∃ (s : State) (i : Nat) (l : Loc), s.Canonical ∧ (∀ o, l ≠ .mqw o) ∧ l.plain ∧ i < 32 ∧
      ((s.core 0).ticket i).state = .exposing ∧
      ((s.core 0).ticket i).fault = .none ∧ ((s.core 0).ticket i).len ≤ ((s.core 0).ticket i).got ∧
      s.window 0 ((s.core 0).ticket i).dst = some l ∧
      (∀ h ∈ s.holders (l.lines ((s.core 0).ticket i).len), h.1 = 0 ∧ h.2.1 = i) ∧ s.damaged = []) := by
  refine ⟨⟨coreAs (ticketState specTicket) fun c => { c with strays := [(3, 64)] }, by decide +kernel⟩,
    ⟨ticketState { specTicket with asked := 64, skipped := [0] }, by decide +kernel⟩, fun s hs => ?_,
    by decide +kernel, by decide +kernel,
    ⟨ticketState { specTicket with state := .exposing, got := 64, asked := 64 }, 3, .lm 0 0x2000,
      canonical_of_ok (by decide +kernel), lm_not_mqw _ _, by show Config.slotBytes ≤ 0x2000; decide, by decide +kernel⟩⟩
  simp only [List.mem_cons, List.not_mem_nil, or_false] at hs
  rcases hs with rfl | rfl <;> exact ⟨canonical_of_ok (by decide +kernel), by decide +kernel⟩

/-! ### The matrix unit, tasks, messages -/

/-- A command with the given fields, as (lowest bit, value). -/
def cmdOf (l : List (Nat × Nat)) : MxCmd :=
  { bits := BitVec.ofNat 512 (l.foldl (fun n x => n + x.2 * 2 ^ x.1) 0), seq := 7, slot := 0, act := 0,
    atab := .preset true, btab := .preset false }
/-- Core 0 with one command, its record at LM offset 0x2000 unless it names none. -/
def mxState (c : MxCmd) (f : Mx → Mx) : State := coreAs tb fun k => { k with mx := f { Mx.reset with queue := [c] } }
def recAt : Nat × Nat := (64, 0xFF00000000002000)
def bf16Latch : Latch := { Latch.reset with full := true, klen := 32, ncol := 1 }
def fmtCmd : MxCmd := cmdOf [(0, 6), recAt, (128, 2), (132, 2)]
def bloadCmd : MxCmd := cmdOf [(0, 2), recAt, (128, 0xFF00000000003000), (192, 1), (208, 32), (224, 64)]
/-- An LX8 column of 64 elements with its one scale. -/
def bloadLx8 : MxCmd :=
  cmdOf [(0, 2), recAt, (128, 0xFF00000000003000), (192, 1), (208, 64), (224, 16), (256, 0xFF00000000003100)]
def brotCmd : MxCmd := cmdOf [(0, 3), (8, 1), recAt, (129, 1)]
def mmaCmd : MxCmd := cmdOf [(0, 1), recAt, (128, 0xFF00000000003000), (192, 1), (224, 64)]
def accrdCmd : MxCmd :=
  cmdOf [(0, 4), (8, 1), recAt, (128, 0xFF00000000003000), (192, 2), (200, 2), (212, 1), (224, 64)]
def acczCmd : MxCmd := cmdOf [(0, 5), recAt, (128, 5)]
def fenceCmd : MxCmd := cmdOf [(0, 7), (8, 1), recAt]

theorem record_free {s : State} {c : MxCmd} {l : Loc} (h : s.mxRecord 0 c = some l ∧ s.holders (l.lines 8) = []) :
    ∀ l, s.mxRecord 0 c = some l → s.holders (l.lines 8) = [] := by
  intro l' h'
  rw [h.1] at h'
  cases h'
  exact h.2

theorem placed_free {s : State} {c : MxCmd} {l : Loc} (h : s.mxPlaced 0 c = some l ∧ s.holders (l.lines 8) = []) :
    ∀ l, s.mxPlaced 0 c = some l → s.holders (l.lines 8) = [] := by
  intro l' h'
  rw [h.1] at h'
  cases h'
  exact h.2

theorem heads_of {s : State} {c : MxCmd} {k : MxKind} {l : Loc}
    (h : (s.core 0).mx.queue = [c] ∧ c.kind = some k ∧ s.Found 0 c = 0 ∧ (s.core 0).mx.records = [] ∧ s.mxIsNext 0 = true)
    (hr : s.mxPlaced 0 c = some l ∧ s.holders (l.lines 8) = []) : s.Heads 0 c [] k :=
  ⟨h.1, h.2.1, h.2.2.1, h.2.2.2.1, h.2.2.2.2, placed_free hr⟩

theorem witness_MatrixUnit_push :
    (∀ a ∈ [(tb, 0), (mxState fmtCmd fun m => { m with queue := List.replicate 16 fmtCmd }, 16)],
      let at' := (rg a.1 [(2, 0xFF02000000000000 - 64)]).g 2 + 1 * 64
      at'.toNat % 64 = 0 ∧ isLocal at' = true ∧ winSel at' = 2 ∧ winOff at' = 0 ∧
        (a.1.releaseIf .rlx .core).here.mx.queue.length = a.2) ∧
    (∀ o ∈ [0x40, 0xFC0], (mqwAt o).toNat % 64 = 0 ∧ isLocal (mqwAt o) = true ∧ winSel (mqwAt o) = 2 ∧
      winOff (mqwAt o) = o ∧ winOff (mqwAt o) + 64 ≤ 0x1000 ∧ winOff (mqwAt o) ≠ 0) ∧
    (∀ o ∈ [0x40, 0x48, 0, 0xFF8], (mqwAt o).toNat % sizeBytes .n64 = 0 ∧ isLocal (mqwAt o) = true ∧ winSel (mqwAt o) = 2 ∧
      winOff (mqwAt o) = o ∧ winOff (mqwAt o) + sizeBytes .n64 ≤ 0x1000) ∧ sizeBytes .n32 ≠ 8 := by decide +kernel

/-- What the checks find: an unknown kind, rows beyond 32, formats that no MMA takes (R183), an odd address, a record beyond
the LM, and nothing. -/
theorem witness_MatrixUnit_checks :
    (∃ c : MxCmd, c.kind = none) ∧
    (∀ x ∈ [(cmdOf [(0, 1), recAt, (192, 33)], MxKind.mma, true, false, false),
        (cmdOf [(0, 6), recAt, (128, 1), (132, 2)], .fmtset, false, true, false),
        (cmdOf [(0, 1), recAt, (128, 0xFF00000000003001), (192, 32)], .mma, false, false, true),
        (cmdOf [(0, 5), (64, 0xFF0000000000C000)], .accz, false, false, true), (mmaCmd, .mma, false, false, false)],
      let s := mxState x.1 id
      let ctx := (s.core 0).mx.ctx
      let illegal : Prop := (x.1.caddr ≠ 0 ∧ ¬ (s.MxLegal 0 x.1.caddr 8 8 ∧ winSel x.1.caddr ≤ 1)) ∨
        ∃ y ∈ x.1.spans x.2.1 ctx 1, ¬ s.MxLegal 0 y.1 y.2.1 y.2.2
      let refused : Prop := x.2.1 = .fmtset ∧ mxAllowed (mxFmt (x.1.field 128 4)) (mxFmt (x.1.field 132 4)) = false
      x.1.kind = some x.2.1 ∧ (x.1.Bad x.2.1 ctx ↔ x.2.2.1 = true) ∧ (refused ↔ x.2.2.2.1 = true) ∧
        (x.2.2.1 = false → (illegal ↔ x.2.2.2.2 = true))) ∧
    ∃ (y : Word × Nat × Nat) (l : Loc), (mxState mmaCmd id).mxPlace 0 true y.1 y.2.1 y.2.2 = some l ∧
      (mxState mmaCmd id).holders (l.lines y.2.1) = [] ∧ (mxState mmaCmd id).damaged = [] := by
  refine ⟨⟨cmdOf [(0, 9)], by decide +kernel⟩, fun x hx => ?_, ⟨(0xFF00000000003000, 64, 2), .lm 0 0x3000, by decide +kernel⟩⟩
  simp only [List.mem_cons, List.not_mem_nil, or_false] at hx
  rcases hx with rfl | rfl | rfl | rfl | rfl <;> unfold MxCmd.Bad State.MxLegal <;> dsimp only <;> decide +kernel

theorem witness_MatrixUnit_error :
    ∀ c ∈ [(cmdOf [(0, 6), recAt, (128, 1), (132, 2)], 3), (cmdOf [(0, 1), recAt, (192, 33)], 2),
        (cmdOf [(0, 1), recAt, (128, 0xFF00000000003001), (192, 32)], 4)],
      let s := mxState c.1 id
      s.Canonical ∧ (s.damaged = [] ∧ (s.core 0).mx.queue = c.1 :: [] ∧ (s.core 0).mx.records = [] ∧ s.Found 0 c.1 = c.2 ∧ c.2 ≠ 0) ∧
        ∀ l, s.mxRecord 0 c.1 = some l → s.holders (l.lines 8) = [] := by
  intro c hc
  simp only [List.mem_cons, List.not_mem_nil, or_false] at hc
  rcases hc with rfl | rfl | rfl <;>
    exact ⟨canonical_of_ok (by decide +kernel), by decide +kernel, record_free (l := .lm 0 0x2000) (by decide +kernel)⟩

/-- A failing command whose record's line a ticket holds, and a record that waits for its line, free by now. -/
theorem witness_MatrixUnit_records :
    (∃ (s : State) (c : MxCmd) (l : Loc), s.Canonical ∧ s.damaged = [] ∧ (s.core 0).mx.queue = [c] ∧ (s.core 0).mx.records = [] ∧
      s.Found 0 c = 2 ∧ s.mxRecord 0 c = some l ∧ s.holders (l.lines 8) ≠ []) ∧
    (∃ (s : State) (l : Loc) (v : Word), s.Canonical ∧ s.damaged = [] ∧ (s.core 0).mx.records = [(l, v)] ∧ l.plain ∧
      (∀ o, l ≠ .mqw o) ∧ s.Uncached l ∧ l.off % 64 + 8 ≤ 64 ∧ s.holders (l.lines 8) = []) :=
  ⟨⟨coreAs (mxState (cmdOf [(0, 1), recAt, (192, 33)]) id) fun c => c.setTicket 3 specTicket, cmdOf [(0, 1), recAt, (192, 33)],
      .lm 0 0x2000, canonical_of_ok (by decide +kernel), by decide +kernel⟩,
    ⟨mxState fmtCmd fun m => { m with records := [(.lm 0 0x2000, 7)] }, .lm 0 0x2000, 7, canonical_of_ok (by decide +kernel),
      by decide +kernel, by decide +kernel, (show Config.slotBytes ≤ 0x2000 by decide), lm_not_mqw _ _,
      uncached_of_ok (by decide +kernel) _, by decide, by decide +kernel⟩⟩

/-- Another queue of the cluster is first, and ready. -/
theorem witness_MatrixUnit_turn : ∃ s : State, (s.core 0).mx.queue = [fmtCmd] ∧ (s.core 0).mx.records = [] ∧ s.Found 0 fmtCmd = 0 ∧
    s.mxIsNext 0 = false :=
  ⟨{ mxState fmtCmd id with
      others := [(1, { Core.reset with mx := { Mx.reset with queue := [fmtCmd] } })]
      clusters := tb.clusters.put 0 { tb.cluster 0 with mxNext := 1 } }, by decide +kernel⟩

theorem witness_MatrixUnit_fmtset : ∃ s : State, s.Heads 0 fmtCmd [] .fmtset ∧ s.Canonical ∧ s.damaged = [] :=
  ⟨mxState fmtCmd id, heads_of (l := .lm 0 0x2000) (by decide +kernel) (by decide +kernel),
    canonical_of_ok (by decide +kernel), by decide +kernel⟩

/-- Into an empty latch, of both layouts of data; and at a full one. -/
theorem witness_MatrixUnit_bload : (∀ x ∈ [(bloadCmd, MxFmt.bf16), (bloadLx8, .lx8)],
    let c := x.1
    let s := mxState c fun m => { m with ctx := { m.ctx with b := x.2 } }
    let kl := c.field 208 16
    s.Heads 0 c [] .bload ∧ s.Canonical ∧ ∃ cols sc, s.damaged = [] ∧ (s.core 0).mx.ctx.b = x.2 ∧
      ((s.core 0).mx.getLatch (c.field 320 1)).full = false ∧
      s.mxReads 0 c (mxRows (c.addr 128) (c.field 224 16) (c.field 192 6) (x.2.colBytes kl) x.2.size) = .ok cols ∧
      (x.2 = .lx8 → s.mxRead 0 c (c.addr 256, 2 * c.field 192 6 * scaleCount kl, 2) = .ok sc) ∧ (x.2 ≠ .lx8 → sc = 0)) ∧
    ∃ s : State, s.Heads 0 bloadCmd [] .bload ∧ ((s.core 0).mx.getLatch (bloadCmd.field 320 1)).full = true := by
  refine ⟨fun x hx => ?_, ⟨mxState bloadCmd fun m => m.setLatch 0 bf16Latch,
    heads_of (l := .lm 0 0x2000) (by decide +kernel) (by decide +kernel), by decide +kernel⟩⟩
  simp only [List.mem_cons, List.not_mem_nil, or_false] at hx
  rcases hx with rfl | rfl <;>
    exact ⟨heads_of (l := .lm 0 0x2000) (by decide +kernel) (by decide +kernel), canonical_of_ok (by decide +kernel),
      [0], 0, by decide +kernel⟩

/-- A sound latch, a damaged one, and none. -/
theorem witness_MatrixUnit_brot : ∀ l ∈ [bf16Latch, { bf16Latch with bad := true }, Latch.reset],
    let s := mxState brotCmd fun m => m.setLatch 0 l
    s.Heads 0 brotCmd [] .brot ∧ s.Canonical ∧ (s.damaged = [] ∧ (s.core 0).mx.getLatch (brotCmd.field 128 1) = l ∧
      ((s.core 1).mx.getLatch (brotCmd.field 129 1)).full = false) := by
  intro l hl
  simp only [List.mem_cons, List.not_mem_nil, or_false] at hl
  rcases hl with rfl | rfl | rfl <;>
    exact ⟨heads_of (l := .lm 0 0x2000) (by decide +kernel) (by decide +kernel), canonical_of_ok (by decide +kernel),
      by decide +kernel⟩

/-- MMA with a count of 3 rows in memory, of which its bound lets it take 1. -/
def mmaClip : MxCmd := cmdOf [(0, 1), recAt, (128, 0xFF00000000003000), (192, 1), (224, 64), (256, 0xFF00000000003800)]
def mmaState (c : MxCmd) (l : Latch) : State :=
  coreAs (mxState c fun m => m.setLatch 0 l) fun k => { k with lm := k.lm.writeN 0x3800 4 3 }

theorem witness_MatrixUnit_mma : (∀ x ∈ [(mmaCmd, 1), (mmaClip, 3)],
    let c := x.1
    let s := mmaState c bf16Latch
    let l := (s.core 0).mx.getLatch (c.field 320 1)
    let m := (s.core 0).mx
    s.Heads 0 c [] .mma ∧ s.Canonical ∧ ∃ rows, s.damaged = [] ∧ l.full = true ∧ mxAllowed m.ctx.a l.fmt = true ∧
      m.headK = 0 ∧ s.mxSpansOk 0 (c.spans .mma m.ctx l.klen) = true ∧ l.bad = false ∧ m.accBad = [] ∧ c.field 192 6 = 1 ∧
      (c.addr 256 = 0 → x.2 = 1) ∧ (c.addr 256 ≠ 0 → s.mxRead 0 c (c.addr 256, 4, 4) = .ok x.2) ∧
      s.mxReads 0 c (mxRows (c.addr 128) (c.field 224 16) 1 (l.klen * m.ctx.a.size) m.ctx.a.size) = .ok rows) ∧
    ∀ l ∈ [Latch.reset, { bf16Latch with fmt := .int8 }], let s := mmaState mmaCmd l
      s.Heads 0 mmaCmd [] .mma ∧ (l.full = true → mxAllowed (s.core 0).mx.ctx.a l.fmt = false) := by
  refine ⟨fun x hx => ?_, fun l hl => ?_⟩
  · simp only [List.mem_cons, List.not_mem_nil, or_false] at hx
    rcases hx with rfl | rfl <;>
      exact ⟨heads_of (l := .lm 0 0x2000) (by decide +kernel) (by decide +kernel), canonical_of_ok (by decide +kernel),
        [0], by decide +kernel⟩
  · simp only [List.mem_cons, List.not_mem_nil, or_false] at hl
    rcases hl with rfl | rfl <;>
      exact ⟨heads_of (l := .lm 0 0x2000) (by decide +kernel) (by decide +kernel), by decide +kernel⟩

theorem witness_MatrixUnit_accrd : ∃ s : State,
    let c := accrdCmd
    s.Heads 0 c [] .accrd ∧ s.Canonical ∧ (s.damaged = [] ∧ (s.core 0).mx.accBad = [] ∧ c.field 192 6 = 2 ∧
      c.field 200 6 = 2 ∧ c.field 212 4 = 1 ∧ 2 * c.field 200 6 ≤ c.field 224 16 ∧ s.mxRecord 0 c = some (.lm 0 0x2000) ∧
      s.mxPlace 0 true (c.addr 128 + BitVec.ofNat 64 (1 * c.field 224 16)) (2 * c.field 200 6) 2 = some (.lm 0 0x3040) ∧
      ∀ x ∈ c.spans .accrd (s.core 0).mx.ctx 0, ∃ l ∈ [Loc.lm 0 0x3000, .lm 0 0x3040],
        s.mxPlace 0 true x.1 x.2.1 x.2.2 = some l ∧ s.holders (l.lines x.2.1) = []) :=
  ⟨mxState accrdCmd id, heads_of (l := .lm 0 0x2000) (by decide +kernel) (by decide +kernel),
    canonical_of_ok (by decide +kernel), by decide +kernel⟩

theorem witness_MatrixUnit_accz : ∃ s : State, s.Heads 0 acczCmd [] .accz ∧ s.Canonical ∧ s.damaged = [] :=
  ⟨mxState acczCmd id, heads_of (l := .lm 0 0x2000) (by decide +kernel) (by decide +kernel),
    canonical_of_ok (by decide +kernel), by decide +kernel⟩

theorem witness_MatrixUnit_mxfence : ∃ s : State, s.Heads 0 fenceCmd [] .mxfence ∧ s.Canonical ∧
    (s.damaged = [] ∧ (s.core 0).mx.err.isSome = true) :=
  ⟨mxState fenceCmd fun m => { m with err := some (5, 2) },
    heads_of (l := .lm 0 0x2000) (by decide +kernel) (by decide +kernel), canonical_of_ok (by decide +kernel),
    by decide +kernel⟩

/-- Channel 4 of core 0 has an entry that a record may start. -/
def withEntry (e : TTEntry) : State := coreAs tb fun c => { c with tt := [(4, e)] }

theorem witness_TaskControl_ends :
    (∃ s : State, s.ws.ctl.repA = false ∧ s.here.ownTickets s.here.cur.val = [] ∧ s.task.members = []) ∧
    (∀ blk : Bool, ∃ (s : State) (a : GReg),
      let ch : Byte := BitVec.ofNat 8 (s.g a).toNat
      let e := (s.here.tt.get ch.toNat).getD TTEntry.reset
      s.ws.ctl.repA = false ∧ (s.g a).toNat < 256 ∧ e.valid = true ∧ e.bound = false ∧ e.blk = blk ∧ s.task.members = []) ∧
    (∃ (s : State) (a b c d : GReg), s.ws.ctl.repA = false ∧ 256 ≤ (s.g a).toNat ∧
      ((s.here.tt.get (s.g b).toNat).getD TTEntry.reset).valid = false ∧
      ((s.here.tt.get (s.g c).toNat).getD TTEntry.reset).bound = true ∧ (s.g d).toNat = 255) :=
  ⟨⟨tb, by decide +kernel⟩,
    fun blk => ⟨rg (withEntry { goodEntry with blk := blk }) [(2, 4)], 2, by cases blk <;> decide +kernel⟩,
    ⟨rg (withEntry { goodEntry with bound := true }) [(2, 256), (3, 9), (4, 4), (5, 255)], 2, 3, 4, 5, by decide +kernel⟩⟩

/-- A deque of n records. -/
def dequeState (n : Nat) : State :=
  coreAs tb fun c => { c with deque := List.replicate n { chan := 4, opx := 1, op1 := 2, op2 := 3, op3 := 5, reserved := 0 } }

theorem witness_TaskControl_table :
    (∃ (s : State) (a b : GReg),
      let w := (s.g (b + 1)).toNat
      let cap := w / 2 ^ 26 % 32
      let vsa := w / 2 ^ 16 % 1024
      b ≠ 0 ∧ b.getLsbD 0 = false ∧ (s.g a).toNat < 256 ∧ w / 2 ^ 31 % 2 ^ 25 = 0 ∧ w / 2 ^ 11 % 32 = 0 ∧
        (s.g b).toNat < 2 ^ 56 ∧ (s.g b).toNat % 2 = 0 ∧ cap = 16 ∧ 64 ≤ vsa ∧ 64 * vsa + 512 + 1024 * cap = 0xC000) ∧
    (∃ (s : State) (a b c : GReg), 256 ≤ (s.g a).toNat ∧ b.getLsbD 0 = true ∧ (s.g c).toNat = 2 ^ 56) ∧
    (dequeState 63).here.deque.length < 64 ∧ 64 ≤ (dequeState 64).here.deque.length ∧ (dequeState 0).here.deque = [] ∧
    ∃ rest r, (dequeState 2).here.deque = rest ++ [r] :=
  ⟨⟨rg tb [(2, 255), (4, 0x10000), (5, 2 ^ 26 * 16 + 2 ^ 16 * 504 + 1)], 2, 4, by decide +kernel⟩,
    ⟨rg tb [(2, 256), (4, 2 ^ 56)], 2, 5, 4, by decide +kernel⟩, by decide +kernel, by decide +kernel, by decide +kernel,
    ⟨[{ chan := 4, opx := 1, op1 := 2, op2 := 3, op3 := 5, reserved := 0 }], _, rfl⟩⟩

def aMsg (load : Payload) : Msg :=
  { src := 8, cx := 1, dev := none, dst := 0, chan := 4, load := load, refused := none }
/-- A send queue of n messages. -/
def queued (s : State) (n : Nat) : State := coreAs s fun c => { c with sendQ := List.replicate n (aMsg (.send [1])) }

/-- What a descriptor needs: the bits above DEV zero, DEV only with its flag, a core of a row that exists. -/
def goodDst (w : Nat) : Prop := w / 2 ^ 58 = 0 ∧ (w / 2 ^ 57 = 1 ∨ w / 2 ^ 48 % 512 = 0) ∧ w / 2 ^ 8 % 32 < 20

/-- Each sender with the highest row and the bounds of its fields, and what each refuses. -/
theorem witness_MessagesLeave_posts :
    (∀ x ∈ [(2 ^ 24 + 19 * 256, true), (8 * 2 ^ 24 + 19 * 256, true), (19 * 256, false), (9 * 2 ^ 24, false),
        (2 ^ 24 + 20 * 256, false), (2 ^ 24 + 2 ^ 58, false), (2 ^ 24 + 2 ^ 48, false), (2 ^ 24 + 2 ^ 28, false)],
      let w := x.1
      (goodDst w ∧ w / 2 ^ 28 % 2 ^ 20 = 0 ∧ 1 ≤ w / 2 ^ 24 % 16 ∧ w / 2 ^ 24 % 16 ≤ 8) ↔ x.2 = true) ∧
    (∀ x ∈ [(2 ^ 57 + 3 * 2 ^ 48 + 2 ^ 37 + 7 * 2 ^ 32, true), (31 * 2 ^ 32, true), (2 ^ 37 + 8 * 2 ^ 32, false), (2 ^ 38, false),
        (2 ^ 24, false)],
      let w := x.1
      (goodDst w ∧ w / 2 ^ 38 % 2 ^ 10 = 0 ∧ w / 2 ^ 24 % 2 ^ 8 = 0 ∧
        ((BitVec.ofNat 64 w).getLsbD 37 = false ∨ w / 2 ^ 32 % 32 < 8)) ↔ x.2 = true) ∧
    (∀ x ∈ [(0x1000, 1, true), (0xBFC0, 2 ^ 32 - 1, true), (0xFC0, 1, false), (0xC000, 1, false), (0x1020, 1, false),
        (0x1000, 0, false), (0x1000, 2 ^ 32, false)],
      let w := x.1 * 2 ^ 16
      let off := w / 2 ^ 16 % 2 ^ 16
      (goodDst w ∧ w / 2 ^ 32 % 2 ^ 16 = 0 ∧ off % 64 = 0 ∧ 0x1000 ≤ off ∧ off ≤ 0xBFC0 ∧ 0 < x.2.1 ∧ x.2.1 < 2 ^ 32) ↔
        x.2.2 = true) ∧
    (∀ x ∈ [(2 ^ 40, true), (0, false), (2 ^ 56, false), (2 ^ 40 + 20 * 256, false)],
      let w := x.1
      (w / 2 ^ 56 = 0 ∧ w / 2 ^ 40 % 2 ^ 16 ≠ 0 ∧ w / 2 ^ 8 % 32 < 20) ↔ x.2 = true) ∧
    (queued tb 7).here.sendQ.length < 8 ∧ 8 ≤ (queued tb 8).here.sendQ.length := by
  unfold goodDst
  decide +kernel

/-- CNTI at LM offset o of a core that has armed the counters l, its run list holding n records. -/
def cntiState (o : Nat) (v : Word) (l : List Nat) (n : Nat) : State :=
  coreAs (rg tb [(2, lmAt o), (3, v)]) fun c => { c with
    counters := l, runList := List.replicate n { chan := 4, prio := 1, since := 3, kind := .message [] 8 none } }

theorem witness_MessagesLeave_counters :
    (∀ x ∈ [(0x1000, (5 : Word), [0x1000], 0), (0xBFC0, 5, (List.range 64).map fun i => 0x1000 + 64 * i, 0),
        (0xBFC0, 2 ^ 63 - 1, [], 0), (0x1000, 0, [], 63), (0x1000, 0, [], 64)],
      let s := cntiState x.1 x.2.1 x.2.2.1 x.2.2.2
      s.Canonical ∧ ((s.g 3).msb = false ∧ isLocal (s.g 2) = true ∧ winSel (s.g 2) = 0 ∧ winOff (s.g 2) = x.1 ∧ x.1 % 64 = 0 ∧
        s.here.reserved x.1 64 = false ∧ s.holders ((Loc.lm s.hereCid x.1).lines 64) = [] ∧
        s.here.runList.length = x.2.2.2 ∧ s.here.counters = x.2.2.1)) ∧
    ∀ x ∈ [(0x1000, (2 ^ 63 : Word)), (0x1020, 1), (0xFC0, 1), (0xC000, 1)],
      let s := cntiState x.1 x.2 [] 0
      let o := winOff (s.g 2)
      ¬ ((s.g 3).msb = false ∧ 0x1000 ≤ o ∧ o ≤ 0xBFC0 ∧ o % 64 = 0) := by
  refine ⟨fun x hx => ?_, by decide +kernel⟩
  simp only [List.mem_cons, List.not_mem_nil, or_false] at hx
  rcases hx with rfl | rfl | rfl | rfl | rfl <;> exact ⟨canonical_of_ok (by decide +kernel), by decide +kernel⟩

/-- Core 8 offers a message to channel 4 of core 0, in a cluster of the same context; others wait on channel 9. -/
def arrival (e : TTEntry) (load : Payload) (waiting : Nat) : State :=
  { withEntry e with
    here := { (withEntry e).here with inbound := List.replicate waiting { aMsg (.send [1]) with chan := 9 } }
    others := [(8, { Core.reset with sendQ := [aMsg load] })] }
def boundEntry : TTEntry := { goodEntry with bound := true, slot := 0, qsel := 1 }
def strangerMsg : Msg := { aMsg (.send [1]) with cx := 2 }

/-- What is taken, what is held or refused, and what is dropped. -/
theorem witness_MessagesReceived_arrival :
    (∀ x ∈ [(goodEntry, Payload.send [1, 2], 0), (boundEntry, .send [1, 2], 0), (boundEntry, .sendd true 7 5, 0),
        ({ goodEntry with blk := true }, .send [1], 48), ({ goodEntry with blk := true }, .sendd false 7 5, 47),
        ({ boundEntry with slot := 5 }, .sendd false 7 5, 0), (TTEntry.reset, .send [1], 0), (goodEntry, .sendd false 3 1, 0)],
      let s := arrival x.1 x.2.1 x.2.2
      s.Offered 8 0 (aMsg x.2.1) ∧ ((s.core 0).tt.get 4).getD TTEntry.reset = x.1 ∧ (x.1.valid = true ↔ x.1 ≠ TTEntry.reset) ∧
        s.admits 0 (aMsg x.2.1) = true ∧ (∀ y ∈ (s.core 0).inbound, y.chan ≠ 4) ∧
        (s.core 0).inbound.length = x.2.2 ∧ (s.core 0).runList.length < 64 ∧ ((s.core 0).slot 0).held = true ∧
        ((s.core 0).slot 5).held = false ∧ ((s.core 0).slot 0).ws.tsw.state ≠ .saved ∧ ((s.core 0).slot 0).lost = [] ∧
        s.damaged = [] ∧ (vget ((s.core 0).slot 0).queues 1 []).length + 2 ≤ 16) ∧
    (∃ s : State, s.Offered 8 0 strangerMsg ∧ s.admits 0 strangerMsg = false) ∧
    (∃ (s' : State) (t : Nat), (s'.outbox 8)[0]? = some { aMsg (.send [1]) with refused := some t } ∧ t + 64 ≤ s'.now) := by
  unfold State.Offered
  exact ⟨by decide +kernel, ⟨{ withEntry goodEntry with others := [(8, { Core.reset with sendQ := [strangerMsg] })] },
      by decide +kernel⟩,
    ⟨atTime { tb with others := [(8, { Core.reset with sendQ := [{ aMsg (.send [1]) with refused := some 3 }] })] } 67, 3,
      by decide +kernel⟩⟩

/-- A message waits at core 0. -/
def waitingState : State := coreAs (withEntry goodEntry) fun c => { c with inbound := [aMsg (.send [1])] }
/-- A counter of 5 at LM offset 0x1000, armed or pending, and a decrement of it at core 8. -/
def counterState (bits n full : Nat) : State :=
  { coreAs tb fun c => { c with
      lm := (c.lm.writeN 0x1000 8 5).writeN 0x1008 8 bits, counters := [0x1000]
      runList := List.replicate full { chan := 4, prio := 1, since := 3, kind := .message [] 8 none } } with
    others := [(8, { Core.reset with sendQ := [aMsg (.dec 0x1000 (BitVec.ofNat 64 n))] })] }
/-- Packets of one SMAX combine at cores 8 and 16. -/
def packetState : State :=
  { tb with others := [(8, { Core.reset with sendQ := [aMsg (.smax 4 3 2 1 1)] }),
      (16, { Core.reset with sendQ := [aMsg (.smax 4 3 7 2 2)] })] }
/-- A packet of n that core 8 offers to a channel of core 0, where the combines l are open. -/
def ownerState (e : TTEntry) (n waiting : Nat) (l : List Combine) : State :=
  coreAs (arrival e (.smax 4 3 2 1 n) waiting) fun c => { c with combines := l }
def openCombine (tag : BitVec 16) : Combine :=
  { cx := 1, chan := 4, tag := tag, cnt := 4, val := 7, idx := 2, total := 2 }

theorem witness_MessagesReceived_waiting :
    (∃ (s : State) (m : Msg), (s.core 0).inbound[0]? = some m ∧ (∀ x ∈ (s.core 0).inbound.take 0, x.chan ≠ m.chan) ∧
      (s.core 0).blockedBefore m.chan m.began = false ∧
      m.load = .send [1] ∧ s.admits 0 m = true ∧ ((s.core 0).tt.get m.chan.toNat).getD TTEntry.reset = goodEntry ∧
      goodEntry.valid = true ∧ goodEntry.blk = false ∧ goodEntry.bound = false ∧ (s.core 0).runList.length < 64) ∧
    (∀ x ∈ [(1, 4, 0), (1, 5, 63), (1, 6, 64), (3, 4, 0)],
      let s := counterState x.1 x.2.1 x.2.2
      let m := aMsg (.dec 0x1000 (BitVec.ofNat 64 x.2.1))
      let new : Word := BitVec.ofNat 64 ((s.core 0).lm.readN 0x1000 8) - BitVec.ofNat 64 x.2.1
      s.Canonical ∧ ((s.outbox 8)[0]? = some m ∧ m.dev = none ∧ m.dst = 0 ∧ s.welcome 0 m.cx = true ∧ s.welcome 0 2 = false ∧
        s.damagedByte (.lm 0 0x1000) 64 = none ∧ 0x1000 ∈ (s.core 0).counters ∧ 0x1040 ∉ (s.core 0).counters ∧
        ((s.core 0).pending 0x1000 = true ↔ x.1 = 3) ∧ (s.core 0).runList.length = x.2.2 ∧
        new.toInt = (5 : Int) - x.2.1)) ∧
    (∃ s : State, (s.outbox 8)[0]? = some (aMsg (.dec 0x1000 1)) ∧ s.welcome 0 (aMsg (.dec 0x1000 1)).cx = true ∧
      0x1000 ∈ (s.core 0).counters ∧ (s.damagedByte (.lm 0 0x1000) 12).isSome = true) ∧
    (∃ (s : State) (m m' : Msg), (s.outbox 8)[0]? = some m ∧ (s.outbox 16)[0]? = some m' ∧ m.load = .smax 4 3 2 1 1 ∧
      m'.load = .smax 4 3 7 2 2 ∧ m.cx = m'.cx ∧ m.dst = m'.dst ∧ m.chan = m'.chan ∧ s.behindOwn 8 0 m = false) := by
  refine ⟨⟨waitingState, aMsg (.send [1]), by decide +kernel⟩, fun x hx => ?_,
    ⟨{ counterState 1 1 0 with damaged := [(.lm, 0, 0x400)] }, by decide +kernel⟩,
    ⟨packetState, aMsg (.smax 4 3 2 1 1), aMsg (.smax 4 3 7 2 2), by decide +kernel⟩⟩
  simp only [List.mem_cons, List.not_mem_nil, or_false] at hx
  rcases hx with rfl | rfl | rfl | rfl <;> exact ⟨canonical_of_ok (by decide +kernel), by decide +kernel⟩

/-- A packet that opens a combine, one that feeds the open one, one that finds 32 others, and one that completes one, at
an open and at a blocked channel. -/
theorem witness_MessagesReceived_owner :
    ∀ x ∈ [(goodEntry, 1, 0, [], 1), (goodEntry, 1, 0, [openCombine 3], 3),
        (goodEntry, 1, 0, (List.range 32).map fun i => openCombine (BitVec.ofNat 16 (i + 4)), 1),
        (goodEntry, 2, 0, [openCombine 3], 4), ({ goodEntry with blk := true }, 4, 47, [], 4),
        ({ goodEntry with blk := true }, 4, 48, [], 4)],
      let s := ownerState x.1 x.2.1 x.2.2.1 x.2.2.2.1
      let m := aMsg (.smax 4 3 2 1 x.2.1)
      let key (y : Combine) : Bool := decide (y.cx = m.cx ∧ y.chan = m.chan ∧ y.tag = 3 ∧ y.cnt = 4)
      let rest := (s.core 0).combines.filter fun y => !key y
      s.Offered 8 0 m ∧ s.welcome 0 m.cx = true ∧
        ((rest = (s.core 0).combines ∧ x.2.2.2.2 = x.2.1) ∨
          ∃ y ∈ x.2.2.2.1, (s.core 0).combines.find? key = some y ∧ x.2.2.2.2 = y.total + x.2.1) ∧
        (s.core 0).inbound.length = x.2.2.1 ∧ (∀ y ∈ (s.core 0).inbound, y.chan ≠ m.chan) ∧
        ((s.core 0).tt.get 4).getD TTEntry.reset = x.1 ∧ x.1.valid = true ∧ (s.core 0).runList.length < 64 := by
  unfold State.Offered
  decide +kernel

/-- Core 0 has one task, in slot 0, and a record to start. -/
def listState (e : TTEntry) (r : RunRec) : State := coreAs (withEntry e) fun c => { c with runList := [r] }
def aRecord : RunRec := { chan := 4, prio := 1, since := 3, kind := .message [5, 6] 8 none }
def aTaskRec : TaskRec := { chan := 4, opx := 1, op1 := 2, op2 := 3, op3 := 5, reserved := 0 }
/-- A slot is free beside the task, and nothing keeps the core from filling it. -/
def readyToFill (s : State) : Prop :=
  ((s.core 0).lent = none ∧ (s.core 0).retired = false ∧ (s.die (0 / 8192)).thermal ≠ .tripped ∧
    ((s.core 0).slot 1).held = false ∧ ∀ j, j < 1 → ((s.core 0).slot j).held = true) ∧ ∀ j, ((s.core 0).slot j).handlerDue = false

theorem ready_of {s : State} (h : ((s.core 0).lent = none ∧ (s.core 0).retired = false ∧ (s.die (0 / 8192)).thermal ≠ .tripped ∧
    ((s.core 0).slot 1).held = false ∧ ∀ j, j < 1 → ((s.core 0).slot j).held = true) ∧
    ∀ j, j < 8 → ((s.core 0).slot j).handlerDue = false) : readyToFill s := by
  refine ⟨h.1, fun j => ?_⟩
  by_cases h8 : j < 8
  · exact h.2 j h8
  · rw [slot_beyond _ _ h8]
    rfl

/-- Each kind of record, at a channel that takes it; and a channel that is not fit. -/
theorem witness_TaskScheduling_records :
    (∀ x ∈ [RunKind.message [5, 6] 8 none, .counter aTaskRec, .handler 0, .launch 1 [1] [4] 2 3 5], ∀ fit : Bool,
      let s := listState (if fit then goodEntry else TTEntry.reset) { aRecord with kind := x }
      readyToFill s ∧ (s.core 0).nextFill s.now = some (.run 0 { aRecord with kind := x }) ∧
        (s.core 0).refuses aRecord.chan x.reserved = !fit) ∧
    (∀ z ∈ [(0 : BitVec 24), 1], ∃ (s : State) (x : TaskRec), readyToFill s ∧ (s.core 0).nextFill s.now = some (.deque 1 x) ∧
      ((s.core 0).refuses x.chan x.reserved = true ↔ z = 1)) ∧
    (∃ c : Core, c.nextFill 3 = none) ∧
    (∃ (s : State) (r : RunRec), (s.core 0).runList[0]? = some r ∧ r.since + 65536 ≤ s.now) := by
  refine ⟨fun x hx fit => ?_, fun z hz => ?_, ⟨Core.reset, by decide +kernel⟩,
    ⟨atTime (listState goodEntry aRecord) 65539, aRecord, by decide +kernel⟩⟩
  · simp only [List.mem_cons, List.not_mem_nil, or_false] at hx
    rcases hx with rfl | rfl | rfl | rfl <;> cases fit <;> exact ⟨ready_of (by decide +kernel), by decide +kernel⟩
  · refine ⟨coreAs (withEntry goodEntry) fun c => { c with deque := [aTaskRec, { aTaskRec with reserved := z }] },
      { aTaskRec with reserved := z }, ?_⟩
    simp only [List.mem_cons, List.not_mem_nil, or_false] at hz
    rcases hz with rfl | rfl <;> exact ⟨ready_of (by decide +kernel), by decide +kernel⟩

/-- The task of slot 0 is parked. -/
def parkedAs (s : State) (w : Wait) : State :=
  slotAs s 0 fun t => { t with wait := some w, ws := { t.ws with tsw := { t.ws.tsw with state := .parked } } }

theorem witness_TaskScheduling_wakes :
    (∀ x ∈ [(Wait.sendQueue, true), (.queueEmpty 0, false)],
      let s := parkedAs tb x.1
      ((s.core 0).slot 0).wait = some x.1 ∧ ((s.core 0).slot 0).held = true ∧
        ((s.core 0).slot 0).ws.tsw.state = .parked ∧ s.waitOver 0 0 x.1 = x.2 ∧ s.waitsBehind 0 0 x.1 = false ∧
        ((s.core 0).slot 0).awaitsReply = false) ∧
    (∃ s : State, ((s.core 0).slot 0).yielded = some 3 ∧ 3 + 64 ≤ s.now) ∧
    (∃ s : State, ((s.core 0).slot 0).runSince + 4096 ≤ s.now) :=
  ⟨by decide +kernel,
    ⟨atTime (slotAs tb 0 fun t => { t with yielded := some 3 }) 67, by decide +kernel⟩, ⟨atTime tb 4096, by decide +kernel⟩⟩

/-- An idle thief at core 0; core 8, east of it and of the same context, has three records. -/
def thiefState (x : Steal) : State :=
  { coreAs (parkedAs tb .sendQueue) fun c => { c with steal := x } with
    others := [(8, { Core.reset with deque := (dequeState 3).here.deque })]
    clusters := tb.clusters.put 1 { Cluster.reset with owner := some 1 } }

theorem witness_TaskScheduling_steals :
    (∃ s : State, (s.core 0).steal = .busy ∧ (s.core 0).idle = true) ∧
    (∀ l ∈ [none, some (5, 0)], ∃ s : State, (s.core 0).steal = .waiting [1, 2, 3, 4, 5] 3 ∧ (s.core 0).idle = true ∧
      s.nextTarget 0 [1, 2, 3, 4, 5] = some (1, 8, [2, 3, 4, 5]) ∧ (s.core 8).lent = l ∧ (s.core 8).retired = false ∧
      (s.core 8).deque.length = 3) ∧
    (∃ s : State, (s.core 0).steal = .waiting [3, 4] 3 ∧ (s.core 0).idle = true ∧ s.nextTarget 0 [3, 4] = none) ∧
    (∀ x ∈ [(5, [], (dequeState 3).here.deque), (5, [], []), (2, [3], [])],
      let s := thiefState (.asking x.1 x.2.1 (some x.2.2))
      (s.core 0).steal = .asking x.1 x.2.1 (some x.2.2) ∧ (s.core 0).lent = none ∧ (s.core 0).owed = [] ∧
        (s.core 0).retired = false ∧ (s.core 0).deque.length + x.2.2.length ≤ 64 ∧ (s.core 0).idle = true) ∧
    (∀ l ∈ [(none, false), (some (5, 0), false), (none, true)], ∃ s : State, (s.core 0).owed ≠ [] ∧ (s.core 0).lent = l.1 ∧
      (s.core 0).retired = l.2 ∧ (s.core 0).deque.length + (s.core 0).owed.length ≤ 64) ∧
    (∃ s : State, (s.core 0).steal = .backoff 3 ∧ (s.core 0).idle = true ∧ 3 + 256 ≤ s.now) := by
  refine ⟨⟨thiefState .busy, by decide +kernel⟩, fun l hl => ?_,
    ⟨thiefState (.waiting [3, 4] 3), by decide +kernel⟩, by decide +kernel,
    fun l hl => ⟨coreAs tb fun c => { c with owed := [aTaskRec], lent := l.1, retired := l.2 }, ?_⟩,
    ⟨atTime (thiefState (.backoff 3)) 259, by decide +kernel⟩⟩
  · refine ⟨{ thiefState (.waiting [1, 2, 3, 4, 5] 3) with
      others := [(8, { Core.reset with deque := (dequeState 3).here.deque, lent := l })] }, ?_⟩
    simp only [List.mem_cons, List.not_mem_nil, or_false] at hl
    rcases hl with rfl | rfl <;> decide +kernel
  · simp only [List.mem_cons, List.not_mem_nil, or_false] at hl
    rcases hl with rfl | rfl | rfl <;> decide +kernel

/-! ### Launches, phalanxes, pre-emption -/

/-- A record of two tasks on channel 4, with one channel-table entry at base + 0x200 and one predictor word at base + 0x210
+ off, and bits of its own. -/
def aLaunch (ver base off more : Nat) : BitVec 2048 :=
  BitVec.ofNat 2048 (ver + 2 ^ 16 + 4 * 2 ^ 24 + 2 * 2 ^ 128 + 2 ^ 544 + 2 ^ 584 + 2 ^ 600 + (base + 0x200) * 2 ^ 640 +
    (base + 0x210 + off) * 2 ^ 704 + more)
def lmBase : Nat := 0xFF00000000002000
def goodLaunch : BitVec 2048 := aLaunch 1 lmBase 0 0
def queuedLaunch : LaunchRec := { bits := goodLaunch, cx := 1, here := some 0, addr := 0x10100, chtab := [], prdtab := [] }
def queuedDies (q : Nat) : Table Die := [(0, { Die.reset with launchQ := List.replicate q queuedLaunch })]
/-- A memory with a record at a place, and its tables; the entry's address is addr. -/
def launchMem (m : Memory) (place : Nat) (r : BitVec 2048) (addr : Nat) : Memory :=
  ((((m.writeN place 256 r.toNat).writeN (place + 0x200) 8 addr).writeN (place + 0x208) 8
    (4 * 2 ^ 56 + 1)).writeN (place + 0x210) 8 (2 ^ 48))
/-- LAUNCH of a record in the LM; q records wait in the launch queue. -/
def launchState (r : BitVec 2048) (addr q : Nat) : State :=
  { coreAs (rg tb [(2, lmAt 0x2000)]) fun c => { c with lm := launchMem c.lm 0x2000 r addr } with dies := queuedDies q }
/-- The host's record, its tables in memory. -/
def hostLaunchState (addr q : Nat) : State :=
  { tb with mem := launchMem tb.mem 0x10100 (aLaunch 1 0x10100 0 0) addr, dies := queuedDies q }
def launchRead (s : State) : List Nat × State := okOf ((s.releaseTo .package).loadWords 8 32 (s.g 2)) ([], s)
def launchChans (s : State) : List Word × State := okOf ((launchRead s).2.loadTable (lmAt 0x2200) 16 2) ([], s)
def launchPreds (s : State) : List Word × State := okOf ((launchChans s).2.loadTable (lmAt 0x2210) 8 1) ([], s)

theorem ok_of {α : Type} {r : Eff α} {d : α} (h : r.isOk = true) : r = .ok (okOf r d) := by
  cases r with
  | error _ => cases h
  | ok _ => rfl

theorem none_bad {s : State} {cx : Nat} {r : BitVec 2048} {o : Option Nat} (h : ∀ m ∈ [1, 2, 3, 4, 6], ¬ s.LaunchBad cx r o m) :
    ∀ m, ¬ s.LaunchBad cx r o m := by
  intro m hm
  by_cases hc : m ∈ [1, 2, 3, 4, 6]
  · exact h m hc hm
  · simp only [List.mem_cons, List.not_mem_nil, or_false, not_or] at hc
    unfold State.LaunchBad at hm
    split at hm <;> simp_all

/-- A record of another version, one with a level of extent 0, a region of another context's cluster, more tasks than the region's
cores, and more barriers than there are. -/
theorem witness_Launches_status :
    (∀ x ∈ [(1, aLaunch 2 lmBase 0 0), (2, aLaunch 1 lmBase 0 (2 ^ 16)), (3, aLaunch 1 lmBase 0 (2 ^ 96)),
        (4, aLaunch 1 lmBase 0 (7 * 2 ^ 128)), (6, aLaunch 1 lmBase 0 (16 * 2 ^ 600))],
      tb.LaunchBad 1 x.2 (some 0) x.1 ∧ ∀ m, m < x.1 → ¬ tb.LaunchBad 1 x.2 (some 0) m) ∧
    ∀ m, ¬ tb.LaunchBad 1 goodLaunch (some 0) m := by
  refine ⟨fun x hx => ?_, none_bad fun m hm => ?_⟩
  · simp only [List.mem_cons, List.not_mem_nil, or_false] at hx
    rcases hx with rfl | rfl | rfl | rfl | rfl <;> refine ⟨?_, fun m hm => ?_⟩
    all_goals try (simp only [State.LaunchBad, exists_and_left]; decide +kernel)
    all_goals
      have : m = 0 ∨ m = 1 ∨ m = 2 ∨ m = 3 ∨ m = 4 ∨ m = 5 := by simp only at hm; omega
      rcases this with rfl | rfl | rfl | rfl | rfl | rfl
      all_goals first
        | exact absurd hm (by decide)
        | (simp only [State.LaunchBad, exists_and_left]; decide +kernel)
  · simp only [List.mem_cons, List.not_mem_nil, or_false] at hm
    rcases hm with rfl | rfl | rfl | rfl | rfl <;> (simp only [State.LaunchBad, exists_and_left]; decide +kernel)

/-- The record at g2 is r, of status n. -/
def Reads (s : State) (r : BitVec 2048) (n : Nat) : Prop :=
  (s.g 2).toNat % 256 = 0 ∧ (s.releaseTo .package).loadWords 8 32 (s.g 2) = .ok (launchRead s) ∧
    BitVec.ofNat 2048 (packBits 64 (launchRead s).1) = r ∧ (launchRead s).2.launchStatus s.cx r (some s.hereCid) = n

/-- Its tables are read, and q records wait in the queue. -/
def Tables (s : State) (q : Nat) : Prop :=
  (launchRead s).2.loadTable (lmAt 0x2200) 16 2 = .ok (launchChans s) ∧
    (launchChans s).2.loadTable (lmAt 0x2210) 8 1 = .ok (launchPreds s) ∧ ((launchPreds s).2.die 0).launchQ.length = q

theorem reads_of {s : State} {r : BitVec 2048} {n : Nat}
    (h : (s.g 2).toNat % 256 = 0 ∧ ((s.releaseTo .package).loadWords 8 32 (s.g 2)).isOk = true ∧
      BitVec.ofNat 2048 (packBits 64 (launchRead s).1) = r ∧ (launchRead s).2.launchStatus s.cx r (some s.hereCid) = n) :
    Reads s r n := ⟨h.1, ok_of h.2.1, h.2.2⟩

theorem tables_of {s : State} {q : Nat}
    (h : ((launchRead s).2.loadTable (lmAt 0x2200) 16 2).isOk = true ∧
      ((launchChans s).2.loadTable (lmAt 0x2210) 8 1).isOk = true ∧ ((launchPreds s).2.die 0).launchQ.length = q) :
    Tables s q := ⟨ok_of h.1, ok_of h.2.1, h.2.2⟩

theorem witness_Launches_record :
    Reads (launchState (aLaunch 2 lmBase 0 0) 0x10000 0) (aLaunch 2 lmBase 0 0) 1 ∧
    Reads (launchState goodLaunch 0x10000 31) goodLaunch 0 ∧
    (∃ s : State, (s.g 2).toNat % 256 ≠ 0) ∧
    (∃ s : State, (s.g 2).toNat % 256 = 0 ∧ (s.releaseTo .package).loadWords 8 32 (s.g 2) = .error (.trap .xlate 0x40000)) :=
  ⟨reads_of (by decide +kernel), reads_of (by decide +kernel), ⟨rg tb [(2, 0x40080)], by decide +kernel⟩,
    ⟨rg tb [(2, 0x40000)], by decide +kernel⟩⟩

/-- Tables that are not aligned, beside the one that is. -/
theorem witness_Launches_tables :
    (Reads (launchState (aLaunch 1 (lmBase + 4) 0 0) 0x10000 0) (aLaunch 1 (lmBase + 4) 0 0) 0 ∧
      launchField (aLaunch 1 (lmBase + 4) 0 0) 552 544 ≠ 0 ∧ (lw (aLaunch 1 (lmBase + 4) 0 0) 640).toNat % 16 ≠ 0) ∧
    (Reads (launchState (aLaunch 1 lmBase 4 0) 0x10000 0) (aLaunch 1 lmBase 4 0) 0 ∧
      launchField (aLaunch 1 lmBase 4 0) 590 584 ≠ 0 ∧ (lw (aLaunch 1 lmBase 4 0) 704).toNat % 8 ≠ 0 ∧
      lw (aLaunch 1 lmBase 4 0) 640 = lmAt 0x2200 ∧
      ((launchRead (launchState (aLaunch 1 lmBase 4 0) 0x10000 0)).2.loadTable (lmAt 0x2200) 16 2).isOk = true) ∧
    lw goodLaunch 640 = lmAt 0x2200 ∧ lw goodLaunch 704 = lmAt 0x2210 :=
  ⟨⟨reads_of (by decide +kernel), by decide +kernel⟩, ⟨reads_of (by decide +kernel), by decide +kernel⟩, by decide +kernel⟩

/-- The channel entry and the predictor word of the records. -/
theorem entry_bad : LaunchBad5 [BitVec.ofNat 64 0x10001, 4 * 2 ^ 56 + 1] [2 ^ 48] := .inl ⟨0, by decide +kernel⟩
theorem entry_good : ¬ LaunchBad5 [BitVec.ofNat 64 0x10000, 4 * 2 ^ 56 + 1] [2 ^ 48] := by
  rintro (⟨i, hi, h⟩ | ⟨w, hw, h⟩)
  · obtain rfl : i = 0 := by simp only [List.length_cons, List.length_nil] at hi; omega
    revert h; decide +kernel
  · simp only [List.mem_cons, List.not_mem_nil, or_false] at hw
    subst hw; revert h; decide +kernel

/-- Room in the queue or none, and an entry at an odd address. -/
theorem witness_Launches_queue :
    (∃ s : State, Tables s 0 ∧ LaunchBad5 (launchChans s).1 (launchPreds s).1) ∧
    ∀ q ∈ [31, 32], ∃ s : State, Tables s q ∧ ¬ LaunchBad5 (launchChans s).1 (launchPreds s).1 := by
  have pick (a q : Nat) (h : Tables (launchState goodLaunch a q) q)
      (e : (launchChans (launchState goodLaunch a q)).1 = [BitVec.ofNat 64 a, 4 * 2 ^ 56 + 1] ∧
        (launchPreds (launchState goodLaunch a q)).1 = [2 ^ 48]) (p : Prop → Prop)
      (k : p (LaunchBad5 [BitVec.ofNat 64 a, 4 * 2 ^ 56 + 1] [2 ^ 48])) :
      ∃ s : State, Tables s q ∧ p (LaunchBad5 (launchChans s).1 (launchPreds s).1) :=
    ⟨_, h, by rw [e.1, e.2]; exact k⟩
  refine ⟨pick 0x10001 0 (tables_of (by decide +kernel)) (by decide +kernel) (fun p => p) entry_bad, fun q hq => ?_⟩
  simp only [List.mem_cons, List.not_mem_nil, or_false] at hq
  rcases hq with rfl | rfl
  · exact pick 0x10000 31 (tables_of (by decide +kernel)) (by decide +kernel) (¬ ·) entry_good
  · exact pick 0x10000 32 (tables_of (by decide +kernel)) (by decide +kernel) (¬ ·) entry_good

/-- Its channel table, read. -/
def hostWalked (addr q n va : Nat) : List Word × State := ((hostLaunchState addr q).walkWords 1 n va).getD ([], tb)

/-- The host's record of status 0, with a table's entry odd or even. -/
theorem witness_Launches_host :
    (∀ x ∈ [(0x10001, 31), (0x10000, 31), (0x10000, 32)], ∃ (s : State) (b : BitVec 2048),
      (s.ctxCfg 1).isSome = true ∧ s.launchStatus 1 b none = 0 ∧ (s.die 0).launchQ.length = x.2 ∧
        ∃ s1 s2 : State, s.walkWords 1 (2 * launchField b 552 544) (lw b 640).toNat = some ([BitVec.ofNat 64 x.1, 4 * 2 ^ 56 + 1], s1) ∧
          s1.walkWords 1 (launchField b 590 584) (lw b 704).toNat = some ([2 ^ 48], s2)) ∧
    (tb.ctxCfg 1).isSome = true ∧ tb.launchStatus 1 (aLaunch 2 lmBase 0 0) none ≠ 0 := by
  refine ⟨fun x hx => ⟨hostLaunchState x.1 x.2, aLaunch 1 0x10100 0 0, ?_, ?_, ?_,
    (hostWalked x.1 x.2 2 0x10300).2, ((hostWalked x.1 x.2 2 0x10300).2.walkWords 1 1 0x10310).getD ([], tb) |>.2, ?_, ?_⟩, by decide +kernel⟩ <;>
    simp only [List.mem_cons, List.not_mem_nil, or_false] at hx <;> rcases hx with rfl | rfl | rfl <;> decide +kernel

def aBarrier (arrived : Nat) (odd : Bool) : Barrier :=
  { id := { scope := .cluster, num := 0 }, inst := 0, expected := 2, arrived := arrived, odd := odd }
/-- A launch under way, with barriers of cluster 0. -/
def running (l : List Barrier) : Launch :=
  { id := 9, die := 0, cx := 1, began := 0, left := 2, doneref := 0, barriers := l, pending := [] }

/-- The barriers of the cluster are free, or all taken. -/
theorem witness_Launches_execute : ∀ n ∈ [15, 16], ∃ (s : State) (x : LaunchRec) (rest : List LaunchRec),
    (∀ y ∈ s.launches, y.die = 0 → y.pending = []) ∧ (s.die 0).launchQ = x :: rest ∧ rest ≠ [] ∧
      (s.barriersFree x.cx x.bits (launchRegion x.bits x.here) = true ↔ n = 15) ∧ ∀ y ∈ s.launches, y.id ≠ s.nextLaunch := by
  intro n hn
  refine ⟨{ tb with dies := queuedDies 2, launches := [running (List.replicate n (aBarrier 0 true))] }, queuedLaunch,
    [queuedLaunch], ?_⟩
  simp only [List.mem_cons, List.not_mem_nil, or_false] at hn
  rcases hn with rfl | rfl <;> decide +kernel

/-- A task of a launch with two tasks and barrier 0 of the cluster. -/
def barState (b : Barrier) : State := { slotAs tb 0 fun t => { t with launch := some 9 } with launches := [running [b]] }

theorem witness_BarriersAndPhalanxes_barriers : ∀ x ∈ [aBarrier 0 true, aBarrier 1 true, aBarrier 1 false],
    (barState x).barrier (barState x).hereCid (barState x).task.launch { scope := .cluster, num := 0 } = some x := by
  decide +kernel

/-- A request for width n by core 0 waits. -/
def composeState (n : Nat) (again : Bool) : State :=
  { parkedAs tb (.compose n 0) with
    clusters := tb.clusters.put 0 { tb.cluster 0 with composeQ := [{ cid := 0, slot := 0, n := n, again := again }] } }
def members8 : List Nat := [1, 2, 3, 4, 5, 6, 7]
/-- The issuing task leads cores 1 to 3. -/
def leaderState (w : Option Wait) : State :=
  { slotAs (withCtl tb fun c => { c with cw := 2 }) 0 fun t => { t with members := [1, 2, 3], wait := w } with
    others := [1, 2, 3].map fun i => (i, { Core.reset with lent := some (0, 0), runList := if i = 1 then [aRecord] else [] }) }

theorem witness_BarriersAndPhalanxes_instructions :
    (∃ s : State, s.ws.ctl.repA = false ∧ s.ws.ctl.cw = 2 ∧ s.task.members = [1, 2, 3] ∧ s.task.lost = [] ∧
      ∀ m ∈ s.task.members, (s.core m).lent = some (0, 0)) ∧
    (∃ s : State, s.ws.ctl.repA = false ∧ s.ws.ctl.cw = 0 ∧ s.task.members = []) ∧
    (inRep tb 0 2).ws.ctl.repA = true :=
  ⟨⟨leaderState none, by decide +kernel⟩, ⟨tb, by decide +kernel⟩, by decide +kernel⟩

/-- The cluster east of core 0's is all free too, or has another owner. -/
def wideState (o : Option Nat) : State := { tb with clusters := tb.clusters.put 1 { Cluster.reset with owner := o } }

theorem witness_BarriersAndPhalanxes_grants :
    (∀ again : Bool, (composeState 8 again).nextGrant ((composeState 8 again).cluster 0).composeQ =
      some ({ cid := 0, slot := 0, n := 8, again := again }, members8)) ∧
    (wideState (some 1)).members 0 16 = some (members8 ++ [8, 9, 10, 11, 12, 13, 14, 15]) ∧
    (wideState none).members 0 16 = none ∧ (wideState none).nextGrant [{ cid := 0, slot := 0, n := 16, again := false }] = none ∧
    (wideState none).members 0 8 = some members8 ∧ (leaderState none).members 0 8 = none ∧
    (∀ x ∈ [(16, 1027), (16, 1026), (8, 1027)], ∃ s : State, ((s.core 0).slot 0).wait = some (.compose x.1 3) ∧ s.now = x.2 ∧
      (s.members 0 x.1 = none ↔ x.1 = 16)) := by
  refine ⟨fun again => by cases again <;> decide +kernel, by decide +kernel, by decide +kernel, by decide +kernel,
    by decide +kernel, by decide +kernel, fun x hx => ⟨atTime (parkedAs tb (.compose x.1 3)) x.2, ?_⟩⟩
  simp only [List.mem_cons, List.not_mem_nil, or_false] at hx
  rcases hx with rfl | rfl | rfl <;> decide +kernel

/-- A record for a lent core, its leader waiting in a WAITA or not. -/
theorem witness_BarriersAndPhalanxes_reclaim : ∀ w ∈ [none, some (Wait.waita (.phys 0x20008) true 5 3 none 0x20008)],
    let s := leaderState w
    (s.core 1).lent = some (0, 0) ∧ (s.core 1).runList ≠ [] ∧ 1 ∈ ((s.core 0).slot 0).members ∧
      ((s.core 0).slot 0).lost = [] ∧ ((s.core 0).slot 0).ws.ctl.cw ≠ 0 ∧ ((s.core 0).slot 0).ws.ctl.repA = false ∧
      ((s.core 0).slot 0).wait = w ∧ ((s.core 0).slot 0).ws.tsw.state ≠ .trapped ∧ s.sound (.phys 0x20008) = true ∧
      uncachedOk s = true := by
  decide +kernel

/-- The task of slot 0, in a state, has a request of time 0 pending, at an address that is listed or not. -/
def askedState (listed : Bool) (n : Nat) (st : TaskState) (w : Option Wait) : State :=
  { atTime (slotAs tb 0 fun t => { t with
      preempt := some 0, wait := w, ws := { t.ws with ctl := { t.ws.ctl with pres := 1 }, tsw := { t.ws.tsw with state := st } } }) n with
    contexts := [(1, { cfg := { placeCfg with maps := if listed then [(0x10000, 0x10010, [(0x10000, 0x300000002)])] else [] },
                       prefixes := [], sptQ := [] })] }
/-- A task that a save left, live or whole. -/
def savedState (pres : BitVec 2) (c : Cause) : State :=
  slotAs (askedState true 0 .saved none) 0 fun t => { t with
    preempt := none, liveAt := if pres = 2 then some 0x300000002 else none
    ws := { t.ws with ctl := { t.ws.ctl with pres := pres }, tsw := { t.ws.tsw with cause := c } } }
/-- The same task after its slot was freed. -/
def releasedState : State :=
  { slotAs (savedState 3 .none) 0 fun _ => Slot.reset with
    savedTasks := [{ cid := 0, slot := 0, cx := 1, task := ((savedState 3 .none).core 0).slot 0, area := [] }] }

theorem witness_Preemption_saves :
    (((tb.core 0).slot 0).held = true ∧ ((tb.core 0).slot 0).ws.ctl.pres = 0 ∧ ((tb.core 0).slot 0).preempt = none) ∧
    (∀ x ∈ [(true, 0, TaskState.runnable, none), (false, 65536, .runnable, none), (true, 0, .parked, some Wait.sendQueue),
        (false, 0, .trapped, none), (true, 0, .parked, some (.waita (.phys 0x20008) true 5 3 none 0x20008)),
        (true, 0, .parked, some (.blocked 4))],
      let s := askedState x.1 x.2.1 x.2.2.1 x.2.2.2
      ((s.core 0).slot 0).held = true ∧ (s.core 0).ownTickets 0 = [] ∧ ((s.core 0).slot 0).members = [] ∧
        ((s.core 0).slot 0).lost = [] ∧ ((s.core 0).slot 0).ws.ctl.pres ≠ 0 ∧ s.damaged = [] ∧
        ((s.core 0).slot 0).preempt.isSome = true ∧ ((s.core 0).slot 0).ws.tsw.state = x.2.2.1 ∧
        ((s.core 0).slot 0).wait = x.2.2.2 ∧ ((s.core 0).slot 0).awaitsReply = false ∧ ((s.core 0).slot 0).ws.ctl.repA = false ∧
        s.listed ((s.cxOf 0).getD 0) ((s.core 0).slot 0).ws.pc = (if x.1 then some 0x300000002 else none) ∧
        (s.requestDue 0 0 = true ↔ x.1 = true ∨ x.2.1 = 65536) ∧ s.sound (.phys 0x20008) = true ∧ uncachedOk s = true) := by
  decide +kernel

theorem witness_Preemption_returns :
    (∀ x ∈ [((2 : BitVec 2), Cause.none), (3, .none), (3, .svc)],
      let s := savedState x.1 x.2
      let t0 := (s.core 0).slot 0
      t0.held = true ∧ t0.ws.tsw.state = .saved ∧ (∀ i, i < 8 → ((s.core 0).slot i).link ≠ some 0) ∧ s.savedTasks = [] ∧ t0.handlerDue = false ∧
        (∀ r ∈ (s.core 0).runList, r.kind ≠ .handler 0) ∧ (s.core 0).mx.queue = [] ∧ t0.ws.tsw.cause = x.2 ∧
        s.taskClean 0 0 = true ∧ ({ s with damaged := [(.lm, 0, 3)] } : State).taskClean 0 0 = false ∧
        t0.ws.ctl.pres = x.1 ∧ (x.1 = 2 → t0.liveAt = some 0x300000002)) ∧
    releasedState.Canonical ∧ ∃ y, releasedState.savedTasks = [y] ∧ y.cid = 0 ∧ y.slot = 0 ∧
      releasedState.cxOf 0 = some y.cx ∧ ((releasedState.core 0).slot 0).held = false ∧ (releasedState.core 0).lent = none ∧
      (releasedState.core 0).retired = false :=
  ⟨by decide +kernel, canonical_of_ok (by decide +kernel), _, rfl, by decide +kernel⟩

theorem witness_CoresAndClustersMove_core : ∃ s : State, s.cxOf 0 = s.cxOf 1 ∧ (s.cxOf 0).isSome = true ∧ s.vacant 1 = true ∧
    (s.core 0).quiet = true ∧ (s.core 0).settled = true ∧ ((s.core 0).slot 0).held = true ∧
    (∀ l ∈ s.launches, ∀ x ∈ l.pending, x.1 ≠ 0) ∧ s.sound (.lm 0 0) = true ∧ (s.cluster (0 / 8)).ulines = [] ∧
    ({ s with damaged := [(.lm, 0, 3)] } : State).copyable 0 = false ∧
    (let t : State := { s with damaged := [(.lm, 1, 0x400), (.lm, 1, 3)] }
     t.copyable 0 = true ∧ t.vacant 1 = true) :=
  ⟨savedState 3 .none, by decide +kernel⟩

/-- Context 2 lives too, and cluster 0 was its own before. -/
def twoContexts (l : List SavedCluster) : State :=
  { savedState 3 .none with
    contexts := (savedState 3 .none).contexts ++ [(2, { cfg := { placeCfg with cxid := 2 }, prefixes := [], sptQ := [] })]
    savedClusters := l }
def keptCluster : SavedCluster := { cluster := 0, cx := 2, cores := List.replicate 8 Core.reset, csp := [], full := [] }
/-- Core 1 is lent to a task of core 8, in another cluster. -/
def lentState : State :=
  { savedState 3 .none with
    others := [(1, { Core.reset with lent := some (8, 0) }),
      (8, { Core.reset with slots := Core.reset.slots.set 0 { Slot.reset with held := true, members := [1] } })] }

theorem witness_CoresAndClustersMove_cluster :
    (∀ x ∈ [(none, savedState 3 .none), (some 2, twoContexts []), (some 2, twoContexts [keptCluster]), (none, lentState)],
      let s := x.2
      (match x.1 with | some y => (s.contexts.get y).isSome | none => true) = true ∧
        (s.cluster 0).owner = some 1 ∧ (s.cluster 0).owner ≠ x.1 ∧
        (∀ i, i < 8 → ((s.handBackIn 0).core (8 * 0 + i)).quiet = true ∧ ((s.handBackIn 0).core (8 * 0 + i)).exposed = true ∧ (s.core (8 * 0 + i)).retired = false ∧
          (s.handBackIn 0).copyable (8 * 0 + i) = true ∧ s.sound (.lm (8 * 0 + i) 0) = true ∧
          (s.core (8 * 0 + i)).dirQ = [] ∧ (s.core (8 * 0 + i)).aside = []) ∧
        s.launching 0 = false ∧ s.wordsInto 0 = false ∧ (s.cluster 0).ulines = []) ∧
    (twoContexts [keptCluster]).savedClusters.find? (fun x => x.cluster == 0 && some x.cx == some 2) = some keptCluster ∧
    keptCluster.cores.length = 8 ∧
    (∀ i, i < 8 → (lentState.core i).lent = none ∨ (lentState.core i).lent = some (8, 0)) ∧ (lentState.core 1).lent = some (8, 0) := by
  decide +kernel

/-! ### Inference, firmware and the world outside -/

def tokens (n : Nat) : State := rg tb [(2, 0x5A17C0DE), (3, BitVec.ofNat 64 n), (4, lmAt 0x3000)]
def tokensRead (n : Nat) : List Nat × State := okOf ((tokens n).loadWords 4 n (lmAt 0x3000)) ([], tb)

theorem witness_InferenceInstructions_bhash :
    (∀ n ∈ [0, 1, 16, 17], ((tokens n).g 2).toNat < 2 ^ 32 ∧ ((tokens n).g (2 + 1)).toNat = n ∧ ((tokens n).g 4).toNat % 4 = 0) ∧
    (∃ s : State, 2 ^ 32 ≤ (s.g 2).toNat) ∧ (∃ s : State, (s.g (2 + 1)).toNat = 16 ∧ (s.g 4).toNat % 4 ≠ 0) ∧
    (∀ n ∈ [1, 16], (tokens n).loadWords 4 n ((tokens n).g 4) = .ok (tokensRead n)) := by
  refine ⟨by decide +kernel, ⟨rg tb [(2, 2 ^ 32)], by decide +kernel⟩,
    ⟨rg (tokens 16) [(4, lmAt 0x3002)], by decide +kernel⟩, fun n hn => ?_⟩
  simp only [List.mem_cons, List.not_mem_nil, or_false] at hn
  rcases hn with rfl | rfl <;> exact ok_of (by decide +kernel)

/-- A ring of one point, homed at a core, with a table of 16 entries at LM offset 0x4000. -/
def ringHead : Nat := 1 + 4 * 2 ^ 12 + 0x4000 * 2 ^ 16 + 0x40000 * 2 ^ 64 + 0x80000 * 2 ^ 128
/-- Its operands at g2 to g5 and g6 to g9, others in l; n messages wait. -/
def kvState (home n : Nat) (l : List (Nat × Word)) : State :=
  { coreAs (rg (queued tb n) ([(2, lmAt 0x3000), (3, 5), (4, 32), (6, lmAt 0x3000), (7, 5), (8, 32), (9, 2 ^ 63 + 2 ^ 60)] ++ l))
      fun c => { c with lm := (c.lm.writeN 0x3000 64 ringHead).writeN 0x3040 2 home } with
    contexts := [(1, { cfg := placeCfg, prefixes := [], sptQ := [] })] }
def ringRead (s : State) (a : GReg) : Ring × State := okOf (s.readRing (s.g a)) ({ head := 0, homes := 0, points := [] }, s)
/-- What R344 asks of a descriptor. -/
def RingFine (r : Ring) : Prop := 1 ≤ r.head % 512 ∧ r.head % 512 ≤ 256 ∧ r.head / 2 ^ 9 % 8 = 0 ∧ 4 ≤ r.head / 2 ^ 12 % 16 ∧
  r.head / 2 ^ 12 % 16 ≤ 10 ∧ r.head / 2 ^ 16 % 2 ^ 16 % 16 = 0 ∧ r.head / 2 ^ 32 % 2 ^ 32 = 0 ∧
  r.head / 2 ^ 64 % 65536 = 0 ∧ r.head / 2 ^ 128 % 65536 = 0 ∧ r.head / 2 ^ 192 = 0 ∧ ∀ p ∈ r.points, p < 2 ^ 38

/-- The only point of a ring is the nearest. -/
theorem nearest_one {l : List Nat} {p : Nat} (f : Nat → Nat) (h : l = [p]) :
    ∃ j : Nat, l[j]? = some p ∧ ∀ k p' : Nat, l[k]? = some p' → f p < f p' ∨ (f p = f p' ∧ j ≤ k) := by
  subst h
  refine ⟨0, rfl, fun k p' h => ?_⟩
  cases k with
  | zero => cases h; exact .inr ⟨rfl, Nat.le_refl _⟩
  | succ k => simp at h

/-- Operands out of range, misaligned, and a descriptor that cannot be read. -/
theorem witness_InferenceInstructions_kvTraps :
    (∃ s : State, (s.g (2 + 1)).toNat / 2 ^ 32 ≠ 0 ∧ 2 ^ 36 ≤ (s.g 4).toNat) ∧
    (∃ s : State, (s.g (8 + 1)).toNat / 2 ^ 62 = 0 ∧ (s.g (6 + 1)).toNat / 2 ^ 48 % 2 ^ 15 ≠ 0) ∧
    (∀ x ∈ [(lmAt 0x3020, 0), (lmAt 0x3000, 3)], ∃ s : State, (s.g (2 + 1)).toNat / 2 ^ 32 = 0 ∧ (s.g 4).toNat < 2 ^ 36 ∧
      ((s.g 2).toNat % 64 ≠ 0 ↔ x.2 = 0) ∧ ((s.g (4 + 1)).toNat % 4 ≠ 0 ↔ x.2 = 3)) ∧
    (kvState 0 0 [(2, 0x40000)]).readRing ((kvState 0 0 [(2, 0x40000)]).g 2) = .error (.trap .xlate 0x40000) ∧
    ((kvState 0 0 [(2, lmAt 0x5000)]).readRing (lmAt 0x5000) = .ok (ringRead (kvState 0 0 [(2, lmAt 0x5000)]) 2) ∧
      ¬ RingFine (ringRead (kvState 0 0 [(2, lmAt 0x5000)]) 2).1) := by
  refine ⟨⟨rg tb [(3, 2 ^ 32), (4, 2 ^ 36)], by decide +kernel⟩, ⟨rg tb [(7, 2 ^ 48)], by decide +kernel⟩, fun x hx =>
    ⟨rg tb [(2, x.1), (5, BitVec.ofNat 64 x.2)], ?_⟩, by decide +kernel, ok_of (by decide +kernel), ?_⟩
  · simp only [List.mem_cons, List.not_mem_nil, or_false] at hx
    rcases hx with rfl | rfl <;> decide +kernel
  · unfold RingFine; decide +kernel

/-- A home core of the context with room in the queue and without, one that is in no context, and one of no row. -/
theorem witness_InferenceInstructions_kv : ∀ map : Bool, ∀ x ∈ [(0, 0), (0, 8), (16, 0), (0x1400, 0)],
    let s := kvState x.1 x.2 []
    let a : GReg := if map then 6 else 2
    let u := (ringRead s a).2
    let u2 := if map then u.releaseTo .package else u
    s.readRing (s.g a) = .ok (ringRead s a) ∧ RingFine (ringRead s a).1 ∧ (ringRead s a).1.points = [0] ∧
      (ringRead s a).1.homes % 2 ^ 16 = x.1 ∧ (x.1 / 2 ^ 8 % 32 < 20 ↔ x.1 ≠ 0x1400) ∧
      (u2.welcome x.1 u2.cx = true ↔ x.1 = 0) ∧ u2.here.sendQ.length = x.2 ∧ s.g 5 = 0 := by
  intro map x hx
  simp only [List.mem_cons, List.not_mem_nil, or_false] at hx
  refine ⟨?_, ?_⟩
  · rcases hx with rfl | rfl | rfl | rfl <;> cases map <;> exact ok_of (by decide +kernel)
  · unfold RingFine
    rcases hx with rfl | rfl | rfl | rfl <;> cases map <;> decide +kernel

/-- An arrival word in the task's own slot, or in another window; a KVMAP that names a home of no row. -/
theorem witness_InferenceInstructions_kvOther :
    (∀ w ∈ [lmAt 0x100, cspAt 0x100],
      let s := kvState 0 0 [(5, w)]
      s.readRing (s.g 2) = .ok (ringRead s 2) ∧ s.g (4 + 1) = w ∧ w ≠ 0 ∧ w.toNat % 4 = 0 ∧
        ¬ (isLocal w = true ∧ winSel w = 0 ∧ winOff w + 4 ≤ 0xC000 ∧
          (ringRead s 2).2.here.reserved (winOff w) 4 = false)) ∧
    let s := kvState 0 0 [(7, 2 ^ 63 + 0x1400 * 2 ^ 32)]
    s.readRing (s.g 6) = .ok (ringRead s 6) ∧ (s.g (6 + 1)).getLsbD 63 = true ∧
      (s.g (6 + 1)).toNat / 2 ^ 32 % 2 ^ 16 = 0x1400 ∧ (s.g (6 + 1)).toNat / 2 ^ 48 % 2 ^ 15 = 0 := by
  refine ⟨fun w hw => ⟨?_, ?_⟩, ok_of (by decide +kernel), by decide +kernel⟩ <;>
    simp only [List.mem_cons, List.not_mem_nil, or_false] at hw <;> rcases hw with rfl | rfl
  · exact ok_of (by decide +kernel)
  · exact ok_of (by decide +kernel)
  all_goals decide +kernel

/-- SPTLOOK of n hashes into a place, q messages waiting; SPTINS of a word and a page. -/
def sptState (n : Nat) (out : Word) (q : Nat) : State :=
  rg (queued tb q) [(2, lmAt 0x3000), (3, BitVec.ofNat 64 n), (4, out), (6, 2 ^ 32 + 9), (7, 2 ^ 24 - 1)]
def sptRead (s : State) : List Nat × State := okOf (s.loadWords 4 64 (s.g 2)) ([], s)

theorem witness_InferenceInstructions_prefix :
    ((sptState 0 0 0).g (2 + 1)).toNat = 0 ∧ ((sptState 65 0 0).g (2 + 1)).toNat = 65 ∧
    (∃ s : State, (s.g (2 + 1)).toNat = 64 ∧ (s.g 2).toNat % 4 ≠ 0) ∧
    (∀ x ∈ [(lmAt 0x2000, 0), (lmAt 0x2000, 8), (cspAt 0x3FF00, 0), (lmAt 0xBF04, 0), (lmAt 0x2002, 0)],
      let s := sptState 64 x.1 x.2
      let u := (sptRead s).2
      s.loadWords 4 64 (s.g 2) = .ok (sptRead s) ∧ (s.g (2 + 1)).toNat = 64 ∧ s.g 4 = x.1 ∧ isLocal x.1 = true ∧
        (x.1.toNat % 4 = 0 ↔ x.1 ≠ lmAt 0x2002) ∧
        (winSel x.1 = 1 ∧ winOff x.1 + 4 * 64 = 0x40000 ∨ winSel x.1 = 0 ∧ (winOff x.1 + 4 * 64 ≤ 0xC000 ↔ x.1 ≠ lmAt 0xBF04) ∧
          u.here.reserved (winOff x.1) 256 = false ∧ u.here.onCounter (winOff x.1) 256 = false) ∧
        u.holders ((Loc.lm 0 (winOff x.1)).lines 256) = [] ∧ u.holders ((Loc.csp 0 (winOff x.1)).lines 256) = [] ∧
        u.here.sendQ.length = x.2) ∧
    (∀ q ∈ [0, 8],
      let s := sptState 0 0 q
      let w := (s.g 6).toNat
      w / 2 ^ 62 < 3 ∧ w / 2 ^ 48 % 2 ^ 14 = 0 ∧ w / 2 ^ 32 % 2 ^ 16 ≠ 0 ∧ (s.g (6 + 1)).toNat < 2 ^ 24 ∧ s.here.sendQ.length = q) ∧
    (tb.g 6).toNat / 2 ^ 32 % 2 ^ 16 = 0 := by
  refine ⟨by decide +kernel, by decide +kernel, ⟨rg tb [(2, 2), (3, 64)], by decide +kernel⟩, fun x hx => ⟨?_, ?_⟩,
    by decide +kernel, by decide +kernel⟩ <;> simp only [List.mem_cons, List.not_mem_nil, or_false] at hx <;>
    rcases hx with rfl | rfl | rfl | rfl | rfl
  iterate 5 exact ok_of (by decide +kernel)
  all_goals decide +kernel

/-- A request to core 0's agent from the task of slot 0, for the entry that word 1 gives; its slot of the table is 5. -/
def kvReq (map : Bool) (arg : Word) : KvReq :=
  { map := map, src := 0, slot := 0, sq := 7, blk := 9, key := 5, ovr := false, toff := 0x4000, logt := 4, near := 0x40000,
    far := 0x80000, arg := arg, hops := 0 }
/-- n arrival words wait for the page-in of the entry. -/
def onWay (n : Nat) : PageIn := { slotOff := 0x4050, src := 0x80000, dst := 0x40000, words := List.replicate n (0, 0x3000), fault := none }
def agentState (r : KvReq) (ver tier : Nat) (p : List PageIn) : State :=
  coreAs (parkedAs tb (.reply 1 true)) fun c =>
    { c with
      dirQ := [r], pageIns := p
      lm := (c.lm.writeN 0x4050 8 (7 * 2 ^ 32 + 9)).writeN 0x4058 8 (2 * 2 ^ 62 + tier * 2 ^ 60 + ver * 2 ^ 48 + 2 * 2 ^ 24 + 3) }

/-- Lookups of a near and of a far entry, of one on its way with and without room, and KVMAPs of the last version, of another
and of an entry on its way. -/
theorem witness_InferenceAgents_directory : ∀ x ∈ [(kvReq false 0, 4095, 0, []), (kvReq false 0, 5, 1, []),
      (kvReq false (lmAt 0x3000), 5, 1, []), (kvReq false (lmAt 0x3000), 5, 2, [onWay 15]),
      (kvReq false (lmAt 0x3000), 5, 2, [onWay 16]), (kvReq true (2 ^ 63 + 4095 * 2 ^ 48), 4095, 0, []),
      (kvReq true (2 ^ 63 + 7 * 2 ^ 48), 4095, 1, []), (kvReq true (2 ^ 63), 9, 2, [onWay 0])],
    let s := agentState x.1 x.2.1 x.2.2.1 x.2.2.2
    let r := x.1
    let c := s.core 0
    let p := c.lookup r
    let w : Word := BitVec.ofNat 64 (c.lm.readN (r.toff + 16 * 5 + 8) 8)
    s.Canonical ∧ c.dirQ = [r] ∧ c.retired = false ∧ c.tableOk r = true ∧ p.found = some 5 ∧ s.damaged = [] ∧
      s.holders (((p.seen.map fun j => Loc.lm 0 (r.entry j)).map Loc.line).eraseDups) = [] ∧ r.slot < 8 ∧
      ((s.core r.src).slot r.slot).held = true ∧ ((s.core r.src).slot r.slot).awaitsReply = true ∧ w.toNat / 2 ^ 62 = 2 ∧
      w.toNat / 2 ^ 60 % 4 = x.2.2.1 ∧ w.toNat / 2 ^ 48 % 2 ^ 12 = x.2.1 ∧ (r.map = true → r.arg.toNat / 2 ^ 62 = 2) ∧
      c.pageIns.find? (fun y => y.slotOff == r.toff + 16 * 5) = x.2.2.2[0]? := by
  intro x hx
  simp only [List.mem_cons, List.not_mem_nil, or_false] at hx
  rcases hx with rfl | rfl | rfl | rfl | rfl | rfl | rfl | rfl <;> exact ⟨canonical_of_ok (by decide +kernel), by decide +kernel⟩

/-- No entry of the table is the request's. -/
theorem witness_InferenceAgents_none : ∃ s : State, ∃ r : KvReq, (s.core 0).dirQ = [r] ∧ (s.core 0).tableOk r = true ∧
    ((s.core 0).lookup r).found = none ∧ r.map = false ∧ ((s.core r.src).slot r.slot).awaitsReply = true ∧
    s.holders (((((s.core 0).lookup r).seen.map fun j => Loc.lm 0 (r.entry j)).map Loc.line).eraseDups) = [] :=
  ⟨coreAs (agentState (kvReq false 0) 5 0 []) fun c => { c with dirQ := [{ kvReq false 0 with sq := 8 }] },
    { kvReq false 0 with sq := 8 }, by decide +kernel⟩

def pageIn : PageIn := { slotOff := 0x4050, src := 0x10000, dst := 0x30000, words := [(0, 0x3000)], fault := none }
/-- Pages 0x10000 and 0x30000 are mapped one to one; a page-in copies the first to the second; some units are damaged. -/
def pageInState (l : List (Space × Nat × Nat)) : State :=
  { coreAs tb fun c => { c with pageIns := [pageIn], lm := c.lm.writeN 0x4058 8 (2 * 2 ^ 62 + 2 * 2 ^ 60) } with
    mem := tb.mem.writeN (placeRoot + 0x102018) 8 0x3001F
    damaged := l }
def engineState (a : Acc) (va : Word) (s : State) : Loc × State :=
  match s.engineLoc 0 a va with | .ok x => x | .error _ => (.lm 0 0, s)

theorem eng_of {s : State} {a : Acc} {va : Word} {l : Loc} (h : (s.engineLoc 0 a va).isOk = true ∧ (engineState a va s).1 = l) :
    s.engineLoc 0 a va = .ok (l, (engineState a va s).2) := by
  obtain ⟨h, rfl⟩ := h
  unfold engineState
  split <;> simp_all [Except.isOk, Except.toBool]
def pageSource (l : List (Space × Nat × Nat)) : State := (engineState .load pageIn.src (pageInState l)).2
def pageTarget (l : List (Space × Nat × Nat)) : State := (engineState .store pageIn.dst (pageSource l)).2

/-- One that ends whole, and one whose source is damaged. -/
theorem witness_InferenceAgents_pageIn : ∀ l ∈ [[], [(Space.mem, 0, 0x10000 / 64)]],
    let s := pageInState l
    s.Canonical ∧ s.engineLoc 0 .load pageIn.src = .ok (.phys 0x10000, pageSource l) ∧
      (pageSource l).engineLoc 0 .store pageIn.dst = .ok (.phys 0x30000, pageTarget l) ∧
      (s.core 0).pageIns[0]? = some pageIn ∧ pageIn.fault = none ∧ s.wordsOpen 0 pageIn = true ∧
      (∀ d ∈ s.damaged, d.1 = .mem) ∧ 0x1000 ≤ pageIn.slotOff ∧ pageIn.slotOff % 16 = 0 ∧
      (∀ a ∈ pageIn.words, 0x1000 ≤ a.2 ∧ a.2 % 4 = 0 ∧ (a.1 ≠ 0 ∨ a.2 + 4 ≤ pageIn.slotOff ∨ pageIn.slotOff + 16 ≤ a.2)) ∧
      (∀ c ∈ s.clusters, c.2.ulines = []) ∧ (((pageTarget l).damagedByte (.phys 0x10000) 65536).isSome = true ↔ l ≠ []) := by
  intro l hl
  simp only [List.mem_cons, List.not_mem_nil, or_false] at hl
  rcases hl with rfl | rfl <;>
    exact ⟨canonical_of_ok (by decide +kernel), eng_of (by decide +kernel), eng_of (by decide +kernel), by decide +kernel⟩

def aPrefix (h : BitVec 32) (d : BitVec 16) (n : Nat) : Prefix := { hash := h, depth := d, page := 5, pin := BitVec.ofNat 16 n }
/-- A prefix unit with one request and a table. -/
def prefixState (r : SptReq) (l : List Prefix) : State :=
  { parkedAs tb (.reply 1 false) with contexts := [(1, { cfg := placeCfg, prefixes := l, sptQ := [r] })] }
def sptReq (ins : Bool) (word : Word) : SptReq :=
  { ins := ins, src := 0, slot := 0, hashes := [9, 10, 11], out := .lm 0 0x2000, word := word, page := 5 }

/-- What holds of every request. -/
theorem witness_InferenceAgents_prefix (r : SptReq) (l : List Prefix) (h : r.slot = 0 ∧ r.src = 0) :
    (prefixState r l).contexts.get 1 = some { cfg := placeCfg, prefixes := l, sptQ := [r] } ∧ r.slot < 8 ∧
      (((prefixState r l).core r.src).slot r.slot).held = true ∧
      (((prefixState r l).core r.src).slot r.slot).awaitsReply = true := by
  rw [h.1, h.2]
  exact ⟨rfl, by decide +kernel, rfl, rfl⟩

def twoPrefixes : State := prefixState (sptReq false 0) [aPrefix 9 1 0, aPrefix 10 2 3]

theorem witness_InferenceAgents_lookup : (twoPrefixes.Canonical ∧ (matchChain [aPrefix 9 1 0, aPrefix 10 2 3] 0 (sptReq false 0).hashes).length = 2 ∧
      twoPrefixes.holders ((sptReq false 0).out.lines 8) = [] ∧ twoPrefixes.sound (sptReq false 0).out = true) ∧ (sptReq false 0).out.plain :=
  ⟨⟨canonical_of_ok (by decide +kernel), by decide +kernel⟩, by show Config.slotBytes ≤ 0x2000; decide⟩

/-- The key of an entry, as R354 reads it from the word. -/
def keyOf (w : Word) (e : Prefix) : Bool :=
  decide (e.hash.toNat = w.toNat % 2 ^ 32 ∧ e.depth.toNat = w.toNat / 2 ^ 32 % 2 ^ 16)
def fullTable (pin : Nat) : List Prefix := List.replicate 63 (aPrefix 9 1 1) ++ [aPrefix 9 1 pin]

/-- Every operation on an entry that is there, pinned or not, and one that is not, in a full table. -/
theorem witness_InferenceAgents_insert : ∀ w ∈ [0x100000009, 0x4000000100000009, 0x8000000100000009],
    (∀ pin ∈ [0, 1], [aPrefix 9 1 pin].find? (keyOf (BitVec.ofNat 64 w)) = some (aPrefix 9 1 pin)) ∧
    (∀ pin ∈ [0, 1], (fullTable pin).find? (keyOf (BitVec.ofNat 64 (w + 0x200000000))) = none) ∧
    (BitVec.ofNat 64 w).toNat / 2 ^ 62 = w / 2 ^ 62 ∧ (fullTable 0).length = 64 := by
  intro w hw
  simp only [List.mem_cons, List.not_mem_nil, or_false] at hw
  rcases hw with rfl | rfl | rfl <;> decide +kernel

theorem witness_InferenceAgents_pins : ∀ e ∈ List.replicate 63 (aPrefix 9 1 1), e.pin ≠ 0 := by decide

/-- Firmware has a fault of the task of slot 0, whose context passes this cause only if p, and has a handler. -/
def faultState (c : Cause) (p : Bool) (old : Option Word) : State :=
  { slotAs (withHandler tb goodEntry) 0 fun t => { t with
      fwFault := old, ws := { t.ws with trinfo := 0x40010, tsw := { t.ws.tsw with cause := c, state := .trapped } } } with
    contexts := [(1, { cfg := { placeCfg with handler := some 7, passXlate := p, passMchk := p }, prefixes := [], sptQ := [] })] }

theorem witness_FirmwareAndHost_faults : ∀ c ∈ [Cause.xlate, .mchk], ∀ p : Bool,
    let s := faultState c p (some 3)
    let t := (s.core 0).slot 0
    t.held = true ∧ t.ws.tsw.state = .trapped ∧ t.ws.tsw.cause = c ∧ isGlobal t.ws.trinfo = true ∧ t.fwFault = some 3 ∧
      t.link = none ∧ t.launch = none ∧ (faultState c p none).noHandler 0 0 = true ∧
      s.astray none ((s.cxOf 0).getD 0) = false ∧
      ∃ g, (s.cxOf 0).bind s.ctxCfg = some g ∧ (match c with | .xlate => g.passXlate | _ => g.passMchk) = p := by
  intro c hc p
  simp only [List.mem_cons, List.not_mem_nil, or_false] at hc
  refine ⟨?_, ?_, ?_, ?_, ?_, ?_, ?_, ?_, ?_, { placeCfg with handler := some 7, passXlate := p, passMchk := p }, ?_, ?_⟩ <;>
    rcases hc with rfl | rfl <;> cases p <;> decide +kernel

/-- A task of the context waits where its address no longer leads. -/
theorem witness_FirmwareAndHost_astray : (slotAs (faultState .xlate true (some 3)) 1 fun y => { y with
    held := true, wait := some (.waita (.phys 0x10008) true 5 3 none 0x20008) }).astray none 1 = true := by decide +kernel

theorem witness_FirmwareAndHost_passed : (faultState .xlate true (some 3)).HandlerReady 0 0 7 goodEntry :=
  ⟨by decide +kernel, by decide +kernel⟩

/-- A handler that traps itself: its link names the task of slot 1. -/
theorem witness_FirmwareAndHost_linked : ∃ s : State, s.noHandler 0 0 = true ∧ ((s.core 0).slot 0).link = some 1 ∧
    ((s.core 0).slot 0).launch = none :=
  ⟨slotAs (faultState .illop true none) 0 fun t => { t with link := some 1 }, by decide +kernel⟩

/-- A range of memory that the host may write, and that device 3's context 1 is given; a line; and two bytes of a page of the far tier
that has moved. -/
def hostState : State :=
  { tb with
    bars := [(0x20000, 8, true)]
    exports := [{ dev := 3, cx := 1, cores := false, lo := 0x20000, hi := 0x20007 },
      { dev := 3, cx := 1, cores := false, lo := 0x40000, hi := 0x4003F },
      { dev := 3, cx := 1, cores := false, lo := 0x100000000000, hi := 0x100000000001 }]
    redirects := [{ oldPa := 0x100000000000, newPa := 0x30000, since := 0 }] }
/-- A configuration that uses the bounds of its fields. -/
def bigCfg : ContextCfg :=
  { placeCfg with cxid := 4095, root := placeRoot + 0x200000, handler := some 255, dsw := [(0, 0, 1)], quotas := [(0, 1023)],
                  classes := [(5, 15)] }

/-- Its tables, in memory, map the physical page pa. -/
def tablesState (pa : Nat) : State :=
  let r := placeRoot + 0x200000
  { tb with mem := (((tb.mem.writeN r 8 (r + 0x100001)).writeN (r + 0x100000) 8 (r + 0x101001)).writeN (r + 0x101000) 8
      (r + 0x102001)).writeN (r + 0x102008) 8 (pa + 0x1F) }
def born (s : State) : State := { s with contexts := s.contexts.put 4095 { cfg := bigCfg, prefixes := [], sptQ := [] } }
def newLeaf (pa : Nat) : Leaf := { codeLeaf with cx := 4095, pa := pa }

/-- A context whose page no other has, and one whose page is the placed code. -/
theorem witness_FirmwareAndHost_creation : ∀ x ∈ [(0x50000, true), (0x10000, false)],
    let s := tablesState x.1
    s.firmware = .ready ∧ s.contexts.get 4095 = none ∧ bigCfg.root % 2 ^ 20 = 0 ∧ s.dswFree bigCfg.dsw = true ∧
      s.quotasFit bigCfg = true ∧ (∀ y ∈ bigCfg.classes, y.2 < 16) ∧ (born s).tablesApart = true ∧
      (born s).tablesClear s.heldLeaves = true ∧
      (∀ y ∈ s.clusters, y.2.ulines = []) ∧ s.redirects = [] ∧ (born s).leaves 4095 0 (2 ^ 56) = [newLeaf x.1] ∧
      ((∀ y ∈ s.allLeaves ++ s.heldLeaves, y.cx ≠ 4095 → y.pa + y.size ≤ x.1 ∨ x.1 + 0x10000 ≤ y.pa) ↔ x.2 = true) := by
  decide +kernel

theorem witness_FirmwareAndHost_contexts :
    (tb.contexts.get 1).isSome = true ∧ (∃ k ∈ tb.clusters, k.2.owner = some 1) ∧
    (∃ s : State, (s.contexts.get 1).isSome = true ∧ ∀ k ∈ s.clusters, k.2.owner ≠ some 1) ∧
    (∃ (s : State) (x : Nat), (s.die 0).walkers = [] ∧ (s.die 0).walks = [(x, 1)]) :=
  ⟨by decide +kernel, by decide +kernel, ⟨{ tb with clusters := [] }, by decide +kernel⟩,
    ⟨{ tb with dies := [(0, { Die.reset with walks := [(1, 1)] })] }, 1, by decide +kernel⟩⟩

theorem witness_FirmwareAndHost_outside :
    hostState.Canonical ∧ hostState.damaged = [] ∧
    (∀ x ∈ [(0x20000, 0x20000, some Size.n64), (0x40000, 0x40000, none), (0x100000000000, 0x30000, some .n16)],
      let n := (x.2.2.map sizeBytes).getD 64
      hostState.Uncached (.phys x.2.1) ∧ (hostState.redirected (.phys x.1) = .phys x.2.1 ∧ x.1 % n = 0 ∧ x.2.1 % n = 0 ∧
        (x.1 + n ≤ 0x9000000000 ∨ (0x100000000000 ≤ x.1 ∧ x.1 + n ≤ 0x200000000000)) ∧
        ∃ y ∈ hostState.exports, y.cores = false ∧ y.dev = 3 ∧ y.cx = 1 ∧ y.lo ≤ x.1 ∧ x.1 + n - 1 ≤ y.hi)) ∧
    (∃ b ∈ hostState.bars, b.1 ≤ 0x20000 ∧ 0x20000 + 8 ≤ b.1 + b.2.1 ∧ b.2.2 = true) ∧
    ∀ x ∈ tb.exports, x.cores = true ∨ x.dev ≠ 3 ∨ x.cx ≠ 1 ∨ 0x20000 < x.lo ∨ x.hi < 0x20000 :=
  ⟨canonical_of_ok (by decide +kernel), by decide +kernel,
    fun x hx => ⟨uncached_of_ok (by decide +kernel) _, by revert x; decide +kernel⟩, by decide +kernel, by decide +kernel⟩

/-- R224, R343: the WAITA of another device is answered where the word differs, and else waits at the line until it changes. -/
theorem test_remote_waita :
    (hostState.remoteWaita 3 1 7 0 0x20000 true 5).lastRead = 0 ∧ (hostState.remoteWaita 3 1 7 0 0x20000 true 5).waiters = [] ∧
    (let s := hostState.remoteWaita 3 1 7 0 0x20000 true 0
     s.waiters.length = 1 ∧ (s.storeHome 0x20000 8 9).lastRead = 9 ∧ (s.storeHome 0x20000 8 9).waiters = []) := by decide +kernel

/-- The CRC-32 of the nine bytes "123456789" is the check value of IEEE 802.3, CBF43926. -/
def romState : State := { State.reset with mem := [(0, 0x31), (1, 0x32), (2, 0x33), (3, 0x34), (4, 0x35), (5, 0x36), (6, 0x37),
  (7, 0x38), (8, 0x39)] }

theorem witness_FirmwareAndHost_start : romState.firmware ≠ .ready ∧ crc32 romState.mem 0 9 = 0xCBF43926 ∧
    crc32 romState.mem 0 9 ≠ 0xCBF43927 := by decide +kernel

/-- The placed page is pinned, and its context has asked that it be moved, or has not. -/
def pinnedState (on : Bool) : State :=
  { tb with
    mem := tb.mem.writeN (placeRoot + 0x102008) 8 0x1009F
    contexts := [(1, { cfg := placeCfg, prefixes := [], sptQ := [], asks := if on then [1] else [] })] }

/-- The placed page moves to the next; and one that is pinned. -/
theorem witness_Maintenance_migration : tb.walk 1 0x10000 = .leaf codeLeaf ∧ tb.mappers 0x10000 = [codeLeaf] ∧
    codeLeaf.size = 65536 ∧ codeLeaf.pin = false ∧ tb.tablesApart = true ∧
    (∀ a ∈ tb.tables, ∀ b ∈ tb.tables, a = b ∨ a.1 + a.2 ≤ b.1 ∨ b.1 + b.2 ≤ a.1) ∧
    (∀ a ∈ tb.tables, a.1 + a.2 ≤ 0x20000 ∨ 0x20000 + 65536 ≤ a.1) ∧
    (∀ x ∈ tb.allLeaves ++ tb.heldLeaves, x.pa + x.size ≤ 0x20000 ∨ 0x20000 + 65536 ≤ x.pa) ∧
    (∀ x ∈ tb.heldLeaves, x.pa + x.size ≤ 0x10000 ∨ 0x10000 + 65536 ≤ x.pa ∨ x ∈ tb.mappers 0x10000) ∧
    tb.redirects = [] ∧ tb.replies = [] ∧ tb.damaged = [] ∧ (∀ x ∈ tb.clusters, x.2.ulines = []) ∧
    (∀ on : Bool, ∃ s : State, ∃ l : Leaf, s.walk 1 0x10000 = .leaf l ∧ l.pin = true ∧ l ∈ s.mappers l.pa ∧
      ∃ y, s.contexts.get l.cx = some y ∧ (l.va / 65536 ∈ y.asks ↔ on = true)) :=
  by
  refine ⟨by decide +kernel, by decide +kernel, rfl, rfl, ?_⟩
  rw [← and_assoc, ← and_assoc, ← and_assoc, ← and_assoc, ← and_assoc, ← and_assoc, ← and_assoc, ← and_assoc]
  exact ⟨by decide +kernel, fun on => ⟨pinnedState on, { codeLeaf with pin := true }, by cases on <;> decide +kernel,
    rfl, by cases on <;> decide +kernel, _, rfl, by cases on <;> decide +kernel⟩⟩

/-- A damaged LM word at core 0, whose slot 0 holds a task in a state that waits or not; a CSP word and a line of memory. -/
def damagedState (u : Nat) (st : TaskState) (w : Option Wait) : State :=
  { slotAs tb 0 fun t => { t with wait := w, ws := { t.ws with tsw := { t.ws.tsw with state := st } } } with
    damaged := [(.lm, 0, u), (.csp, 0, 3), (.mem, 0, 0x400)] }

theorem witness_Maintenance_rest :
    (∀ n ∈ [65539, 65538], ∃ (s : State) (r : Redirect), s.redirects[0]? = some r ∧ s.now = n ∧ (r.since + 65536 ≤ n ↔ n = 65539)) ∧
    ((damagedState 0x400 .runnable none).Canonical ∧
      (∀ x ∈ [(Space.lm, 0, 0x400), (.csp, 0, 3), (.mem, 0, 0x400)], x ∈ (damagedState 0x400 .runnable none).damaged) ∧
      (Space.lm, 0, 0x401) ∉ (damagedState 0x400 .runnable none).damaged ∧
      (∀ x ∈ (damagedState 0x400 .runnable none).clusters, x.2.ulines = [])) ∧
    (∀ x ∈ [(0x400, TaskState.runnable, none), (0x400, .parked, some (Wait.reply 1 true)), (0x400, .saved, some (.reply 1 true)),
        (3, .runnable, none)],
      let s := damagedState x.1 x.2.1 x.2.2
      (s.core 0).retired = false ∧ (s.core 0).lent = none ∧ (Space.lm, 0, x.1) ∈ s.damaged ∧ 129 ∉ s.trigEn ∧
        (s.taskClean 0 0 = true ↔ x.1 = 0x400) ∧ ((s.core 0).slot 0).held = true ∧
        ((s.core 0).slot 0).awaitsReply = x.2.2.isSome ∧ ∀ j, j < 8 → ((s.core 0).slot j).members = []) ∧
    ((tb.core 0).retired = false ∧ tb.damaged = []) ∧ (tb.die 0).thermal ≠ .tripped ∧ (∃ s : State, 129 ∈ s.trigEn ∧ 133 ∈ s.trigEn ∧ s.snapHeld = false) := by
  refine ⟨fun n hn => ⟨{ tb with redirects := [{ oldPa := 0x10000, newPa := 0x20000, since := 3 }], now := n },
      { oldPa := 0x10000, newPa := 0x20000, since := 3 }, rfl, rfl, ?_⟩, ⟨canonical_of_ok (by decide +kernel), by decide +kernel⟩,
    by decide +kernel, by decide +kernel, by decide +kernel, ⟨{ tb with trigEn := [129, 133] }, by decide +kernel⟩⟩
  simp only [List.mem_cons, List.not_mem_nil, or_false] at hn
  show 3 + 65536 ≤ n ↔ n = 65539
  omega

/-- Damage in the task's workspace, and outside all of it. -/
theorem witness_Maintenance_scrub : ∀ u ∈ [3, 0x400], (Space.lm, 0, u) ∈ (damagedState u .runnable none).damaged ∧
    ((damagedState u .runnable none).taskWord .lm 0 u = true ↔ u = 3) := by decide +kernel

/-- R375, R376: a scrub that meets an LM word's damage takes the core from service and rewrites the word, but not a task's own. -/
theorem test_scrub : (after (exec (.patrolScrub .lm 0 0x400) (damagedState 0x400 .runnable none))).here.retired = true ∧
    (after (exec (.patrolScrub .lm 0 0x400) (damagedState 0x400 .runnable none))).damaged.length = 2 ∧
    (after (exec (.patrolScrub .lm 0 3) (damagedState 3 .runnable none))).here.retired = true ∧
    (after (exec (.patrolScrub .lm 0 3) (damagedState 3 .runnable none))).damaged.length = 3 := by decide +kernel

end Sys2Proof.Tests
end

section
/-! PROOF. The local windows: what an access of the issuing task resolves to (R14 to R19, R110, R144, R279). -/

namespace Sys2Proof.Machine

theorem isGlobal_of_isLocal {a : Word} (h : isLocal a = true) : isGlobal a = false := by
  simp only [isLocal, isGlobal, beq_iff_eq, beq_eq_false_iff_ne] at *
  rw [h]
  decide

/-- An access to a window beyond its extent, or to no window, is XLATE (R15). -/
theorem State.resolve_beyond (s : State) (acc : Acc) {a : Word} {n : Nat} (hl : isLocal a = true)
    (he : s.extent s.hereCid (winSel a) < winOff a + n) : s.resolve acc a n = .error (.trap .xlate a) := by
  simp [State.resolve, isGlobal_of_isLocal hl, hl, he]

/-- An address in neither global space nor a window is XLATE (R14, R15). -/
theorem State.resolve_nowhere (s : State) (acc : Acc) {a : Word} (n : Nat) (hl : isLocal a = false)
    (hg : isGlobal a = false) : s.resolve acc a n = .error (.trap .xlate a) := by
  simp [State.resolve, hg, hl]

/-! ### The extents of the windows (R12, R15, R16) -/

@[simp] theorem State.extent_lm (s : State) (cid : Nat) : s.extent cid 0 = 0xC000 := rfl
@[simp] theorem State.extent_csp (s : State) (cid : Nat) : s.extent cid 1 = 0x40000 := rfl
@[simp] theorem State.extent_mqw (s : State) (cid : Nat) : s.extent cid 2 = 0x1000 := rfl
@[simp] theorem State.extent_dsw (s : State) :
    s.extent s.hereCid 3 = (s.dswRange s.cx (dieOf s.hereCid)).2 := rfl

theorem State.extent_none (s : State) (cid : Nat) {sel : Nat} (h : 4 ≤ sel) : s.extent cid sel = 0 := by
  obtain ⟨k, rfl⟩ := Nat.exists_eq_add_of_le' h
  rfl

/-! ### An access inside a window -/

section
variable {s : State} {acc : Acc} {a : Word} {n : Nat} (hl : isLocal a = true) (ha : acc ≠ .atomic)
include hl ha

/-- A load or store inside the LM's extent: the place, or PERM where the task may not reach it (R19). -/
theorem State.resolve_lm (hw : winSel a = 0) (he : winOff a + n ≤ 0xC000) :
    s.resolve acc a n = if s.lmAllowed (acc == .store) (winOff a) n then .ok (.lm s.hereCid (winOff a), s)
      else .error (.trap .perm a) := by
  cases hk : s.lmAllowed (acc == .store) (winOff a) n <;>
    simp [State.resolve, isGlobal_of_isLocal hl, hl, Nat.not_lt.2 he, hw, ha, hk]

theorem State.resolve_csp (hw : winSel a = 1) (he : winOff a + n ≤ 0x40000) :
    s.resolve acc a n = .ok (.csp (clusterOf s.hereCid) (winOff a), s) := by
  simp [State.resolve, isGlobal_of_isLocal hl, hl, Nat.not_lt.2 he, hw, ha]

theorem State.resolve_mqw (hw : winSel a = 2) (he : winOff a + n ≤ 0x1000) :
    s.resolve acc a n = .ok (.mqw (winOff a), s) := by
  simp [State.resolve, isGlobal_of_isLocal hl, hl, Nat.not_lt.2 he, hw, ha]

omit ha in
theorem State.resolve_dsw (hw : winSel a = 3) (he : winOff a + n ≤ (s.dswRange s.cx (dieOf s.hereCid)).2) :
    s.resolve acc a n = .ok (.dsw (dieOf s.hereCid) ((s.dswRange s.cx (dieOf s.hereCid)).1 + winOff a), s) := by
  simp [State.resolve, isGlobal_of_isLocal hl, hl, Nat.not_lt.2 he, hw]

end

/-- Where a task may reach bytes that begin in the workspace slots: in its own slot, by a store in the first 320 bytes
(R19, R110). -/
theorem State.lmAllowed_slot {s : State} {store : Bool} {o n : Nat} (ho : o < 0x1000) :
    s.lmAllowed store o n = true ↔
      o / 512 = s.here.cur.val ∧ (o + n - 1) / 512 = s.here.cur.val ∧ (store = true → o % 512 + n ≤ 320) := by
  cases store <;> simp [State.lmAllowed, Config.slotBytes, ho, and_assoc]

/-- Where a task may reach bytes beyond them: in no save area, and by a store in no counter block (R144, R279). -/
theorem State.lmAllowed_beyond {s : State} {store : Bool} {o n : Nat} (ho : 0x1000 ≤ o) :
    s.lmAllowed store o n = true ↔ s.here.inArea o n = false ∧ (store = true → s.here.onCounter o n = false) := by
  cases store <;> simp [State.lmAllowed, Config.slotBytes, Nat.not_lt.2 ho]

/-- Settles O17: resolve window by window, and in the LM by what lmAllowed says of a slot and beyond the slots. -/
theorem windows : Obligations.Windows := by
  intro s a n store hn acc o me
  have ha : acc ≠ .atomic := by cases store <;> decide
  have hst : (acc == .store) = store := by cases store <;> rfl
  have beyond (hl : isLocal a = true) := s.resolve_beyond acc (n := n) hl
  refine ⟨fun hl hw he => ?_, fun hl hw he => State.resolve_csp hl ha hw he, fun hl hw he => State.resolve_dsw hl hw he,
    fun hl hw he => beyond hl ?_, fun hl hw he => beyond hl ?_, fun hl hw he => beyond hl ?_,
    fun hl hw he => State.resolve_mqw hl ha hw he, fun hl hw he => beyond hl ?_, fun hl hw => beyond hl ?_,
    s.resolve_nowhere acc n⟩
  · have hr := State.resolve_lm (s := s) hl ha hw he
    rw [hst] at hr
    have reached (h : s.lmAllowed store o n = true) : s.resolve acc a n = .ok (.lm s.hereCid o, s) := by
      rw [hr, if_pos h]
    have refused (h : ¬ s.lmAllowed store o n = true) : s.resolve acc a n = .error (.trap .perm a) := by
      rw [hr, if_neg h]
    refine ⟨fun h1 h2 h3 => ?_, fun ho h => ?_, fun ho h1 h2 => ?_, fun ho h => ?_⟩
    · have ho : o < 0x1000 := by have := s.here.cur.isLt; omega
      exact reached ((State.lmAllowed_slot ho).2 ⟨h1, h2, h3⟩)
    · refine refused fun hk => ?_
      obtain ⟨h1, h2, h3⟩ := (State.lmAllowed_slot ho).1 hk
      rcases h with h | h | ⟨h, hlt⟩
      · exact h h1
      · exact h h2
      · exact absurd (h3 h) (Nat.not_le.2 hlt)
    · exact reached ((State.lmAllowed_beyond ho).2 ⟨h1, h2⟩)
    · refine refused fun hk => ?_
      obtain ⟨h1, h2⟩ := (State.lmAllowed_beyond ho).1 hk
      rcases h with h | ⟨hs, h⟩
      · exact absurd (h1.symm.trans h) (by decide)
      · exact absurd ((h2 hs).symm.trans h) (by decide)
  · simpa [hw] using he
  · simpa [hw] using he
  · rw [hw]
    exact he
  · simpa [hw] using he
  · rw [State.extent_none s _ hw]
    omega

end Sys2Proof.Machine
end

section
/-! PROOF. CPY, CPYG and CPYW: a transfer enters its channel, and the channel's counts are read (R235 to R240). -/

namespace Sys2Proof.Machine

/-! ### Starting a transfer -/

theorem aligned_of_mod {a : Word} {n : Nat} (h : a.toNat % n = 0) : aligned a n = .ok () := by
  simp [aligned, h]

/-- Check 4 of R237 passes at a free destination: with room the transfer goes to the end of the channel, for length 0
nothing does, and a full channel parks the task (R235). -/
theorem State.startTransfer_free {s : State} {t : Transfer} (ch : BitVec 3) (hd : s.DestFree t.dst t.len) :
    s.startTransfer ch t = if t.len = 0 then .ok s
      else if (s.here.chan ch.toNat).flight.length < 32 then .ok (s.withTransfer ch.toNat t)
      else .error (.park (.channel ch)) := by
  have hroom : (await (decide ((s.here.chan ch.toNat).flight.length < 32)) (.channel ch) >>= fun _ =>
      (.ok (s.withTransfer ch.toNat t) : Eff State)) =
      if (s.here.chan ch.toNat).flight.length < 32 then .ok (s.withTransfer ch.toNat t)
      else .error (.park (.channel ch)) := by
    split <;> rename_i h <;> simp [h]
  rw [← hroom]
  unfold State.startTransfer
  cases hw : s.window s.hereCid t.dst with
  | none => rfl
  | some l =>
    have hq := hd l hw
    simp only [hq]
    rfl

/-- What an instruction does that comes down to starting a transfer at a free destination. -/
theorem starts_transfer {s : State} {i : Instr} {ch : BitVec 3} {t : Transfer}
    (hi : exec i s = s.finish (s.startTransfer ch t)) (hd : s.DestFree t.dst t.len) :
    (t.len = 0 → Completes (exec i s) s) ∧
    (t.len ≠ 0 → (s.here.chan ch.toNat).flight.length < 32 → Completes (exec i s) (s.withTransfer ch.toNat t)) ∧
    (t.len ≠ 0 → 32 ≤ (s.here.chan ch.toNat).flight.length → exec i s = .next (s.park (.channel ch))) := by
  rw [State.startTransfer_free ch hd] at hi
  refine ⟨fun h0 => ?_, fun h0 hr => ?_, fun h0 hf => ?_⟩
  · rw [if_pos h0] at hi
    exact completes_advance hi
  · rw [if_neg h0, if_pos hr] at hi
    exact completes_advance hi
  · rw [if_neg h0, if_neg (Nat.not_lt.2 hf)] at hi
    exact hi

/-! ### CPY, CPYG and CPYW after their operand checks -/

/-- CPY whose checks 1 to 3 pass comes down to starting its transfer (R237). -/
theorem exec_cpy_checked {s : State} (ch : BitVec 3) {d a b : GReg} (hn : (s.g d).toNat ≤ 2 ^ 24)
    (hn4 : (s.g d).toNat % 4 = 0) (ha : (s.g a).toNat % 4 = 0) (hb : (s.g b).toNat % 4 = 0)
    (hsrc : s.engineCheck false (s.g a) (s.g d).toNat = .ok ())
    (hdst : s.engineCheck true (s.g b) (s.g d).toNat = .ok ()) :
    exec (.cpy ch d a b) s = s.finish (s.startTransfer ch
      { gather := false, src := s.g a, dst := s.g b, len := (s.g d).toNat, row := 0, limit := 0, list := 0, pos := 0,
        cur := none, fault := none, reported := false, listReported := false, slot := s.here.cur.val }) := by
  show execCpy ch d a b s = _
  have hlen := decide_eq_true (And.intro hn hn4)
  simp only [execCpy, hlen, demand_true, aligned_of_mod ha, aligned_of_mod hb, hsrc, hdst, Eff.bind_ok]

theorem evenPair_of {r : GReg} (h0 : r ≠ 0) (he : r.getLsbD 0 = false) : evenPair r = true := by
  rw [evenPair, he, Bool.not_false, Bool.and_true]
  exact bne_iff_ne.2 h0

/-- The row length and the row limit of CPYG, as halves of the second register of its first pair (R239). -/
theorem toNat_lowHalf (w : Word) : (w.extractLsb' 0 32).toNat = w.toNat % 2 ^ 32 := by
  simp [BitVec.extractLsb'_toNat]

theorem toNat_highHalf (w : Word) : (w.extractLsb' 32 32).toNat = w.toNat / 2 ^ 32 := by
  have := w.isLt
  rw [BitVec.extractLsb'_toNat, Nat.shiftRight_eq_div_pow, Nat.mod_eq_of_lt (by omega)]

section
variable {s : State} (ch : BitVec 3) {d a b : GReg}
  (hpairs : (evenPair a && evenPair b) = true)
  (hshape : (s.g (a + 1)).toNat % 2 ^ 32 % 4 = 0 ∧ (s.g (a + 1)).toNat % 2 ^ 32 ≠ 0 ∧
    (s.g (a + 1)).toNat % 2 ^ 32 ≤ 65536 ∧ (s.g d).toNat ≤ 65536 ∧
    (s.g d).toNat * ((s.g (a + 1)).toNat % 2 ^ 32) ≤ 2 ^ 24)
  (ha : (s.g a).toNat % 4 = 0) (hb : (s.g b).toNat % 4 = 0) (hl : (s.g (b + 1)).toNat % 4 = 0)
include hpairs hshape ha hb hl

/-- CPYG with legal pairs, lengths and alignment, and its table outside global space, traps at the table (R15, R237). -/
theorem exec_cpyg_table (hg : isGlobal (s.g a) = false) :
    exec (.cpyg ch d a b) s = .next (s.takeTrap (s.windowCause (s.g a) 1) (s.g a)) := by
  show execCpyg ch d a b s = _
  have hs := decide_eq_true hshape
  simp only [execCpyg, GReg.next, toNat_lowHalf, hpairs, hs, hg, demand_true, demandOr_false, aligned_of_mod ha,
    aligned_of_mod hb, aligned_of_mod hl, Eff.bind_ok, Eff.bind_error, State.finish_error, State.settle_trap]

/-- CPYG whose checks 1 to 3 pass comes down to starting its transfer (R237, R239). -/
theorem exec_cpyg_checked (hg : isGlobal (s.g a) = true)
    (hdst : s.engineCheck true (s.g b) ((s.g d).toNat * ((s.g (a + 1)).toNat % 2 ^ 32)) = .ok ())
    (hloc : isLocal (s.g (b + 1)) = true) (hwin : winSel (s.g (b + 1)) ≤ 1)
    (hlist : s.engineCheck false (s.g (b + 1)) (4 * (s.g d).toNat) = .ok ()) :
    exec (.cpyg ch d a b) s = s.finish (s.startTransfer ch
      { gather := true, src := s.g a, dst := s.g b, len := (s.g d).toNat * ((s.g (a + 1)).toNat % 2 ^ 32),
        row := (s.g (a + 1)).toNat % 2 ^ 32, limit := (s.g (a + 1)).toNat / 2 ^ 32, list := s.g (b + 1), pos := 0,
        cur := none, fault := none, reported := false, listReported := false, slot := s.here.cur.val }) := by
  show execCpyg ch d a b s = _
  have hs := decide_eq_true hshape
  simp only [execCpyg, GReg.next, toNat_lowHalf, toNat_highHalf, hpairs, hs, hg, hdst, hloc, hwin, hlist, decide_true,
    Bool.and_self, demand_true, demandOr_true, aligned_of_mod ha, aligned_of_mod hb, aligned_of_mod hl, Eff.bind_ok]

end

/-- Outside global space a table's base is PERM where a byte of a window lies there, and else XLATE (R15, log entry 25). -/
theorem State.windowCause_one (s : State) (a : Word) : s.windowCause a 1 =
    if isLocal a = true ∧ winOff a + 1 ≤ s.extent s.hereCid (winSel a) then .perm else .xlate := by
  cases hl : isLocal a
  · simp [State.windowCause, hl]
  · by_cases he : winOff a + 1 ≤ s.extent s.hereCid (winSel a)
    · simp [State.windowCause, hl, he, Nat.not_lt.2 he]
    · simp [State.windowCause, hl, he, Nat.lt_of_not_le he]

/-- CPYW's operand is a count of 48 bits where the register's upper 16 bits are zero (R240). -/
theorem high16_beq_zero (w : Word) : (w.extractLsb' 48 16 == 0#16) = decide (w.toNat < 2 ^ 48) := by
  have := w.isLt
  rw [Bool.eq_iff_iff, beq_iff_eq, decide_eq_true_eq, ← BitVec.toNat_inj, BitVec.extractLsb'_toNat,
    Nat.shiftRight_eq_div_pow]
  simp only [BitVec.toNat_ofNat]
  omega

theorem low48_eq_ofNat (w : Word) : w.extractLsb' 0 48 = BitVec.ofNat 48 w.toNat := by
  apply BitVec.eq_of_toNat_eq
  simp

/-- What CPYW reads: DROPS above BYTES (R236, R240). -/
theorem Channel.counts (x : Channel) :
    (x.drops ++ x.bytes : Word) = BitVec.ofNat 64 (x.drops.toNat * 2 ^ 48 + x.bytes.toNat) := by
  apply BitVec.eq_of_toNat_eq
  have h1 := x.drops.isLt
  have h2 := x.bytes.isLt
  rw [BitVec.toNat_append, ← Nat.shiftLeft_add_eq_or_of_lt h2, Nat.shiftLeft_eq, BitVec.toNat_ofNat,
    Nat.mod_eq_of_lt (by omega)]

/-- CPYW of a count: it reads the channel's counts once they have reached it, and parks before (R240). -/
theorem exec_cpyw_count {s : State} (ch : BitVec 3) (d : GReg) {a : GReg} (ha : (s.g a).toNat < 2 ^ 48) :
    exec (.cpyw ch d a) s =
      if ((s.here.chan ch.toNat).bytes - BitVec.ofNat 48 (s.g a).toNat).toNat < 2 ^ 47 then
        .next (s.setG d (BitVec.ofNat 64 ((s.here.chan ch.toNat).drops.toNat * 2 ^ 48 +
          (s.here.chan ch.toNat).bytes.toNat))).advance
      else .next (s.park (.cpyw ch (BitVec.ofNat 48 (s.g a).toNat))) := by
  show execCpyw ch d a s = _
  simp only [execCpyw, high16_beq_zero, decide_eq_true ha, low48_eq_ofNat, Channel.counts, demand_true, Eff.bind_ok]
  split <;> rename_i h <;> simp only [h, decide_true, decide_false] <;> rfl

/-- CPYW of what is no count (R240). -/
theorem exec_cpyw_illop {s : State} (ch : BitVec 3) (d : GReg) {a : GReg} (ha : 2 ^ 48 ≤ (s.g a).toNat) :
    exec (.cpyw ch d a) s = .next (s.takeTrap .illop 0) := by
  show execCpyw ch d a s = _
  simp only [execCpyw, high16_beq_zero, decide_eq_false (Nat.not_lt.2 ha)]
  rfl

/-- Settles O41: each copy passes its checks in the order of R237 and comes down to starting its transfer. -/
theorem copiesStart : Obligations.CopiesStart := by
  intro s ch d a b me x n starts
  refine ⟨fun hn hn4 ha hb hsrc hdst hd => starts_transfer (exec_cpy_checked ch hn hn4 ha hb hsrc hdst) hd, ?_,
    fun ha => ?_, exec_cpyw_illop ch d⟩
  · intro row limit list ha0 hb0 hae hbe hr4 hr0 hr hn hnr ha hb hl
    have hpairs : (evenPair a && evenPair b) = true := by
      rw [evenPair_of ha0 hae, evenPair_of hb0 hbe]
      rfl
    have hshape := And.intro hr4 (And.intro hr0 (And.intro hr (And.intro hn hnr)))
    refine ⟨fun hg => ?_, fun hg hdst hloc hwin hlist hd =>
      starts_transfer (exec_cpyg_checked ch hpairs hshape ha hb hl hg hdst hloc hwin hlist) hd⟩
    rw [exec_cpyg_table ch hpairs hshape ha hb hl hg, s.windowCause_one]
  · have hx := exec_cpyw_count ch d ha
    refine ⟨fun hr => completes_advance ?_, fun hr => ?_⟩
    · rwa [if_pos hr] at hx
    · rwa [if_neg (Nat.not_lt.2 hr)] at hx

end Sys2Proof.Machine
end

section
/-! PROOF. The bytes that a load returns and a store changes (R17 to R20, R198, R200, R222). -/

namespace Sys2Proof.Machine

/-! ### Places and the bytes at them -/

@[simp] theorem Loc.add_zero (l : Loc) : l.add 0 = l := by cases l <;> rfl

theorem Loc.add_add (l : Loc) (i j : Nat) : (l.add i).add j = l.add (i + j) := by
  cases l <;> simp [Loc.add, Nat.add_assoc]

theorem Loc.add_inj {l : Loc} {i j : Nat} : l.add i = l.add j ↔ i = j := by
  cases l <;> simp [Loc.add]

theorem Loc.plain_add {l : Loc} (h : l.plain) (i : Nat) : (l.add i).plain := by
  cases l with
  | lm cid o => exact Nat.le_add_right_of_le h
  | _ => trivial

theorem Loc.add_ne_mqw {l : Loc} (h : ∀ o, l ≠ .mqw o) (i o : Nat) : l.add i ≠ .mqw o := by
  cases l with
  | mqw o => exact absurd rfl (h o)
  | _ => exact nofun

theorem State.bytesAt_succ (s : State) (l : Loc) (n : Nat) :
    s.bytesAt l (n + 1) = s.bytesAt l n + (s.byteAt (l.add n)).toNat * 256 ^ n := by
  simp [State.bytesAt, List.range_succ]

/-- peek reads from the lowest byte up; its highest byte split off. -/
theorem State.peek_succ (s : State) (l : Loc) (n : Nat) :
    s.peek l (n + 1) = s.peek l n + (s.byteAt (l.add n)).toNat * 256 ^ n := by
  induction n generalizing l with
  | zero => simp [State.peek]
  | succ n ih =>
    calc s.peek l (n + 1 + 1)
        = (s.byteAt l).toNat + 256 * s.peek (l.add 1) (n + 1) := rfl
      _ = (s.byteAt l).toNat + 256 * s.peek (l.add 1) n + (s.byteAt (l.add (n + 1))).toNat * 256 ^ (n + 1) := by
        rw [ih, Loc.add_add, Nat.add_comm 1 n]; ring

theorem State.peek_eq_bytesAt (s : State) (l : Loc) (n : Nat) : s.peek l n = s.bytesAt l n := by
  induction n with
  | zero => rfl
  | succ n ih => rw [State.peek_succ, State.bytesAt_succ, ih]

/-- The value of n bytes that are the low bytes of a word (R139). -/
theorem State.bytesAt_word {s : State} {l : Loc} (w : Word) (n : Nat)
    (h : ∀ j, j < n → s.byteAt (l.add j) = w.extractLsb' (8 * j) 8) : s.bytesAt l n = w.toNat % 256 ^ n := by
  induction n with
  | zero => simp [State.bytesAt, Nat.mod_one]
  | succ n ih =>
    rw [State.bytesAt_succ, ih fun j hj => h j (by omega), h n (by omega), BitVec.extractLsb'_toNat,
      Nat.shiftRight_eq_div_pow, Nat.pow_mul, Nat.mul_comm _ (256 ^ n), Nat.pow_succ 256 n]
    exact (Nat.mod_mul (a := 256 ^ n) (b := 256)).symm

/-! ### Updates that change no byte (R139) -/

/-- Without waiters, none appear and no workspace slot changes. -/
def State.SlotsStay (s t : State) : Prop :=
  s.waiters = [] → t.waiters = [] ∧ ∀ c i, (t.core c).slot i = (s.core c).slot i

/-- Every byte of every memory reads as before, and without waiters the workspace slots stay. -/
structure State.Keeps (s t : State) : Prop where
  bytes : ∀ x, t.byteAt x = s.byteAt x
  slots : s.SlotsStay t

theorem State.SlotsStay.trans {s t u : State} (h : s.SlotsStay t) (k : t.SlotsStay u) : s.SlotsStay u := fun hw =>
  ⟨(k (h hw).1).1, fun c i => ((k (h hw).1).2 c i).trans ((h hw).2 c i)⟩

theorem State.Keeps.refl (s : State) : s.Keeps s := ⟨fun _ => rfl, fun h => ⟨h, fun _ _ => rfl⟩⟩

theorem State.Keeps.trans {s t u : State} (h : s.Keeps t) (k : t.Keeps u) : s.Keeps u :=
  ⟨fun x => (k.bytes x).trans (h.bytes x), h.slots.trans k.slots⟩

theorem State.keeps_foldl {α : Type} {f : State → α → State} (h : ∀ (s : State) (a : α), s.Keeps (f s a)) (s : State)
    (l : List α) :
    s.Keeps (l.foldl f s) :=
  List.foldlRecOn l f (.refl s) fun _ hb a _ => hb.trans (h _ a)

theorem State.keeps_damaged (s : State) (d : List (Space × Nat × Nat)) : s.Keeps { s with damaged := d } :=
  ⟨fun x => by cases x <;> rfl, fun h => ⟨h, fun _ _ => rfl⟩⟩

theorem State.keeps_oldCode (s : State) (l : List (Nat × Half × Nat)) : s.Keeps { s with oldCode := l } :=
  ⟨fun x => by cases x <;> rfl, fun h => ⟨h, fun _ _ => rfl⟩⟩

theorem State.keeps_modCluster (s : State) (c : Nat) (f : Cluster → Cluster)
    (hf : (f (s.cluster c)).csp = (s.cluster c).csp) : s.Keeps (s.modCluster c f) := by
  refine ⟨fun x => ?_, fun h => ⟨h, fun _ _ => rfl⟩⟩
  cases x with
  | csp c' o =>
    simp only [State.byteAt, State.cluster_modCluster]
    split
    · next h => rw [h, hf]
    · rfl
  | _ => rfl

theorem State.keeps_modLate (s : State) (c : Nat) (f : List Late → List Late) : s.Keeps (s.modLate c f) := by
  unfold State.modLate
  split
  · exact .refl s
  · exact s.keeps_modCluster c _ rfl

theorem State.keeps_dropCopy (s : State) (c line : Nat) : s.Keeps (s.dropCopy c line) := by
  unfold State.dropCopy State.dropCopies
  exact s.keeps_modCluster c _ rfl

/-- What changes of a task beside its workspace bytes changes no byte of the LM. -/
theorem Core.lmByte_modSlot (c : Core) (i o : Nat) {f : Slot → Slot} (hf : ∀ t, (f t).ws = t.ws) :
    (c.modSlot i f).lmByte o = c.lmByte o := by
  simp only [Core.lmByte, Core.modSlot, Core.slot_setSlot]
  split
  · split
    · next h => rw [hf, h.1]
    · rfl
  · rfl

theorem State.byteAt_modSlot (s : State) (cid i : Nat) {f : Slot → Slot} (hf : ∀ t, (f t).ws = t.ws) (x : Loc) :
    (s.modSlot cid i f).byteAt x = s.byteAt x := by
  unfold State.modSlot State.modCore
  cases x with
  | lm k o =>
    simp only [State.byteAt, State.core_setCore]
    split
    · next h => rw [h, Core.lmByte_modSlot _ _ _ hf]
    · rfl
  | csp c o => simp [State.byteAt, State.cluster]
  | dsw d o => simp [State.byteAt, State.die]
  | mqw o => rfl
  | phys a => simp [State.byteAt]

/-- A reply to a waiter changes no byte (R225). -/
theorem State.byteAt_answerWaiter (s : State) (w : Waiter) (x : Loc) : (s.answerWaiter w).byteAt x = s.byteAt x := by
  unfold State.answerWaiter
  split
  · next y _ =>
    rcases s.answerFar_cases y with h | ⟨v, h⟩
    · rw [h]
    · rw [h]
      cases x <;> rfl
  · refine s.byteAt_modSlot _ _ (fun t => ?_) x
    split <;> rfl

theorem State.wakeLine_of_no_waiters {s : State} (h : s.waiters = []) (line : Loc) : s.wakeLine line = s := by
  obtain ⟨⟩ := s
  subst h
  rfl

theorem State.keeps_wakeLine (s : State) (line : Loc) : s.Keeps (s.wakeLine line) := by
  refine ⟨fun x => ?_, fun h => by rw [State.wakeLine_of_no_waiters h]; exact ⟨h, fun _ _ => rfl⟩⟩
  exact List.foldlRecOn (motive := fun (t : State) => t.byteAt x = s.byteAt x) _ _ (by cases x <;> rfl)
    fun t ht w _ => (t.byteAt_answerWaiter w x).trans ht

/-- Outside the workspace slots, a write mends damaged units and nothing else (R375). -/
theorem State.mend_plain (s : State) {l : Loc} (hp : l.plain) (n : Nat) : ∃ d, s.mend l n = { s with damaged := d } := by
  unfold State.mend
  split
  · exact ⟨s.damaged, rfl⟩
  · cases l with
    | lm cid o => exact ⟨_, if_neg (Nat.not_lt.2 hp)⟩
    | _ => exact ⟨_, rfl⟩

/-! ### Lines that no cluster holds in U state, or holds at all (R200, R222) -/

/-- No cluster holds the line in U state. -/
def State.NoULine (s : State) (line : Nat) : Prop := ∀ x ∈ s.clusters, ∀ u ∈ x.2.ulines, u.line ≠ line

/-- What holds of every listed cluster and of one at reset holds of each. -/
theorem State.forall_cluster {s : State} {p : Cluster → Prop} (h : ∀ x ∈ s.clusters, p x.2) (h0 : p Cluster.reset)
    (c : Nat) : p (s.cluster c) := by
  unfold State.cluster
  cases hg : s.clusters.get c with
  | none => exact h0
  | some x => exact h _ (Table.mem_of_get hg)

theorem State.combineLine_of_noULine {s : State} {line : Nat} (h : s.NoULine line) : s.combineLine line = s := by
  refine List.foldlRecOn (motive := fun t => t = s) _ _ rfl fun t ht x hx => ?_
  have hn : (x.2.ulines.find? fun u => u.line == line) = none := by
    simpa [List.find?_eq_none] using h x hx
  simp [hn, ht]

theorem State.noULine_modCluster {s : State} {line : Nat} (h : s.NoULine line) (c : Nat) (f : Cluster → Cluster)
    (hf : (f (s.cluster c)).ulines = (s.cluster c).ulines) : (s.modCluster c f).NoULine line := by
  intro x hx
  rcases Table.mem_put hx with rfl | hx
  · have := s.forall_cluster (p := fun y => ∀ u ∈ y.ulines, u.line ≠ line) h (by simp [Cluster.reset]) c
    rwa [← hf] at this
  · exact h x hx

theorem State.noULine_modLate {s : State} {line : Nat} (h : s.NoULine line) (c : Nat) (f : List Late → List Late) :
    (s.modLate c f).NoULine line := by
  unfold State.modLate
  split
  · exact h
  · exact State.noULine_modCluster h c _ rfl

theorem State.canonical_modLate {s : State} (h : s.Canonical) (c : Nat) (f : List Late → List Late) :
    (s.modLate c f).Canonical := by
  unfold State.modLate
  split
  · exact h
  · exact State.canonical_setCluster h (x := { s.cluster c with late := f (s.cluster c).late }) (s.canonical_cluster h c) c

section
variable {s : State} {pa : Nat} (h : s.Uncached (.phys pa))
include h

theorem State.noULine_of_uncached : s.NoULine (pa / 64) := fun x hx => (h pa rfl x hx).1

theorem State.copyOf_uncached (c : Nat) : s.copyOf c (pa / 64) = none := by
  have hc : ∀ y ∈ (s.cluster c).copies, y.line ≠ pa / 64 := s.forall_cluster
    (p := fun z => ∀ y ∈ z.copies, y.line ≠ pa / 64) (fun x hx => (h pa rfl x hx).2.1) (by simp [Cluster.reset]) c
  unfold State.copyOf
  split
  · rfl
  · rw [List.find?_eq_none]
    intro y hy
    simp [hc y hy]

theorem State.lateValues_uncached (n : Nat) : s.lateValues pa n = [] := by
  have hl : ∀ y ∈ (s.cluster (clusterOf s.hereCid)).late, y.line ≠ pa / 64 := s.forall_cluster
    (p := fun z => ∀ y ∈ z.late, y.line ≠ pa / 64) (fun x hx => (h pa rfl x hx).2.2) (by simp [Cluster.reset]) _
  rw [State.lateValues, List.map_eq_nil_iff, List.filter_eq_nil_iff]
  rintro ⟨y, i⟩ hy
  have := hl y (List.fst_mem_of_mem_zipIdx hy)
  simp [this]

end

/-! ### Loads (R198, R200) -/

theorem State.loadAt_local (s : State) (cid : Nat) (nc : Bool) {l : Loc} (n : Nat) (h : ∀ pa, l ≠ .phys pa) :
    s.loadAt cid nc l n = (s.bytesAt l n, s) := by
  rw [← State.peek_eq_bytesAt]
  cases l with
  | phys pa => exact absurd rfl (h pa)
  | _ => rfl

/-- A load of a line that nothing caches gives the home's bytes, and leaves every byte and every register. -/
theorem State.loadPhys_uncached {s : State} {pa : Nat} (h : s.Uncached (.phys pa)) (c : Nat) (nc : Bool) (n : Nat) :
    (s.loadPhys c nc pa n).1 = s.bytesAt (.phys pa) n ∧ (s.loadPhys c nc pa n).2.here = s.here ∧
      s.Keeps (s.loadPhys c nc pa n).2 := by
  have hdrop := s.keeps_dropCopy c (pa / 64)
  unfold State.loadPhys
  simp only [State.copyOf_uncached h, State.combineLine_of_noULine (State.noULine_of_uncached h), State.peek_eq_bytesAt]
  refine ⟨trivial, ?_, ?_⟩
  · cases nc <;> rfl
  · split
    · exact hdrop
    · exact hdrop.trans (State.keeps_modCluster _ c _ rfl)

theorem State.loadAt_uncached {s : State} {l : Loc} (h : s.Uncached l) (cid : Nat) (nc : Bool) (n : Nat) :
    (s.loadAt cid nc l n).1 = s.bytesAt l n ∧ (s.loadAt cid nc l n).2.here = s.here ∧
      s.Keeps (s.loadAt cid nc l n).2 := by
  by_cases hl : ∀ pa, l ≠ .phys pa
  · rw [s.loadAt_local cid nc n hl]
    exact ⟨rfl, rfl, .refl s⟩
  · obtain ⟨pa, rfl⟩ := not_forall_not.1 hl
    exact State.loadPhys_uncached h _ nc n

/-- With no store to the line that it may not see, a task loads what its cluster would (log entry 4). -/
theorem State.loadTask_of_no_late {s : State} {l : Loc} {n : Nat} (h : ∀ pa, l = .phys pa → s.lateValues pa n = [])
    (nc : Bool) : s.loadTask nc l n = s.loadAt s.hereCid nc l n := by
  cases l with
  | phys pa => simp [State.loadTask, h pa rfl]
  | _ => rfl

/-- Each older value that a task may still read of a line is that of a store younger than 65,536 cc that the task has not
passed. -/
theorem State.mem_lateValues {s : State} {pa n : Nat} {v : Nat × Nat} (h : v ∈ s.lateValues pa n) :
    ∃ y ∈ (s.cluster (s.hereCid / 8)).late, y.line = pa / 64 ∧ s.now < y.since + 65536 ∧
      (s.hereCid, s.task.taskId) ∉ y.barred ∧ v.1 = y.data.toNat / 2 ^ (8 * (pa % 64)) % 2 ^ (8 * n) := by
  obtain ⟨⟨y, i⟩, hy, rfl⟩ := List.mem_map.1 h
  obtain ⟨hm, hy⟩ := List.mem_filter.1 hy
  simp only [Bool.and_eq_true, beq_iff_eq, decide_eq_true_eq, Bool.not_eq_true', List.contains_eq_mem,
    decide_eq_false_iff_not] at hy
  obtain ⟨⟨hline, hage⟩, hbar⟩ := hy
  exact ⟨y, List.fst_mem_of_mem_zipIdx hm, hline, hage, hbar, rfl⟩

/-- A load of a task gives what its cluster would load, with some free choice, or one of the older values (log entries 4,
5). -/
theorem State.loadTask_value (s : State) (nc : Bool) (pa n : Nat) :
    (∃ k, (s.loadTask nc (.phys pa) n).1 = (({ s with tick := k } : State).loadAt s.hereCid nc (.phys pa) n).1) ∨
      ∃ v ∈ s.lateValues pa n, (s.loadTask nc (.phys pa) n).1 = v.1 := by
  unfold State.loadTask
  dsimp only
  split
  · exact .inl ⟨s.tick, rfl⟩
  · split
    · exact .inl ⟨s.tick, rfl⟩
    · split
      · next t hk =>
        have ht : t = { s with tick := s.tick + 1 } := congrArg Prod.snd hk.symm
        subst ht
        exact .inl ⟨_, rfl⟩
      · next k t hk =>
        have hlt := s.choose_lt ((s.lateValues pa n).length + 1) (Nat.succ_pos _)
        rw [hk] at hlt
        have hk' : k < (s.lateValues pa n).length := Nat.lt_of_succ_lt_succ hlt
        refine .inr ⟨_, List.getElem_mem hk', ?_⟩
        rw [List.getD_eq_getElem _ _ hk']

/-! ### Stores outside the workspace slots (R139, R200, R204) -/

/-- What a store of the n low bytes of v at l leaves: those bytes, every other byte as before, and without waiters the
workspace slots. -/
structure State.Stored (s t : State) (l : Loc) (n v : Nat) : Prop where
  written : ∀ i, i < n → t.byteAt (l.add i) = BitVec.ofNat 8 (v / 256 ^ i)
  frame : ∀ x : Loc, x.outside l n → t.byteAt x = s.byteAt x
  slots : s.SlotsStay t

theorem State.Stored.then_keeps {s t u : State} {l : Loc} {n v : Nat} (h : s.Stored t l n v) (k : t.Keeps u) :
    s.Stored u l n v :=
  ⟨fun i hi => (k.bytes _).trans (h.written i hi), fun x hx => (k.bytes x).trans (h.frame x hx), h.slots.trans k.slots⟩

theorem State.Keeps.then_stored {s t u : State} {l : Loc} {n v : Nat} (k : s.Keeps t) (h : t.Stored u l n v) :
    s.Stored u l n v :=
  ⟨h.written, fun x hx => (h.frame x hx).trans (k.bytes x), k.slots.trans h.slots⟩

theorem State.slotsStay_setByteAt (s : State) {l : Loc} (hp : l.plain) (b : Byte) : s.SlotsStay (s.setByteAt l b) := by
  intro hw
  cases l with
  | lm cid o =>
    refine ⟨(s.setCore_waiters cid _).trans hw, fun c i => ?_⟩
    show ((s.modCore cid _).core c).slot i = _
    rw [State.core_modCore]
    split
    · next h =>
      rw [h, Core.setLmByte, if_neg (Nat.not_lt.2 hp)]
      rfl
    · rfl
  | _ => exact ⟨hw, fun _ _ => rfl⟩

theorem State.stored_poke {s : State} (hc : s.Canonical) {l : Loc} (hp : l.plain) (hl : ∀ o, l ≠ .mqw o) (n v : Nat) :
    s.Stored (s.poke l n v) l n v := by
  induction n generalizing s l v with
  | zero => exact ⟨fun i hi => absurd hi (Nat.not_lt_zero i), fun _ _ => rfl, (State.Keeps.refl s).slots⟩
  | succ n ih =>
    have hb := fun x => s.byteAt_setByteAt hc l x (BitVec.ofNat 8 v) hp hl
    have hr := ih (s.canonical_setByteAt hc l (BitVec.ofNat 8 v)) (Loc.plain_add hp 1) (Loc.add_ne_mqw hl 1) (v / 256)
    refine ⟨fun i hi => ?_, fun x hx => ?_, (s.slotsStay_setByteAt hp _).trans hr.slots⟩
    · cases i with
      | zero =>
        have hout : (l.add 0).outside (l.add 1) n := fun i _ h => by
          rw [Loc.add_add, Loc.add_inj] at h
          omega
        refine (hr.frame _ hout).trans ?_
        rw [hb, if_pos l.add_zero, Nat.pow_zero, Nat.div_one]
      | succ i =>
        have := hr.written i (by omega)
        rwa [Loc.add_add, Nat.add_comm 1 i, Nat.div_div_eq_div_mul, ← Nat.pow_succ'] at this
    · have hout : x.outside (l.add 1) n := fun i hi => by
        rw [Loc.add_add, Nat.add_comm 1 i]
        exact hx (i + 1) (by omega)
      have hne : x ≠ l := by simpa using hx 0 (by omega)
      exact (hr.frame x hout).trans ((hb x).trans (if_neg hne))

theorem State.stored_storeHome {s : State} (hc : s.Canonical) {pa : Nat} (hu : s.NoULine (pa / 64)) (n v : Nat) :
    s.Stored (s.storeHome pa n v) (.phys pa) n v := by
  unfold State.storeHome
  rw [State.combineLine_of_noULine hu]
  exact ((State.stored_poke (l := .phys pa) hc trivial nofun n v).then_keeps (State.keeps_oldCode _ _)).then_keeps
    (State.keeps_wakeLine _ _)

theorem State.stored_storeAt {s : State} (hc : s.Canonical) {l : Loc} (hp : l.plain) (hl : ∀ o, l ≠ .mqw o)
    (hu : ∀ pa, l = .phys pa → s.NoULine (pa / 64)) (cid n v : Nat) : s.Stored (s.storeAt cid l n v) l n v := by
  obtain ⟨d, hd⟩ := s.mend_plain hp n
  have hs : ({ s with damaged := d } : State).Canonical := hc
  refine (s.keeps_damaged d).then_stored ?_
  unfold State.storeAt
  rw [hd]
  cases l with
  | phys pa => exact (State.stored_storeHome hs (hu pa rfl) n v).then_keeps (State.keeps_modCluster _ _ _ rfl)
  | dsw k o => exact (State.stored_poke hs hp hl n v).then_keeps (State.keeps_foldl State.keeps_wakeLine _ _)
  | mqw o => exact absurd rfl (hl o)
  | _ => exact State.stored_poke hs hp hl n v

theorem State.stored_storeTask {s : State} (hc : s.Canonical) {l : Loc} (hp : l.plain) (hl : ∀ o, l ≠ .mqw o)
    (hu : ∀ pa, l = .phys pa → s.NoULine (pa / 64)) (n v : Nat) : s.Stored (s.storeTask l n v) l n v := by
  cases l with
  | phys pa =>
    unfold State.storeTask State.barLate
    refine ((s.keeps_modLate _ _).then_stored (State.stored_storeAt (State.canonical_modLate hc _ _) hp hl
      (fun pa' h => State.noULine_modLate (hu pa' h) _ _) s.hereCid n v)).then_keeps (State.keeps_modCluster _ _ _ rfl)
  | _ => exact State.stored_storeAt hc hp hl hu s.hereCid n v

/-! ### The registers that the bytes of a workspace slot are (R17 to R20, R107) -/

theorem Workspace.word_g (w : Workspace) (r : Fin 32) : w.word r.val = w.g[r] := by
  simp [Workspace.word, vget]

theorem Workspace.word_mb (w : Workspace) (r : Fin 8) : w.word (32 + r.val) = w.mb[r] := by
  have := r.isLt
  rw [Workspace.word, if_neg (by omega), if_pos (by omega)]
  simp [vget]

theorem Workspace.word_pc (w : Workspace) : w.word 40 = w.pc := rfl

/-- Word k of slot i, read in the LM. -/
theorem State.bytesAt_slot_word (s : State) (cid : Nat) {i k : Nat} (hi : i < 8) (hk : k < 64) :
    s.bytesAt (.lm cid (512 * i + 8 * k)) 8 = (((s.core cid).slot i).ws.word k).toNat := by
  have hlt := (((s.core cid).slot i).ws.word k).isLt
  rw [State.bytesAt_word (((s.core cid).slot i).ws.word k) 8 fun j hj => ?_, Nat.mod_eq_of_lt (by omega)]
  show (s.core cid).lmByte (512 * i + 8 * k + j) = _
  have h1 : (512 * i + 8 * k + j) / 512 = i := by omega
  have h2 : (512 * i + 8 * k + j) % 512 / 8 = k := by omega
  have h3 : (512 * i + 8 * k + j) % 512 % 8 = j := by omega
  have hslot : 512 * i + 8 * k + j < Config.slotBytes := by
    show _ < 0x1000
    omega
  rw [Core.lmByte, if_pos hslot, Workspace.byte, h1, h2, h3]

/-- n bytes of a word replaced from byte j, as setByte replaces each. -/
def pokeWord (w : Word) (j : Nat) : Nat → Nat → Word
  | 0, _ => w
  | n + 1, v => pokeWord (setByte w j (BitVec.ofNat 8 v)) (j + 1) n (v / 256)

theorem getLsbD_setByte (w : Word) (j : Nat) (b : Byte) {k : Nat} (hk : k < 64) :
    (setByte w j b).getLsbD k = if 8 * j ≤ k ∧ k < 8 * j + 8 then b.getLsbD (k - 8 * j) else w.getLsbD k := by
  have hones (m : Nat) : (0xFF#64).getLsbD m = decide (m < 8) := by
    rw [show (0xFF#64) = (BitVec.allOnes 8).setWidth 64 from rfl, BitVec.getLsbD_setWidth, BitVec.getLsbD_allOnes]
    by_cases h : m < 8
    · simp [h, show m < 64 by omega]
    · simp [h]
  simp only [setByte, BitVec.getLsbD_or, BitVec.getLsbD_and, BitVec.getLsbD_not, BitVec.getLsbD_shiftLeft, hones,
    BitVec.getLsbD_setWidth, hk]
  by_cases h1 : 8 * j ≤ k
  · by_cases h2 : k < 8 * j + 8
    · simp [h1, h2, show k - 8 * j < 8 by omega, Nat.not_lt.2 h1, show k - 8 * j < 64 by omega]
    · have : b.getLsbD (k - 8 * j) = false := BitVec.getLsbD_of_ge _ _ (by omega)
      simp [h2, show ¬ k - 8 * j < 8 by omega, this]
  · simp [h1, Nat.lt_of_not_le h1]

theorem getLsbD_pokeWord (w : Word) (j n v : Nat) {k : Nat} (hk : k < 64) :
    (pokeWord w j n v).getLsbD k = if 8 * j ≤ k ∧ k < 8 * (j + n) then v.testBit (k - 8 * j) else w.getLsbD k := by
  induction n generalizing w j v with
  | zero => rw [if_neg (by omega)]; rfl
  | succ n ih =>
    rw [pokeWord, ih, getLsbD_setByte _ _ _ hk]
    by_cases h1 : 8 * (j + 1) ≤ k ∧ k < 8 * (j + 1 + n)
    · rw [if_pos h1, if_pos (by omega), show v / 256 = v / 2 ^ 8 from rfl, Nat.testBit_div_two_pow]
      congr 1
      omega
    · rw [if_neg h1]
      by_cases h2 : 8 * j ≤ k ∧ k < 8 * j + 8
      · rw [if_pos h2, if_pos (by omega), BitVec.getLsbD_ofNat]
        simp [show k - 8 * j < 8 by omega]
      · rw [if_neg h2, if_neg (by omega)]

/-- All eight bytes of a word replaced. -/
theorem pokeWord_all (w v : Word) : pokeWord w 0 8 v.toNat = v := by
  apply BitVec.eq_of_getLsbD_eq
  intro k hk
  rw [getLsbD_pokeWord _ _ _ _ hk, if_pos (by omega)]
  rfl

/-- n bytes of a workspace replaced from byte o, as a store's bytes act on it (R19). -/
def Workspace.pokeBytes (w : Workspace) (o : Nat) : Nat → Nat → Workspace
  | 0, _ => w
  | n + 1, v => (w.setByteAt o (BitVec.ofNat 8 v)).pokeBytes (o + 1) n (v / 256)

/-- Bytes replaced within the eight of one register, by how a write of one byte acts on it. -/
theorem Workspace.pokeBytes_register {o : Nat} {get : Workspace → Word} {put : Workspace → Word → Workspace}
    (hset : ∀ w j b, j < 8 → w.setByteAt (o + j) b = put w (setByte (get w) j b)) (hget : ∀ w x, get (put w x) = x)
    (hput : ∀ w x y, put (put w x) y = put w y) (hself : ∀ w, put w (get w) = w) (w : Workspace) (j n v : Nat)
    (hj : j + n ≤ 8) : w.pokeBytes (o + j) n v = put w (pokeWord (get w) j n v) := by
  induction n generalizing w j v with
  | zero => exact (hself w).symm
  | succ n ih =>
    rw [Workspace.pokeBytes, hset w j _ (by omega), Nat.add_assoc, ih _ _ _ (by omega), hget, hput]
    rfl

/-- Eight aligned bytes of a workspace's g part are one register. -/
theorem Workspace.pokeBytes_g (w : Workspace) (r : Fin 32) (v : Word) :
    w.pokeBytes (8 * r.val) 8 v.toNat = { w with g := w.g.set r v } := by
  have hset (w : Workspace) (j : Nat) (b : Byte) (hj : j < 8) :
      w.setByteAt (8 * r.val + j) b = { w with g := w.g.set r (setByte w.g[r] j b) } := by
    rw [Workspace.setByteAt, if_pos (by omega), show (8 * r.val + j) / 8 = r.val by omega,
      show (8 * r.val + j) % 8 = j by omega, vget, dif_pos r.isLt, vset, dif_pos r.isLt]
    rfl
  have h := Workspace.pokeBytes_register (get := fun w => w.g[r]) (put := fun w x => { w with g := w.g.set r x }) hset
    (by simp) (by simp) (by simp) w 0 8 v.toNat (Nat.le_refl 8)
  rwa [pokeWord_all] at h

/-- Eight aligned bytes of its mb part are one register. -/
theorem Workspace.pokeBytes_mb (w : Workspace) (r : Fin 8) (v : Word) :
    w.pokeBytes (8 * (32 + r.val)) 8 v.toNat = { w with mb := w.mb.set r v } := by
  have hset (w : Workspace) (j : Nat) (b : Byte) (hj : j < 8) :
      w.setByteAt (8 * (32 + r.val) + j) b = { w with mb := w.mb.set r (setByte w.mb[r] j b) } := by
    rw [Workspace.setByteAt, if_neg (by omega), if_pos (by omega), show (8 * (32 + r.val) + j) / 8 - 32 = r.val by omega,
      show (8 * (32 + r.val) + j) % 8 = j by omega, vget, dif_pos r.isLt, vset, dif_pos r.isLt]
    rfl
  have h := Workspace.pokeBytes_register (get := fun w => w.mb[r]) (put := fun w x => { w with mb := w.mb.set r x }) hset
    (by simp) (by simp) (by simp) w 0 8 v.toNat (Nat.le_refl 8)
  rwa [pokeWord_all] at h

/-! ### Stores into a workspace slot (R19, R110, R299) -/

theorem vset_vget {α : Type} {n : Nat} (v : Vector α n) (i : Nat) (d : α) : vset v i (vget v i d) = v := by
  unfold vset vget
  split
  · simp
  · rfl

theorem vset_vset {α : Type} {n : Nat} (v : Vector α n) (i : Nat) (x y : α) : vset (vset v i x) i y = vset v i y := by
  unfold vset
  split
  · simp
  · rfl

theorem Core.modSlot_eq_self {c : Core} {i : Nat} {f : Slot → Slot} (h : f (c.slot i) = c.slot i) : c.modSlot i f = c := by
  rw [Core.modSlot, h, Core.setSlot, Core.slot, vset_vget]

theorem Core.modSlot_modSlot (c : Core) {i : Nat} (hi : i < 8) (f g : Slot → Slot) :
    (c.modSlot i f).modSlot i g = c.modSlot i fun t => g (f t) := by
  rw [Core.modSlot, Core.modSlot, Core.slot_setSlot, if_pos ⟨rfl, hi⟩, Core.setSlot, Core.setSlot, vset_vset]
  rfl

/-- Bytes stored in a slot act on its workspace alone. -/
theorem State.core_poke_slot (s : State) (cid : Nat) {i : Nat} (hi : i < 8) (o n v : Nat) (ho : o + n ≤ 512) :
    (s.poke (.lm cid (512 * i + o)) n v).core cid =
        (s.core cid).modSlot i (fun t => { t with ws := t.ws.pokeBytes o n v }) ∧
      (s.poke (.lm cid (512 * i + o)) n v).mem = s.mem := by
  induction n generalizing s o v with
  | zero => exact ⟨(Core.modSlot_eq_self rfl).symm, rfl⟩
  | succ n ih =>
    obtain ⟨hcore, hmem⟩ := ih (s.setByteAt (.lm cid (512 * i + o)) (BitVec.ofNat 8 v)) (o + 1) (v / 256) (by omega)
    have hset (b : Byte) : (s.setByteAt (.lm cid (512 * i + o)) b).core cid =
        (s.core cid).modSlot i fun t => { t with ws := t.ws.setByteAt o b } := by
      have hslot : 512 * i + o < Config.slotBytes := by
        show _ < 0x1000
        omega
      rw [State.setByteAt, State.core_modCore, if_pos rfl, Core.setLmByte, if_pos hslot, show (512 * i + o) / 512 = i by omega,
        show (512 * i + o) % 512 = o by omega]
    refine ⟨?_, hmem.trans (s.setCore_mem cid _)⟩
    refine hcore.trans ?_
    rw [hset, Core.modSlot_modSlot _ hi]
    rfl

/-- A store of the whole of word k of a slot: a lent core's bank has it lost no more (R299). -/
theorem State.core_mend_slot (s : State) (cid : Nat) {i k : Nat} (hi : i < 8) (hk : k < 64) :
    (s.mend (.lm cid (512 * i + 8 * k)) 8).core cid =
        (s.core cid).modSlot i (fun t => { t with lost := t.lost.filter fun r => r != k }) ∧
      (s.mend (.lm cid (512 * i + 8 * k)) 8).mem = s.mem := by
  have hslot : 512 * i + 8 * k < Config.slotBytes := by
    show _ < 0x1000
    omega
  unfold State.mend
  split
  · next hs =>
    have hlost : ((s.core cid).slot i).lost = [] := by
      simp only [State.sound, decide_eq_false (Nat.not_le.2 hslot), Bool.false_or, Bool.and_eq_true, List.all_eq_true,
        List.mem_range, List.isEmpty_iff] at hs
      exact hs.2 i hi
    refine ⟨(Core.modSlot_eq_self ?_).symm, rfl⟩
    rw [hlost]
    exact congrArg (fun l => { (s.core cid).slot i with lost := l }) hlost.symm
  · have hfilter (r : Nat) : (!decide (8 * k ≤ 8 * r ∧ 8 * r + 8 ≤ 8 * k + 8)) = (r != k) := by
      rw [Bool.eq_iff_iff, Bool.not_eq_true', decide_eq_false_iff_not, bne_iff_ne]
      omega
    simp only [if_pos hslot, show (512 * i + 8 * k) / 512 = i by omega, show (512 * i + 8 * k) % 512 = 8 * k by omega, hfilter]
    refine ⟨?_, State.setCore_mem _ _ _⟩
    rw [State.modSlot, State.core_modCore, if_pos rfl]
    rfl

/-- A store of word k of slot i of a core writes into that slot's workspace, and nothing else. -/
theorem State.storeAt_slot_word (s : State) (c cid : Nat) {i k : Nat} (hi : i < 8) (hk : k < 64) (v : Word) {w : Workspace}
    (hw : ((s.core cid).slot i).ws.pokeBytes (8 * k) 8 v.toNat = w) :
    let t := s.storeAt c (.lm cid (512 * i + 8 * k)) 8 v.toNat
    (t.core cid).slot i =
        { (s.core cid).slot i with ws := w, lost := ((s.core cid).slot i).lost.filter fun r => r != k } ∧
      (∀ j, j ≠ i → (t.core cid).slot j = (s.core cid).slot j) ∧ (t.core cid).lm = (s.core cid).lm ∧ t.mem = s.mem := by
  intro t
  obtain ⟨hmend, hmem⟩ := s.core_mend_slot cid hi hk
  obtain ⟨hcore, hmem'⟩ := (s.mend (.lm cid (512 * i + 8 * k)) 8).core_poke_slot cid hi (8 * k) 8 v.toNat (by omega)
  have ht : t.core cid = (s.core cid).modSlot i _ :=
    hcore.trans (by rw [hmend, Core.modSlot_modSlot _ hi])
  refine ⟨?_, fun j hj => ?_, ?_, hmem'.trans hmem⟩
  · rw [ht, Core.modSlot, Core.slot_setSlot, if_pos ⟨rfl, hi⟩, ← hw]
  · rw [ht, Core.modSlot, Core.slot_setSlot, if_neg fun h => hj h.1]
  · rw [ht]
    rfl

/-- Settles O16: loads by what is cached of the line, stores outside the slots by the frame of poke, and stores in a slot by the
word of the workspace that they write. -/
theorem accessedBytes : Obligations.AccessedBytes := by
  refine ⟨fun s cid n nc l _ => ⟨s.loadAt_local cid nc n, fun hu => ?_⟩, fun s n pa nc l => ⟨fun hu => ?_, ?_⟩,
    fun s cid n v l x hl hp hc hu _ t ht => ?_, fun s c cid i v hi => ?_⟩
  · obtain ⟨hval, hhere, hkeep⟩ := State.loadAt_uncached hu cid nc n
    exact ⟨hval, hhere, hkeep.bytes⟩
  · refine State.loadTask_of_no_late (fun pa h => ?_) nc
    subst h
    exact State.lateValues_uncached hu n
  · rcases s.loadTask_value nc pa n with h | ⟨v, hv, h⟩
    · exact .inl h
    · obtain ⟨y, hy, hline, hage, hbar, hval⟩ := State.mem_lateValues hv
      exact .inr ⟨y, hy, hline, hage, hbar, h.trans hval⟩
  · have hno : ∀ pa, l = .phys pa → s.NoULine (pa / 64) := fun pa h => State.noULine_of_uncached (h ▸ hu)
    have hst : s.Stored t l n v := by
      rcases ht with rfl | rfl
      · exact State.stored_storeAt hc hp hl hno cid n v
      · exact State.stored_storeTask hc hp hl hno n v
    exact ⟨hst.written, fun hx _ => hst.frame x hx, fun hw => (hst.slots hw).2⟩
  · intro y wrote
    refine ⟨fun r => ⟨?_, ?_⟩, fun r => ⟨?_, ?_⟩, ?_⟩
    · rw [s.bytesAt_slot_word cid hi (by omega), Workspace.word_g]
    · exact s.storeAt_slot_word c cid hi (by omega) v (y.ws.pokeBytes_g r v)
    · rw [show 512 * i + 256 + 8 * r.val = 512 * i + 8 * (32 + r.val) by omega, s.bytesAt_slot_word cid hi (by omega),
        Workspace.word_mb]
    · rw [show 512 * i + 256 + 8 * r.val = 512 * i + 8 * (32 + r.val) by omega]
      exact s.storeAt_slot_word c cid hi (by omega) v (y.ws.pokeBytes_mb r v)
    · rw [show 512 * i + 320 = 512 * i + 8 * 40 by omega, s.bytesAt_slot_word cid hi (by omega), Workspace.word_pc]

end Sys2Proof.Machine
end

section
/-! PROOF. The decoder reads the chain that the encoder writes: its words, its immediate and its fields (R38, R46 to R54). -/

namespace Sys2Proof

/-! ### The words of a chain -/

/-- A word before the base word, of a kind: 0 is PFX.I, 1 is PFX.R, 2 is PFX.P (R48). -/
def prefixWord (kind : BitVec 2) (payload : BitVec 10) : Half := 0xF#4 ++ kind ++ payload

@[simp] theorem prefixWord_major (kind : BitVec 2) (p : BitVec 10) : (prefixWord kind p).extractLsb' 12 4 = 0xF#4 := by
  unfold prefixWord
  simp (disch := omega) only [BitVec.extractLsb'_append_eq_of_le]
  simp

@[simp] theorem prefixWord_kind (kind : BitVec 2) (p : BitVec 10) : (prefixWord kind p).extractLsb' 10 2 = kind := by
  unfold prefixWord
  simp (disch := omega) only [BitVec.extractLsb'_append_eq_of_le, BitVec.extractLsb'_append_eq_of_add_le]
  simp

@[simp] theorem prefixWord_payload (kind : BitVec 2) (p : BitVec 10) : (prefixWord kind p).extractLsb' 0 10 = p := by
  unfold prefixWord
  simp (disch := omega) only [BitVec.extractLsb'_append_eq_of_add_le]
  simp

section
variable (ws : List Half) (p r : Option (BitVec 10)) (is : List (BitVec 10)) {k : Nat}

theorem readChain_base {w : Half} (h : w.extractLsb' 12 4 ≠ 0xF#4) :
    readChain (w :: ws) p r is k = .ok { pfxP := p, pfxR := r, imms := is, base := w, len := k + 1 } := by
  rw [readChain, if_pos h]

theorem readChain_imm (v : BitVec 10) (hk : k < 4) :
    readChain (prefixWord 0#2 v :: ws) p r is k = readChain ws p r (is ++ [v]) (k + 1) := by
  rw [readChain, if_neg (by simp), if_neg (by simp), if_neg (by omega), if_pos (by simp), prefixWord_payload]

theorem readChain_reg (v : BitVec 10) (hk : k < 4) (hsel : (v.extractLsb' 0 4).toNat < 5) :
    readChain (prefixWord 1#2 v :: ws) p none is k = readChain ws p (some v) is (k + 1) := by
  have hword : (prefixWord 1#2 v).extractLsb' 0 4 = v.extractLsb' 0 4 := by
    unfold prefixWord
    simp (disch := omega) only [BitVec.extractLsb'_append_eq_of_add_le]
  rw [readChain, hword, if_neg (by simp), if_neg (by simp), if_neg (by omega), if_neg (by simp), if_pos (by simp),
    if_neg (by simp), if_neg (by omega), prefixWord_payload]

theorem readChain_page (v : BitVec 10) (hk : k < 4) :
    readChain (prefixWord 2#2 v :: ws) none r is k = readChain ws (some v) r is (k + 1) := by
  rw [readChain, if_neg (by simp), if_neg (by simp), if_neg (by omega), if_neg (by simp), if_neg (by simp),
    if_neg (by simp), prefixWord_payload]

end

/-- The payloads of the PFX.I words of an immediate, the most significant first (R38, R49). -/
def immPayloads (w : Nat) (imm : Word) : Nat → List (BitVec 10)
  | 0 => []
  | k + 1 => imm.extractLsb' (w + 10 * k) 10 :: immPayloads w imm k

@[simp] theorem immPayloads_length (w : Nat) (imm : Word) (n : Nat) : (immPayloads w imm n).length = n := by
  induction n with
  | zero => rfl
  | succ n ih => simp [immPayloads, ih]

theorem pfxWords_eq_map (w : Nat) (imm : Word) (n : Nat) :
    pfxWords w imm n = (immPayloads w imm n).map (prefixWord 0#2) := by
  induction n with
  | zero => rfl
  | succ n ih =>
    rw [pfxWords, ih]
    rfl

theorem readChain_imms (ws : List Half) (p r : Option (BitVec 10)) (vs : List (BitVec 10)) :
    ∀ (is : List (BitVec 10)) (k : Nat), k + vs.length ≤ 4 →
      readChain (vs.map (prefixWord 0#2) ++ ws) p r is k = readChain ws p r (is ++ vs) (k + vs.length) := by
  induction vs with
  | nil => simp
  | cons v vs ih =>
    intro is k h
    rw [List.length_cons] at h
    calc readChain ((v :: vs).map (prefixWord 0#2) ++ ws) p r is k
        = readChain (vs.map (prefixWord 0#2) ++ ws) p r (is ++ [v]) (k + 1) := readChain_imm _ p r is v (by omega)
      _ = readChain ws p r (is ++ v :: vs) (k + (v :: vs).length) := by
          rw [ih _ _ (by omega), List.append_assoc, List.singleton_append, List.length_cons, Nat.add_right_comm, Nat.add_assoc]

/-! ### The value of an immediate -/

/-- The payloads make up the bits of the immediate above its base field. -/
theorem foldl_immPayloads (w : Nat) (imm : Word) (n acc : Nat) :
    (immPayloads w imm n).foldl (fun acc p => acc * 1024 + p.toNat) acc =
      acc * 2 ^ (10 * n) + imm.toNat / 2 ^ w % 2 ^ (10 * n) := by
  induction n generalizing acc with
  | zero => simp [immPayloads, Nat.mod_one]
  | succ n ih =>
    have htop : (imm.extractLsb' (w + 10 * n) 10).toNat = imm.toNat / 2 ^ w / 2 ^ (10 * n) % 1024 := by
      rw [BitVec.extractLsb'_toNat, Nat.shiftRight_eq_div_pow, pow_add, Nat.div_div_eq_div_mul]
    rw [immPayloads, List.foldl_cons, ih, htop, show 10 * (n + 1) = 10 * n + 10 by ring, pow_add, Nat.mod_mul,
      show (2 : Nat) ^ 10 = 1024 by rfl]
    ring

theorem fitsSigned_mono {m n : Nat} (hmn : m ≤ n) {v : Word} (h : fitsSigned m v = true) : fitsSigned n v = true := by
  have hpow : (2 : Int) ^ (m - 1) ≤ 2 ^ (n - 1) := pow_le_pow_right₀ (by decide) (by omega)
  simp only [fitsSigned, decide_eq_true_eq] at h ⊢
  omega

/-- An immediate is the sign extension of its low n bits where it fits n bits (R49). -/
theorem signExt_of_fits {n : Nat} (hn : 0 < n) (hn' : n ≤ 64) {v : Word} (h : fitsSigned n v = true) :
    signExt n (v.toNat % 2 ^ n) = v := by
  obtain ⟨m, rfl⟩ : ∃ m, n = m + 1 := ⟨n - 1, by omega⟩
  simp only [fitsSigned, decide_eq_true_eq, Nat.add_sub_cancel] at h
  have hdouble : 2 ^ (m + 1) = 2 * 2 ^ m := pow_succ' 2 m
  have hcast : ((2 ^ m : Nat) : Int) = 2 ^ m := by norm_cast
  have hvalue : (if v.toNat % 2 ^ (m + 1) < 2 ^ m then ((v.toNat % 2 ^ (m + 1) : Nat) : Int)
      else ((v.toNat % 2 ^ (m + 1) : Nat) : Int) - 2 ^ (m + 1)) = v.toInt := by
    have hint := BitVec.toInt_eq_toNat_cond v
    split at hint
    · rw [Nat.mod_eq_of_lt (by omega), if_pos (by omega), hint]
    · obtain ⟨r, hr⟩ : ∃ r : Nat, (r : Int) = v.toInt + 2 ^ (m + 1) := ⟨(v.toInt + 2 ^ (m + 1)).toNat, by omega⟩
      have hmul : 2 ^ 64 = 2 ^ (m + 1) * 2 ^ (63 - m) := by rw [← pow_add, show m + 1 + (63 - m) = 64 by omega]
      have hsplit : v.toNat = r + 2 ^ (m + 1) * (2 ^ (63 - m) - 1) := by
        have hle : 2 ^ (m + 1) ≤ 2 ^ 64 := Nat.pow_le_pow_right (by decide) hn'
        rw [Nat.mul_sub, ← hmul]
        omega
      rw [hsplit, Nat.add_mul_mod_self_left, Nat.mod_eq_of_lt (by omega), if_neg (by omega), hr]
      omega
  rw [signExt, Nat.add_sub_cancel, hvalue, BitVec.ofInt_toInt]

/-- The number of PFX.I words that the encoder takes is enough for an immediate that fits behind others. -/
theorem fitsSigned_pfxCount {w n : Nat} {imm : Word} (h : immFits w n imm = true) :
    fitsSigned (w + 10 * pfxCount w imm) imm = true := by
  unfold pfxCount
  split_ifs with h0 h1 h2 h3
  · exact h0
  · exact h1
  · exact h2
  · exact h3
  · exact fitsSigned_mono (by omega) h

theorem immValue_immPayloads {w n : Nat} (hw : 0 < w) (hw' : w ≤ 24) {imm : Word} (h : immFits w n imm = true) :
    immValue w (immPayloads w imm (pfxCount w imm)) (imm.extractLsb' 0 w).toNat = imm := by
  have hcount := pfxCount_le w imm
  rw [immValue, foldl_immPayloads, immPayloads_length, BitVec.extractLsb'_toNat, Nat.shiftRight_zero, zero_mul, zero_add, 
    show imm.toNat / 2 ^ w % 2 ^ (10 * pfxCount w imm) * 2 ^ w + imm.toNat % 2 ^ w =
      imm.toNat % 2 ^ (w + 10 * pfxCount w imm) by rw [pow_add, Nat.mod_mul]; ring]
  exact signExt_of_fits (by omega) (by omega) (fitsSigned_pfxCount h)

/-! ### The chain of a form -/

/-- The payloads of a form's PFX.I words. -/
def BaseForm.payloads (b : BaseForm) : List (BitVec 10) :=
  match b.immOf with
  | some (w, i) => immPayloads w i (pfxCount w i)
  | none => []

/-- What the decoder reads from the words of a form (R38, R54). -/
def Form.chain (f : Form) : Chain :=
  { pfxP := if f.page = 0#4 ∧ f.md = 0#6 then none else some (f.page ++ f.md)
    pfxR := if f.base.regBits = 0#10 then none else some f.base.regBits
    imms := f.base.payloads
    base := f.base.word
    len := f.words.length }

/-- The fields that the decoder reads from the words of a form (R46, R51). -/
def Form.fields (f : Form) : Fields :=
  { md := f.md
    base := f.base.word
    hd := f.base.regBits.extractLsb' 8 2
    ha := f.base.regBits.extractLsb' 6 2
    hb := f.base.regBits.extractLsb' 4 2
    cls := f.base.regBits.extractLsb' 0 4
    hasR := f.base.regBits != 0#10
    imms := f.base.payloads }

/-- The words of a form can be read back: no base word of a table has major 15, and the selectors
of R51 are below 5. -/
structure Form.Readable (f : Form) : Prop where
  major : f.fields.major ≠ 0xF#4
  sel : f.fields.cls.toNat < 5
  length : f.words.length ≤ 5

theorem readChain_pagePrefix (f : Form) (ws : List Half) :
    readChain ((if f.page = 0#4 ∧ f.md = 0#6 then [] else [prefixWord 2#2 (f.page ++ f.md)]) ++ ws) none none [] 0 =
      readChain ws f.chain.pfxP none [] (if f.page = 0#4 ∧ f.md = 0#6 then 0 else 1) := by
  unfold Form.chain
  split
  · rfl
  · exact readChain_page ws none [] _ (by decide)

theorem readChain_regPrefix (f : Form) (hsel : f.fields.cls.toNat < 5) (ws : List Half)
    (p : Option (BitVec 10)) {k : Nat} (hk : k < 4) :
    readChain ((if f.base.regBits = 0#10 then [] else [prefixWord 1#2 f.base.regBits]) ++ ws) p none [] k =
      readChain ws p f.chain.pfxR [] (k + if f.base.regBits = 0#10 then 0 else 1) := by
  unfold Form.chain
  split
  · rfl
  · exact readChain_reg ws p [] _ hk hsel

/-- The canonical chain of a form, its immediate by its payloads (R38). -/
theorem Form.words_eq (f : Form) :
    f.words = (if f.page = 0#4 ∧ f.md = 0#6 then [] else [prefixWord 2#2 (f.page ++ f.md)]) ++
      ((if f.base.regBits = 0#10 then [] else [prefixWord 1#2 f.base.regBits]) ++
        (f.base.payloads.map (prefixWord 0#2) ++ [f.base.word])) := by
  have himm : (match f.base.immOf with | some (w, i) => pfxWords w i (pfxCount w i) | none => []) =
      f.base.payloads.map (prefixWord 0#2) := by
    unfold BaseForm.payloads
    cases f.base.immOf with
    | none => rfl
    | some x => exact pfxWords_eq_map x.1 x.2 _
  rw [← himm]
  simp only [Form.words, List.append_assoc]
  rfl

theorem Form.words_length_eq (f : Form) : f.words.length = f.others + f.base.payloads.length + 1 := by
  rw [f.words_eq, Form.others]
  simp only [List.length_append, List.length_map, List.length_singleton, apply_ite List.length, List.length_nil]
  omega

theorem Form.Readable.readChain {f : Form} (h : f.Readable) (rest : List Half) :
    readChain (f.words ++ rest) none none [] 0 = .ok f.chain := by
  have hlen := f.words_length_eq
  have h5 := h.length
  have hothers : f.others = (if f.page = 0#4 ∧ f.md = 0#6 then 0 else 1) + if f.base.regBits = 0#10 then 0 else 1 := rfl
  calc Sys2Proof.readChain (f.words ++ rest) none none [] 0
      = Sys2Proof.readChain (f.base.word :: rest) f.chain.pfxP f.chain.pfxR f.base.payloads
          (f.others + f.base.payloads.length) := by
        rw [f.words_eq, List.append_assoc, readChain_pagePrefix, List.append_assoc,
          readChain_regPrefix f h.sel _ _ (by split <;> decide), ← hothers, List.append_assoc,
          readChain_imms _ _ _ _ _ _ (by omega), List.nil_append, List.singleton_append]
    _ = .ok f.chain := by
        rw [readChain_base (w := f.base.word) _ _ _ _ h.major, ← hlen]
        rfl

theorem Form.chain_pfxP_getD (f : Form) : f.chain.pfxP.getD 0#10 = f.page ++ f.md := by
  unfold Form.chain
  by_cases h : f.page = 0#4 ∧ f.md = 0#6
  · simp only [h.1, h.2]
    rfl
  · simp only [if_neg h]
    rfl

theorem Form.chain_pfxR_getD (f : Form) : f.chain.pfxR.getD 0#10 = f.base.regBits := by
  unfold Form.chain
  by_cases h : f.base.regBits = 0#10 <;> simp [h]

theorem Form.chain_fields (f : Form) : f.chain.fields = f.fields := by
  have hmd : (f.page ++ f.md).extractLsb' 0 6 = f.md := BitVec.extractLsb'_append_eq_right
  have hasR : f.chain.pfxR.isSome = (f.base.regBits != 0#10) := by
    unfold Form.chain
    by_cases h : f.base.regBits = 0#10 <;> simp [h]
  rw [Chain.fields, f.chain_pfxP_getD, f.chain_pfxR_getD, hmd, hasR]
  rfl

theorem Form.chain_page (f : Form) : f.chain.page = f.page := by
  rw [Chain.page, f.chain_pfxP_getD]
  exact BitVec.extractLsb'_append_eq_left

theorem Form.Readable.decode {f : Form} (h : f.Readable) {i : Instr} (hi : decodeBase f.page f.fields = .ok i)
    (rest : List Half) : decode (f.words ++ rest) = .ok (i, f.words.length) := by
  rw [Sys2Proof.decode, h.readChain]
  simp only [f.chain_page, f.chain_fields, hi]
  exact if_neg h.major

/-! ### The fields of each format (R46) -/

@[simp] theorem Form.fields_md (f : Form) : f.fields.md = f.md := rfl

/-- A register number is put together from its high bits and its field (R51). -/
theorem regParts (r : BitVec 5) : r.extractLsb' 3 2 ++ r.extractLsb' 0 3 = r :=
  (BitVec.extractLsb'_append_extractLsb'_eq_extractLsb' rfl).trans BitVec.extractLsb'_eq_self

section
variable (page : BitVec 4) (md : BitVec 6) (mj : BitVec 4) (d a b : BitVec 5) (imm : Word) (r : Dec)

/-! Format RR. -/

section
variable (mn : BitVec 3) (s : BitVec 4)

@[simp] theorem Form.fields_rr_major : (Form.fields ⟨page, md, .rr mj d a b mn s⟩).major = mj := by
  simp (disch := omega) only [Form.fields, Fields.major, BaseForm.word, BitVec.extractLsb'_append_eq_of_le]
  simp
@[simp] theorem Form.fields_rr_d : (Form.fields ⟨page, md, .rr mj d a b mn s⟩).d = d := by
  simp (disch := omega) only [Form.fields, Fields.d, Fields.d3, BaseForm.word, BaseForm.regBits,
    BitVec.extractLsb'_append_eq_of_le, BitVec.extractLsb'_append_eq_of_add_le]
  simpa using regParts d
@[simp] theorem Form.fields_rr_a : (Form.fields ⟨page, md, .rr mj d a b mn s⟩).a = a := by
  simp (disch := omega) only [Form.fields, Fields.a, Fields.a3, BaseForm.word, BaseForm.regBits,
    BitVec.extractLsb'_append_eq_of_le, BitVec.extractLsb'_append_eq_of_add_le]
  simpa using regParts a
@[simp] theorem Form.fields_rr_b : (Form.fields ⟨page, md, .rr mj d a b mn s⟩).b = b := by
  simp (disch := omega) only [Form.fields, Fields.b, Fields.b3, BaseForm.word, BaseForm.regBits,
    BitVec.extractLsb'_append_eq_of_le, BitVec.extractLsb'_append_eq_of_add_le]
  simpa using regParts b
@[simp] theorem Form.fields_rr_minor : (Form.fields ⟨page, md, .rr mj d a b mn s⟩).minor = mn := by
  simp (disch := omega) only [Form.fields, Fields.minor, BaseForm.word, BitVec.extractLsb'_append_eq_of_add_le]
  simp
@[simp] theorem Form.fields_rr_cls : (Form.fields ⟨page, md, .rr mj d a b mn s⟩).cls = s := by
  simp (disch := omega) only [Form.fields, BaseForm.regBits, BitVec.extractLsb'_append_eq_of_add_le]
  simp
@[simp] theorem fmtRR_rr : fmtRR (Form.fields ⟨page, md, .rr mj d a b mn s⟩) r = r := rfl

@[simp] theorem rr_rr (k : BitVec 5 → BitVec 5 → BitVec 5 → Dec) :
    rr (Form.fields ⟨page, md, .rr mj d a b mn 0#4⟩) k = k d a b := by
  simp [rr, noSel, need]

end

/-! Format RI. -/

@[simp] theorem Form.fields_ri_major : (Form.fields ⟨page, md, .ri mj d imm⟩).major = mj := by
  simp (disch := omega) only [Form.fields, Fields.major, BaseForm.word, BitVec.extractLsb'_append_eq_of_le]
  simp
@[simp] theorem Form.fields_ri_d : (Form.fields ⟨page, md, .ri mj d imm⟩).d = d := by
  simp (disch := omega) only [Form.fields, Fields.d, Fields.d3, BaseForm.word, BaseForm.regBits,
    BitVec.extractLsb'_append_eq_of_le, BitVec.extractLsb'_append_eq_of_add_le]
  simpa using regParts d
@[simp] theorem Form.fields_ri_imms : (Form.fields ⟨page, md, .ri mj d imm⟩).imms = immPayloads 9 imm (pfxCount 9 imm) :=
  rfl
@[simp] theorem Form.fields_ri_field :
    (Form.fields ⟨page, md, .ri mj d imm⟩).base.extractLsb' 0 9 = imm.extractLsb' 0 9 := by
  simp (disch := omega) only [Form.fields, BaseForm.word, BitVec.extractLsb'_append_eq_of_add_le]
  simp
@[simp] theorem Form.fields_ri_cls : (Form.fields ⟨page, md, .ri mj d imm⟩).cls = 0#4 := by
  simp (disch := omega) only [Form.fields, BaseForm.regBits, BitVec.extractLsb'_append_eq_of_add_le]
  simp
@[simp] theorem fmtRI_ri : fmtRI (Form.fields ⟨page, md, .ri mj d imm⟩) r = r := by
  rw [fmtRI, noSel, Form.fields_ri_cls]
  simp (disch := omega) only [Form.fields, BaseForm.regBits, BitVec.extractLsb'_append_eq_of_add_le]
  simp [need]

section
variable (imm9 : BitVec 9)

@[simp] theorem Form.fields_riu_major : (Form.fields ⟨page, md, .riu mj d imm9⟩).major = mj := by
  simp (disch := omega) only [Form.fields, Fields.major, BaseForm.word, BitVec.extractLsb'_append_eq_of_le]
  simp
@[simp] theorem Form.fields_riu_d : (Form.fields ⟨page, md, .riu mj d imm9⟩).d = d := by
  simp (disch := omega) only [Form.fields, Fields.d, Fields.d3, BaseForm.word, BaseForm.regBits,
    BitVec.extractLsb'_append_eq_of_le, BitVec.extractLsb'_append_eq_of_add_le]
  simpa using regParts d
@[simp] theorem Form.fields_riu_field : (Form.fields ⟨page, md, .riu mj d imm9⟩).base.extractLsb' 0 9 = imm9 := by
  simp (disch := omega) only [Form.fields, BaseForm.word, BitVec.extractLsb'_append_eq_of_add_le]
  simp
@[simp] theorem Form.fields_riu_cls : (Form.fields ⟨page, md, .riu mj d imm9⟩).cls = 0#4 := by
  simp (disch := omega) only [Form.fields, BaseForm.regBits, BitVec.extractLsb'_append_eq_of_add_le]
  simp
@[simp] theorem fmtRI_riu : fmtRI (Form.fields ⟨page, md, .riu mj d imm9⟩) r = r := by
  rw [fmtRI, noSel, Form.fields_riu_cls]
  simp (disch := omega) only [Form.fields, BaseForm.regBits, BitVec.extractLsb'_append_eq_of_add_le]
  simp [need]
@[simp] theorem noImm_riu : noImm (Form.fields ⟨page, md, .riu mj d imm9⟩) r = r := rfl

end

/-! Formats RRI and M. -/

@[simp] theorem Form.fields_rri_major : (Form.fields ⟨page, md, .rri mj d a imm⟩).major = mj := by
  simp (disch := omega) only [Form.fields, Fields.major, BaseForm.word, BitVec.extractLsb'_append_eq_of_le]
  simp
@[simp] theorem Form.fields_rri_d : (Form.fields ⟨page, md, .rri mj d a imm⟩).d = d := by
  simp (disch := omega) only [Form.fields, Fields.d, Fields.d3, BaseForm.word, BaseForm.regBits,
    BitVec.extractLsb'_append_eq_of_le, BitVec.extractLsb'_append_eq_of_add_le]
  simpa using regParts d
@[simp] theorem Form.fields_rri_a : (Form.fields ⟨page, md, .rri mj d a imm⟩).a = a := by
  simp (disch := omega) only [Form.fields, Fields.a, Fields.a3, BaseForm.word, BaseForm.regBits,
    BitVec.extractLsb'_append_eq_of_le, BitVec.extractLsb'_append_eq_of_add_le]
  simpa using regParts a
@[simp] theorem Form.fields_rri_imms : (Form.fields ⟨page, md, .rri mj d a imm⟩).imms = immPayloads 6 imm (pfxCount 6 imm) :=
  rfl
@[simp] theorem Form.fields_rri_field :
    (Form.fields ⟨page, md, .rri mj d a imm⟩).base.extractLsb' 0 6 = imm.extractLsb' 0 6 := by
  simp (disch := omega) only [Form.fields, BaseForm.word, BitVec.extractLsb'_append_eq_of_add_le]
  simp
@[simp] theorem Form.fields_rri_cls : (Form.fields ⟨page, md, .rri mj d a imm⟩).cls = 0#4 := by
  simp (disch := omega) only [Form.fields, BaseForm.regBits, BitVec.extractLsb'_append_eq_of_add_le]
  simp
@[simp] theorem fmtRRI_rri : fmtRRI (Form.fields ⟨page, md, .rri mj d a imm⟩) r = r := by
  rw [fmtRRI, noSel, Form.fields_rri_cls]
  simp (disch := omega) only [Form.fields, BaseForm.regBits, BitVec.extractLsb'_append_eq_of_add_le]
  simp [need]

section
variable (imm6 : BitVec 6)

@[simp] theorem Form.fields_rriu_major : (Form.fields ⟨page, md, .rriu mj d a imm6⟩).major = mj := by
  simp (disch := omega) only [Form.fields, Fields.major, BaseForm.word, BitVec.extractLsb'_append_eq_of_le]
  simp
@[simp] theorem Form.fields_rriu_d : (Form.fields ⟨page, md, .rriu mj d a imm6⟩).d = d := by
  simp (disch := omega) only [Form.fields, Fields.d, Fields.d3, BaseForm.word, BaseForm.regBits,
    BitVec.extractLsb'_append_eq_of_le, BitVec.extractLsb'_append_eq_of_add_le]
  simpa using regParts d
@[simp] theorem Form.fields_rriu_a : (Form.fields ⟨page, md, .rriu mj d a imm6⟩).a = a := by
  simp (disch := omega) only [Form.fields, Fields.a, Fields.a3, BaseForm.word, BaseForm.regBits,
    BitVec.extractLsb'_append_eq_of_le, BitVec.extractLsb'_append_eq_of_add_le]
  simpa using regParts a
@[simp] theorem Form.fields_rriu_field : (Form.fields ⟨page, md, .rriu mj d a imm6⟩).base.extractLsb' 0 6 = imm6 := by
  simp (disch := omega) only [Form.fields, BaseForm.word, BitVec.extractLsb'_append_eq_of_add_le]
  simp
@[simp] theorem Form.fields_rriu_cls : (Form.fields ⟨page, md, .rriu mj d a imm6⟩).cls = 0#4 := by
  simp (disch := omega) only [Form.fields, BaseForm.regBits, BitVec.extractLsb'_append_eq_of_add_le]
  simp
@[simp] theorem fmtRRI_rriu : fmtRRI (Form.fields ⟨page, md, .rriu mj d a imm6⟩) r = r := by
  rw [fmtRRI, noSel, Form.fields_rriu_cls]
  simp (disch := omega) only [Form.fields, BaseForm.regBits, BitVec.extractLsb'_append_eq_of_add_le]
  simp [need]
@[simp] theorem noImm_rriu : noImm (Form.fields ⟨page, md, .rriu mj d a imm6⟩) r = r := rfl

end

section
variable (sz : BitVec 2)

@[simp] theorem Form.fields_m_major : (Form.fields ⟨page, md, .m mj d a sz imm⟩).major = mj := by
  simp (disch := omega) only [Form.fields, Fields.major, BaseForm.word, BitVec.extractLsb'_append_eq_of_le]
  simp
@[simp] theorem Form.fields_m_d : (Form.fields ⟨page, md, .m mj d a sz imm⟩).d = d := by
  simp (disch := omega) only [Form.fields, Fields.d, Fields.d3, BaseForm.word, BaseForm.regBits,
    BitVec.extractLsb'_append_eq_of_le, BitVec.extractLsb'_append_eq_of_add_le]
  simpa using regParts d
@[simp] theorem Form.fields_m_a : (Form.fields ⟨page, md, .m mj d a sz imm⟩).a = a := by
  simp (disch := omega) only [Form.fields, Fields.a, Fields.a3, BaseForm.word, BaseForm.regBits,
    BitVec.extractLsb'_append_eq_of_le, BitVec.extractLsb'_append_eq_of_add_le]
  simpa using regParts a
@[simp] theorem Form.fields_m_sz : (Form.fields ⟨page, md, .m mj d a sz imm⟩).base.extractLsb' 4 2 = sz := by
  simp (disch := omega) only [Form.fields, BaseForm.word,
    BitVec.extractLsb'_append_eq_of_le, BitVec.extractLsb'_append_eq_of_add_le]
  simp
@[simp] theorem Form.fields_m_imms : (Form.fields ⟨page, md, .m mj d a sz imm⟩).imms = immPayloads 4 imm (pfxCount 4 imm) :=
  rfl
@[simp] theorem Form.fields_m_field :
    (Form.fields ⟨page, md, .m mj d a sz imm⟩).base.extractLsb' 0 4 = imm.extractLsb' 0 4 := by
  simp (disch := omega) only [Form.fields, BaseForm.word, BitVec.extractLsb'_append_eq_of_add_le]
  simp
@[simp] theorem Form.fields_m_cls : (Form.fields ⟨page, md, .m mj d a sz imm⟩).cls = 0#4 := by
  simp (disch := omega) only [Form.fields, BaseForm.regBits, BitVec.extractLsb'_append_eq_of_add_le]
  simp
@[simp] theorem fmtRRI_m : fmtRRI (Form.fields ⟨page, md, .m mj d a sz imm⟩) r = r := by
  rw [fmtRRI, noSel, Form.fields_m_cls]
  simp (disch := omega) only [Form.fields, BaseForm.regBits, BitVec.extractLsb'_append_eq_of_add_le]
  simp [need]

end

/-! Formats BR and BC. -/

@[simp] theorem Form.fields_br_major : (Form.fields ⟨page, md, .br mj imm⟩).major = mj := by
  simp (disch := omega) only [Form.fields, Fields.major, BaseForm.word, BitVec.extractLsb'_append_eq_of_le]
  simp
@[simp] theorem Form.fields_br_imms : (Form.fields ⟨page, md, .br mj imm⟩).imms = immPayloads 12 imm (pfxCount 12 imm) :=
  rfl
@[simp] theorem Form.fields_br_field :
    (Form.fields ⟨page, md, .br mj imm⟩).base.extractLsb' 0 12 = imm.extractLsb' 0 12 := by
  simp (disch := omega) only [Form.fields, BaseForm.word, BitVec.extractLsb'_append_eq_of_add_le]
  simp
@[simp] theorem Form.fields_br_cls : (Form.fields ⟨page, md, .br mj imm⟩).cls = 0#4 := rfl
@[simp] theorem fmtB_br : fmtB (Form.fields ⟨page, md, .br mj imm⟩) r = r := rfl

section
variable (cond : BitVec 4)

@[simp] theorem Form.fields_bc_major : (Form.fields ⟨page, md, .bc mj cond imm⟩).major = mj := by
  simp (disch := omega) only [Form.fields, Fields.major, BaseForm.word, BitVec.extractLsb'_append_eq_of_le]
  simp
@[simp] theorem Form.fields_bc_cond : (Form.fields ⟨page, md, .bc mj cond imm⟩).base.extractLsb' 8 4 = cond := by
  simp (disch := omega) only [Form.fields, BaseForm.word,
    BitVec.extractLsb'_append_eq_of_le, BitVec.extractLsb'_append_eq_of_add_le]
  simp
@[simp] theorem Form.fields_bc_imms : (Form.fields ⟨page, md, .bc mj cond imm⟩).imms = immPayloads 8 imm (pfxCount 8 imm) :=
  rfl
@[simp] theorem Form.fields_bc_imm8 : (Form.fields ⟨page, md, .bc mj cond imm⟩).imm8 = imm.extractLsb' 0 8 := by
  simp (disch := omega) only [Form.fields, Fields.imm8, BaseForm.word, BitVec.extractLsb'_append_eq_of_add_le]
  simp
@[simp] theorem Form.fields_bc_cls : (Form.fields ⟨page, md, .bc mj cond imm⟩).cls = 0#4 := rfl
@[simp] theorem fmtB_bc : fmtB (Form.fields ⟨page, md, .bc mj cond imm⟩) r = r := rfl

end

/-! Format Z. -/

section
variable (mn : BitVec 4) (imm8 : Byte)

@[simp] theorem Form.fields_z_major : (Form.fields ⟨page, md, .z mj mn imm8⟩).major = mj := by
  simp (disch := omega) only [Form.fields, Fields.major, BaseForm.word, BitVec.extractLsb'_append_eq_of_le]
  simp
@[simp] theorem Form.fields_z_minorZ : (Form.fields ⟨page, md, .z mj mn imm8⟩).minorZ = mn := by
  simp (disch := omega) only [Form.fields, Fields.minorZ, BaseForm.word,
    BitVec.extractLsb'_append_eq_of_le, BitVec.extractLsb'_append_eq_of_add_le]
  simp
@[simp] theorem Form.fields_z_imm8 : (Form.fields ⟨page, md, .z mj mn imm8⟩).imm8 = imm8 := by
  simp (disch := omega) only [Form.fields, Fields.imm8, BaseForm.word, BitVec.extractLsb'_append_eq_of_add_le]
  simp
@[simp] theorem Form.fields_z_cls : (Form.fields ⟨page, md, .z mj mn imm8⟩).cls = 0#4 := rfl
@[simp] theorem fmtZ_z : fmtZ (Form.fields ⟨page, md, .z mj mn imm8⟩) r = r := rfl

end

end

end Sys2Proof
end

section
/-! PROOF. The page tables read back the fields that they encode (R38, R46 to R69). -/

namespace Sys2Proof

/-! ### Operands and modifiers -/

@[simp] theorem need_true (e : DecodeErr) (r : Dec) : need true e r = r := rfl

@[simp] theorem listed_some {α : Type} (x : α) (e : DecodeErr) (k : α → Dec) : listed (some x) e k = k x := rfl

@[simp] theorem noMod_zero (page : BitVec 4) (b : BaseForm) (r : Dec) : noMod (Form.fields ⟨page, 0#6, b⟩) r = r := rfl

@[simp] theorem zero5_zero (r : Dec) : zero5 0#5 r = r := rfl

/-- A number of few bits, widened, is within its bound and narrows to itself. -/
theorem need_widened {m : Nat} (hm : m ≤ 5) (x : BitVec m) (e : DecodeErr) (k : BitVec m → Dec) :
    need (decide ((x.setWidth 5).toNat < 2 ^ m)) e (k ((x.setWidth 5).setWidth m)) = k x := by
  rw [BitVec.toNat_setWidth_of_le hm, decide_eq_true x.isLt, BitVec.setWidth_setWidth_of_le x hm, BitVec.setWidth_eq, need_true]

@[simp] theorem vreg_tile (d : VReg) (k : VReg → Dec) : vreg (d.setWidth 5) k = k d := need_widened (by decide) d _ k
@[simp] theorem kreg_mask (d : KReg) (k : KReg → Dec) : kreg (d.setWidth 5) k = k d := need_widened (by decide) d _ k
@[simp] theorem reg8_num (r : BitVec 3) (k : BitVec 3 → Dec) : reg8 (r.setWidth 5) k = k r := need_widened (by decide) r _ k
@[simp] theorem code_num (c : BitVec 3) (k : BitVec 3 → Dec) : code (c.setWidth 5) k = k c := need_widened (by decide) c _ k

/-- The low bits of a number that was widened, and the zeros above them. -/
theorem extractLsb'_widened {m w : Nat} (h : m ≤ w) (x : BitVec m) : (x.setWidth w).extractLsb' 0 m = x := by
  rw [BitVec.extractLsb'_setWidth_of_le (by omega), BitVec.extractLsb'_eq_self]

theorem extractLsb'_widened_high {m w start len : Nat} (h : m ≤ start) (x : BitVec m) :
    (x.setWidth w).extractLsb' start len = 0#len := by
  ext i hi
  simp [BitVec.getLsbD_of_ge x (start + i) (by omega)]

@[simp] theorem code_num2 (c : BitVec 2) (k : BitVec 3 → Dec) : code (c.setWidth 5) k = k (c.setWidth 3) := by
  have h : c.setWidth 5 = (c.setWidth 3).setWidth 5 := BitVec.eq_of_toNat_eq (by simp)
  rw [h, code_num]

@[simp] theorem code_literal (c : Nat) (hc : c < 8) (k : BitVec 3 → Dec) :
    code (BitVec.ofNat 5 c) k = k (BitVec.ofNat 3 c) := by
  have h : (BitVec.ofNat 3 c).setWidth 5 = BitVec.ofNat 5 c := BitVec.eq_of_toNat_eq (by simp; omega)
  rw [← h, code_num]

@[simp] theorem code_extTy (t : ExtTy) (k : BitVec 3 → Dec) : code t.code k = k (t.code.setWidth 3) := by cases t <;> rfl
@[simp] theorem extTy_ofCode (t : ExtTy) : ExtTy.ofCode (t.code.setWidth 3) = some t := by cases t <;> rfl
@[simp] theorem code_vredOp (o : VRedOp) (k : BitVec 3 → Dec) : code o.code k = k (o.code.setWidth 3) := by cases o <;> rfl
@[simp] theorem vredOp_ofCode (o : VRedOp) : VRedOp.ofCode (o.code.setWidth 3) = some o := by cases o <;> rfl
@[simp] theorem code_vtarget (t : VTarget) (k : BitVec 3 → Dec) : code t.code k = k (t.code.setWidth 3) := by cases t <;> rfl
@[simp] theorem vtarget_ofCode (t : VTarget) : VTarget.ofCode (t.code.setWidth 3) = t := by cases t <;> rfl

@[simp] theorem vpred_ofCode (p : VPred) : VPred.ofCode p.code = p := by cases p <;> rfl
@[simp] theorem size_ofCode (z : Size) : Size.ofCode z.code = z := by cases z <;> rfl
@[simp] theorem ldTy_ofCode (t : LdTy) : LdTy.ofCode t.code = some t := by cases t <;> rfl
@[simp] theorem amoOp_ofCode (o : AmoOp) : AmoOp.ofCode o.code = o := by cases o <;> rfl
@[simp] theorem redOp_ofCode (o : RedOp) : RedOp.ofCode o.code = some o := by cases o <;> rfl
@[simp] theorem cond_ofCode (c : Cond) : Cond.ofCode c.code = some c := by cases c <;> rfl
@[simp] theorem cond_modHigh (c : Cond) : (c.code.setWidth 6).extractLsb' 4 2 = 0#2 := by cases c <;> decide
@[simp] theorem cond_modLow (c : Cond) : (c.code.setWidth 6).extractLsb' 0 4 = c.code := by cases c <;> decide

@[simp] theorem intTy_bit (page : BitVec 4) (t : IntTy) (b : BaseForm) (k : IntTy → Dec) :
    intTy (Form.fields ⟨page, t.bit, b⟩) k = k t := by
  cases t <;> simp [intTy, IntTy.bit, IntTy.ofBit]

section
variable (page : BitVec 4) (b : BaseForm)

theorem vmod_bits (m : VMod) (hm : (m.round != .sr) = true) (k : VMod → Dec) :
    vmod (Form.fields ⟨page, m.bits, b⟩) k = k m := by
  obtain ⟨mask, round, sat⟩ := m
  have hmask : (VMod.bits ⟨mask, round, sat⟩).extractLsb' 4 2 = mask := by
    simp (disch := omega) only [VMod.bits, BitVec.extractLsb'_append_eq_of_le]
    simp
  have hround : Round.ofCode2 ((VMod.bits ⟨mask, round, sat⟩).extractLsb' 2 2) = round := by
    simp (disch := omega) only [VMod.bits, BitVec.extractLsb'_append_eq_of_le, BitVec.extractLsb'_append_eq_of_add_le]
    cases round with
    | sr => exact absurd hm Bool.false_ne_true
    | rne | rtz | rup | rdn => rfl
  have hsat : (VMod.bits ⟨mask, round, sat⟩).getLsbD 1 = sat ∧ (VMod.bits ⟨mask, round, sat⟩).getLsbD 0 = false := by
    simp only [VMod.bits, BitVec.getLsbD_append]
    simp [bit1]
  rw [vmod, Form.fields_md, hmask, hround, hsat.1, hsat.2]
  rfl

@[simp] theorem maskMod_bits (m : KReg) (k : KReg → Dec) : maskMod (Form.fields ⟨page, maskBits m, b⟩) k = k m := by
  have hmask : (maskBits m).extractLsb' 4 2 = m := BitVec.extractLsb'_append_eq_left
  have hlow : (maskBits m).extractLsb' 0 4 = 0#4 := BitVec.extractLsb'_append_eq_right
  simp only [maskMod, Form.fields_md, hmask, hlow, beq_self_eq_true, need_true]

@[simp] theorem maskSatMod_bits (m : KReg) (s : Bool) (k : KReg → Bool → Dec) :
    maskSatMod (Form.fields ⟨page, maskSatBits m s, b⟩) k = k m s := by
  have hmask : (maskSatBits m s).extractLsb' 4 2 = m := by
    simp (disch := omega) only [maskSatBits, BitVec.extractLsb'_append_eq_of_le]
    simp
  have hround : (maskSatBits m s).extractLsb' 2 2 = 0#2 := by
    simp (disch := omega) only [maskSatBits, BitVec.extractLsb'_append_eq_of_le, BitVec.extractLsb'_append_eq_of_add_le]
    simp
  have hsat : (maskSatBits m s).getLsbD 1 = s ∧ (maskSatBits m s).getLsbD 0 = false := by
    simp only [maskSatBits, BitVec.getLsbD_append]
    simp [bit1]
  rw [maskSatMod, Form.fields_md, hmask, hround, hsat.1, hsat.2]
  rfl

@[simp] theorem convMod_bits (r : Round) (s : Sat) (k : Round → Sat → Dec) :
    convMod (Form.fields ⟨page, convBits r s, b⟩) k = k r s := by
  have hr : Round.ofCode3 ((convBits r s).extractLsb' 0 3) = some r := by
    simp (disch := omega) only [convBits, BitVec.extractLsb'_append_eq_of_add_le]
    cases r <;> rfl
  have hs : Sat.ofCode ((convBits r s).extractLsb' 3 2) = some s := by
    simp (disch := omega) only [convBits, BitVec.extractLsb'_append_eq_of_le, BitVec.extractLsb'_append_eq_of_add_le]
    cases s <;> rfl
  have htop : (convBits r s).getLsbD 5 = false := by
    simp only [convBits, BitVec.getLsbD_append]
    simp
  rw [convMod, Form.fields_md, hr, hs, htop]
  rfl

theorem ordMod_bits {o : Ordering} {s : Scope} {h bit0 : Bool} (hs : scopeOk o s = true) (hh : (bit0 || !h) = true)
    (k : Ordering → Scope → Bool → Dec) : ordMod (Form.fields ⟨page, ordBits o s h, b⟩) bit0 k = k o s h := by
  have ho : Ordering.ofCode ((ordBits o s h).extractLsb' 4 2) = some o := by
    simp (disch := omega) only [ordBits, BitVec.extractLsb'_append_eq_of_le]
    cases o <;> rfl
  have hcode : (ordBits o s h).extractLsb' 1 3 = s.code := by
    simp (disch := omega) only [ordBits, BitVec.extractLsb'_append_eq_of_le, BitVec.extractLsb'_append_eq_of_add_le]
    simp
  have hscope : Scope.ofCode s.code = some s := by cases s <;> rfl
  have hzero : (o != .rlx || s.code == 0#3) = true := by
    have hpackage : (s.code == 0#3) = (s == .package) := by cases s <;> rfl
    rw [hpackage]
    exact hs
  have hbit : (ordBits o s h).getLsbD 0 = h := by
    simp only [ordBits, BitVec.getLsbD_append]
    simp [bit1]
  simp only [ordMod, Form.fields_md, ho, hcode, hscope, hzero, hbit, hh, listed_some, need_true]

theorem acqMod_bits {o : Ordering} {s : Scope} {h bit0 : Bool} (ho : (o != .rel) = true) (hs : scopeOk o s = true)
    (hh : (bit0 || !h) = true) (k : Ordering → Scope → Bool → Dec) :
    acqMod (Form.fields ⟨page, ordBits o s h, b⟩) bit0 k = k o s h := by
  rw [acqMod, ordMod_bits page b hs hh, ho, need_true]

theorem relMod_bits {o : Ordering} {s : Scope} {h bit0 : Bool} (ho : (o != .acq) = true) (hs : scopeOk o s = true)
    (hh : (bit0 || !h) = true) (k : Ordering → Scope → Bool → Dec) :
    relMod (Form.fields ⟨page, ordBits o s h, b⟩) bit0 k = k o s h := by
  rw [relMod, ordMod_bits page b hs hh, ho, need_true]

@[simp] theorem chanMod_num (c : BitVec 3) (k : BitVec 3 → Dec) : chanMod (Form.fields ⟨page, c.setWidth 6, b⟩) k = k c := by
  rw [chanMod, Form.fields_md, extractLsb'_widened (by decide), extractLsb'_widened_high (by decide)]
  rfl

@[simp] theorem tableMod_num (t : BitVec 2) (k : BitVec 2 → Dec) :
    tableMod (Form.fields ⟨page, t.setWidth 6, b⟩) k = k t := by
  rw [tableMod, Form.fields_md, extractLsb'_widened (by decide), extractLsb'_widened_high (by decide)]
  rfl

/-- The number of a system register: its upper bits in the modifier, its lower in the base word (R63). -/
theorem sysNumber (n : BitVec 12) : ((n.extractLsb' 9 3).setWidth 6).extractLsb' 3 3 = 0#3 ∧
    ((n.extractLsb' 9 3).setWidth 6).extractLsb' 0 3 ++ n.extractLsb' 0 9 = n := by
  refine ⟨extractLsb'_widened_high (by decide) _, ?_⟩
  rw [extractLsb'_widened (by decide)]
  exact (BitVec.extractLsb'_append_extractLsb'_eq_extractLsb' rfl).trans BitVec.extractLsb'_eq_self

theorem barMod_code {s : BScope} {mn : BitVec 4} {n : Byte} (hn : n.toNat ≤ s.limit) (k : BScope → Dec) :
    barMod (Form.fields ⟨page, s.code, .z 0#4 mn n⟩) k = k s := by
  have hcode : BScope.ofCode s.code = some s := by cases s <;> rfl
  simp [barMod, hcode, hn]

end

/-- Page 0 (R62). -/
theorem decodePage0_form {i : Instr} {f : Form} (hw : i.wf = true) (hf : i.form = some f) (hp : f.page = 0#4)
    (hb : i ≠ .blkend) : decodePage0 f.fields = .ok i := by
  cases i <;> cases hf
  case ret => simp [decodePage0]
  case add | sub | mul | mulh | div | rem | min | max => simp [decodePage0]
  case and | or | xor | andn | shl | shr | sar | rol => simp [decodePage0]
  case ldi | loop | cmpImm | ldk => simp [decodePage0, immValue_immPayloads _ _ hw, -BitVec.extractLsb'_toNat]
  case mov d a => cases a <;> simp [decodePage0, MovReg.num, MovReg.sel]
  case movDestSelect d a => cases d <;> simp [decodePage0, MovReg.num, MovReg.sel]
  case clz | ctz | popc | cmp | tst => simp [decodePage0, noSel]
  case sel => simp [decodePage0, noSel]
  case lea => simp [decodePage0, immValue_immPayloads _ _ hw, -BitVec.extractLsb'_toNat]
  case ext | jmpr => simp [decodePage0]
  case brc => simp [decodePage0, immValue_immPayloads _ _ hw, -BitVec.extractLsb'_toNat]
  case br | call => simp [decodePage0, immValue_immPayloads _ _ hw, -BitVec.extractLsb'_toNat]
  case blkend => exact absurd rfl hb
  all_goals simp at hp


/-- Page 1 (R63). -/
theorem decodePage1_form {i : Instr} {f : Form} (hf : i.form = some f) (hp : f.page = 1#4) :
    decodePage1 f.fields = .ok i := by
  cases i <;> cases hf
  case trap | svc | rft | snap => simp [decodePage1]
  case shlImm | shrImm | sarImm | rolImm => simp [decodePage1]
  case bfx | bfi | rep => simp [decodePage1]
  case mfs d n | mts d n =>
    obtain ⟨hhigh, hnum⟩ := sysNumber n
    simp [decodePage1, hhigh, hnum]
  case tlbi c a b => cases c <;> simp [decodePage1]
  all_goals simp at hp

/-- Page 2 (R64, R145). -/
theorem decodePage2_form {i : Instr} {f : Form} (hw : i.wf = true) (hf : i.form = some f) (hp : f.page = 2#4) :
    decodePage2 f.fields = .ok i := by
  cases i <;> cases hf
  case vadd | vsub | vmul | vfma | vdiv => simp [decodePage2, vmod_bits _ _ _ hw]
  case vmax | vmin | vsel => simp [decodePage2]
  case vcmp => simp [decodePage2]
  case vabs | vneg | vbcast | vclr => simp [decodePage2]
  case vredr | vredc => simp [decodePage2, vmod_bits _ _ _ hw]
  case vrdq | vsets => simp [decodePage2]
  case vld | vst | vldt => simp [decodePage2, immValue_immPayloads _ _ hw, -BitVec.extractLsb'_toNat]
  case vsetsImm => simp [decodePage2, immValue_immPayloads _ _ hw, -BitVec.extractLsb'_toNat]
  all_goals simp at hp

/-- A code table's number in a register field (R65). -/
theorem tableNumber (t : BitVec 2) : (t.setWidth 3).toNat < 4 ∧ (t.setWidth 3).extractLsb' 0 2 = t := by
  refine ⟨?_, extractLsb'_widened (by decide) t⟩
  rw [BitVec.toNat_setWidth_of_le (by decide)]
  exact t.isLt

/-- Page 3 (R65). -/
theorem decodePage3_form {i : Instr} {f : Form} (hw : i.wf = true) (hf : i.form = some f) (hp : f.page = 3#4) :
    decodePage3 f.fields = .ok i := by
  cases i <;> cases hf
  case vcvt t mx ct r s d a =>
    have hmx : (bit1 mx ++ ct)[2] = mx := by rw [BitVec.getElem_append]; simp [bit1]
    have hct : (bit1 mx ++ ct).extractLsb' 0 2 = ct := BitVec.extractLsb'_append_eq_right
    simp [decodePage3, hmx, hct]
  case vexp2 | vsmx | vrng | vqz | lqz | ldec => simp [decodePage3]
  case vqmax => simp [decodePage3, show decide _ = true from hw]
  case ctld t a disp =>
    obtain ⟨hlt, hnum⟩ := tableNumber t
    simp [decodePage3, hlt, hnum, -BitVec.toNat_setWidth, immValue_immPayloads _ _ hw, -BitVec.extractLsb'_toNat]
  case ctldPreset t n =>
    obtain ⟨hlt, hnum⟩ := tableNumber t
    simp [decodePage3, hlt, hnum, -BitVec.toNat_setWidth]
  case castle => simp [decodePage3]
  all_goals simp at hp

/-- Only MIN and MAX have a signed form (R66). -/
theorem amoOp_signed {o : AmoOp} {g : Bool} (h : (!g || o == .min || o == .max) = true) :
    (decide (6 ≤ o.code.toNat) || !g) = true := by
  have hcode : decide (6 ≤ o.code.toNat) = (o == .min || o == .max) := by cases o <;> rfl
  rw [hcode, Bool.or_comm, ← Bool.or_assoc]
  exact h

theorem redOp_signed {o : RedOp} {g : Bool} (h : (!g || o == .min || o == .max) = true) :
    (!g || decide (4 ≤ o.code.toNat)) = true := by
  have hcode : decide (4 ≤ o.code.toNat) = (o == .min || o == .max) := by cases o <;> rfl
  rw [hcode, ← Bool.or_assoc]
  exact h

/-- Page 4 (R66): loads and stores. -/
theorem decodePage4_form {i : Instr} {f : Form} (hw : i.wf = true) (hf : i.form = some f) (hp : f.page = 4#4) :
    decodePage4 f.fields = .ok i := by
  cases i <;> cases hf
  case ld | ldmb =>
    obtain ⟨hacc, himm⟩ := Bool.and_eq_true_iff.mp hw
    obtain ⟨ho, hs⟩ := Bool.and_eq_true_iff.mp hacc
    simp [decodePage4, dispM, acqMod_bits _ _ ho hs, immValue_immPayloads _ _ himm, -BitVec.extractLsb'_toNat]
  case st | stmb =>
    obtain ⟨hacc, himm⟩ := Bool.and_eq_true_iff.mp hw
    obtain ⟨ho, hs⟩ := Bool.and_eq_true_iff.mp hacc
    simp [decodePage4, dispM, relMod_bits _ _ ho hs, immValue_immPayloads _ _ himm, -BitVec.extractLsb'_toNat]
  case ldSigned z o s nc d a disp =>
    obtain ⟨hacc, himm⟩ := Bool.and_eq_true_iff.mp hw
    obtain ⟨hsize, hs⟩ := Bool.and_eq_true_iff.mp hacc
    obtain ⟨hz, ho⟩ := Bool.and_eq_true_iff.mp hsize
    have hcode : (z.code != 0#2) = true := Eq.trans (by cases z <;> rfl) hz
    simp [decodePage4, dispM, acqMod_bits _ _ ho hs, immValue_immPayloads _ _ himm, hcode, -BitVec.extractLsb'_toNat]
  case lds | ldt | stf | ste =>
    simp [decodePage4, dispM, immValue_immPayloads _ _ hw, -BitVec.extractLsb'_toNat]
  case ldIndexed =>
    obtain ⟨ho, hs⟩ := Bool.and_eq_true_iff.mp hw
    simp [decodePage4, acqMod_bits _ _ ho hs]
  case stIndexed z o s h d a b =>
    obtain ⟨ho, hs⟩ := Bool.and_eq_true_iff.mp hw
    have hz : (z.code.setWidth 3).toNat < 4 := by
      rw [BitVec.toNat_setWidth_of_le (by decide)]
      exact z.code.isLt
    simp [decodePage4, relMod_bits _ _ ho hs, hz, extractLsb'_widened, -BitVec.toNat_setWidth]
  case fence => simp [decodePage4, ordMod_bits _ _ hw]
  case acqr s a b => simp [decodePage4, ordMod_bits _ _ (show scopeOk .acq s = true from rfl)]
  case relr s a b => simp [decodePage4, ordMod_bits _ _ (show scopeOk .rel s = true from rfl)]
  case ccln l a b | cflu l a b =>
    cases l with
    | ic => exact absurd hw Bool.false_ne_true
    | cdc | hs | dm => simp [decodePage4, Level.code]
  case cinv l a b => cases l <;> simp [decodePage4, Level.code]
  case amo | amoN32 =>
    obtain ⟨hs, hop⟩ := Bool.and_eq_true_iff.mp hw
    simp [decodePage4, ordMod_bits _ _ hs (amoOp_signed hop)]
  case amoFadd => simp [decodePage4, ordMod_bits _ _ hw]
  case redFadd => simp [decodePage4]
  case topk =>
    obtain ⟨ho, hs⟩ := Bool.and_eq_true_iff.mp hw
    simp [decodePage4, relMod_bits _ _ ho hs]
  case waita | waitaN32 =>
    obtain ⟨ho, hs⟩ := Bool.and_eq_true_iff.mp hw
    simp [decodePage4, acqMod_bits _ _ ho hs]
  case red | redN32 =>
    have hbit : ∀ g, (ordBits .rlx .package g).extractLsb' 1 5 = 0#5 ∧ (ordBits .rlx .package g)[0] = g := by decide
    simp [decodePage4, hbit, redOp_signed hw]
  all_goals simp at hp

/-- Page 5 (R67). -/
theorem decodePage5_form {i : Instr} {f : Form} (hf : i.form = some f) (hp : f.page = 5#4) :
    decodePage5 f.fields = .ok i := by
  cases i <;> cases hf
  case cpy | cpyg | cpyw | pmove => simp [decodePage5]
  case pconf | pcanc | pstat | prld | prst => simp [decodePage5]
  all_goals simp at hp

/-- Page 6 (R68). -/
theorem decodePage6_form {i : Instr} {f : Form} (hw : i.wf = true) (hf : i.form = some f) (hp : f.page = 6#4) :
    decodePage6 f.fields = .ok i := by
  cases i <;> cases hf
  case exit | yield | dcmp | compose => simp [decodePage6]
  case barv | barwEven | barwOdd => simp [decodePage6, barMod_code _ (of_decide_eq_true hw)]
  case send | sendd | spawn | popd | cnti | dec | exits | launch => simp [decodePage6]
  case ttset | tblk | tublk => simp [decodePage6]
  all_goals simp at hp

/-- Page 7 (R69). -/
theorem decodePage7_form {i : Instr} {f : Form} (hf : i.form = some f) (hp : f.page = 7#4) :
    decodePage7 f.fields = .ok i := by
  cases i <;> cases hf
  case kvlook | kvmap | sptlook | sptins | bhash | smax | tokc => simp [decodePage7]
  all_goals simp at hp

/-! ### The whole decoder -/

/-- The page tables have pages 0 to 7 and the hints of page 15. -/
theorem form_page {i : Instr} {f : Form} (hf : i.form = some f) :
    f.page = 0#4 ∨ f.page = 1#4 ∨ f.page = 2#4 ∨ f.page = 3#4 ∨ f.page = 4#4 ∨ f.page = 5#4 ∨ f.page = 6#4 ∨ f.page = 7#4 ∨
      f.page = 15#4 := by
  cases i <;> cases hf
  all_goals simp

/-- No base word is 0x0000: its major is not zero, or in format Z its minor (R57). -/
theorem form_word_ne_zero {i : Instr} {f : Form} (hw : i.wf = true) (hf : i.form = some f) : f.base.word ≠ 0#16 := by
  have hne : f.fields.major ≠ 0#4 ∨ f.fields.minorZ ≠ 0#4 → f.base.word ≠ 0#16 := by
    rintro (h | h) h0 <;> exact h (congrArg (BitVec.extractLsb' _ 4) h0)
  cases i <;> cases hf
  case blkend => decide
  case hintNop m w => exact bne_iff_ne.mp (Bool.and_eq_true_iff.mp hw).1
  all_goals exact hne (by simp)

/-- No base word but BLKEND's has major 15 (R53). -/
theorem form_major {i : Instr} {f : Form} (hw : i.wf = true) (hf : i.form = some f) (hb : i ≠ .blkend) :
    f.fields.major ≠ 0xF#4 := by
  cases i <;> cases hf
  case blkend => exact absurd rfl hb
  case hintNop m w => exact bne_iff_ne.mp (Bool.and_eq_true_iff.mp hw).2
  all_goals simp

/-- The class selectors of R51. -/
theorem form_sel {i : Instr} {f : Form} (hf : i.form = some f) : f.fields.cls.toNat < 5 := by
  cases i <;> cases hf
  case mov d a => cases a <;> simp [MovReg.sel]
  case movDestSelect d a => cases d <;> simp [MovReg.sel]
  case blkend | hintNop => exact Nat.zero_lt_succ 4
  all_goals simp

/-- R54: an instruction has at most five words. -/
theorem form_words_length {i : Instr} {f : Form} (hw : i.wf = true) (hf : i.form = some f) : f.words.length ≤ 5 := by
  cases i <;> cases hf
  case ldi d imm => exact Laws.Encoding.ldi d imm hw
  case loop d off => exact Laws.Encoding.loop d off hw
  case cmpImm d imm => exact Laws.Encoding.cmpImm d imm hw
  case ldk d imm => exact Laws.Encoding.ldk d imm hw
  case lea d a disp => exact Laws.Encoding.lea d a disp hw
  case brc c off => exact Laws.Encoding.brc c off hw
  case br off => exact Laws.Encoding.br off hw
  case call off => exact Laws.Encoding.call off hw
  case vld k d a disp => exact Laws.Encoding.vld k d a disp hw
  case vst k d a disp => exact Laws.Encoding.vst k d a disp hw
  case vldt k d a disp => exact Laws.Encoding.vldt k d a disp hw
  case vsetsImm imm => exact Laws.Encoding.vsetsImm imm hw
  case ctld t a disp => exact Laws.Encoding.ctld t a disp hw
  case ld z o s h d a disp => exact Laws.Encoding.ld z o s h d a disp hw
  case ldSigned z o s h d a disp => exact Laws.Encoding.ldSigned z o s h d a disp hw
  case st z o s h d a disp => exact Laws.Encoding.st z o s h d a disp hw
  case lds d a disp => exact Laws.Encoding.lds d a disp hw
  case ldt d a disp => exact Laws.Encoding.ldt d a disp hw
  case stf d a disp => exact Laws.Encoding.stf d a disp hw
  case ste a disp => exact Laws.Encoding.ste a disp hw
  case ldmb o s h a disp => exact Laws.Encoding.ldmb o s h a disp hw
  case stmb o s h a disp => exact Laws.Encoding.stmb o s h a disp hw
  all_goals exact Form.words_length_noImm _ rfl

theorem form_readable {i : Instr} {f : Form} (hw : i.wf = true) (hf : i.form = some f) (hb : i ≠ .blkend) : f.Readable :=
  { major := form_major hw hf hb, sel := form_sel hf, length := form_words_length hw hf }

/-- On page 15 every word is a hint (R58). -/
theorem hint_of_page {i : Instr} {f : Form} (hf : i.form = some f) (hp : f.page = 15#4) : .hintNop f.md f.base.word = i := by
  cases i <;> cases hf
  case hintNop => rfl
  all_goals simp at hp

/-- The page that a form names reads the form's fields back to the instruction (R45). -/
theorem decodeBase_form {i : Instr} {f : Form} (hw : i.wf = true) (hf : i.form = some f) (hb : i ≠ .blkend) :
    decodeBase f.page f.fields = .ok i := by
  have hne : f.fields.base ≠ 0#16 := form_word_ne_zero hw hf
  rcases form_page hf with hp | hp | hp | hp | hp | hp | hp | hp | hp <;> rw [decodeBase, if_neg hne, hp]
  · exact decodePage0_form hw hf hp hb
  · exact decodePage1_form hf hp
  · exact decodePage2_form hw hf hp
  · exact decodePage3_form hw hf hp
  · exact decodePage4_form hw hf hp
  · exact decodePage5_form hf hp
  · exact decodePage6_form hw hf hp
  · exact decodePage7_form hf hp
  · exact congrArg Except.ok (hint_of_page hf hp)

/-- Settles O4: the chain of a form is read back word by word, and then its page reads each field back. -/
theorem encodingRoundTrip : Obligations.EncodingRoundTrip := by
  intro i rest hw hwords
  obtain ⟨f, hf⟩ := Option.isSome_iff_exists.mp hwords
  by_cases hb : i = .blkend
  · subst hb
    rfl
  · rw [show encode i = f.words by rw [encode, hf]]
    exact (form_readable hw hf hb).decode (decodeBase_form hw hf hb) rest

/-- The words that the encoder gives for an instruction decode to it. -/
theorem decode_of_encode {i : Instr} {ws : List Half} (he : encode i = ws) (hw : i.wf = true) (hf : i.form.isSome = true) :
    decode ws = .ok (i, ws.length) := by
  subst he
  simpa using encodingRoundTrip i [] hw hf

/-- Settles O3: the words are those that the encoder gives, and 0x0000 is no instruction. -/
theorem decodedWords : Obligations.DecodedWords :=
  ⟨decode_of_encode (i := .add 1 2 3) (by decide) rfl rfl,
    decode_of_encode (i := .add 9 18 27) (by decide) rfl rfl,
    decode_of_encode (i := .ldi 1 (-1)) (by decide) (by decide) rfl,
    decode_of_encode (i := .ldi 1 512) (by decide) (by decide) rfl,
    decode_of_encode (i := .mulh .n64 1 2 3) (by decide) rfl rfl,
    decode_of_encode (i := .prld 1 4 5) (by decide) rfl rfl,
    decode_of_encode (i := .exit) (by decide) rfl rfl,
    decode_of_encode (i := .ld .n32 .rlx .package false 1 2 2) (by decide) (by decide) rfl,
    by decide⟩

end Sys2Proof
end

section
/-! PROOF. Fences, range releases and acquires, and cleaning of ranges (R196, R200 to R202, R206 to R209, R222). -/

namespace Sys2Proof.Machine

/-! ### The stores of a cluster that tasks may not see yet (log entry 4) -/

theorem State.cluster_modLate_map (s : State) (c j : Nat) (g : Late → Late) :
    (s.modLate c fun l => l.map g).cluster j =
      if j = c then { s.cluster c with late := (s.cluster c).late.map g } else s.cluster j := by
  unfold State.modLate
  split
  · next h =>
    have hnil := List.isEmpty_iff.1 h
    split
    · next hj =>
      subst hj
      rw [hnil]
      exact congrArg (fun l => { s.cluster j with late := l }) hnil
    · rfl
  · exact s.cluster_modCluster c j _

theorem State.here_modLate (s : State) (c : Nat) (f : List Late → List Late) : (s.modLate c f).here = s.here := by
  obtain ⟨k, hk⟩ := s.modLate_eq c f
  rw [hk]

theorem State.mem_modLate (s : State) (c : Nat) (f : List Late → List Late) : (s.modLate c f).mem = s.mem := by
  obtain ⟨k, hk⟩ := s.modLate_eq c f
  rw [hk]

theorem State.cluster_dropCopies (s : State) (c j : Nat) (p : Nat → Bool) :
    (s.dropCopies c p).cluster j =
      if j = c then { s.cluster c with copies := (s.cluster c).copies.filter fun y => !p y.line } else s.cluster j :=
  s.cluster_modCluster c j _

@[simp] theorem Late.bar_line (y : Late) (w : Nat × Nat) : (y.bar w).line = y.line := by unfold Late.bar; split <;> rfl
@[simp] theorem Late.free_line (y : Late) (f : Nat × Bool) : (y.free f).line = y.line := by unfold Late.free; split <;> rfl
@[simp] theorem Late.free_barred (y : Late) (f : Nat × Bool) : (y.free f).barred = y.barred := by
  unfold Late.free; split <;> rfl

theorem Late.mem_barred_bar (y : Late) (w : Nat × Nat) : w ∈ (y.bar w).barred := by
  unfold Late.bar
  split
  · next h => exact List.contains_iff_mem.1 h
  · exact List.mem_cons_self

theorem Late.mem_freed_free (y : Late) (f : Nat × Bool) : f ∈ (y.free f).freed := by
  unfold Late.free
  split
  · next h => exact List.contains_iff_mem.1 h
  · exact List.mem_cons_self

/-- What an acquire of a core synchronises with (R196). -/
theorem Late.reaches_iff (y : Late) (cid : Nat) (wide : Bool) :
    y.reaches cid wide = true ↔ ∃ f ∈ y.freed, f.1 = cid ∨ (f.2 = true ∧ wide = true) := by
  simp [Late.reaches, List.any_eq_true]

theorem scopeWide_iff (sc : Scope) : scopeWide sc = true ↔ sc ≠ .core ∧ sc ≠ .cluster := by cases sc <;> decide

theorem scope_bne_core (sc : Scope) : (sc != .core) = decide (sc ≠ .core) := by cases sc <;> rfl

/-! ### The frame of an acquire and of a release -/

/-- t is s with other CDC copies and other late stores in one cluster: copies of the lines that are gone have left, and f gives
what tasks may see of each store. -/
structure State.Seen (s t : State) (k : Nat) (gone : Nat → Bool) (f : Late → Late) : Prop where
  here : t.here = s.here
  mem : t.mem = s.mem
  cluster : ∀ j, t.cluster j = if j = k then
    { s.cluster k with copies := (s.cluster k).copies.filter fun y => !gone y.line, late := (s.cluster k).late.map f }
    else s.cluster j

theorem State.seen_modLate (s : State) (k : Nat) (f : Late → Late) :
    s.Seen (s.modLate k fun l => l.map f) k (fun _ => false) f where
  here := s.here_modLate k _
  mem := s.mem_modLate k _
  cluster j := by simp [s.cluster_modLate_map]

theorem State.seen_dropCopies_modLate (s : State) (k : Nat) (p : Nat → Bool) (f : Late → Late) :
    s.Seen ((s.dropCopies k p).modLate k fun l => l.map f) k p f where
  here := (s.dropCopies k p).here_modLate k _
  mem := (s.dropCopies k p).mem_modLate k _
  cluster j := by
    rw [State.cluster_modLate_map, s.cluster_dropCopies k k, if_pos rfl, s.cluster_dropCopies]
    split <;> rfl

section
variable {s t : State} {k : Nat} {gone : Nat → Bool} {f : Late → Late} (h : s.Seen t k gone f)
include h

theorem State.Seen.same : t.here = s.here ∧ t.mem = s.mem ∧ (∀ j, j ≠ k → t.cluster j = s.cluster j) ∧
    (t.cluster k).ulines = (s.cluster k).ulines := by
  refine ⟨h.here, h.mem, fun j hj => ?_, ?_⟩
  · rw [h.cluster j, if_neg hj]
  · rw [h.cluster k, if_pos rfl]

theorem State.Seen.copies (x : Copy) : x ∈ (t.cluster k).copies ↔ x ∈ (s.cluster k).copies ∧ gone x.line = false := by
  rw [h.cluster k, if_pos rfl]
  simp

theorem State.Seen.late_eq : (t.cluster k).late = (s.cluster k).late.map f := by rw [h.cluster k, if_pos rfl]

theorem State.Seen.late (i : Nat) : (t.cluster k).late[i]? = (s.cluster k).late[i]?.map f := by
  rw [h.late_eq, List.getElem?_map]

end

/-! ### Acquires, releases and fetching anew -/

/-- What an acquire makes the issuing task see of a store (R196, R200). -/
def acquired (me : Nat × Nat) (sc : Scope) (p : Nat → Bool) (y : Late) : Late :=
  if p y.line && (y.reaches me.1 (sc != .core) || (scopeWide sc && y.stale)) then y.bar me else y

/-- What a release of a task covers of a store that the task has made or seen (R201). -/
def released (me : Nat × Nat) (sc : Scope) (p : Nat → Bool) (y : Late) : Late :=
  if p y.line && y.barred.contains me then y.free (me.1, sc != .core) else y

theorem State.acquireFor_eq (s : State) (sc : Scope) (p : Nat → Bool) : s.acquireFor s.me sc p =
    (if scopeWide sc then s.dropCopies (clusterOf s.hereCid) p else s).modLate (clusterOf s.hereCid) fun l =>
      l.map (acquired s.me sc p) := rfl

theorem State.seen_acquireFor (s : State) (sc : Scope) (p : Nat → Bool) :
    s.Seen (s.acquireFor s.me sc p) (clusterOf s.hereCid) (fun l => scopeWide sc && p l) (acquired s.me sc p) := by
  rw [s.acquireFor_eq]
  cases scopeWide sc with
  | true => exact s.seen_dropCopies_modLate _ p _
  | false => exact s.seen_modLate _ _

theorem State.seen_fetchAnew (s : State) (p : Nat → Bool) :
    s.Seen (s.fetchAnew p) (clusterOf s.hereCid) p (fun y => if p y.line then y.bar s.me else y) :=
  s.seen_dropCopies_modLate (clusterOf s.hereCid) p _

/-- A release at quad scope or wider first combines the cluster's U lines; what it covers in other clusters changes none. -/
theorem State.releaseFor_wide (s : State) {sc : Scope} (hw : scopeWide sc = true) (p : Nat → Bool) :
    ∃ u : State, (u.cluster (clusterOf s.hereCid)).ulines =
        ((s.combineWhere (clusterOf s.hereCid) p).cluster (clusterOf s.hereCid)).ulines ∧
      s.releaseFor s.me sc p = u.modLate (clusterOf s.hereCid) fun l => l.map (released s.me sc p) := by
  refine ⟨_, ?_, by rw [State.releaseFor, if_pos hw]; rfl⟩
  refine List.foldlRecOn (motive := fun (t : State) => (t.cluster (clusterOf s.hereCid)).ulines =
    ((s.combineWhere (clusterOf s.hereCid) p).cluster (clusterOf s.hereCid)).ulines) _ _ rfl fun t ht x _ => ?_
  split
  · exact ht
  · next hx =>
    rw [t.cluster_modLate_map]
    exact (congrArg Cluster.ulines (if_neg fun e => hx e.symm)).trans ht

theorem State.seen_releaseFor_narrow (s : State) {sc : Scope} (hw : scopeWide sc = false) (p : Nat → Bool) :
    s.Seen (s.releaseFor s.me sc p) (clusterOf s.hereCid) (fun _ => false) (released s.me sc p) := by
  rw [State.releaseFor, if_neg (by simp [hw])]
  exact s.seen_modLate _ _

/-! ### Combining U lines (R222) -/

theorem State.clusters_poke_phys (s : State) (pa n v : Nat) : (s.poke (.phys pa) n v).clusters = s.clusters := by
  induction n generalizing s pa v with
  | zero => rfl
  | succ n ih => exact (ih _ (pa + 1) (v / 256)).trans rfl

theorem State.clusters_pokeHome (s : State) (pa n v : Nat) : (s.pokeHome pa n v).clusters = s.clusters :=
  s.clusters_poke_phys pa n v

theorem sumFloat_clusters (s : State) (n : Nat) (l : List Word) (acc : Nat) : (sumFloat s n l acc).2.clusters = s.clusters := by
  induction n generalizing s l acc with
  | zero => rfl
  | succ n ih =>
    cases l with
    | nil => rfl
    | cons v l =>
      by_cases h : (v :: l).length ≤ 1
      · simp only [sumFloat, if_pos h]
        exact ih _ _ _
      · simp only [sumFloat, if_neg h]
        exact ih _ _ _

theorem combineWord_clusters (k : UKind) (s : State) (pa : Nat) (l : List Word) :
    (combineWord k s pa l).clusters = s.clusters := by
  unfold combineWord
  split
  · exact s.clusters_pokeHome _ _ _
  · exact (State.clusters_pokeHome _ _ _ _).trans (sumFloat_clusters s _ _ _)

theorem State.clusters_answerWaiter (s : State) (w : Waiter) : (s.answerWaiter w).clusters = s.clusters := by
  unfold State.answerWaiter
  split
  · next x _ =>
    rcases s.answerFar_cases x with h | ⟨v, h⟩ <;> rw [h]
  · exact s.setCore_clusters _ _

theorem State.clusters_wakeLine (s : State) (line : Loc) : (s.wakeLine line).clusters = s.clusters :=
  List.foldlRecOn (motive := fun (t : State) => t.clusters = s.clusters) _ _ rfl
    fun t ht w _ => (t.clusters_answerWaiter w).trans ht

theorem State.clusters_trigger (s : State) (n : Nat) : (s.trigger n).clusters = s.clusters := by
  unfold State.trigger
  split
  · rfl
  · split <;> rfl

theorem State.clusters_report (s : State) (d : Nat) (r : FaultRec) : (s.report d r).clusters = s.clusters := by
  unfold State.report
  dsimp only
  split
  · rfl
  · split
    · rfl
    · exact State.clusters_trigger _ _

/-- Combining a U line of a cluster drops it there and changes no other line of any cluster. -/
theorem State.clusters_combineU (s : State) (c : Nat) (u : ULine) : (s.combineU c u).clusters =
    (s.modCluster c fun x => { x with ulines := x.ulines.filter fun y => y.line ≠ u.line }).clusters := by
  unfold State.combineU
  split
  · exact State.clusters_report _ _ _
  · refine (State.clusters_wakeLine _ _).trans ?_
    exact List.foldlRecOn (motive := fun (t : State) => t.clusters = _) _ _ rfl
      fun t ht x _ => (combineWord_clusters _ t _ _).trans ht

theorem State.ulines_combineU (s : State) (c : Nat) (u : ULine) :
    ((s.combineU c u).cluster c).ulines = (s.cluster c).ulines.filter fun y => y.line ≠ u.line := by
  have h : (s.combineU c u).cluster c = _ := congrArg (fun t => (t.get c).getD Cluster.reset) (s.clusters_combineU c u)
  rw [h]
  exact congrArg Cluster.ulines ((s.cluster_modCluster c c _).trans (if_pos rfl))

/-- Combining U lines of a cluster one after another leaves those whose lines are not among them. -/
theorem State.ulines_foldl_combineU (s : State) (c : Nat) (us : List ULine) :
    ((us.foldl (fun s u => s.combineU c u) s).cluster c).ulines =
      (s.cluster c).ulines.filter fun y => us.all fun u => y.line ≠ u.line := by
  induction us generalizing s with
  | nil => simp
  | cons u us ih =>
    rw [List.foldl_cons, ih, s.ulines_combineU, List.filter_filter]
    refine List.filter_congr fun y _ => ?_
    simp [Bool.and_comm]

/-- The lines that satisfy p have left U state in the cluster. -/
theorem State.ulines_combineWhere (s : State) (c : Nat) (p : Nat → Bool) :
    ∀ u ∈ ((s.combineWhere c p).cluster c).ulines, p u.line = false := by
  intro u hu
  rw [State.combineWhere, s.ulines_foldl_combineU] at hu
  obtain ⟨hu, hne⟩ := List.mem_filter.1 hu
  by_contra hp
  have hmem : u ∈ (s.cluster c).ulines.filter fun u => p u.line := List.mem_filter.2 ⟨hu, by simpa using hp⟩
  simpa using List.all_eq_true.1 hne u hmem

/-! ### Range operations (R207 to R209) -/

section
variable (s : State) (a b : GReg) (f : State → (Nat → Bool) → State)

theorem State.onRange_crossing (h : rangeOk (s.g a) (s.g b) = false) : s.onRange a b f = .next (s.takeTrap .illop 0) := by
  simp [State.onRange, h]

variable (h : rangeOk (s.g a) (s.g b) = true)
include h

theorem State.onRange_none (hn : s.g b = 0 ∨ isLocal (s.g a) = true) : Completes (s.onRange a b f) s :=
  completes_advance (by rw [State.onRange, h, if_pos hn]; rfl)

theorem State.onRange_global (hn : ¬ (s.g b = 0 ∨ isLocal (s.g a) = true)) :
    Completes (s.onRange a b f) (f s (s.inRange (s.g a) (s.g b))) :=
  completes_advance (by rw [State.onRange, h, if_neg hn]; rfl)

end

section
variable (s : State) (sc : Scope) (l : Level) (a b : GReg)

theorem exec_acqr : exec (.acqr sc a b) s = s.onRange a b fun s p => s.acquireFor s.me sc p := rfl
theorem exec_relr : exec (.relr sc a b) s = s.onRange a b fun s p => s.releaseFor s.me sc p := rfl
theorem exec_ccln : exec (.ccln l a b) s = s.onRange a b fun s p => s.clean l p := rfl
theorem exec_cflu : exec (.cflu l a b) s =
    s.onRange a b fun s p => ((s.clean l p).fetchAnew p).combineWhere (clusterOf s.hereCid) p := rfl
theorem exec_cinv_data (hl : l ≠ .ic) : exec (.cinv l a b) s = s.onRange a b fun s p => s.fetchAnew p := by
  cases l with
  | ic => exact absurd rfl hl
  | cdc | hs | dm => rfl
theorem exec_cinv_code : exec (.cinv .ic a b) s = s.onRange a b fun s _ =>
    s.task.members.foldl (fun t m => t.modCore m fun c => c.dropCode (s.g a).toNat (s.g b).toNat)
      (({ s with here := s.here.dropCode (s.g a).toNat (s.g b).toNat } : State).modTask fun t =>
        { t with cinvs := t.cinvs ++ [((s.g a).toNat, (s.g b).toNat, s.now)] }) := rfl

/-- Each of the five range operations is an effect on the lines of its range. -/
theorem exec_onRange {i : Instr} (hi : i ∈ [Instr.acqr sc a b, .relr sc a b, .ccln l a b, .cinv l a b, .cflu l a b]) :
    ∃ f, exec i s = s.onRange a b f := by
  simp only [List.mem_cons, List.not_mem_nil, or_false] at hi
  rcases hi with rfl | rfl | rfl | rfl | rfl
  · exact ⟨_, exec_acqr s sc a b⟩
  · exact ⟨_, exec_relr s sc a b⟩
  · exact ⟨_, exec_ccln s l a b⟩
  · by_cases hl : l = .ic
    · exact hl ▸ ⟨_, exec_cinv_code s a b⟩
    · exact ⟨_, exec_cinv_data s l a b hl⟩
  · exact ⟨_, exec_cflu s l a b⟩

end

/-- R206: FENCE of each ordering. -/
theorem fence_completes (s : State) (sc : Scope) :
    Completes (exec (.fence .rlx sc) s) ((s.releaseTo .system).acquire .system) ∧
      Completes (exec (.fence .acq sc) s) (s.acquire sc) ∧ Completes (exec (.fence .rel sc) s) (s.releaseTo sc) :=
  ⟨completes_advance rfl, completes_advance rfl, completes_advance rfl⟩

/-! ### What an acquire and a release leave -/

theorem acquired_eq (me : Nat × Nat) (sc : Scope) (p : Nat → Bool) (y : Late) : acquired me sc p y =
    if p y.line = true ∧ ((∃ f ∈ y.freed, f.1 = me.1 ∨ (f.2 = true ∧ sc ≠ .core)) ∨
      ((sc ≠ .core ∧ sc ≠ .cluster) ∧ y.stale = true)) then y.bar me else y := by
  simp only [acquired, Bool.and_eq_true, Bool.or_eq_true, y.reaches_iff, scopeWide_iff, bne_iff_ne]

theorem released_eq (me : Nat × Nat) (sc : Scope) (p : Nat → Bool) (y : Late) : released me sc p y =
    if p y.line = true ∧ me ∈ y.barred then y.free (me.1, decide (sc ≠ .core)) else y := by
  simp only [released, Bool.and_eq_true, List.contains_iff_mem, scope_bne_core]

/-- After a wide acquire the task sees every store to the lines whose older bytes may be stale (R200). -/
theorem stale_acquired {me : Nat × Nat} {sc : Scope} (hw : scopeWide sc = true) {p : Nat → Bool} {y : Late}
    (hp : p (acquired me sc p y).line = true) (hme : me ∉ (acquired me sc p y).barred) :
    (acquired me sc p y).stale = false := by
  unfold acquired at hp hme ⊢
  split at hp
  · next h => exact absurd (y.mem_barred_bar me) (by simpa only [if_pos h] using hme)
  · next h =>
    rw [if_neg h]
    exact Bool.eq_false_iff.2 fun hs => h (by simp [hp, hw, hs])

/-- After a release the stores that the task has made or seen are covered (R201). -/
theorem freed_released {me : Nat × Nat} {sc : Scope} {p : Nat → Bool} {y : Late}
    (hp : p (released me sc p y).line = true) (hme : me ∈ (released me sc p y).barred) :
    (me.1, decide (sc ≠ .core)) ∈ (released me sc p y).freed := by
  rw [released_eq] at hp hme ⊢
  split at hp
  · next h =>
    rw [if_pos h]
    exact y.mem_freed_free _
  · next h =>
    rw [if_neg h] at hme
    exact absurd ⟨hp, hme⟩ h

theorem State.stale_acquireFor (s : State) {sc : Scope} (hw : scopeWide sc = true) (p : Nat → Bool) :
    ∀ y ∈ ((s.acquireFor s.me sc p).cluster (clusterOf s.hereCid)).late, p y.line = true →
      s.me ∉ y.barred → y.stale = false := by
  intro y hy hp hme
  rw [(s.seen_acquireFor sc p).late_eq] at hy
  obtain ⟨z, _, rfl⟩ := List.mem_map.1 hy
  exact stale_acquired hw hp hme

/-- A release at quad scope or wider leaves no U line of the lines in the cluster, and covers what the task has made or seen. -/
theorem State.releaseFor_wide_leaves (s : State) {sc : Scope} (hw : scopeWide sc = true) (p : Nat → Bool) :
    (∀ u ∈ ((s.releaseFor s.me sc p).cluster (clusterOf s.hereCid)).ulines, p u.line = false) ∧
      ∀ y ∈ ((s.releaseFor s.me sc p).cluster (clusterOf s.hereCid)).late, p y.line = true → s.me ∈ y.barred →
        (s.hereCid, true) ∈ y.freed := by
  obtain ⟨u, hu, heq⟩ := s.releaseFor_wide hw p
  have hseen := u.seen_modLate (clusterOf s.hereCid) (released s.me sc p)
  rw [heq]
  refine ⟨fun x hx => ?_, fun y hy hp hme => ?_⟩
  · rw [hseen.same.2.2.2, hu] at hx
    exact s.ulines_combineWhere _ p x hx
  · rw [hseen.late_eq] at hy
    obtain ⟨z, _, rfl⟩ := List.mem_map.1 hy
    have hfreed := freed_released hp hme
    rwa [decide_eq_true ((scopeWide_iff sc).1 hw).1] at hfreed

/-! ### The whole statement -/

/-- Settles O20: fences and range operations by their one frame each, and what acquires and releases leave of the cluster by
the map over its late stores. -/
theorem fencesAndRanges : Obligations.FencesAndRanges := by
  refine ⟨fun s sc => ?_, fun s sc l a b => ?_, fun s sc p => ?_⟩
  · obtain ⟨hrlx, hacq, hrel⟩ := fence_completes s sc
    exact ⟨hrlx, hacq, hrel, rfl, rfl⟩
  · refine ⟨fun h => ⟨fun hn i hi => ?_, fun hn => ⟨?_, ?_, ?_, fun hl => ?_, ?_, ?_, ?_⟩⟩, fun h i hi => ?_⟩
    · obtain ⟨f, hf⟩ := exec_onRange s sc l a b hi
      exact hf ▸ s.onRange_none a b f h hn
    · exact exec_acqr s sc a b ▸ s.onRange_global a b _ h hn
    · exact exec_relr s sc a b ▸ s.onRange_global a b _ h hn
    · exact exec_ccln s l a b ▸ s.onRange_global a b _ h hn
    · exact exec_cinv_data s l a b hl ▸ s.onRange_global a b _ h hn
    · rintro rfl hm
      have hc : Completes (exec (.cinv .ic a b) s) _ := exec_cinv_code s a b ▸ s.onRange_global a b _ h hn
      rwa [hm] at hc
    · rintro rfl
      exact ⟨_, exec_cinv_code s a b ▸ s.onRange_global a b _ h hn⟩
    · exact exec_cflu s l a b ▸ s.onRange_global a b _ h hn
    · obtain ⟨f, hf⟩ := exec_onRange s sc l a b hi
      exact hf ▸ s.onRange_crossing a b f h
  · have hacq := s.seen_acquireFor sc p
    have hnew := s.seen_fetchAnew p
    refine ⟨⟨hacq.same, fun x => ?_, fun i => ?_⟩, fun hw => s.stale_acquireFor ((scopeWide_iff sc).2 hw) p,
      ⟨hnew.same, fun x => ?_, hnew.late⟩, fun hn => ?_, fun hw => s.releaseFor_wide_leaves ((scopeWide_iff sc).2 hw) p⟩
    · exact (hacq.copies x).trans (and_congr_right' (by rw [← Bool.not_eq_true, Bool.and_eq_true, scopeWide_iff]))
    · exact (hacq.late i).trans (congrArg (Option.map · _) (funext (acquired_eq s.me sc p)))
    · exact (hnew.copies x).trans (and_congr_right' (by rw [← Bool.not_eq_true]))
    · have hrel := s.seen_releaseFor_narrow (Bool.eq_false_iff.2 fun h => hn ((scopeWide_iff sc).1 h)) p
      refine ⟨hrel.same, fun x => ?_, fun i => ?_⟩
      · exact (hrel.copies x).trans (and_congr_right' (by simp))
      · exact (hrel.late i).trans (congrArg (Option.map · _) (funext (released_eq s.me sc p)))

end Sys2Proof.Machine
end

section
/-! PROOF. VCVT (R99, R139, R144, R160, R161): what the vector unit holds for its task, the elements written to a tile, and the
conversion of a shape. -/

namespace Sys2Proof.Machine

/-! ### Bringing a task's tiles into the unit (R144) -/

/-- A core with other tiles, masks, LM and slots, where the slot i stays. -/
structure Core.KeepsSlot (c c' : Core) (i : Nat) : Prop where
  slot : c'.slot i = c.slot i
  cts : c'.cts = c.cts
  cur : c'.cur = c.cur

theorem Core.keepsSlot_saveTiles (c : Core) {i j : Nat} (h : i ≠ j) (live : BitVec 16) : c.KeepsSlot (c.saveTiles j live) i where
  slot := (Core.slot_setSlot _ j i _).trans (if_neg fun hij => h hij.1)
  cts := rfl
  cur := rfl

/-- The task that comes into the unit keeps its workspace but for VHOME. -/
def Slot.homed (t : Slot) : Slot := { t with ws := { t.ws with vsd := { t.ws.vsd with vhome := true } } }

theorem Slot.homed_of_vhome {t : Slot} (h : t.ws.vsd.vhome = true) : t.homed = t := by
  have hvsd : { t.ws.vsd with vhome := true } = t.ws.vsd := by
    generalize t.ws.vsd = v at h
    cases v
    cases h
    rfl
  rw [Slot.homed, hvsd]

theorem Core.cts_loadTiles (c : Core) (i : Nat) : (c.loadTiles i).cts = c.cts := rfl
theorem Core.cur_loadTiles (c : Core) (i : Nat) : (c.loadTiles i).cur = c.cur := rfl

theorem Core.slot_loadTiles (c : Core) {i : Nat} (hi : i < 8) : (c.loadTiles i).slot i = (c.slot i).homed :=
  (Core.slot_setSlot _ i i _).trans (if_pos ⟨rfl, hi⟩)

/-- The slots of tasks whose tiles the unit does not hold stay while it saves those that it holds. -/
theorem Core.keepsSlot_saveHolders (c : Core) {i : Nat} (hi : (c.slot i).ws.vsd.vhome = false) (l : List Nat) :
    c.KeepsSlot (l.foldl (fun c j => if (c.slot j).held && (c.slot j).ws.vsd.vhome then c.saveTiles j 0xFFFF#16 else c) c) i := by
  induction l generalizing c with
  | nil => exact ⟨rfl, rfl, rfl⟩
  | cons j l ih =>
    rw [List.foldl_cons]
    split
    · next hj =>
      have hij : i ≠ j := by
        rintro rfl
        exact absurd (Bool.and_eq_true_iff.1 hj).2 (by simp [hi])
      have hs := c.keepsSlot_saveTiles hij 0xFFFF#16
      have hl := ih (c.saveTiles j 0xFFFF#16) (by rw [hs.slot, hi])
      exact ⟨hl.slot.trans hs.slot, hl.cts.trans hs.cts, hl.cur.trans hs.cur⟩
    · exact ih c hi

theorem Core.claimUnit_spec (c : Core) {i : Nat} (hi : i < 8) :
    (c.claimUnit i).slot i = (c.slot i).homed ∧ (c.claimUnit i).cts = c.cts ∧ (c.claimUnit i).cur = c.cur := by
  unfold Core.claimUnit
  split
  · next hv =>
    exact ⟨(Slot.homed_of_vhome hv).symm, rfl, rfl⟩
  · next hv =>
    have hkeep := c.keepsSlot_saveHolders (Bool.eq_false_iff.2 hv) (List.range 8)
    exact ⟨(Core.slot_loadTiles _ hi).trans (congrArg _ hkeep.slot), (Core.cts_loadTiles _ i).trans hkeep.cts,
      (Core.cur_loadTiles _ i).trans hkeep.cur⟩

theorem State.task_eq_slot (s : State) : s.task = s.here.slot s.here.cur := by
  simp [State.task, Core.slot, vget]

/-- R144: with its tiles in the unit, the issuing task has VHOME set; nothing else of its workspace changes. -/
theorem State.task_claim (s : State) : s.claim.task = s.task.homed := by
  obtain ⟨hslot, _, hcur⟩ := s.here.claimUnit_spec s.here.cur.isLt
  rw [s.claim.task_eq_slot, s.task_eq_slot, ← hslot]
  exact congrArg (fun i : Fin 8 => (s.here.claimUnit s.here.cur).slot i) hcur

theorem State.ws_claim (s : State) : s.claim.ws = { s.ws with vsd := { s.ws.vsd with vhome := true } } :=
  congrArg Slot.ws s.task_claim

@[simp] theorem State.cts_claim (s : State) : s.claim.here.cts = s.here.cts := (s.here.claimUnit_spec s.here.cur.isLt).2.1
@[simp] theorem State.draw_claim (s : State) (r : Round) (e : Nat) : s.claim.draw r e = s.draw r e := by
  rw [State.draw, State.draw, s.ws_claim]
@[simp] theorem State.tileOk_claim (s : State) (i : Nat) : s.claim.ws.vsd.tileOk i = s.ws.vsd.tileOk i := by
  rw [s.ws_claim]
  rfl

/-! ### Writing a tile (R139, R144) -/

theorem State.setTile_ok {u : State} {d : VReg} (h : u.ws.vsd.tileOk d.toNat = true) (t : Tile) :
    u.setTile d t = .ok (u.withTile d t) := by
  rw [State.setTile, h]
  rfl

theorem State.ws_withTile (u : State) (d : VReg) (t : Tile) :
    (u.withTile d t).ws = { u.ws with vsd := { u.ws.vsd with vused := u.ws.vsd.vused ||| (1#16 <<< d.toNat) } } :=
  State.ws_setWs u _

theorem State.tile_withTile_other (u : State) {d e : VReg} (h : e ≠ d) (t : Tile) : (u.withTile d t).tile e = u.tile e := by
  have hne : d.toNat ≠ e.toNat := fun he => h (BitVec.eq_of_toNat_eq he.symm)
  exact Vector.getElem_set_ne d.isLt e.isLt hne

theorem State.vsd_addFpf (u : State) (f : Byte) : (u.addFpf f).ws.vsd = u.ws.vsd := by rw [State.addFpf_eq, State.ws_setWs]

theorem State.vsd_drawn (u : State) (r : Round) : (u.drawn r).ws.vsd = u.ws.vsd := by
  unfold State.drawn
  split
  · rw [State.modWs_eq, State.ws_setWs]
  · rfl

theorem State.tile_addFpf (u : State) (f : Byte) (d : VReg) : (u.addFpf f).tile d = u.tile d := rfl

theorem State.tile_drawn (u : State) (r : Round) (d : VReg) : (u.drawn r).tile d = u.tile d := by
  unfold State.drawn
  split <;> rfl

/-- Codes written one after another from element m up: those elements read as the codes, every other as before. -/
theorem tileElem_tilePut_zipIdx (w : Nat) (l : List (Nat × Byte)) (t : Tile) (m k : Nat) (h : w * (m + l.length) ≤ 8192) :
    tileElem (tilePut t w ((l.zipIdx m).map fun (x, e) => (e, x.1))) w k =
      if m ≤ k ∧ k < m + l.length then (l.getD (k - m) (0, 0)).1 % 2 ^ w else tileElem t w k := by
  induction l generalizing t m with
  | nil =>
    rw [if_neg (by simp)]
    rfl
  | cons x l ih =>
    rw [List.length_cons] at h ⊢
    have hfit : w * (m + 1) ≤ 8192 := le_trans (Nat.mul_le_mul_left w (by omega)) h
    have hrest := ih (tileSet t w m x.1) (m + 1) (by rwa [Nat.add_assoc, Nat.add_comm 1])
    rw [tileElem_tileSet _ _ _ _ _ hfit] at hrest
    refine hrest.trans ?_
    rcases Nat.lt_trichotomy k m with hk | rfl | hk
    · rw [if_neg (by omega), if_neg (by omega), if_neg (by omega)]
    · rw [if_neg (by omega), if_pos rfl, if_pos (by omega), Nat.sub_self, List.getD_cons_zero]
    · obtain ⟨i, rfl⟩ : ∃ i, k = m + 1 + i := ⟨k - (m + 1), by omega⟩
      rw [show m + 1 + i - m = i + 1 by omega, List.getD_cons_succ, Nat.add_sub_cancel_left]
      by_cases hi : i < l.length
      · rw [if_pos (by omega), if_pos (by omega)]
      · rw [if_neg (by omega), if_neg (by omega), if_neg (by omega)]

/-- Writing the n codes of a list to a tile gives its first n elements. -/
theorem tileGets_tilePut (u : State) (d : VReg) {w n : Nat} {l : List (Nat × Byte)} (hl : l.length = n) (h : w * n ≤ 8192)
    {res : Nat → Nat × Byte} (hres : ∀ e, e < n → (l.getD e (0, 0)).1 = (res e).1) :
    TileGets u d w n (fun _ => true) res (tilePut (u.tile d) w (l.zipIdx.map fun (x, e) => (e, x.1))) := by
  intro e _
  rw [tileElem_tilePut_zipIdx w l _ 0 e (by rwa [Nat.zero_add, hl]), Nat.zero_add, hl, Nat.sub_zero]
  by_cases he : e < n
  · rw [if_pos ⟨Nat.zero_le e, he⟩, if_pos ⟨he, rfl⟩, hres e he]
  · rw [if_neg fun h => he h.2, if_neg fun h => he h.1]

theorem flagsOf_all (n : Nat) (res : Nat → Nat × Byte) :
    flagsOf n (fun _ => true) res = ((List.range n).map res).foldl (fun f x => f ||| x.2) 0 := by
  rw [flagsOf, List.filter_true, List.foldl_map]

/-! ### A shape and its elements (R138, R139) -/

theorem State.shape_count_pos (s : State) : 0 < s.shape.count := by
  unfold State.shape
  cases h : shapeOf s.ws.vshape with
  | none => exact Nat.one_pos
  | some x =>
    unfold shapeOf at h
    split at h
    · exact absurd h nofun
    · dsimp only at h
      split at h
      · rw [← Option.some.inj h]
        exact Nat.mul_pos (Nat.succ_pos _) (Nat.succ_pos _)
      · exact absurd h nofun

/-- The elements of a conversion's target that fit 1,024 bytes fit a tile. -/
theorem target_fits {t : VTarget} {n : Nat} (h : (targetElem t).bytes n ≤ 1024) : (targetElem t).bits * n ≤ 8192 := by
  cases t <;> simp only [targetElem, Elem.bytes, Elem.bits, reduceCtorEq, if_false] at h ⊢ <;> omega

/-! ### VCVT -/

/-- What VCVT does with the codes of its elements and their flags: tile d, FPF, and the counter of .sr (R87, R161). -/
def State.putCodes (u : State) (d : VReg) (w : Nat) (r : Round) (l : List (Nat × Byte)) : Eff State := do
  let u2 ← u.setTile d (tilePut (u.tile d) w (l.zipIdx.map fun (x, e) => (e, x.1)))
  .ok ((u2.addFpf (l.foldl (fun f x => f ||| x.2) 0)).drawn r)

theorem State.putCodes_ok {u : State} {d : VReg} (h : u.ws.vsd.tileOk d.toNat = true) (w : Nat) (r : Round)
    (l : List (Nat × Byte)) : u.putCodes d w r l =
      .ok (((u.withTile d (tilePut (u.tile d) w (l.zipIdx.map fun (x, e) => (e, x.1)))).addFpf
        (l.foldl (fun f x => f ||| x.2) 0)).drawn r) := by
  rw [State.putCodes, State.setTile_ok h]
  rfl

/-- The results of all elements of a shape, written by an instruction that ends so. -/
theorem writesTile_putCodes {s u : State} {d : VReg} (h : u.ws.vsd.tileOk d.toNat = true) {w n : Nat} (hn : 0 < n)
    (hw : w * n ≤ 8192) (r : Round) (res : Nat → Nat × Byte) :
    WritesTile (s.finish (u.putCodes d w r ((List.range n).map res))) u d w n (fun _ => true) res (fun t => t.drawn r) := by
  have hany : (List.range n).any (fun _ => true) = true := List.any_eq_true.2 ⟨0, List.mem_range.2 hn, rfl⟩
  rw [WritesTile, if_pos hany]
  refine ⟨_, tileGets_tilePut u d (l := (List.range n).map res) (by simp) hw fun e he => ?_, ?_⟩
  · simp [List.getD_eq_getElem?_getD, he]
  · rw [u.putCodes_ok h, flagsOf_all]
    exact completes_advance rfl

section
variable (s : State) (target : VTarget) (ct : BitVec 2) (r : Round) (st : Sat) (d a : VReg)

/-- The checks of VCVT that come before .mx: the saturation, an unused table field, the bytes of the result (R65, R91, R161). -/
def cvtChecks : Bool :=
  satOk target st && (s.shape.ty == .c8 || target == .c8 || ct == 0#2) && decide ((targetElem target).bytes s.shape.count ≤ 1024)

/-- The result of element e of VCVT without .mx. -/
def cvtElem (e : Nat) : Nat × Byte :=
  if s.shape.ty = .lx8 then
    let v := lx8Elem (s.claim.tile a) (s.claim.tile (a + 1)) e
    let y := convert target s.here.cts[ct.toNat] r (s.draw r e) st v.1.toXV
    (y.1, v.2 ||| y.2)
  else convert target s.here.cts[ct.toNat] r (s.draw r e) st
    (elemValue s.shape.ty s.here.cts[ct.toNat] (tileElem (s.claim.tile a) s.shape.ty.bits e))

theorem exec_vcvt_refused (mx : Bool) (h : cvtChecks s target ct st = false) :
    exec (.vcvt target mx ct r st d a) s = .next (s.takeTrap .illop 0) := by
  show execVcvt target mx ct r st d a s = _
  unfold execVcvt
  cases hsat : (satOk target st && (s.shape.ty == .c8 || target == .c8 || ct == 0#2)) with
  | false => simp [hsat]
  | true =>
    have hbytes : decide ((targetElem target).bytes s.shape.count ≤ 1024) = false := by
      simpa [cvtChecks, hsat] using h
    simp [hsat, hbytes]

theorem exec_vcvt (h : cvtChecks s target ct st = true) : exec (.vcvt target false ct r st d a) s =
    s.finish (do
      demand (cvtOk s.shape.ty target)
      s.claim.putCodes d (targetElem target).bits r ((List.range s.shape.count).map (cvtElem s target ct r st a))) := by
  obtain ⟨hsat, hbytes⟩ := Bool.and_eq_true_iff.1 h
  show execVcvt target false ct r st d a s = _
  unfold execVcvt
  simp only [hsat, hbytes, demand_true, Eff.bind_ok, State.cts_claim, State.draw_claim, Bool.false_eq_true, if_false]
  rfl

/-! VCVT.MX: blocks of 32 elements and their scales (R99). -/

/-- Block j that VCVT.MX encodes. -/
def cvtBlock (j : Nat) : Nat × List (Nat × Byte) :=
  mxEncode target s.here.cts[ct.toNat] r (s.draw r) st (32 * j) ((List.range 32).map fun i =>
    elemValue s.shape.ty s.here.cts[ct.toNat] (tileElem (s.claim.tile a) s.shape.ty.bits (32 * j + i)))

/-- Element e that VCVT.MX encodes, out of its block. -/
def cvtCode (e : Nat) : Nat × Byte := (cvtBlock s target ct r st a (e / 32)).2.getD (e % 32) (0, 0)

/-- Element e that VCVT.MX decodes by the scale of its block. -/
def cvtScaled (e : Nat) : Nat × Byte :=
  let scale := tileElem (s.claim.tile (a + 1)) 8 (e / 32)
  if scale = 255 then convert target s.here.cts[ct.toNat] r 0 st .nan
  else convert target s.here.cts[ct.toNat] r (s.draw r e) st
    ((mxDecode s.shape.ty s.here.cts[ct.toNat] (tileElem (s.claim.tile a) s.shape.ty.bits e)).scale ((scale : Int) - 127))

/-- The source and the target of a VCVT.MX that encodes blocks. -/
def mxEncodes : Bool :=
  (s.shape.ty.fmt.isSome || s.shape.ty == .w19) && (target == .fp4 || target == .c8 || target == .i8)

/-- The source and the target of a VCVT.MX that decodes blocks. -/
def mxDecodes : Bool :=
  (s.shape.ty == .fp4 || s.shape.ty == .c8 || s.shape.ty == .i8) && (target == .f32 || target == .f16 || target == .bf16)

theorem exec_vcvt_mx_encode (h : cvtChecks s target ct st = true) (hn : s.shape.count % 32 = 0)
    (hmx : mxEncodes s target = true) :
    exec (.vcvt target true ct r st d a) s =
    s.finish (do
      let s2 ← s.claim.putCodes d (targetElem target).bits r
        (((List.range (s.shape.count / 32)).map (cvtBlock s target ct r st a)).flatMap (·.2))
      s2.setTile (d + 1) (tilePut (s2.tile (d + 1)) 8
        (((List.range (s.shape.count / 32)).map (cvtBlock s target ct r st a)).zipIdx.map fun (b, j) => (j, b.1)))) := by
  obtain ⟨hsat, hbytes⟩ := Bool.and_eq_true_iff.1 h
  have hdraw : s.claim.draw r = s.draw r := funext (s.draw_claim r)
  rw [mxEncodes] at hmx
  show execVcvt target true ct r st d a s = _
  unfold execVcvt
  simp only [hsat, hbytes, hn, hmx, hdraw, decide_true, demand_true, Eff.bind_ok, State.cts_claim, if_true]
  rfl

theorem exec_vcvt_mx_decode (h : cvtChecks s target ct st = true) (hn : s.shape.count % 32 = 0)
    (henc : mxEncodes s target = false) (hmx : mxDecodes s target = true) :
    exec (.vcvt target true ct r st d a) s =
    s.finish (s.claim.putCodes d (targetElem target).bits r
      ((List.range s.shape.count).map (cvtScaled s target ct r st a))) := by
  obtain ⟨hsat, hbytes⟩ := Bool.and_eq_true_iff.1 h
  rw [mxEncodes] at henc
  rw [mxDecodes] at hmx
  show execVcvt target true ct r st d a s = _
  unfold execVcvt
  simp only [hsat, hbytes, hn, henc, hmx, decide_true, demand_true, Eff.bind_ok, State.cts_claim, State.draw_claim, if_true,
    Bool.false_eq_true, if_false]
  rfl

theorem length_mxEncode (t : VTarget) (tab : CodeTable) (u : Nat → Nat) (k : Nat) (l : List XV) :
    (mxEncode t tab r u st k l).2.length = l.length := by
  unfold mxEncode
  split
  · exact List.length_map _
  · dsimp only
    split
    · exact List.length_map _
    · exact (List.length_map _).trans List.length_zipIdx

/-- Blocks of 32 entries one after another. -/
theorem flatMap_blocks {α : Type} (f : Nat → List α) (hf : ∀ j, (f j).length = 32) (x : α) (m : Nat) :
    (List.range m).flatMap f = (List.range (32 * m)).map fun e => (f (e / 32)).getD (e % 32) x := by
  induction m with
  | zero => rfl
  | succ m ih =>
    have hlast : f m = (List.range 32).map fun i => (f ((32 * m + i) / 32)).getD ((32 * m + i) % 32) x := by
      refine List.ext_getElem (by simp [hf]) fun i hi _ => ?_
      rw [hf] at hi
      have hdiv : (32 * m + i) / 32 = m := by omega
      simp [hdiv, Nat.mod_eq_of_lt hi, List.getD_eq_getElem?_getD, (hf m).symm ▸ hi]
    rw [List.range_succ, List.flatMap_append, ih, Nat.mul_succ, List.range_add, List.map_append, List.map_map]
    exact congrArg _ ((List.flatMap_singleton _ _).trans hlast)

theorem codes_eq (hn : s.shape.count % 32 = 0) :
    ((List.range (s.shape.count / 32)).map (cvtBlock s target ct r st a)).flatMap (·.2) =
      (List.range s.shape.count).map (cvtCode s target ct r st a) := by
  have hcount : 32 * (s.shape.count / 32) = s.shape.count := by omega
  have hlen (j : Nat) : (cvtBlock s target ct r st a j).2.length = 32 :=
    (length_mxEncode r st target _ _ _ _).trans (by simp)
  rw [List.flatMap_map, flatMap_blocks _ hlen (0, 0), hcount]
  rfl

theorem cvtElem_eq_lx8 (h : s.shape.ty = .lx8) : cvtElem s target ct r st a = fun e =>
    let v := lx8Elem (s.claim.tile a) (s.claim.tile (a + 1)) e
    let y := convert target s.here.cts[ct.toNat] r (s.draw r e) st v.1.toXV
    (y.1, v.2 ||| y.2) :=
  funext fun _ => if_pos h

theorem cvtElem_eq (h : s.shape.ty ≠ .lx8) : cvtElem s target ct r st a = fun e =>
    convert target s.here.cts[ct.toNat] r (s.draw r e) st
      (elemValue s.shape.ty s.here.cts[ct.toNat] (tileElem (s.claim.tile a) s.shape.ty.bits e)) :=
  funext fun _ => if_neg h

/-- VCVT without .mx writes its elements to tile d (R161). -/
theorem vcvt_writes (hd : s.TileReady 0 d) (h : cvtChecks s target ct st = true) (hcvt : cvtOk s.shape.ty target = true) :
    WritesTile (exec (.vcvt target false ct r st d a) s) s.claim d (targetElem target).bits s.shape.count (fun _ => true)
      (cvtElem s target ct r st a) (fun t => t.drawn r) := by
  rw [exec_vcvt s target ct r st d a h, hcvt, demand_true, Eff.bind_ok]
  exact writesTile_putCodes (by rw [State.tileOk_claim]; exact hd.2) s.shape_count_pos
    (target_fits (of_decide_eq_true (Bool.and_eq_true_iff.1 h).2)) r _

theorem vcvt_not_cvtOk (hcvt : cvtOk s.shape.ty target = false) :
    exec (.vcvt target false ct r st d a) s = .next (s.takeTrap .illop 0) := by
  cases h : cvtChecks s target ct st with
  | false => exact exec_vcvt_refused s target ct r st d a false h
  | true =>
    rw [exec_vcvt s target ct r st d a h, hcvt, demand_false]
    rfl

/-- VCVT.MX that decodes writes the scaled elements to tile d (R99, R161). -/
theorem vcvt_mx_decode_writes (hd : s.TileReady 0 d) (h : cvtChecks s target ct st = true) (hn : s.shape.count % 32 = 0)
    (henc : mxEncodes s target = false) (hdec : mxDecodes s target = true) :
    WritesTile (exec (.vcvt target true ct r st d a) s) s.claim d (targetElem target).bits s.shape.count (fun _ => true)
      (cvtScaled s target ct r st a) (fun t => t.drawn r) := by
  rw [exec_vcvt_mx_decode s target ct r st d a h hn henc hdec]
  exact writesTile_putCodes (by rw [State.tileOk_claim]; exact hd.2) s.shape_count_pos
    (target_fits (of_decide_eq_true (Bool.and_eq_true_iff.1 h).2)) r _

/-- The scales of the blocks in tile d + 1, as a list of codes that raise no flag. -/
theorem scales_zipIdx (l : List (Nat × List (Nat × Byte))) :
    (l.zipIdx.map fun (b, j) => (j, b.1)) = ((l.map fun b => (b.1, (0 : Byte))).zipIdx.map fun (x, e) => (e, x.1)) := by
  rw [List.zipIdx_map, List.map_map]
  rfl

/-- VCVT.MX that encodes writes the codes to tile d and the scales to tile d + 1 (R99, R161). -/
theorem vcvt_mx_encode_writes (hd : s.TileReady 0 d) (h : cvtChecks s target ct st = true) (hn : s.shape.count % 32 = 0)
    (henc : mxEncodes s target = true) (hd1 : (s.claim.withTile d 0).ws.vsd.tileOk (d + 1).toNat = true) :
    ∃ x y : Tile, TileGets s.claim d (targetElem target).bits s.shape.count (fun _ => true) (cvtCode s target ct r st a) x ∧
      TileGets s.claim (d + 1) 8 (s.shape.count / 32) (fun _ => true) (fun j => ((cvtBlock s target ct r st a j).1, 0)) y ∧
      Completes (exec (.vcvt target true ct r st d a) s)
        ((((s.claim.withTile d x).addFpf (flagsOf s.shape.count (fun _ => true) (cvtCode s target ct r st a))).drawn r).withTile
          (d + 1) y) := by
  have hfit := target_fits (of_decide_eq_true (Bool.and_eq_true_iff.1 h).2)
  have hbits : 4 ≤ (targetElem target).bits := by cases target <;> decide
  have hscales : 8 * (s.shape.count / 32) ≤ 8192 := by
    have := Nat.mul_le_mul_right s.shape.count hbits
    omega
  have hne : d + 1 ≠ d := by simp
  have hok : s.claim.ws.vsd.tileOk d.toNat = true := by rw [State.tileOk_claim]; exact hd.2
  refine ⟨_, _, tileGets_tilePut s.claim d (l := (List.range s.shape.count).map (cvtCode s target ct r st a)) (by simp) hfit
    fun e he => by simp [List.getD_eq_getElem?_getD, he],
    tileGets_tilePut s.claim (d + 1)
      (l := ((List.range (s.shape.count / 32)).map (cvtBlock s target ct r st a)).map fun b => (b.1, 0)) (by simp) hscales
      fun e he => by simp [List.getD_eq_getElem?_getD, he], completes_advance ?_⟩
  rw [exec_vcvt_mx_encode s target ct r st d a h hn henc, State.putCodes_ok hok, Eff.bind_ok, codes_eq _ _ _ _ _ _ hn,
    scales_zipIdx, State.setTile_ok, State.tile_drawn, State.tile_addFpf, State.tile_withTile_other _ hne, flagsOf_all]
  · rfl
  · rw [State.vsd_drawn, State.vsd_addFpf, State.ws_withTile]
    rwa [State.ws_withTile] at hd1

end

/-- Settles O37: every form of VCVT evaluates its checks, writes the codes of its elements one after another, and collects
their flags. -/
theorem conversions : Obligations.Conversions := by
  unfold Obligations.Conversions
  refine ⟨fun s target ct r st d a hd => ⟨fun hok hcvt hty => ?_, fun hok hcvt hty => ?_, fun h => ?_, fun h => ?_⟩,
    fun s target ct r st d a hd hsat hct hbytes hn => ?_⟩
  · rw [← cvtElem_eq s target ct r st a hty]
    exact vcvt_writes s target ct r st d a hd hok hcvt
  · have hw := vcvt_writes s target ct r st d a hd hok hcvt
    rwa [cvtElem_eq_lx8 s target ct r st a hty] at hw
  · exact h.elim (exec_vcvt_refused s target ct r st d a false) (vcvt_not_cvtOk s target ct r st d a)
  · exact exec_vcvt_refused s target ct r st d a true h
  · have hchecks : cvtChecks s target ct st = true := by
      simpa [cvtChecks, hsat, hbytes, or_assoc] using hct
    refine ⟨fun hty htarget hd1 => ?_, fun hty htarget => ?_⟩
    · have henc : mxEncodes s target = true := by
        simp [mxEncodes, or_assoc, hty, htarget]
      exact vcvt_mx_encode_writes s target ct r st d a hd hchecks hn henc hd1
    · have hdec : mxDecodes s target = true := by
        simp [mxDecodes, or_assoc, hty, htarget]
      have henc : mxEncodes s target = false := by
        rcases htarget with rfl | rfl | rfl <;> simp [mxEncodes]
      exact vcvt_mx_decode_writes s target ct r st d a hd hchecks hn henc hdec

end Sys2Proof.Machine
end

section
/-! PROOF. The step of the machine that a turn of the agenda names: a core's issue of the instruction that its chain decodes to,
and a step of another agent (R55, R130, R270, R375). -/

namespace Sys2Proof.Machine

/-! ### Turns -/

theorem step_issue {s : State} {cid : Nat} {rest : List Turn} (ha : s.agenda = .issue cid :: rest) (hc : cidOk cid = true) :
    step s = ({ s with agenda := rest } : State).turnOf cid := by
  rw [step, ha]
  exact if_pos hc

theorem step_issue_bad {s : State} {cid : Nat} {rest : List Turn} (ha : s.agenda = .issue cid :: rest)
    (hc : cidOk cid = false) : step s = .next (({ s with agenda := rest } : State).passed 1) := by
  rw [step, ha]
  exact if_neg (Bool.eq_false_iff.1 hc)

theorem step_event {s : State} {i : Instr} {rest : List Turn} (ha : s.agenda = .event i :: rest) (hi : i.isStep = true)
    (hw : i.wf = true) : step s = Result.passed (exec i { s with agenda := rest }) := by
  rw [step, ha]
  exact if_pos (Bool.and_eq_true_iff.2 ⟨hi, hw⟩)

theorem step_event_bad {s : State} {i : Instr} {rest : List Turn} (ha : s.agenda = .event i :: rest)
    (h : i.isStep = false ∨ i.wf = false) : step s = .next (({ s with agenda := rest } : State).passed 1) := by
  rw [step, ha]
  exact if_neg (Bool.eq_false_iff.1 (Bool.and_eq_false_iff.2 h))

/-- What the issue of a core does once the slot is chosen and no pre-emption is due. -/
theorem State.issueHere_of_pick {u : State} {k : Fin 8} (hk : u.pick = some k)
    (hdue : (u.beginIssue k).requestDue (u.beginIssue k).hereCid k.val = false) :
    u.issueHere = if (u.beginIssue k).stillBlocked then
      some (.next ((u.beginIssue k).modTask fun t => { t with ws := { t.ws with tsw := { t.ws.tsw with state := .parked } } }))
    else some ((u.beginIssue k).modTask fun t => { t with wait := none }).issue := by
  rw [State.issueHere, hk]
  exact if_neg (Bool.eq_false_iff.1 hdue)

theorem State.turnOf_of_issueHere {s : State} {cid : Nat} {r : Result} (h : (s.focus cid).issueHere = some r) :
    s.turnOf cid = r.passed := by
  rw [State.turnOf, h]
  rfl

/-! ### The decoded instruction -/

/-- The instruction of a chain: what decode gives, or UNASSIGNED_ENCODING where the page tables refuse the chain. -/
theorem decodeChain_eq {ws : List Half} {i : Instr} {n : Nat}
    (h : decode ws = .ok (i, n) ∨ ((∃ e, decode ws = .error e) ∧ i = .unassignedEncoding ∧ n = ws.length)) :
    decodeChain ws = (i, n) := by
  obtain h | ⟨⟨e, h⟩, rfl, rfl⟩ := h <;> rw [decodeChain, h]

theorem State.issue_of_fetched {v t : State} {ws : List Half} {i : Instr} {n : Nat}
    (hf : State.fetchChain 6 v v.addr [] = .ok (ws, t)) (hd : decodeChain ws = (i, n)) :
    v.issue = ({ t with ilen := n } : State).runDecoded i := by
  simp only [State.issue, hf, hd]

section
variable {x : State} {i : Instr}

theorem State.runDecoded_early {c : Cause} (h : x.early i = some c) : x.runDecoded i = .next (x.takeTrap c 0) := by
  rw [State.runDecoded, h]

theorem State.runDecoded_crosses (h : x.early i = none) (hb : x.crossesBody = true) :
    x.runDecoded i = .next (x.takeTrap .illop 0) := by
  rw [State.runDecoded, h]
  exact if_pos hb

theorem State.runDecoded_eq (h : x.early i = none) (hb : x.crossesBody = false) : x.runDecoded i =
    match x.lostRead i with
    | some w => .next (x.takeTrap .mchk w)
    | none => match exec i (x.readied i) with
      | .next t => .next ((x.readied i).mendBank i ((x.readied i).noteBlock i t))
      | r => r := by
  rw [State.runDecoded, h]
  exact if_neg (Bool.eq_false_iff.1 hb)

/-- A firmware register is PRIV before anything else (R131). -/
theorem State.early_firmware {m : BitVec 12} {d : GReg} (h : i = .mfs d m ∨ i = .mts d m) (hm : 0x800 ≤ m.toNat) :
    x.early i = some .priv := by
  have hmsb : m.msb = true := by rw [BitVec.msb_eq_decide]; exact decide_eq_true hm
  rcases h with rfl | rfl <;> simp [State.early, Instr.neverRuns, hmsb]

theorem State.lostRead_none (hl : x.task.lost = []) (hd : x.damaged = []) : x.lostRead i = none :=
  if_pos (by rw [hl, hd]; rfl)

/-- The vector unit's claim keeps what the task has lost and its control state. -/
theorem State.readied_spec (x : State) (i : Instr) :
    (x.readied i).task.lost = x.task.lost ∧ (x.readied i).ws.ctl = x.ws.ctl := by
  unfold State.readied
  split
  · exact ⟨by rw [State.task_claim]; rfl, by rw [State.ws_claim]⟩
  · exact ⟨rfl, rfl⟩

theorem State.damaged_readied (hd : x.damaged = []) : (x.readied i).damaged = [] := by
  have hmend : x.mendLm x.hereCid (x.here.claimSaves x.here.cur) = x := if_pos (List.isEmpty_iff.2 hd)
  unfold State.readied
  split
  · rw [State.claim, hmend]
    exact hd
  · exact hd

theorem State.noteBlock_single (h : x.ws.ctl.cw = 0) (t : State) : x.noteBlock i t = t := if_pos h

theorem State.mendBank_whole (hl : x.task.lost = []) (hd : x.damaged = []) (t : State) : x.mendBank i t = t :=
  if_pos (by rw [hl, hd]; rfl)

/-- With nothing lost or damaged, of a task that is not composed the instruction's effect is exec's alone. -/
theorem State.runDecoded_plain (h : x.early i = none) (hb : x.crossesBody = false) (hcw : x.ws.ctl.cw = 0)
    (hl : x.task.lost = []) (hd : x.damaged = []) : x.runDecoded i = exec i (x.readied i) := by
  obtain ⟨hl', hctl⟩ := x.readied_spec i
  rw [State.runDecoded_eq h hb, State.lostRead_none hl hd]
  dsimp only
  cases exec i (x.readied i) with
  | next t =>
    have hnote : (x.readied i).noteBlock i t = t := State.noteBlock_single (by rw [hctl, hcw]) t
    exact congrArg Host.Outcome.next ((State.mendBank_whole (hl'.trans hl) (State.damaged_readied hd) _).trans hnote)
  | fault f => rfl
  | refused r => rfl

end

/-- Settles O1: a turn of the agenda that issues runs the instruction that the fetched chain decodes to, its events in their
order. -/
theorem stepRunsDecoded : Obligations.StepRunsDecoded := by
  unfold Obligations.StepRunsDecoded
  intro s t cid n k rest ws i
  refine ⟨fun ha hk hdue hc hbl => ?_, fun ha hk hdue hbl hf hdec => ?_, step_event, step_event_bad, step_issue_bad⟩
  · exact (step_issue ha hc).trans (State.turnOf_of_issueHere ((State.issueHere_of_pick hk hdue).trans (if_pos hbl)))
  · intro x hc
    have hstep : step s = Result.passed (x.runDecoded i) := by
      have hissue := (State.issueHere_of_pick hk hdue).trans (if_neg (Bool.eq_false_iff.1 hbl))
      rw [State.issue_of_fetched hf (decodeChain_eq hdec)] at hissue
      exact (step_issue ha hc).trans (State.turnOf_of_issueHere hissue)
    refine ⟨fun c he => ?_, fun d m hi hm => ?_, fun he hb => ?_, fun he hb => ⟨fun w hw => ?_, fun hcw hl hd => ?_,
      fun hw y hy => ?_⟩⟩
    · rw [hstep, State.runDecoded_early he]
      rfl
    · rw [hstep, State.runDecoded_early (State.early_firmware hi hm)]
      rfl
    · rw [hstep, State.runDecoded_crosses he hb]
      rfl
    · rw [hstep, State.runDecoded_eq he hb, hw]
      rfl
    · exact hstep.trans (congrArg Result.passed (State.runDecoded_plain he hb hcw hl hd))
    · have hy' : exec i (x.readied i) = .next y := hy
      rw [hstep, State.runDecoded_eq he hb, hw, hy']
      rfl

end Sys2Proof.Machine
end

section
/-! PROOF. The fetch of a chain (R54, R55, R71 to R73): the half-words that end a chain, and what one fetch reads and keeps. -/

namespace Sys2Proof

/-- The word ends its chain, the one after k prefixes, whatever follows it. -/
def EndsChain (w : Half) (p r : Option (BitVec 10)) (is : List (BitVec 10)) (k : Nat) : Prop :=
  ∃ res : Except DecodeErr Chain, (∀ ws, readChain (w :: ws) p r is k = res) ∧ ∀ c, res = .ok c → c.len = k + 1

/-- The word stands before the base word: the chain goes on after it. -/
def GoesOn (w : Half) (p r : Option (BitVec 10)) (is : List (BitVec 10)) (k : Nat) : Prop :=
  ∃ p' r' is', ∀ ws, readChain (w :: ws) p r is k = readChain ws p' r' is' (k + 1)

theorem endsChain_of_error {w : Half} {p r : Option (BitVec 10)} {is : List (BitVec 10)} {k : Nat} {e : DecodeErr}
    (h : ∀ ws, readChain (w :: ws) p r is k = .error e) : EndsChain w p r is k :=
  ⟨_, h, nofun⟩

/-- The chain after one of the first four prefixes. -/
theorem readChain_prefix {w : Half} (ws : List Half) (p r : Option (BitVec 10)) (is : List (BitVec 10)) {k : Nat}
    (hbase : w.extractLsb' 12 4 = 0xF#4) (hthree : ¬w.extractLsb' 10 2 = 3#2) (hk : k < 4) :
    readChain (w :: ws) p r is k =
      if w.extractLsb' 10 2 = 0#2 then readChain ws p r (is ++ [w.extractLsb' 0 10]) (k + 1)
      else if w.extractLsb' 10 2 = 1#2 then
        if r.isSome then .error .secondReg
        else if 5 ≤ (w.extractLsb' 0 4).toNat then .error .badSelector
        else readChain ws p (some (w.extractLsb' 0 10)) is (k + 1)
      else if p.isSome then .error .secondPage
      else readChain ws (some (w.extractLsb' 0 10)) r is (k + 1) := by
  rw [readChain, if_neg (not_not.2 hbase), if_neg hthree, if_neg (by omega)]

theorem endsChain_or_goesOn (w : Half) (p r : Option (BitVec 10)) (is : List (BitVec 10)) (k : Nat) :
    EndsChain w p r is k ∨ (k < 4 ∧ GoesOn w p r is k) := by
  by_cases hbase : w.extractLsb' 12 4 ≠ 0xF#4
  · exact .inl ⟨_, fun ws => readChain_base ws p r is hbase, fun c hc => by rw [← Except.ok.inj hc]⟩
  by_cases hthree : w.extractLsb' 10 2 = 3#2
  · refine .inl ?_
    by_cases hzero : w.extractLsb' 0 10 ≠ 0#10
    · exact endsChain_of_error fun ws => by rw [readChain, if_neg hbase, if_pos hthree, if_pos hzero]
    by_cases hk : k = 0
    · exact ⟨_, fun ws => by rw [readChain, if_neg hbase, if_pos hthree, if_neg hzero, if_pos hk],
        fun c hc => by rw [← Except.ok.inj hc, hk]⟩
    · exact endsChain_of_error fun ws => by rw [readChain, if_neg hbase, if_pos hthree, if_neg hzero, if_neg hk]
  by_cases hfive : 4 ≤ k
  · exact .inl (endsChain_of_error fun ws => by rw [readChain, if_neg hbase, if_neg hthree, if_pos hfive])
  have hprefix (ws : List Half) := readChain_prefix ws p r is (not_not.1 hbase) hthree (Nat.lt_of_not_le hfive)
  by_cases himm : w.extractLsb' 10 2 = 0#2
  · exact .inr ⟨by omega, _, _, _, fun ws => (hprefix ws).trans (if_pos himm)⟩
  by_cases hreg : w.extractLsb' 10 2 = 1#2
  · by_cases hr : r.isSome = true
    · exact .inl (endsChain_of_error fun ws => (hprefix ws).trans (by rw [if_neg himm, if_pos hreg, if_pos hr]))
    by_cases hsel : 5 ≤ (w.extractLsb' 0 4).toNat
    · exact .inl (endsChain_of_error fun ws =>
        (hprefix ws).trans (by rw [if_neg himm, if_pos hreg, if_neg hr, if_pos hsel]))
    · exact .inr ⟨by omega, _, _, _, fun ws =>
        (hprefix ws).trans (by rw [if_neg himm, if_pos hreg, if_neg hr, if_neg hsel])⟩
  by_cases hp : p.isSome = true
  · exact .inl (endsChain_of_error fun ws => (hprefix ws).trans (by rw [if_neg himm, if_neg hreg, if_pos hp]))
  · exact .inr ⟨by omega, _, _, _, fun ws => (hprefix ws).trans (by rw [if_neg himm, if_neg hreg, if_neg hp])⟩

/-- A chain has at most five half-words, and of fewer than its own the decoder asks for more (R54). -/
theorem readChain_ok {ws : List Half} {p r : Option (BitVec 10)} {is : List (BitVec 10)} {k : Nat} {c : Chain}
    (h : readChain ws p r is k = .ok c) (hk : k ≤ 4) :
    k < c.len ∧ c.len ≤ 5 ∧ ∀ n, k + n < c.len → readChain (ws.take n) p r is k = .error .short := by
  induction ws generalizing p r is k with
  | nil => exact absurd h nofun
  | cons w ws ih =>
    obtain ⟨res, hres, hlen⟩ | ⟨hk4, p', r', is', hgo⟩ := endsChain_or_goesOn w p r is k
    · have hc := hlen c ((hres ws).symm.trans h)
      refine ⟨by omega, by omega, fun n hn => ?_⟩
      obtain rfl : n = 0 := by omega
      rfl
    · obtain ⟨hlt, hle, hshort⟩ := ih ((hgo ws).symm.trans h) (by omega)
      refine ⟨by omega, hle, fun n hn => ?_⟩
      cases n with
      | zero => rfl
      | succ n => exact (hgo (ws.take n)).trans (hshort n (by omega))

/-- The chain of a decoded instruction that is alone in its half-words. -/
theorem decode_chain {hs : List Half} {i : Instr} (h : decode hs = .ok (i, hs.length)) :
    hs.length ≤ 5 ∧ 0 < hs.length ∧ (∃ c, readChain hs none none [] 0 = .ok c) ∧
      ∀ n, n < hs.length → readChain (hs.take n) none none [] 0 = .error .short := by
  rw [decode] at h
  split at h
  · exact absurd h nofun
  · next c hc =>
    obtain ⟨hpos, hle, hshort⟩ := readChain_ok hc (Nat.zero_le 4)
    have hlen : hs.length ≤ c.len ∧ 0 < hs.length := by
      split at h
      · have := (Prod.mk.inj (Except.ok.inj h)).2
        omega
      · split at h
        · have := (Prod.mk.inj (Except.ok.inj h)).2
          omega
        · exact absurd h nofun
    exact ⟨by omega, hlen.2, ⟨c, hc⟩, fun n hn => hshort n (by omega)⟩

end Sys2Proof

namespace Sys2Proof.Machine

/-! ### One half-word -/

theorem isGlobal_of_lt {a : Word} (h : a.toNat < 2 ^ 56) : isGlobal a = true :=
  beq_iff_eq.2 (BitVec.eq_of_toNat_eq (by rw [BitVec.extractLsb'_toNat, Nat.shiftRight_eq_div_pow, Nat.div_eq_of_lt h]; rfl))

theorem State.peek_phys (s : State) (pa n : Nat) : s.peek (.phys pa) n = s.mem.readN pa n := by
  induction n generalizing pa with
  | zero => rfl
  | succ n ih => exact congrArg (fun v => (s.mem.get pa).toNat + 256 * v) (ih (pa + 1))

theorem State.readable_of_undamaged {s : State} (h : s.damaged = []) (a : Word) (pa n : Nat) :
    s.readable a (.phys pa) n = .ok () := by
  have hsound : s.sound (.phys pa) = true := by simp [State.sound, h]
  have hnone : s.damagedByte (.phys pa) n = none := if_pos hsound
  rw [State.readable, hnone]

/-- Where nothing older is held, one value answers (R73). -/
theorem State.oldHalves_nil {s : State} {va pa : Nat} (m : Half) (hi : s.here.icache.get (va / 2) = none)
    (ho : ∀ y ∈ s.oldCode, y.1 = pa / 2 → y.2.2 < s.task.codeSince va) : s.oldHalves va pa m = [] := by
  have hold : (s.oldCode.filter fun y => y.1 == pa / 2 && decide (s.task.codeSince va ≤ y.2.2)) = [] := by
    refine List.filter_eq_nil_iff.2 fun y hy hh => ?_
    obtain ⟨hpa, hle⟩ := Bool.and_eq_true_iff.1 hh
    exact absurd (of_decide_eq_true hle) (Nat.not_le.2 (ho y hy (eq_of_beq hpa)))
  simp [State.oldHalves, hold, hi]

theorem mem_enterL1 {l x : Leaf} {t : List Leaf} (h : x ∈ enterL1 l t) : x = l ∨ x ∈ t := by
  unfold enterL1 at h
  dsimp only at h
  split at h
  · exact List.mem_cons.1 h
  · split at h
    · exact List.mem_cons.1 h
    · rcases List.mem_cons.1 h with h | h
      · exact .inl h
      · exact .inr (List.mem_reverse.1 (List.mem_of_mem_eraseP (List.mem_reverse.1 h)))

/-- The only translation where the walk gives a leaf, the TLBs hold no other, and firmware has replaced none (R339). -/
theorem State.translations_leaf {s : State} {cid cx va : Nat} {x : Leaf} (hw : s.walk cx va = .leaf x) (ho : s.oldWalks = [])
    (ht : ∀ l ∈ (s.core cid).l1 ++ (s.cluster (clusterOf cid)).l2, l = x) : s.translations cid cx va = [.leaf x] := by
  rw [State.translations, hw, ho]
  refine congrArg (Walk.leaf x :: ·) (List.filter_eq_nil_iff.2 fun w hmem => ?_)
  have hmem' := List.mem_eraseDups.1 hmem
  rw [List.filter_nil, List.map_nil, List.append_nil, List.mem_map] at hmem'
  obtain ⟨l, hl, rfl⟩ := hmem'
  rw [ht l (List.mem_filter.1 hl).1]
  simp

/-- A fetch through the only translation of its address (R338, R343). -/
theorem State.translate_fetch {s : State} {cid va : Nat} {x : Leaf} (hx : x.ex = true)
    (ht : s.translations cid ((s.cxOf cid).getD 0) va = [.leaf x]) (hd : paDevice (x.pa + (va - x.va)) = 0) :
    s.translate cid .fetch va = .ok (x.pa + (va - x.va), s.fillTlb cid x) := by
  have hgrant : s.granted ((s.cxOf cid).getD 0) (x.pa + (va - x.va)) = true := by
    rw [State.granted, hd]
    rfl
  simp [State.translate, State.leafOf, ht, Leaf.allows, hx, hgrant]

/-! ### What the fetch of a chain keeps -/

/-- In state t the fetch that began in state s has entered no leaf but x into the TLBs of its core and cluster, and copies no
half-word from number k up; nothing else that a fetch reads has changed. -/
structure State.Fetching (s t : State) (x : Leaf) (k : Nat) : Prop where
  mem : t.mem = s.mem
  contexts : t.contexts = s.contexts
  oldCode : t.oldCode = s.oldCode
  hereCid : t.hereCid = s.hereCid
  slots : t.here.slots = s.here.slots
  cur : t.here.cur = s.here.cur
  cx : t.cx = s.cx
  oldWalks : t.oldWalks = []
  damaged : t.damaged = []
  ulines : ∀ y ∈ t.clusters, y.2.ulines = []
  l1 : ∀ l ∈ t.here.l1, l = x
  l2 : ∀ l ∈ (t.cluster (clusterOf t.hereCid)).l2, l = x
  icache : ∀ i, k ≤ i → t.here.icache.get i = none

section
variable {s t : State} {x : Leaf} {k : Nat} (h : s.Fetching t x k)
include h

theorem State.Fetching.task : t.task = s.task := by
  simp only [State.task, h.slots, h.cur]

theorem State.Fetching.walk (va : Nat) : t.walk t.cx va = s.walk s.cx va := by
  rw [State.walk, State.walk, State.ctxCfg, State.ctxCfg, h.mem, h.contexts, h.cx]

theorem State.Fetching.put (m : Half) :
    s.Fetching { t with here := { t.here with icache := t.here.icache.put k m } } x (k + 1) :=
  { h with icache := fun i hi => (Table.get_put _ _ _ _).trans ((if_neg (by omega)).trans (h.icache i (by omega))) }

theorem State.Fetching.enterL1 : s.Fetching (t.modCore t.hereCid fun c =>
    if c.l1.contains x then c else { c with l1 := Machine.enterL1 x c.l1 }) x k := by
  rw [State.modCore, State.core_hereCid, State.setCore_here]
  split
  · exact h
  · exact { h with l1 := fun l hl => (mem_enterL1 hl).elim id (h.l1 l) }

theorem State.Fetching.modL2 {f : Cluster → Cluster} (hu : ∀ c, (f c).ulines = c.ulines) (ho : ∀ c, (f c).owner = c.owner)
    (hl : ∀ c, ∀ l ∈ (f c).l2, l = x ∨ l ∈ c.l2) : s.Fetching (t.modCluster (clusterOf t.hereCid) f) x k := by
  have hown : (t.modCluster (clusterOf t.hereCid) f).cluster (clusterOf t.hereCid) = f (t.cluster (clusterOf t.hereCid)) :=
    (t.cluster_modCluster _ _ f).trans (if_pos rfl)
  refine { h with cx := ?_, ulines := fun y hy => ?_, l2 := fun l hm => ?_ }
  · exact (congrArg (·.getD 0) ((congrArg Cluster.owner hown).trans (ho _))).trans h.cx
  · rcases Table.mem_put hy with rfl | hy
    · exact (hu _).trans (State.forall_cluster (p := fun c => c.ulines = []) h.ulines rfl _)
    · exact h.ulines y hy
  · have hmem : l ∈ (f (t.cluster (clusterOf t.hereCid))).l2 := hown ▸ hm
    exact (hl _ l hmem).elim id (h.l2 l)

/-- Entering the leaf again leaves what a fetch reads as it was. -/
theorem State.Fetching.fillTlb : s.Fetching (t.fillTlb t.hereCid x) x k := by
  have hfill := h.enterL1.modL2 (f := fun c => if c.l2.contains x then c else
    { c with l2 := (x :: c.l2).take Config.l2Entries }) (fun c => ?_) (fun c => ?_) fun c l hl => ?_
  · rwa [State.modCore, State.setCore_hereCid] at hfill
  · split <;> rfl
  · split <;> rfl
  · split at hl
    · exact .inr hl
    · exact List.mem_cons.1 (List.mem_of_mem_take hl)

/-- One half-word of the chain: the fetch reads what memory holds, and notes its copy. -/
theorem State.Fetching.fetchHalf {a : Word} {m : Half} (hk : a.toNat / 2 = k) (ha : a.toNat < 2 ^ 56) (hx : x.ex = true)
    (hw : s.walk s.cx a.toNat = .leaf x) (hd : paDevice (x.pa + (a.toNat - x.va)) = 0)
    (hm : s.mem.readN (x.pa + (a.toNat - x.va)) 2 = m.toNat)
    (ho : ∀ y ∈ s.oldCode, y.1 = (x.pa + (a.toNat - x.va)) / 2 → y.2.2 < s.task.codeSince a.toNat) :
    ∃ u, t.fetchHalf a = .ok (m, u) ∧ s.Fetching u x (k + 1) := by
  have htlb : ∀ l ∈ (t.core t.hereCid).l1 ++ (t.cluster (clusterOf t.hereCid)).l2, l = x := by
    intro l hl
    rw [State.core_hereCid] at hl
    exact (List.mem_append.1 hl).elim (h.l1 l) (h.l2 l)
  have htr : t.translate t.hereCid .fetch a.toNat = .ok (x.pa + (a.toNat - x.va), t.fillTlb t.hereCid x) :=
    State.translate_fetch hx (State.translations_leaf ((h.walk _).trans hw) h.oldWalks htlb) hd
  have hf := h.fillTlb
  generalize x.pa + (a.toNat - x.va) = pa at *
  generalize t.fillTlb t.hereCid x = v at *
  have hcombine : v.combineLine (pa / 64) = v :=
    State.combineLine_of_noULine fun y hy u hu => absurd hu (by simp [hf.ulines y hy])
  have hnone : v.here.icache.get (a.toNat / 2) = none := hf.icache _ hk.ge
  have hpeek : BitVec.ofNat 16 (v.peek (.phys pa) 2) = m := by
    rw [State.peek_phys, hf.mem, hm, BitVec.ofNat_toNat, BitVec.setWidth_eq]
  have hold : v.oldHalves a.toNat pa m = [] := State.oldHalves_nil m hnone (by rwa [hf.oldCode, hf.task])
  refine ⟨_, ?_, hf.put m⟩
  simp only [State.fetchHalf, isGlobal_of_lt ha, htr, State.readable_of_undamaged hf.damaged, Eff.bind_ok, hcombine, hpeek,
    hnone, hold, ← hk]
  rfl

end

/-! ### The chain -/

/-- The hypotheses on a chain's half-words: page, device, memory and older values of each. -/
def State.HoldsChain (s : State) (a : Word) (hs : List Half) (x : Leaf) : Prop :=
  ∀ j, j < hs.length →
    s.walk s.cx (a.toNat + 2 * j) = .leaf x ∧ paDevice (x.pa + (a.toNat + 2 * j - x.va)) = 0 ∧
    s.mem.readN (x.pa + (a.toNat + 2 * j - x.va)) 2 = (hs.getD j 0).toNat ∧
    ∀ y ∈ s.oldCode, y.1 = (x.pa + (a.toNat + 2 * j - x.va)) / 2 → y.2.2 < s.task.codeSince (a.toNat + 2 * j)

/-- The rest of a chain whose first j half-words have been fetched. -/
theorem State.Fetching.fetchChain {s t : State} {a : Word} {hs : List Half} {x : Leaf} {c : Chain} (hx : x.ex = true)
    (hhold : s.HoldsChain a hs x) (ha : a.toNat + 2 * hs.length ≤ 2 ^ 56) (hchain : readChain hs none none [] 0 = .ok c)
    (hshort : ∀ n, n < hs.length → readChain (hs.take n) none none [] 0 = .error .short) (fuel j : Nat)
    (hj : j < hs.length) (hfuel : hs.length ≤ j + fuel) (h : s.Fetching t x (a.toNat / 2 + j)) :
    ∃ u, State.fetchChain fuel t (a + BitVec.ofNat 64 (2 * j)) (hs.take j) = .ok (hs, u) ∧
      s.Fetching u x (a.toNat / 2 + hs.length) := by
  induction fuel generalizing t j with
  | zero => omega
  | succ fuel ih =>
    have haddr : (a + BitVec.ofNat 64 (2 * j)).toNat = a.toNat + 2 * j := by
      rw [BitVec.toNat_add, BitVec.toNat_ofNat]
      omega
    obtain ⟨hwalk, hdev, hmem, hold⟩ := hhold j hj
    rw [← haddr] at hwalk hdev hmem hold
    obtain ⟨u, hu, hfu⟩ := h.fetchHalf (by omega) (by omega) hx hwalk hdev hmem hold
    have htake : hs.take j ++ [hs.getD j 0] = hs.take (j + 1) := by
      rw [List.getD_eq_getElem _ _ hj, List.take_append_getElem]
    rw [State.fetchChain, hu]
    dsimp only
    rw [htake]
    by_cases hlast : j + 1 = hs.length
    · rw [hlast, List.take_length, hchain]
      exact ⟨u, rfl, by rwa [← hlast]⟩
    · rw [hshort (j + 1) (by omega)]
      have hnext : a + BitVec.ofNat 64 (2 * j) + 2 = a + BitVec.ofNat 64 (2 * (j + 1)) := by
        rw [BitVec.add_assoc, Nat.mul_succ, BitVec.ofNat_add]
        rfl
      rw [hnext]
      exact ih (j + 1) (by omega) (by omega) hfu

/-- Settles O2: each half-word of the chain has one translation and one value, that of memory, and fetching it leaves both so
for the next. -/
theorem codeFetch : Obligations.CodeFetch := by
  unfold Obligations.CodeFetch
  intro s a hs i x pa hdec _ ha hicache hl1 hl2 hwalks hdam hul hold hex _ hhold
  obtain ⟨hlen, hpos, ⟨c, hchain⟩, hshort⟩ := decode_chain hdec
  have hstart : s.Fetching s x (a.toNat / 2 + 0) :=
    { mem := rfl, contexts := rfl, oldCode := rfl, hereCid := rfl, slots := rfl, cur := rfl, cx := rfl, oldWalks := hwalks,
      damaged := hdam, ulines := hul
      l1 := by simp [hl1]
      l2 := fun l hl => absurd hl (by simp [clusterOf, hl2])
      icache := fun _ _ => by rw [hicache]; rfl }
  have hholds : s.HoldsChain a hs x := fun j hj =>
    have ⟨hwalk, _, hdev, hmem⟩ := hhold j hj
    ⟨hwalk, hdev, hmem, hold j hj⟩
  obtain ⟨u, hu, hfu⟩ := hstart.fetchChain hex hholds ha hchain hshort 6 0 hpos (by omega)
  rw [Nat.mul_zero, List.take_zero, BitVec.add_zero] at hu
  exact ⟨u, hu, hfu.mem, hfu.slots, hfu.hereCid, hfu.cur⟩

end Sys2Proof.Machine
end

section
/-! PROOF. What reset leaves: no core differs from Core.reset, and nothing is listed (R381). -/

namespace Sys2Proof.Machine

theorem vget_replicate {α : Type} (n i : Nat) (x : α) : vget (Vector.replicate n x) i x = x := by
  unfold vget
  split <;> simp

/-- After reset every core is as Core.reset says, the one in focus and those that no table lists. -/
theorem State.core_reset (cid : Nat) : State.reset.core cid = Core.reset := by
  unfold State.core
  split <;> rfl

theorem State.canonical_reset : State.reset.Canonical :=
  ⟨Core.canonical_reset, by simp [State.reset], by simp [State.reset], by simp [State.reset], reset_mem_wf,
    by simp [State.reset], by simp [State.reset]⟩

/-! ### The parts of a core after reset -/

theorem Core.chan_reset (n : Nat) : Core.reset.chan n = Channel.reset := vget_replicate 8 n _
theorem Core.entry_reset (ch : Byte) : Core.reset.entry ch = TTEntry.reset := rfl

theorem Core.pred_reset (t i : Nat) : Core.reset.pred t i = Pred.reset := by
  have ht : vget Core.reset.preds t (Vector.replicate 16 Pred.reset) = Vector.replicate 16 Pred.reset :=
    vget_replicate 4 t _
  rw [Core.pred, ht]
  exact vget_replicate 16 i _

/-- No word of an LM or a CSP is full after reset (R210). -/
theorem State.isFull_reset (cid o : Nat) :
    State.reset.isFull (.lm cid o) = false ∧ State.reset.isFull (.csp (cid / 8) o) = false := by
  refine ⟨?_, rfl⟩
  rw [State.isFull, State.core_reset]
  rfl

/-- Settles O6: every core is Core.reset, and each of its parts reads as its own reset value. -/
theorem resetState : Obligations.ResetState := by
  refine ⟨State.canonical_reset, fun cid _ => ?_⟩
  rw [State.core_reset]
  refine ⟨fun i => ⟨?_, ?_⟩, rfl, fun n => ?_, fun t i => ?_, Core.entry_reset, State.isFull_reset cid, rfl, rfl, rfl, rfl,
    fun i => ?_, fun i => ?_, rfl⟩
  · exact Vector.getElem_replicate i.isLt
  · exact Vector.getElem_replicate i.isLt
  · rw [Core.chan_reset]
    exact ⟨rfl, rfl, rfl⟩
  · rw [Core.pred_reset]
    rfl
  · exact Vector.getElem_replicate i.isLt
  · have hlatch : Core.reset.mx.latch[i] = Latch.reset := Vector.getElem_replicate i.isLt
    rw [hlatch]
    rfl

end Sys2Proof.Machine
end

section
/-! PROOF. Writes of a tile's elements by vector instructions (R139, R144 to R146): which elements are active, what the tile then
holds, and what is refused without room in the save area. -/

namespace Sys2Proof.Machine

/-! ### The unit with the task's tiles (R144) -/

@[simp] theorem State.shape_claim (s : State) : s.claim.shape = s.shape := by
  rw [State.shape, State.shape, s.ws_claim]

@[simp] theorem State.limit_claim (s : State) : s.claim.ws.vsd.limit = s.ws.vsd.limit := by
  rw [s.ws_claim]
  rfl

@[simp] theorem State.vsa_claim (s : State) : s.claim.ws.vsd.vsa = s.ws.vsd.vsa := by rw [s.ws_claim]

theorem State.addFpf_zero (u : State) : u.addFpf 0 = u := by
  have hfpf : { u.ws with fpf := u.ws.fpf ||| 0 } = u.ws := by simp
  rw [State.addFpf_eq, hfpf, State.setWs_ws]

/-! ### Active elements (R145) -/

theorem State.active_eq (u : State) (mask : KReg) (n : Nat) : u.active mask n = (List.range n).filter (u.lit mask) := by
  unfold State.active
  split
  · next h =>
    subst h
    exact (List.filter_true _).symm
  · next h =>
    have hlit : u.lit mask = fun e => (u.mask mask).getLsbD e := funext fun e => by
      rw [State.lit, beq_eq_false_iff_ne.2 h, Bool.false_or]
    rw [hlit]

theorem State.lit_zero (u : State) (e : Nat) : u.lit 0 e = true := rfl

theorem maskFits_ok {mask : KReg} {n : Nat} (h : mask = 0 ∨ n ≤ 1024) : maskFits mask n = .ok () := by
  rw [maskFits, show (mask == 0#2 || decide (n ≤ 1024)) = true by simpa using h]
  rfl

/-! ### The bytes of a shape (R139, R140) -/

theorem shapeOf_extent {v : BitVec 24} {h : Shape} (hv : shapeOf v = some h) : h.extent ≤ 1024 ∧ 0 < h.rows ∧ 0 < h.cols := by
  unfold shapeOf at hv
  split at hv
  · exact absurd hv nofun
  · dsimp only at hv
    split at hv
    · next hle =>
      rw [← Option.some.inj hv]
      exact ⟨hle, Nat.succ_pos _, Nat.succ_pos _⟩
    · exact absurd hv nofun

/-- The task's shape has a row and a column, and fits a tile. -/
theorem State.shape_extent (s : State) : s.shape.extent ≤ 1024 ∧ 0 < s.shape.rows ∧ 0 < s.shape.cols := by
  unfold State.shape
  cases h : shapeOf s.ws.vshape with
  | none => decide
  | some x => exact shapeOf_extent h

theorem State.shape_rows_pos (s : State) : 0 < s.shape.rows := s.shape_extent.2.1
theorem State.shape_cols_pos (s : State) : 0 < s.shape.cols := s.shape_extent.2.2

/-- Elements that are no lanes of .lx8 codes fit a tile at their own width. -/
theorem State.shape_fits {s : State} (h : s.shape.ty ≠ .lx8) : s.shape.ty.bits * s.shape.count ≤ 8192 := by
  have hle := s.shape_extent.1
  rw [Shape.extent, Elem.bytes, if_neg h, Nat.mul_comm] at hle
  omega

/-- Codes of groups of eight lanes fit a tile: an .lx8 shape has at most 512 of them. -/
theorem State.shape_fits_lx8 {s : State} (h : s.shape.ty = .lx8) : 16 * ((s.shape.count + 7) / 8) ≤ 8192 := by
  have hle := s.shape_extent.1
  rw [Shape.extent, Elem.bytes, if_pos h] at hle
  omega

/-! ### What a tile holds after a write of elements (R139, R146) -/

/-- The elements of a list of places written to a tile: those read as what the place gives, every other as before. -/
theorem tileElem_tilePut_map (t : Tile) (w : Nat) (l : List Nat) (f : Nat → Nat) (k : Nat)
    (h : ∀ e ∈ l, w * (e + 1) ≤ 8192) :
    tileElem (tilePut t w (l.map fun e => (e, f e))) w k = if k ∈ l then f k % 2 ^ w else tileElem t w k := by
  induction l generalizing t with
  | nil => rfl
  | cons e l ih =>
    have hrest := ih (tileSet t w e (f e)) fun x hx => h x (List.mem_cons_of_mem e hx)
    rw [tileElem_tileSet _ _ _ _ _ (h e List.mem_cons_self)] at hrest
    refine hrest.trans ?_
    by_cases hk : k ∈ l
    · rw [if_pos hk, if_pos (List.mem_cons_of_mem e hk)]
    · rw [if_neg hk]
      by_cases hke : k = e
      · rw [if_pos hke, if_pos (List.mem_cons.2 (.inl hke)), hke]
      · rw [if_neg hke, if_neg fun hm => (List.mem_cons.1 hm).elim hke hk]

/-- Writing the results of the active elements gives the tile its results. -/
theorem tileGets_tilePut_map (u : State) (d : VReg) {w n : Nat} {act : Nat → Bool} {l : List Nat}
    (hl : ∀ e, e ∈ l ↔ e < n ∧ act e = true) (hw : w * n ≤ 8192) (res : Nat → Nat × Byte) :
    TileGets u d w n act res (tilePut (u.tile d) w (l.map fun e => (e, (res e).1))) := by
  intro e _
  have hfit : ∀ x ∈ l, w * (x + 1) ≤ 8192 := fun x hx =>
    le_trans (Nat.mul_le_mul_left w ((hl x).1 hx).1) hw
  rw [tileElem_tilePut_map _ w l (fun x => (res x).1) e hfit]
  simp only [hl]

/-- What a vector instruction does that puts the results of its active elements and gathers their flags. -/
theorem writesTile_putElems {r : Result} {s u : State} {d : VReg} {w n : Nat} {act : Nat → Bool} {res : Nat → Nat × Byte}
    {l : List Nat} (hr : r = s.finish (do
      let u1 ← u.putElems d w (l.map fun e => (e, (res e).1))
      .ok (u1.addFpf (flagsOf n act res))))
    (hl : ∀ e, e ∈ l ↔ e < n ∧ act e = true) (hw : w * n ≤ 8192)
    (hok : (List.range n).any act = true → u.ws.vsd.tileOk d.toNat = true) :
    WritesTile r u d w n act res id := by
  have hempty : l = [] ↔ ¬ (List.range n).any act = true := by
    simp [List.eq_nil_iff_forall_not_mem, hl]
  subst hr
  unfold WritesTile
  split
  · next hany =>
    have hne : l.map (fun e => (e, (res e).1)) ≠ [] := fun h => hempty.1 (List.map_eq_nil_iff.1 h) hany
    refine ⟨_, tileGets_tilePut_map u d hl hw res, completes_advance ?_⟩
    rw [State.putElems, if_neg (by simpa using hne), State.setTile_ok (hok hany)]
    rfl
  · next hany =>
    have hnone : (List.range n).filter act = [] := by simpa using hany
    rw [hempty.2 hany, flagsOf, hnone]
    show Completes (.next (u.addFpf 0).advance) u
    rw [u.addFpf_zero]
    exact completes_advance rfl

/-- What an instruction does that ends in the write of the results of its active elements. -/
theorem writesTile_writeElems {r : Result} {s u : State} {d : VReg} {n : Nat} {act : Nat → Bool} {res : Nat → Nat × Byte}
    (hr : r = s.finish (u.writeElems d (((List.range n).filter act).map fun e => (e, res e))))
    (hw : u.shape.ty.bits * n ≤ 8192) (hok : (List.range n).any act = true → u.ws.vsd.tileOk d.toNat = true) :
    WritesTile r u d u.shape.ty.bits n act res id := by
  refine writesTile_putElems (s := s) (l := (List.range n).filter act) ?_ (fun e => by simp) hw hok
  rw [hr, State.writeElems, List.map_map, List.foldl_map]
  rfl

/-- The same of an instruction whose elements are all active. -/
theorem writesTile_writeElems_all {r : Result} {s u : State} {d : VReg} {n : Nat} {res : Nat → Nat × Byte}
    (hr : r = s.finish (u.writeElems d ((List.range n).map fun e => (e, res e))))
    (hw : u.shape.ty.bits * n ≤ 8192) (hok : u.ws.vsd.tileOk d.toNat = true) :
    WritesTile r u d u.shape.ty.bits n (fun _ => true) res id :=
  writesTile_writeElems (by rw [hr, List.filter_true]) hw fun _ => hok

end Sys2Proof.Machine
end

section
/-! PROOF. LQZ and LDEC (R104, R105, R189, R190): the codes of groups of eight elements, and the lanes of codes. -/

namespace Sys2Proof.Machine

/-! ### LQZ -/

section
variable (s : State) (d a : VReg)

/-- The code of group g that LQZ writes, and its flags (R104, R189). -/
def lqzCode (g : Nat) : BitVec 16 × Byte :=
  quantiseLx8 ((List.range 8).map fun i => if 8 * g + i < s.shape.count then
    lqzValue s.shape.ty (tileElem (s.claim.tile a) s.shape.ty.bits (8 * g + i)) else .fin false 0)

/-- LQZ of a shape that it takes puts the codes of its groups, one after another, into tile d. -/
theorem exec_lqz (h : s.shape.ty.fmt.isSome = true ∨ s.shape.ty = .w19) : exec (.lqz d a) s =
    s.finish (s.claim.putCodes d 16 .rne
      ((List.range ((s.shape.count + 7) / 8)).map fun g => ((lqzCode s a g).1.toNat, (lqzCode s a g).2))) := by
  have hty : (s.shape.ty.fmt.isSome || s.shape.ty == .w19) = true := by simpa using h
  show execLqz d a s = _
  simp only [execLqz, hty, demand_true, Eff.bind_ok, State.putCodes, List.zipIdx_map, List.map_map, List.foldl_map]
  rfl

/-- The codes of a shape of float elements fit a tile. -/
theorem lqz_fits (h : s.shape.ty.fmt.isSome = true ∨ s.shape.ty = .w19) : 16 * ((s.shape.count + 7) / 8) ≤ 8192 := by
  have hlx8 : s.shape.ty ≠ .lx8 := fun e => by simp [e, Elem.fmt] at h
  have hbits : 16 ≤ s.shape.ty.bits := by
    revert h
    cases s.shape.ty <;> simp [Elem.fmt, Elem.bits]
  have hfit := State.shape_fits hlx8
  have := Nat.mul_le_mul_right s.shape.count hbits
  omega

theorem lqz_writes (hd : s.TileReady 0 d) (h : s.shape.ty.fmt.isSome = true ∨ s.shape.ty = .w19) :
    WritesTile (exec (.lqz d a) s) s.claim d 16 ((s.shape.count + 7) / 8) (fun _ => true)
      (fun g => ((lqzCode s a g).1.toNat, (lqzCode s a g).2)) id := by
  have hn : 0 < (s.shape.count + 7) / 8 := by
    have := s.shape_count_pos
    omega
  rw [exec_lqz s d a h]
  exact writesTile_putCodes (by rw [State.tileOk_claim]; exact hd.2) hn (lqz_fits s h) .rne _

end

/-! ### LDEC -/

section
variable (s : State) (d a b : VReg)

/-- The coordinate of lane e as an INT8, and LVOID where its code is invalid (R105, R190). -/
def ldecCoord (e : Nat) : Nat × Byte :=
  let c := lx8Coords (BitVec.ofNat 16 (tileElem (s.claim.tile a) 16 (e / 8)))
  ((c.1.getD (e % 8) 0 % 256).toNat, if c.2 then fLvoid else 0)

/-- The value of lane e rounded into a binary format (R105, R190). -/
def ldecValue (f : Fmt) (e : Nat) : Nat × Byte :=
  let v := lx8Elem (s.claim.tile a) (s.claim.tile b) e
  let y := toFloat f .rne 0 false v.1.toXV
  (y.1, v.2 ||| y.2)

theorem exec_ldec_i8 (h : s.shape.ty = .i8) : exec (.ldec d a 0) s =
    s.finish (s.claim.writeElems d ((List.range s.shape.count).map fun e => (e, ldecCoord s a e))) := by
  show execLdec d a 0 s = _
  simp only [execLdec, h]
  rfl

theorem exec_ldec_fmt {f : Fmt} (h : s.shape.ty.fmt = some f) : exec (.ldec d a b) s =
    s.finish (s.claim.writeElems d ((List.range s.shape.count).map fun e => (e, ldecValue s a b f e))) := by
  show execLdec d a b s = _
  unfold execLdec
  dsimp only
  split
  · next hi =>
    rw [hi] at h
    exact absurd h nofun
  · simp only [h, Option.isSome_some, Bool.true_or, demand_true, Eff.bind_ok]
    rfl

theorem exec_ldec_w19 (h : s.shape.ty = .w19) : exec (.ldec d a b) s =
    s.finish (s.claim.writeElems d ((List.range s.shape.count).map fun e => 
      (e, (ldecValue s a b w19 e).1 * 2 ^ 13, (ldecValue s a b w19 e).2))) := by
  show execLdec d a b s = _
  simp only [execLdec, h]
  rfl

/-- LDEC that writes results of all its elements, in the width of the shape. -/
theorem ldec_writes {r : Result} (hd : s.TileReady 0 d) (hty : s.shape.ty ≠ .lx8) {res : Nat → Nat × Byte}
    (hr : r = s.finish (s.claim.writeElems d ((List.range s.shape.count).map fun e => (e, res e)))) :
    WritesTile r s.claim d s.shape.ty.bits s.shape.count (fun _ => true) res id := by
  rw [← s.shape_claim] at hr hty ⊢
  exact writesTile_writeElems_all hr (State.shape_fits hty) (by rw [State.tileOk_claim]; exact hd.2)

end

/-- Settles O38: LQZ puts the codes of its groups, and each form of LDEC writes the values of its lanes. -/
theorem latticeCodes : Obligations.LatticeCodes := by
  intro s d a b hd
  refine ⟨fun h => lqz_writes s d a hd h, fun h => ?_, fun f h => ?_, fun h => ?_⟩
  · have hw := ldec_writes s d hd (by simp [h]) (exec_ldec_i8 s d a h)
    rwa [h] at hw
  · have hty : s.shape.ty ≠ .lx8 := fun e => by simp [e, Elem.fmt] at h
    exact ldec_writes s d hd hty (exec_ldec_fmt s d a b h)
  · have hw := ldec_writes s d hd (by simp [h]) (exec_ldec_w19 s d a b h)
    rwa [h] at hw

end Sys2Proof.Machine
end

section
/-! PROOF. VCMP (R149): a mask written whole, and the predicates. -/

namespace Sys2Proof.Machine

/-! ### Writing a mask (R144, R146) -/

theorem State.setMask_ok {u : State} (h : u.ws.vsd.vsa ≠ 0) (k : KReg) (m : Mask) : u.setMask k m = .ok (u.withMask k m) := by
  rw [State.setMask, bne_iff_ne.2 h]
  rfl

theorem State.setMask_noArea {u : State} (h : u.ws.vsd.vsa = 0) (k : KReg) (m : Mask) :
    u.setMask k m = .error (.trap .perm u.ws.vsd.limit) := by
  rw [State.setMask, bne_eq_false_iff_eq.2 h]
  rfl

/-- A mask as VCMP gathers it has the bits of its list. -/
theorem testBit_foldl_or (l : List Nat) (m k : Nat) :
    (l.foldl (fun m e => m ||| 1 <<< e) m).testBit k = (m.testBit k || decide (k ∈ l)) := by
  induction l generalizing m with
  | nil => simp
  | cons e l ih =>
    rw [List.foldl_cons, ih, Nat.testBit_or, Nat.shiftLeft_eq, Nat.one_mul, Nat.testBit_two_pow, Bool.or_assoc,
      ← Bool.decide_or]
    simp only [List.mem_cons, eq_comm]

/-! ### VCMP -/

section
variable (s : State) (mask k : KReg) (p : VPred) (a b : VReg)

/-- The predicate of VCMP on element e, none where its type has no such predicate (R149). -/
def vcmpTest (e : Nat) : Option Bool :=
  vpred p s.shape.ty (tileElem (s.claim.tile a) s.shape.ty.bits e) (tileElem (s.claim.tile b) s.shape.ty.bits e)

/-- The mask that VCMP writes: a bit for each active element whose predicate holds. -/
def vcmpMask : Mask :=
  let on := ((List.range s.shape.count).filter (s.claim.lit mask)).filter fun e => (vcmpTest s p a b e).getD false
  BitVec.ofNat 1024 (on.foldl (fun m e => m ||| 1 <<< e) 0)

/-- VCMP of a legal predicate writes its mask. -/
theorem exec_vcmp (hty : s.shape.ty.arith = true) (hn : s.shape.count ≤ 1024)
    (hp : s.shape.ty.fmt.isSome = true ∨ (p ≠ .un ∧ p ≠ .ord)) : exec (.vcmp p mask k a b) s =
    s.finish (s.claim.setMask k (vcmpMask s mask p a b)) := by
  have hlegal : (s.shape.ty.arith && (s.shape.ty.fmt.isSome || (p != .un && p != .ord))) = true := by simpa [hty] using hp
  show execVcmp p mask k a b s = _
  simp only [execVcmp, hlegal, maskFits_ok (mask := mask) (.inr hn), decide_eq_true hn, demand_true, Eff.bind_ok,
    State.active_eq]
  rfl

/-- un and ord are predicates of floats only. -/
theorem exec_vcmp_unordered (hf : s.shape.ty.fmt = none) (hp : p = .un ∨ p = .ord) :
    exec (.vcmp p mask k a b) s = .next (s.takeTrap .illop 0) := by
  have hbad : (s.shape.ty.arith && (s.shape.ty.fmt.isSome || (p != .un && p != .ord))) = false := by
    rcases hp with rfl | rfl <;> simp [hf]
  show execVcmp p mask k a b s = _
  simp only [execVcmp, hbad, demand_false, Eff.bind_error]
  rfl

/-- Bit e of the mask that VCMP writes: the element is active in the shape and its predicate holds. -/
theorem vcmp_writes {test : Nat → Bool} (hty : s.shape.ty.arith = true) (hn : s.shape.count ≤ 1024) (hv : s.ws.vsd.vsa ≠ 0)
    (hp : s.shape.ty.fmt.isSome = true ∨ (p ≠ .un ∧ p ≠ .ord)) (htest : ∀ e, vcmpTest s p a b e = some (test e)) :
    ∃ m : Mask, Completes (exec (.vcmp p mask k a b) s) (s.claim.withMask k m) ∧
      ∀ e, e < 1024 → m.getLsbD e = (decide (e < s.shape.count) && s.claim.lit mask e && test e) := by
  refine ⟨vcmpMask s mask p a b, completes_advance ?_, fun e he => ?_⟩
  · rw [exec_vcmp s mask k p a b hty hn hp, State.setMask_ok (by rwa [State.vsa_claim]), State.finish_ok]
  · rw [vcmpMask, BitVec.getLsbD_ofNat, testBit_foldl_or, decide_eq_true he]
    simp [htest, Bool.decide_and, Bool.and_assoc, Bool.and_comm (test e)]

end

theorem fmt_eq_none_of_int {t : Elem} {w : Nat} {sg : Bool} (h : t.int = some (w, sg)) : t.fmt = none := by
  revert h
  cases t <;> simp [Elem.int, Elem.fmt]

end Sys2Proof.Machine
end

section
/-! PROOF. VSETS, VBCAST, VCLR and VRNG (R104, R138, R140, R141, R150, R159). -/

namespace Sys2Proof.Machine

/-! ### Writes that raise no flag -/

theorem flagsOf_zero (n : Nat) (act : Nat → Bool) (v : Nat → Nat) : flagsOf n act (fun e => (v e, 0)) = 0 := by
  unfold flagsOf
  induction (List.range n).filter act with
  | nil => rfl
  | cons e l ih =>
    simp only [List.foldl_cons] at ih ⊢
    exact ih

/-- What a vector instruction does that only puts the results of its active elements. -/
theorem writesTile_putElems_noFlags {r : Result} {s u : State} {d : VReg} {w n : Nat} {act : Nat → Bool} {v : Nat → Nat}
    {l : List Nat} (hr : r = s.finish (u.putElems d w (l.map fun e => (e, v e)))) (hl : ∀ e, e ∈ l ↔ e < n ∧ act e = true)
    (hw : w * n ≤ 8192) (hok : (List.range n).any act = true → u.ws.vsd.tileOk d.toNat = true) :
    WritesTile r u d w n act (fun e => (v e, 0)) id := by
  refine writesTile_putElems (s := s) (l := l) ?_ hl hw hok
  rw [hr, flagsOf_zero]
  simp only [State.addFpf_zero]
  cases u.putElems d w (l.map fun e => (e, v e)) <;> rfl

/-- What a vector instruction does that sets a tile whole. -/
theorem writesTile_setTile {r : Result} {s u : State} {d : VReg} {w n : Nat} {v : Nat → Nat} {t : Tile}
    (hr : r = s.finish (u.setTile d t)) (ht : TileGets u d w n (fun _ => true) (fun e => (v e, 0)) t) (hn : 0 < n)
    (hok : u.ws.vsd.tileOk d.toNat = true) : WritesTile r u d w n (fun _ => true) (fun e => (v e, 0)) id := by
  rw [WritesTile, if_pos (List.any_eq_true.2 ⟨0, List.mem_range.2 hn, rfl⟩)]
  refine ⟨t, ht, completes_advance ?_⟩
  rw [hr, State.setTile_ok hok, flagsOf_zero, State.addFpf_zero]
  rfl

/-! ### VSETS -/

/-- A legal value of VSHAPE (R138, R140). -/
def shapeLegal (v : Word) : Bool := decide (v.toNat < 2 ^ 24) && (shapeOf (BitVec.ofNat 24 v.toNat)).isSome

theorem State.setShape_legal (u : State) {v : Word} (h : shapeLegal v = true) :
    u.setShape v = .ok (u.modWs fun w => { w with vshape := BitVec.ofNat 24 v.toNat }) := by
  rw [State.setShape, ← BitVec.ofNat_toNat, if_pos (by simpa [shapeLegal] using h)]

theorem State.setShape_illegal (u : State) {v : Word} (h : ¬ shapeLegal v = true) : u.setShape v = illop := by
  rw [State.setShape, ← BitVec.ofNat_toNat, if_neg (by simpa [shapeLegal] using h)]

/-- Both forms of VSETS claim the unit and take a legal shape. -/
theorem finish_setShape (s : State) (v : Word) :
    if shapeLegal v = true then
      Completes (s.finish (s.claim.setShape v)) (s.claim.modWs fun w => { w with vshape := BitVec.ofNat 24 v.toNat })
    else s.finish (s.claim.setShape v) = .next (s.takeTrap .illop 0) := by
  split
  · next h =>
    rw [State.setShape_legal _ h]
    exact completes_advance rfl
  · next h =>
    rw [State.setShape_illegal _ h]
    rfl

/-! ### Groups of .lx8 codes (R104) -/

theorem groupsCovered_ok {t : Elem} {mask : KReg} {act : List Nat} {n : Nat}
    (h : t = .lx8 → mask = 0 ∨ openGroup act n = none) : groupsCovered t mask act n = .ok () := by
  unfold groupsCovered
  split
  · next hm =>
    rw [(h hm.1).resolve_left hm.2]
  · rfl

theorem groupsCovered_open {mask : KReg} {act : List Nat} {n g : Nat} (hm : mask ≠ 0) (h : openGroup act n = some g) :
    groupsCovered .lx8 mask act n = .error (.trap .align (BitVec.ofNat 64 (8 * g))) := by
  rw [groupsCovered, if_pos ⟨rfl, hm⟩, h]

/-- Where no group is open, a group with an active lane has its first lane active. -/
theorem first_lane_active {act : List Nat} {n e : Nat} (h : openGroup act n = none) (he : e < n) (hact : e ∈ act) :
    8 * (e / 8) ∈ act := by
  have hg := List.find?_eq_none.1 h (e / 8) (List.mem_range.2 (by omega))
  have hlane : e ∈ ((List.range 8).map (8 * (e / 8) + ·)).filter (· < n) := by
    simp only [List.mem_filter, List.mem_map, List.mem_range, decide_eq_true_eq]
    exact ⟨⟨e % 8, by omega, by omega⟩, he⟩
  have hfirst : 8 * (e / 8) ∈ ((List.range 8).map (8 * (e / 8) + ·)).filter (· < n) := by
    simp only [List.mem_filter, List.mem_map, List.mem_range, decide_eq_true_eq]
    exact ⟨⟨0, by omega, rfl⟩, by omega⟩
  have hany := List.any_eq_true.2 ⟨e, hlane, List.contains_iff_mem.2 hact⟩
  simp only [hany, Bool.true_and, Bool.not_eq_true', Bool.not_eq_false] at hg
  exact List.contains_iff_mem.1 (List.all_eq_true.1 hg _ hfirst)

/-- The groups that active lanes touch, where they cover them: those whose first lane is active. -/
theorem mem_touched {lit : Nat → Bool} {n : Nat} (h : (∀ e, lit e = true) ∨ openGroup ((List.range n).filter lit) n = none)
    (g : Nat) : g ∈ ((List.range n).filter lit).map (· / 8) ↔ g < (n + 7) / 8 ∧ lit (8 * g) = true := by
  simp only [List.mem_map, List.mem_filter, List.mem_range]
  constructor
  · rintro ⟨e, ⟨he, hlit⟩, rfl⟩
    refine ⟨by omega, h.elim (fun hall => hall _) fun hnone => ?_⟩
    have hfirst := first_lane_active hnone he (List.mem_filter.2 ⟨List.mem_range.2 he, hlit⟩)
    exact (List.mem_filter.1 hfirst).2
  · rintro ⟨hg, hlit⟩
    exact ⟨8 * g, ⟨by omega, hlit⟩, by omega⟩

/-! ### VBCAST -/

section
variable (s : State) (mask : KReg) (d : VReg) (a : GReg)

/-- VBCAST whose mask fits and opens no group puts g[a] at the place of each active element. -/
theorem exec_vbcast (hn : mask = 0 ∨ s.shape.count ≤ 1024)
    (hc : s.shape.ty = .lx8 → mask = 0 ∨ openGroup ((List.range s.shape.count).filter (s.claim.lit mask)) s.shape.count = none) :
    exec (.vbcast mask d a) s = s.finish (s.claim.putElems d (s.shape.ty.place 0).1
      (((List.range s.shape.count).filter (s.claim.lit mask)).map fun e => ((s.shape.ty.place e).2, (s.g a).toNat))) := by
  show execVbcast mask d a s = _
  simp only [execVbcast, maskFits_ok hn, State.active_eq, groupsCovered_ok hc, Eff.bind_ok]

/-- VBCAST to elements that are no lanes: each active one gets the low bits of g[a]. -/
theorem vbcast_elements (hd : s.TileOpen mask d) (hty : s.shape.ty ≠ .lx8) :
    WritesTile (exec (.vbcast mask d a) s) s.claim d s.shape.ty.bits s.shape.count (s.claim.lit mask)
      (fun _ => ((s.g a).toNat, 0)) id := by
  have hplace (e : Nat) : s.shape.ty.place e = (s.shape.ty.bits, e) := if_neg hty
  refine writesTile_putElems_noFlags (s := s) (l := (List.range s.shape.count).filter (s.claim.lit mask)) ?_
    (fun e => by simp) (State.shape_fits hty) fun h => by rw [State.tileOk_claim]; exact hd.2 h
  rw [exec_vbcast s mask d a hd.1 fun h => absurd h hty]
  simp only [hplace]

/-- VBCAST in an .lx8 shape: the group of each active lane gets the code in g[a]. -/
theorem vbcast_groups (hd : s.TileOpen mask d) (hty : s.shape.ty = .lx8)
    (hc : mask = 0 ∨ openGroup ((List.range s.shape.count).filter (s.claim.lit mask)) s.shape.count = none) :
    WritesTile (exec (.vbcast mask d a) s) s.claim d 16 ((s.shape.count + 7) / 8) (fun g => s.claim.lit mask (8 * g))
      (fun _ => ((s.g a).toNat, 0)) id := by
  have hplace (e : Nat) : s.shape.ty.place e = (16, e / 8) := if_pos hty
  have hcover : (∀ e, s.claim.lit mask e = true) ∨
      openGroup ((List.range s.shape.count).filter (s.claim.lit mask)) s.shape.count = none :=
    hc.imp_left fun h e => by rw [h, State.lit_zero]
  refine writesTile_putElems_noFlags (s := s) (l := ((List.range s.shape.count).filter (s.claim.lit mask)).map (· / 8)) ?_
    (mem_touched hcover) (State.shape_fits_lx8 hty) fun h => ?_
  · rw [exec_vbcast s mask d a hd.1 fun _ => hc]
    simp only [hplace, List.map_map]
    rfl
  · rw [State.tileOk_claim]
    obtain ⟨g, hg, hlit⟩ := List.any_eq_true.1 h
    have hlane : 8 * g < s.shape.count := by
      have := List.mem_range.1 hg
      omega
    exact hd.2 (List.any_eq_true.2 ⟨8 * g, List.mem_range.2 hlane, hlit⟩)

/-- VBCAST under a mask that opens a group traps ALIGN at the group's first lane (R104). -/
theorem vbcast_open (hm : mask ≠ 0) (hn : s.shape.count ≤ 1024) (hty : s.shape.ty = .lx8) {g : Nat}
    (hg : openGroup ((List.range s.shape.count).filter (s.claim.lit mask)) s.shape.count = some g) :
    exec (.vbcast mask d a) s = .next (s.takeTrap .align (BitVec.ofNat 64 (8 * g))) := by
  show execVbcast mask d a s = _
  simp only [execVbcast, maskFits_ok (mask := mask) (.inr hn), State.active_eq, hty, groupsCovered_open hm hg, Eff.bind_ok,
    Eff.bind_error]
  rfl

end

/-! ### VCLR and VRNG -/

theorem vclr_writes {s : State} {d : VReg} (hd : s.TileReady 0 d) : Completes (exec (.vclr d) s) (s.claim.withTile d 0) := by
  refine completes_advance ?_
  show execVclr d s = _
  rw [execVclr, State.setTile_ok (by rw [State.tileOk_claim]; exact hd.2)]
  rfl

/-- Words one above another: the number that VRNG writes. -/
def stackWords (f : Nat → BitVec 32) (n : Nat) : Nat :=
  (List.range n).foldl (fun t e => t + (f e).toNat <<< (32 * e)) 0

theorem stackWords_succ (f : Nat → BitVec 32) (n : Nat) :
    stackWords f (n + 1) = 2 ^ (32 * n) * (f n).toNat + stackWords f n := by
  rw [stackWords, List.range_succ, List.foldl_append]
  show stackWords f n + _ = _
  rw [Nat.shiftLeft_eq, Nat.mul_comm, Nat.add_comm]

theorem stackWords_lt (f : Nat → BitVec 32) (n : Nat) : stackWords f n < 2 ^ (32 * n) := by
  induction n with
  | zero => exact Nat.one_pos
  | succ n ih =>
    have h32 := (f n).isLt
    calc stackWords f (n + 1) = 2 ^ (32 * n) * (f n).toNat + stackWords f n := stackWords_succ f n
      _ < 2 ^ (32 * n) * ((f n).toNat + 1) := by rw [Nat.mul_succ]; omega
      _ ≤ 2 ^ (32 * n) * 2 ^ 32 := Nat.mul_le_mul_left _ h32
      _ = 2 ^ (32 * (n + 1)) := by rw [← Nat.pow_add]; rfl

/-- Word k of a stack of words. -/
theorem stackWords_word (f : Nat → BitVec 32) {n k : Nat} (h : k < n) :
    stackWords f n / 2 ^ (32 * k) % 2 ^ 32 = (f k).toNat := by
  induction n with
  | zero => exact absurd h (Nat.not_lt_zero k)
  | succ n ih =>
    rw [stackWords_succ]
    rcases Nat.lt_succ_iff_lt_or_eq.1 h with hk | rfl
    · have hsplit : 2 ^ (32 * n) = 2 ^ (32 * k) * (2 ^ 32 * 2 ^ (32 * (n - k - 1))) := by
        rw [← Nat.pow_add, ← Nat.pow_add]
        congr 1
        omega
      rw [hsplit, Nat.mul_assoc, Nat.mul_add_div (Nat.two_pow_pos _), Nat.mul_assoc, Nat.mul_add_mod, ih hk]
    · rw [Nat.mul_add_div (Nat.two_pow_pos _), Nat.div_eq_of_lt (stackWords_lt f k), Nat.add_zero,
        Nat.mod_eq_of_lt (f k).isLt]

/-- A number that fits, as bits. -/
theorem toNat_ofNat_of_lt {w x : Nat} (h : x < 2 ^ w) : (BitVec.ofNat w x).toNat = x := by
  rw [BitVec.toNat_ofNat, Nat.mod_eq_of_lt h]

/-- A stack of 256 words as a tile. -/
theorem tileElem_stackWords (f : Nat → BitVec 32) {e : Nat} (h : e < 256) :
    tileElem (BitVec.ofNat 8192 (stackWords f 256)) 32 e = (f e).toNat := by
  have hlt := stackWords_lt f 256
  rw [show 32 * 256 = 8192 from rfl] at hlt
  have hnum : (BitVec.ofNat 8192 (stackWords f 256)).toNat = stackWords f 256 := toNat_ofNat_of_lt hlt
  rw [tileElem, hnum, Nat.shiftRight_eq_div_pow, stackWords_word f h]

theorem vrng_writes {s : State} {d : VReg} (a : GReg) (hd : s.TileReady 0 d) :
    WritesTile (exec (.vrng d a) s) s.claim d 32 256 (fun _ => true)
      (fun e => ((rng (BitVec.ofNat 32 (s.g a).toNat) (BitVec.ofNat 32 ((s.g a).toNat / 2 ^ 32))
        (BitVec.ofNat 32 e)).toNat, 0)) id := by
  have hkey : (s.g a).extractLsb' 0 32 = BitVec.ofNat 32 (s.g a).toNat := by
    apply BitVec.eq_of_toNat_eq
    simp
  have hctr : (s.g a).extractLsb' 32 32 = BitVec.ofNat 32 ((s.g a).toNat / 2 ^ 32) := by
    apply BitVec.eq_of_toNat_eq
    simp [BitVec.extractLsb'_toNat, Nat.shiftRight_eq_div_pow]
  rw [← hkey, ← hctr]
  refine writesTile_setTile (s := s) (t := BitVec.ofNat 8192 (stackWords (fun e => rng ((s.g a).extractLsb' 0 32)
    ((s.g a).extractLsb' 32 32) (BitVec.ofNat 32 e)) 256)) rfl (fun e he => ?_) (by decide)
    (by rw [State.tileOk_claim]; exact hd.2)
  have he' : e < 256 := by omega
  rw [tileElem_stackWords _ he', if_pos ⟨he', rfl⟩, Nat.mod_eq_of_lt (BitVec.isLt _)]

end Sys2Proof.Machine
end

section
/-! PROOF. Tile writes without room in the save area, and mask writes with no area: each instruction reaches R144's PERM once its
own checks have passed (log entry 25). -/

namespace Sys2Proof.Machine

/-- The PERM of R144: TRINFO is the end of the save area. -/
abbrev State.noRoom (s : State) : Result := .next (s.takeTrap .perm s.ws.vsd.limit)

/-! ### Lists of elements that are not empty -/

theorem range_map_ne_nil {α : Type} {n : Nat} (h : 0 < n) (f : Nat → α) : (List.range n).map f ≠ [] := by
  simpa using Nat.ne_of_gt h

theorem range_flatMap_ne_nil {α : Type} {n : Nat} (h : 0 < n) {f : Nat → List α} (hf : f 0 ≠ []) :
    (List.range n).flatMap f ≠ [] := fun hnil => hf (List.flatMap_eq_nil_iff.1 hnil 0 (List.mem_range.2 h))

theorem active_map_ne_nil {α : Type} {n : Nat} {act : Nat → Bool} (h : (List.range n).any act = true) (f : Nat → α) :
    ((List.range n).filter act).map f ≠ [] := by
  simpa using h

section
variable {s : State} {d : VReg} (hroom : s.ws.vsd.tileOk d.toNat = false)
include hroom

/-! ### The write itself -/

theorem State.setTile_noRoom (t : Tile) : s.claim.setTile d t = .error (.trap .perm s.ws.vsd.limit) := by
  rw [State.setTile, State.tileOk_claim, State.limit_claim, hroom]
  rfl

theorem finish_setTile_noRoom (t : Tile) : s.finish (s.claim.setTile d t) = s.noRoom := by
  rw [State.setTile_noRoom hroom]
  rfl

theorem State.putCodes_noRoom (w : Nat) (r : Round) (l : List (Nat × Byte)) :
    s.claim.putCodes d w r l = .error (.trap .perm s.ws.vsd.limit) := by
  rw [State.putCodes, State.setTile_noRoom hroom]
  rfl

theorem State.putElems_noRoom (w : Nat) {l : List (Nat × Nat)} (hl : l ≠ []) :
    s.claim.putElems d w l = .error (.trap .perm s.ws.vsd.limit) := by
  rw [State.putElems, if_neg (by simpa using hl), State.setTile_noRoom hroom]

theorem State.writeElems_noRoom {l : List (Nat × Nat × Byte)} (hl : l ≠ []) :
    s.claim.writeElems d l = .error (.trap .perm s.ws.vsd.limit) := by
  rw [State.writeElems, State.putElems_noRoom hroom _ (by simpa using hl)]
  rfl

theorem finish_writeElems_noRoom {l : List (Nat × Nat × Byte)} (hl : l ≠ []) :
    s.finish (s.claim.writeElems d l) = s.noRoom := by
  rw [State.writeElems_noRoom hroom hl]
  rfl

/-! ### VRNG, VCLR and page 3 -/

theorem vclr_noRoom : exec (.vclr d) s = s.noRoom := finish_setTile_noRoom hroom 0
theorem vrng_noRoom (g : GReg) : exec (.vrng d g) s = s.noRoom := finish_setTile_noRoom hroom _

theorem vexp2_noRoom (a : VReg) (hty : s.shape.ty = .f32) : exec (.vexp2 d a) s = s.noRoom := by
  show execVexp2 d a s = _
  simp only [execVexp2, hty, beq_self_eq_true, demand_true, Eff.bind_ok]
  exact finish_writeElems_noRoom hroom (range_map_ne_nil s.shape_count_pos _)

theorem vsmx_noRoom (a b : VReg) (hty : s.shape.ty = .f32) (hc : 3 ≤ s.shape.cols) : exec (.vsmx d a b) s = s.noRoom := by
  show execVsmx d a b s = _
  simp only [execVsmx, hty, hc, decide_true, beq_self_eq_true, Bool.and_self, demand_true, Eff.bind_ok]
  exact finish_writeElems_noRoom hroom (range_flatMap_ne_nil s.shape_rows_pos (by simp [vsmxRow]))

/-- VRDQ from a fresh start, which is asked for some words (R155, R156). -/
theorem vrdq_noRoom (q : QReg) (g : GReg) (hty : s.shape.ty = .f32) (hn : s.shape.count % 2 = 0)
    (hres : s.ws.resid.msb = false) (h0 : s.g g ≠ 0) (hg : (s.g g).toNat < 2 ^ 31) : exec (.vrdq d q g) s = s.noRoom := by
  have hleft : (((2 : Word) ^ 63 + s.g g).extractLsb' 0 32).toNat ≠ 0 := by
    have hne : (s.g g).toNat ≠ 0 := fun h => h0 (BitVec.eq_of_toNat_eq h)
    rw [BitVec.extractLsb'_toNat, BitVec.toNat_add, Nat.shiftRight_zero]
    have h63 : ((2 : Word) ^ 63).toNat = 2 ^ 63 := by simp
    omega
  show execVrdq d q g s = _
  rw [execVrdq, if_neg (by simp [hty, hn]), if_neg fun h => h.2 (Nat.div_eq_of_lt hg)]
  simp only [hres, Bool.false_eq_true, if_false, if_neg hleft, State.setTile_noRoom hroom]
  rfl

theorem vqmax_noRoom (a : VReg) (n : BitVec 3) (hf : s.shape.ty.fmt.isSome = true) (hn : n.toNat < 5)
    (hr : s.shape.rows % 2 ^ n.toNat = 0) : exec (.vqmax d a n) s = s.noRoom := by
  obtain ⟨f, hf⟩ := Option.isSome_iff_exists.1 hf
  have hspan : 0 < 2 ^ n.toNat := Nat.two_pow_pos _
  have hgroups : 0 < s.shape.rows / 2 ^ n.toNat :=
    Nat.div_pos (Nat.le_of_dvd s.shape_rows_pos (Nat.dvd_of_mod_eq_zero hr)) hspan
  show execVqmax d a n s = _
  simp only [execVqmax, hf, hn, hr, and_self, decide_true, demand_true, Eff.bind_ok]
  exact finish_writeElems_noRoom hroom
    (range_flatMap_ne_nil hgroups (range_map_ne_nil (Nat.mul_pos hspan s.shape_cols_pos) _))

theorem vqz_noRoom (r : Round) (st : Sat) (a b : VReg) (hf : s.shape.ty.fmt.isSome = true) (hst : st ≠ .inf) :
    exec (.vqz r st d a b) s = s.noRoom := by
  obtain ⟨f, hf⟩ := Option.isSome_iff_exists.1 hf
  show execVqz r st d a b s = _
  simp only [execVqz, hf, bne_iff_ne.2 hst, State.setTile_noRoom hroom, demand_true, Eff.bind_ok]
  rfl

theorem lqz_noRoom (a : VReg) (hty : s.shape.ty.fmt.isSome = true ∨ s.shape.ty = .w19) : exec (.lqz d a) s = s.noRoom := by
  rw [exec_lqz s d a hty, State.putCodes_noRoom hroom]
  rfl

theorem ldec_i8_noRoom (a : VReg) (hty : s.shape.ty = .i8) : exec (.ldec d a 0) s = s.noRoom := by
  rw [exec_ldec_i8 s d a hty]
  exact finish_writeElems_noRoom hroom (range_map_ne_nil s.shape_count_pos _)

theorem ldec_noRoom (a b : VReg) (hty : s.shape.ty.fmt.isSome = true ∨ s.shape.ty = .w19) :
    exec (.ldec d a b) s = s.noRoom := by
  rcases hty with hf | hty
  · obtain ⟨f, hf⟩ := Option.isSome_iff_exists.1 hf
    rw [exec_ldec_fmt s d a b hf]
    exact finish_writeElems_noRoom hroom (range_map_ne_nil s.shape_count_pos _)
  · rw [exec_ldec_w19 s d a b hty]
    exact finish_writeElems_noRoom hroom (range_map_ne_nil s.shape_count_pos _)

section
variable {target : VTarget} {ct : BitVec 2} {r : Round} {st : Sat} {a : VReg} (h : cvtChecks s target ct st = true)
include h

theorem vcvt_noRoom (hcvt : cvtOk s.shape.ty target = true) : exec (.vcvt target false ct r st d a) s = s.noRoom := by
  rw [exec_vcvt s target ct r st d a h, hcvt, State.putCodes_noRoom hroom]
  rfl

theorem vcvt_mx_noRoom (hn : s.shape.count % 32 = 0) (hmx : mxEncodes s target = true ∨ mxDecodes s target = true) :
    exec (.vcvt target true ct r st d a) s = s.noRoom := by
  cases henc : mxEncodes s target with
  | true =>
    rw [exec_vcvt_mx_encode s target ct r st d a h hn henc, State.putCodes_noRoom hroom]
    rfl
  | false =>
    rw [exec_vcvt_mx_decode s target ct r st d a h hn henc (hmx.resolve_left (by simp [henc])),
      State.putCodes_noRoom hroom]
    rfl

end

/-! ### Elements of page 2 -/

theorem vsel_noRoom (k : KReg) (a b : VReg) (hty : s.shape.ty.arith = true) (hn : s.shape.count ≤ 1024) :
    exec (.vsel k d a b) s = s.noRoom := by
  show execVsel k d a b s = _
  simp only [execVsel, hty, decide_eq_true hn, demand_true, Eff.bind_ok]
  exact finish_writeElems_noRoom hroom (range_map_ne_nil s.shape_count_pos _)

section
variable {mask : KReg} (hn : mask = 0 ∨ s.shape.count ≤ 1024)
include hn

theorem vredr_noRoom (op : VRedOp) (r : Round) (sat : Bool) (a : VReg) (hty : s.shape.ty.arith = true) :
    exec (.vredr op { mask := mask, round := r, sat := sat } d a) s = s.noRoom := by
  show execVredr op _ d a s = _
  simp only [execVredr, hty, maskFits_ok hn, demand_true, Eff.bind_ok]
  exact finish_writeElems_noRoom hroom (range_map_ne_nil s.shape_rows_pos _)

theorem vredc_noRoom (op : VRedOp) (r : Round) (sat : Bool) (a : VReg) (hty : s.shape.ty.arith = true) :
    exec (.vredc op { mask := mask, round := r, sat := sat } d a) s = s.noRoom := by
  show execVredc op _ d a s = _
  simp only [execVredc, hty, maskFits_ok hn, demand_true, Eff.bind_ok]
  exact finish_writeElems_noRoom hroom (range_map_ne_nil s.shape_cols_pos _)

variable (hany : s.anyLit mask = true)
include hany

section
variable (hty : s.shape.ty.arith = true)
include hty

theorem finish_elementwise_noRoom (o : BinOp) (r : Round) (sat : Bool) (a b : VReg) :
    s.finish (s.elementwise o mask r sat d a b) = s.noRoom := by
  simp only [State.elementwise, hty, maskFits_ok hn, State.active_eq, demand_true, Eff.bind_ok]
  exact finish_writeElems_noRoom hroom (active_map_ne_nil hany _)

theorem finish_unary_noRoom (f : Elem → Nat → Nat) (a : VReg) : s.finish (s.unary f mask d a) = s.noRoom := by
  simp only [State.unary, hty, maskFits_ok hn, State.active_eq, demand_true, Eff.bind_ok]
  exact finish_writeElems_noRoom hroom (active_map_ne_nil hany _)

theorem vdiv_noRoom (r : Round) (sat : Bool) (a b : VReg) :
    exec (.vdiv { mask := mask, round := r, sat := sat } d a b) s = s.noRoom := by
  show execVdiv _ d a b s = _
  simp only [execVdiv, hty, maskFits_ok hn, State.active_eq, demand_true, Eff.bind_ok]
  cases hf : s.shape.ty.fmt with
  | some f => exact finish_writeElems_noRoom hroom (active_map_ne_nil hany _)
  | none =>
    cases hi : s.shape.ty.int with
    | none => simp [Elem.arith, hf, hi] at hty
    | some x =>
      simp only [List.map_map]
      rw [State.writeElems_noRoom hroom (active_map_ne_nil hany _)]
      rfl

end

/-! ### VBCAST and tile loads -/

section
variable (hc : s.shape.ty = .lx8 →
  mask = 0 ∨ openGroup ((List.range s.shape.count).filter (s.claim.lit mask)) s.shape.count = none)
include hc

theorem vbcast_noRoom (g : GReg) : exec (.vbcast mask d g) s = s.noRoom := by
  rw [exec_vbcast s mask d g hn hc, State.putElems_noRoom hroom _ (active_map_ne_nil hany _)]
  rfl

/-- A tile load whose operands and row bases pass their checks reports R144's PERM before any fault of an element (log
entry 25). -/
theorem finish_loadTile_noRoom {g : GReg} {disp : Word} {transposed : Bool} (hops : tileMoveOk g s.shape transposed = .ok ())
    (hrows : rowsAligned s.shape (s.g g) (s.g (GReg.next g)) disp (if transposed then s.shape.cols else s.shape.rows) = .ok ()) :
    s.finish (s.loadTile mask d g disp transposed) = s.noRoom := by
  have hact : ((List.range s.shape.count).filter (s.claim.lit mask)).isEmpty = false := by
    simpa using active_map_ne_nil hany id
  simp only [State.loadTile, hops, hrows, maskFits_ok hn, State.active_eq, groupsCovered_ok hc, hact, hroom, Bool.or_self,
    demandOr_false, Eff.bind_ok, Eff.bind_error]
  rfl

end

end

end

/-! ### The checks of a tile load, and VCMP with no area -/

theorem rowsAligned_ok {h : Shape} {base stride disp : Word} {n : Nat}
    (hrow : ∀ r, r < n → (rowBase base stride disp r).toNat % h.ty.accBytes = 0) : rowsAligned h base stride disp n = .ok () := by
  have hnone : (List.range n).find? (fun r => (rowBase base stride disp r).toNat % h.ty.accBytes ≠ 0) = none :=
    List.find?_eq_none.2 fun r hr => by simpa using hrow r (List.mem_range.1 hr)
  rw [rowsAligned, hnone]

theorem tileMoveOk_rows {g : GReg} {h : Shape} (h0 : g ≠ 0) (he : g.getLsbD 0 = false) (hc : h.cols % h.ty.pack = 0) :
    tileMoveOk g h false = .ok () := by
  rw [tileMoveOk, evenPair_of h0 he, decide_eq_true hc]
  rfl

theorem tileMoveOk_transposed {g : GReg} {h : Shape} (h0 : g ≠ 0) (he : g.getLsbD 0 = false) (hc : h.cols % h.ty.pack = 0)
    (h4 : h.ty ≠ .fp4) (h8 : h.ty ≠ .lx8) : tileMoveOk g h true = .ok () := by
  rw [tileMoveOk, evenPair_of h0 he, decide_eq_true hc, beq_eq_false_iff_ne.2 h4, beq_eq_false_iff_ne.2 h8]
  rfl

theorem vcmp_noArea {s : State} (mask k : KReg) (p : VPred) (a b : VReg) (hv : s.ws.vsd.vsa = 0)
    (hty : s.shape.ty.arith = true) (hn : s.shape.count ≤ 1024) (hp : s.shape.ty.fmt.isSome = true ∨ (p ≠ .un ∧ p ≠ .ord)) :
    exec (.vcmp p mask k a b) s = s.noRoom := by
  rw [exec_vcmp s mask k p a b hty hn hp, State.setMask_noArea (by rwa [State.vsa_claim]), State.limit_claim]
  rfl

end Sys2Proof.Machine
end

section
/-! PROOF. VCMP, VSETS, VBCAST, VCLR and VRNG, and tile writes without room (R104, R138 to R150, R159), put together. -/

namespace Sys2Proof.Machine

/-- The checks of VCVT hold where R144's PERM is to be reported. -/
theorem cvtChecks_of {s : State} {target : VTarget} {ct : BitVec 2} {st : Sat} (hsat : satOk target st = true)
    (hct : s.shape.ty = .c8 ∨ target = .c8 ∨ ct = 0) (hbytes : (targetElem target).bytes s.shape.count ≤ 1024) :
    cvtChecks s target ct st = true := by
  simpa [cvtChecks, hsat, hbytes, or_assoc] using hct

/-- Settles O33: VCMP by the bits of its mask, the fills by the elements that they put, and each refused write by the one
refusal of setTile or setMask that its checks lead to. -/
theorem comparesAndFills : Obligations.ComparesAndFills := by
  unfold Obligations.ComparesAndFills
  refine ⟨fun s mask k p a b hty hn hv => ⟨fun f hf => ?_, fun sg hint hu ho => ?_, exec_vcmp_unordered s mask k p a b⟩,
    fun s mask d a imm => ⟨finish_setShape s (s.g a), finish_setShape s imm, vbcast_elements s mask d a,
      fun hty => ⟨fun hd => vbcast_groups s mask d a hd hty, fun g hm hn => vbcast_open s mask d a hm hn hty⟩,
      vclr_writes, vrng_writes a⟩,
    fun s m d a b g k q disp => ⟨fun hv hty hn p => vcmp_noArea m.mask k p a b hv hty hn, fun hroom => ?_⟩⟩
  · exact vcmp_writes s mask k p a b hty hn hv (.inl (by rw [hf]; rfl)) fun e => by
      cases p <;> simp only [vcmpTest, vpred, hf]
  · refine vcmp_writes s mask k p a b hty hn hv (.inr ⟨hu, ho⟩) fun e => ?_
    rw [vcmpTest, vpred, fmt_eq_none_of_int hint, hint]
    cases p with
    | un => exact absurd rfl hu
    | ord => exact absurd rfl ho
    | _ => rfl
  · refine ⟨vclr_noRoom hroom, vrng_noRoom hroom g, fun hty => ⟨vexp2_noRoom hroom a hty, vsmx_noRoom hroom a b hty,
        vrdq_noRoom hroom q g hty⟩,
      fun hf r st n => ⟨vqmax_noRoom hroom a n hf, vqz_noRoom hroom r st a b hf⟩,
      fun hty => ⟨lqz_noRoom hroom a hty, ldec_noRoom hroom a b hty⟩, ldec_i8_noRoom hroom a,
      fun target mx ct r st hsat hct hbytes hcvt hmx => ?_, fun hn hc hany => ⟨vbcast_noRoom hroom hn hany hc g,
        fun h0 he hpack => ⟨fun hrows => ?_, fun h4 h8 hrows => ?_⟩⟩,
      vsel_noRoom hroom k a b, fun hty hn => ⟨fun hany i hi => ?_, fun op => ⟨vredr_noRoom hroom hn op m.round m.sat a hty,
        vredc_noRoom hroom hn op m.round m.sat a hty⟩⟩⟩
    · have hchecks := cvtChecks_of hsat hct hbytes
      cases mx with
      | false => exact vcvt_noRoom hroom hchecks (hcvt rfl)
      | true =>
        obtain ⟨hblocks, hpair⟩ := hmx rfl
        refine vcvt_mx_noRoom hroom hchecks hblocks (hpair.imp (fun h => ?_) fun h => ?_)
        · simpa [mxEncodes, or_assoc] using h
        · simpa [mxDecodes, or_assoc] using h
    · exact finish_loadTile_noRoom hroom hn hany hc (tileMoveOk_rows h0 he hpack) (rowsAligned_ok hrows)
    · exact finish_loadTile_noRoom hroom hn hany hc (tileMoveOk_transposed h0 he hpack h4 h8) (rowsAligned_ok hrows)
    · simp only [List.mem_cons, List.not_mem_nil, or_false] at hi
      rcases hi with rfl | rfl | rfl | rfl | rfl | rfl | rfl | rfl | rfl
      · exact finish_elementwise_noRoom hroom hn hany hty opAdd m.round m.sat a b
      · exact finish_elementwise_noRoom hroom hn hany hty opSub m.round m.sat a b
      · exact finish_elementwise_noRoom hroom hn hany hty opMul m.round m.sat a b
      · exact finish_elementwise_noRoom hroom hn hany hty opFma m.round m.sat a b
      · exact finish_elementwise_noRoom hroom hn hany hty opMax .rne false a b
      · exact finish_elementwise_noRoom hroom hn hany hty opMin .rne false a b
      · exact vdiv_noRoom hroom hn hany hty m.round m.sat a b
      · exact finish_unary_noRoom hroom hn hany hty (fun t => vabsElem t m.sat) a
      · exact finish_unary_noRoom hroom hn hany hty (fun t => vnegElem t m.sat) a

end Sys2Proof.Machine
end

section
/-! PROOF. The values and the flags of the scalar instructions (R113, R118 to R126): each computation of the model is the
arithmetic of its rule. -/

namespace Sys2Proof.Machine

/-! ### Flags (R113) -/

/-- A signed sum overflows exactly where it is not the exact sum. -/
theorem saddOverflow_iff (a b : Word) : a.saddOverflow b = decide ((a + b).toInt ≠ a.toInt + b.toInt) := by
  rw [Bool.eq_iff_iff, decide_eq_true_eq]
  refine ⟨fun h e => ?_, fun h => ?_⟩
  · have hlo := (a + b).le_toInt
    have hhi := (a + b).toInt_lt
    simp only [BitVec.saddOverflow, Bool.or_eq_true, decide_eq_true_eq] at h
    omega
  · exact Decidable.not_not.1 fun hn => h (BitVec.toInt_add_of_not_saddOverflow hn)

theorem ssubOverflow_iff (a b : Word) : a.ssubOverflow b = decide ((a - b).toInt ≠ a.toInt - b.toInt) := by
  rw [Bool.eq_iff_iff, decide_eq_true_eq]
  refine ⟨fun h e => ?_, fun h => ?_⟩
  · have hlo := (a - b).le_toInt
    have hhi := (a - b).toInt_lt
    simp only [BitVec.ssubOverflow, Bool.or_eq_true, decide_eq_true_eq] at h
    omega
  · exact Decidable.not_not.1 fun hn => h (BitVec.toInt_sub_of_not_ssubOverflow hn)

theorem ofNat_toNat_add (a b : Word) : BitVec.ofNat 64 (a.toNat + b.toNat) = a + b := by
  simp [BitVec.ofNat_add]

theorem ofInt_toInt_sub (a b : Word) : BitVec.ofInt 64 (a.toInt - b.toInt) = a - b := by
  rw [Int.sub_eq_add_neg, BitVec.ofInt_add, BitVec.ofInt_neg, BitVec.ofInt_toInt, BitVec.ofInt_toInt, ← BitVec.sub_eq_add_neg]

theorem Ctl.addFl_eq (c : Ctl) (a b : Word) :
    c.addFl a b = c.after (a + b) (decide (2 ^ 64 ≤ a.toNat + b.toNat)) (a.toInt + b.toInt) := by
  rw [Ctl.after, ← saddOverflow_iff, BitVec.saddOverflow_eq]
  rfl

theorem Ctl.subFl_eq (c : Ctl) (a b : Word) :
    c.subFl a b = c.after (a - b) (decide (b.toNat ≤ a.toNat)) (a.toInt - b.toInt) := by
  have hv : (a.msb != b.msb && (a - b).msb != a.msb) =
      (!a.msb && b.msb && (a - b).msb || a.msb && !b.msb && !(a - b).msb) := by
    cases a.msb <;> cases b.msb <;> simp
  rw [Ctl.after, ← ssubOverflow_iff, BitVec.ssubOverflow_eq, ← hv]
  rfl

theorem Ctl.tstFl_eq (c : Ctl) (a b : Word) : c.tstFl a b =
    { c with z := decide (a &&& b = 0), n := (a &&& b).getLsbD 63, c := false, v := false } := rfl

/-! ### Products, quotients and orders (R118) -/

theorem mul_eq_ofNat (a b : Word) : a * b = BitVec.ofNat 64 (a.toNat * b.toNat) := by
  simp [BitVec.ofNat_mul]

theorem highHalf_natCast (p : Nat) : highHalf p = BitVec.ofNat 64 (p / 2 ^ 64) := by
  rw [highHalf, ← BitVec.ofInt_natCast]
  rfl

/-- DIV and REM of unsigned numbers: a zero divisor gives all ones, the dividend and V. -/
theorem divide_n64 (a b : Word) : divide .n64 a b =
    (if b = 0 then BitVec.allOnes 64 else BitVec.ofNat 64 (a.toNat / b.toNat), BitVec.ofNat 64 (a.toNat % b.toNat),
      decide (b = 0)) := by
  by_cases hb : b = 0
  · simp [divide, hb]
  · have hq : a / b = BitVec.ofNat 64 (a.toNat / b.toNat) := BitVec.eq_of_toNat_eq (by
      rw [BitVec.toNat_udiv, BitVec.toNat_ofNat, Nat.mod_eq_of_lt (Nat.lt_of_le_of_lt (Nat.div_le_self _ _) a.isLt)])
    have hr : a % b = BitVec.ofNat 64 (a.toNat % b.toNat) := BitVec.eq_of_toNat_eq (by
      rw [BitVec.toNat_umod, BitVec.toNat_ofNat, Nat.mod_eq_of_lt (Nat.lt_of_le_of_lt (Nat.mod_le _ _) a.isLt)])
    simp only [divide, if_neg hb, hq, hr, decide_eq_false hb]

/-- A signed quotient of 64 bits is 2^63 for the least number by −1 alone. -/
theorem tdiv_eq_two_pow_iff (a b : Word) :
    a.toInt.tdiv b.toInt = 2 ^ 63 ↔ a = BitVec.intMin 64 ∧ b = BitVec.allOnes 64 := by
  refine ⟨fun h => ?_, fun ⟨ha, hb⟩ => by rw [ha, hb]; decide⟩
  have hab : a.toInt.natAbs / b.toInt.natAbs = 2 ^ 63 := by
    have hq := Int.natAbs_tdiv a.toInt b.toInt
    rw [h] at hq
    exact hq.symm
  have hlo := a.le_toInt
  have hhi := a.toInt_lt
  have hb1 : b.toInt.natAbs = 1 := by
    have hb0 : b.toInt.natAbs ≠ 0 := fun h0 => by simp [h0] at hab
    have hle := Nat.div_mul_le_self a.toInt.natAbs b.toInt.natAbs
    rw [hab] at hle
    omega
  have ha : a.toInt.natAbs = 2 ^ 63 := by rwa [hb1, Nat.div_one] at hab
  have hb : b.toInt = -1 := (Int.natAbs_eq b.toInt).elim (fun hb => by
    rw [hb, hb1] at h
    simp at h
    omega) fun hb => by rw [hb, hb1]; rfl
  exact ⟨BitVec.eq_of_toInt_eq (by rw [BitVec.toInt_intMin]; omega), BitVec.eq_of_toInt_eq hb⟩

/-- DIV and REM of signed numbers: besides a zero divisor, the least number by −1 sets V. -/
theorem divide_i64 (a b : Word) : divide .i64 a b =
    (if b = 0 then BitVec.allOnes 64 else BitVec.ofInt 64 (a.toInt.tdiv b.toInt), BitVec.ofInt 64 (a.toInt.tmod b.toInt),
      decide (b = 0 ∨ a.toInt.tdiv b.toInt = 2 ^ 63)) := by
  by_cases hb : b = 0
  · simp [divide, hb]
  · by_cases ho : a = BitVec.intMin 64 ∧ b = BitVec.allOnes 64
    · obtain ⟨rfl, rfl⟩ := ho
      decide
    · have hv := mt (tdiv_eq_two_pow_iff a b).1 ho
      simp only [divide, if_neg hb, if_neg ho]
      rw [decide_eq_false (not_or.2 ⟨hb, hv⟩)]

theorem asType_min (t : IntTy) (a b : Word) :
    asType t (if asType t b < asType t a then b else a) = min (asType t a) (asType t b) := by
  rw [apply_ite (asType t)]
  split
  · next h => exact (min_eq_right h.le).symm
  · next h => exact (min_eq_left (not_lt.1 h)).symm

theorem asType_max (t : IntTy) (a b : Word) :
    asType t (if asType t a < asType t b then b else a) = max (asType t a) (asType t b) := by
  rw [apply_ite (asType t)]
  split
  · next h => exact (max_eq_right h.le).symm
  · next h => exact (max_eq_left (not_lt.1 h)).symm

theorem eq_of_asType_i64 {v : Word} {x : Int} (h : asType .i64 v = x) : v = BitVec.ofInt 64 x := by
  rw [← h]
  exact BitVec.ofInt_toInt.symm

theorem eq_of_asType_n64 {v : Word} {x : Nat} (h : asType .n64 v = x) : v = BitVec.ofNat 64 x := by
  rw [← Int.ofNat.inj h]
  simp

/-! ### Shifts and rotations (R120) -/

theorem shiftLeft_eq_ofNat (a : Word) (n : Nat) : a <<< n = BitVec.ofNat 64 (a.toNat * 2 ^ n) := by
  apply BitVec.eq_of_toNat_eq
  rw [BitVec.toNat_shiftLeft, Nat.shiftLeft_eq, BitVec.toNat_ofNat]

theorem ushiftRight_eq_ofNat (a : Word) (n : Nat) : a >>> n = BitVec.ofNat 64 (a.toNat / 2 ^ n) := by
  apply BitVec.eq_of_toNat_eq
  rw [BitVec.toNat_ushiftRight, Nat.shiftRight_eq_div_pow, BitVec.toNat_ofNat,
    Nat.mod_eq_of_lt (Nat.lt_of_le_of_lt (Nat.div_le_self _ _) a.isLt)]

theorem sshiftRight_eq_ofInt (a : Word) (n : Nat) : a.sshiftRight n = BitVec.ofInt 64 (a.toInt / 2 ^ n) := by
  rw [BitVec.sshiftRight_eq, Int.shiftRight_eq_div_pow]
  rfl

theorem rotateLeft_eq_or (a : Word) {n : Nat} (h : n < 64) : a.rotateLeft n = a <<< n ||| a >>> (64 - n) := by
  rw [BitVec.rotateLeft_eq_rotateLeftAux_of_lt h]
  rfl

/-! ### Counts (R121) -/

/-- The zeros below the lowest set bit of k bits from bit i up. -/
theorem trailingZeros_eq (v : Word) (n i : Nat) : trailingZeros n (v.toNat / 2 ^ i) =
    ((List.range' i n).takeWhile fun k => !v.getLsbD k).length := by
  induction n generalizing i with
  | zero => rfl
  | succ n ih =>
    have hbit : v.getLsbD i = decide (v.toNat / 2 ^ i % 2 = 1) := by
      rw [BitVec.getLsbD, Nat.testBit_eq_decide_div_mod_eq]
    rw [trailingZeros, List.range'_succ, List.takeWhile_cons, hbit, Nat.div_div_eq_div_mul, ← Nat.pow_succ, ih]
    by_cases h : v.toNat / 2 ^ i % 2 = 1 <;> simp [h, Nat.add_comm]

/-- The set bits of n bits from bit i up. -/
theorem setBits_eq (v : Word) (n i : Nat) : setBits n (v.toNat / 2 ^ i) =
    ((List.range' i n).filter fun k => v.getLsbD k).length := by
  induction n generalizing i with
  | zero => rfl
  | succ n ih =>
    have hbit : v.getLsbD i = decide (v.toNat / 2 ^ i % 2 = 1) := by
      rw [BitVec.getLsbD, Nat.testBit_eq_decide_div_mod_eq]
    rw [setBits, List.range'_succ, List.filter_cons, hbit, Nat.div_div_eq_div_mul, ← Nat.pow_succ, ih]
    by_cases h : v.toNat / 2 ^ i % 2 = 1 <;> simp [h, Nat.add_comm]
    omega

theorem trailingZeros_word (v : Word) : trailingZeros 64 v.toNat =
    ((List.range 64).takeWhile fun k => !v.getLsbD k).length := by
  simpa [List.range_eq_range'] using trailingZeros_eq v 64 0

theorem setBits_word (v : Word) : setBits 64 v.toNat = ((List.range 64).filter fun k => v.getLsbD k).length := by
  simpa [List.range_eq_range'] using setBits_eq v 64 0

/-- The least k at which a predicate fails ends the numbers that hold it from 0. -/
theorem length_takeWhile_range {p : Nat → Bool} {n k : Nat} (hk : k ≤ n) (hp : ∀ i, i < k → p i = true)
    (hf : k < n → p k = false) : ((List.range n).takeWhile p).length = k := by
  obtain ⟨m, rfl⟩ := Nat.exists_eq_add_of_le hk
  rw [List.range_add, List.takeWhile_append_of_pos fun i hi => hp i (List.mem_range.1 hi)]
  cases m with
  | zero => simp
  | succ m =>
    have h0 : ¬ p (k + 0) = true := Bool.eq_false_iff.1 (hf (by omega))
    rw [List.range_succ_eq_map, List.map_cons, List.takeWhile_cons_of_neg h0]
    simp

/-- The highest set bit of a word that is not zero ends the zeros counted from bit 63 down. -/
theorem leadingZeros_eq (v : Word) :
    leadingZeros v = ((List.range 64).takeWhile fun k => !v.getLsbD (63 - k)).length := by
  symm
  by_cases h : v = 0
  · rw [leadingZeros, if_pos h, h]
    exact length_takeWhile_range (by omega) (by simp) (by simp)
  · rw [leadingZeros, if_neg h]
    have h0 : v.toNat ≠ 0 := fun e => h (BitVec.eq_of_toNat_eq e)
    have hlt : v.toNat.log2 < 64 := (Nat.log2_lt h0).2 v.isLt
    refine length_takeWhile_range (by omega) (fun i hi => ?_) fun _ => ?_
    · have : v.toNat < 2 ^ (63 - i) := (Nat.log2_lt h0).1 (by omega)
      rw [BitVec.getLsbD, Nat.testBit_lt_two_pow this]
      rfl
    · rw [BitVec.getLsbD, show 63 - (63 - v.toNat.log2) = v.toNat.log2 by omega, Nat.testBit_log2 h0]
      rfl

/-! ### Fields (R122) -/

theorem toNat_lowMask {n : Nat} (h : n ≤ 64) : (lowMask n).toNat = 2 ^ n - 1 := by
  have : 2 ^ n ≤ 2 ^ 64 := Nat.pow_le_pow_right (by omega) h
  rw [lowMask, BitVec.toNat_ofNat, Nat.mod_eq_of_lt (by have := Nat.two_pow_pos n; omega)]

theorem extractField_eq (a : Word) (p : Nat) {n : Nat} (h : n ≤ 64) :
    (a >>> p) &&& lowMask n = BitVec.ofNat 64 (a.toNat / 2 ^ p % 2 ^ n) := by
  apply BitVec.eq_of_toNat_eq
  have hlt : a.toNat / 2 ^ p % 2 ^ n < 2 ^ 64 :=
    Nat.lt_of_le_of_lt (Nat.mod_le _ _) (Nat.lt_of_le_of_lt (Nat.div_le_self _ _) a.isLt)
  rw [BitVec.toNat_and, toNat_lowMask h, BitVec.toNat_ushiftRight, Nat.shiftRight_eq_div_pow, Nat.and_two_pow_sub_one_eq_mod,
    BitVec.toNat_ofNat, Nat.mod_eq_of_lt hlt]

theorem getLsbD_lowMask {n : Nat} (h : n ≤ 64) (i : Nat) : (lowMask n).getLsbD i = decide (i < n) := by
  rw [BitVec.getLsbD, toNat_lowMask h, Nat.testBit_two_pow_sub_one]

/-- A number whose n bits from bit p up are replaced by those of f, as the number above them, f, and the number below. -/
theorem replaceField_eq (x f p n : Nat) : x - x / 2 ^ p % 2 ^ n * 2 ^ p + f * 2 ^ p =
    2 ^ p * (2 ^ n * (x / 2 ^ p / 2 ^ n) + f) + x % 2 ^ p := by
  have hx : x = 2 ^ p * (2 ^ n * (x / 2 ^ p / 2 ^ n)) + 2 ^ p * (x / 2 ^ p % 2 ^ n) + x % 2 ^ p := by
    rw [← Nat.mul_add, Nat.div_add_mod, Nat.div_add_mod]
  rw [Nat.mul_add, Nat.mul_comm f, Nat.mul_comm (x / 2 ^ p % 2 ^ n)]
  omega

/-- BFI's bits: below and above the field those of the old word, in it the lowest of the other (R122). -/
theorem insertField_eq (old a : Word) (p : Nat) {n : Nat} (h : p + n ≤ 64) :
    (old &&& ~~~(lowMask n <<< p)) ||| ((a <<< p) &&& (lowMask n <<< p)) =
      BitVec.ofNat 64 (old.toNat - old.toNat / 2 ^ p % 2 ^ n * 2 ^ p + a.toNat % 2 ^ n * 2 ^ p) := by
  rw [replaceField_eq]
  apply BitVec.eq_of_getLsbD_eq
  intro i hi
  have hf : a.toNat % 2 ^ n < 2 ^ n := Nat.mod_lt _ (Nat.two_pow_pos n)
  have hl : old.toNat % 2 ^ p < 2 ^ p := Nat.mod_lt _ (Nat.two_pow_pos p)
  simp only [BitVec.getLsbD_or, BitVec.getLsbD_and, BitVec.getLsbD_not, BitVec.getLsbD_shiftLeft,
    getLsbD_lowMask (show n ≤ 64 by omega), BitVec.getLsbD_ofNat, Nat.testBit_two_pow_mul_add _ hl,
    Nat.testBit_two_pow_mul_add _ hf, hi, decide_true, Bool.true_and]
  by_cases hp : i < p
  · simp [hp, BitVec.getLsbD]
  · by_cases hn : i - p < n
    · simp [hp, hn, BitVec.getLsbD]
    · have hsum : i - p - n + n + p = i := by omega
      simp [hp, hn, BitVec.getLsbD, Nat.testBit_div_two_pow, hsum]

/-! ### Extension (R125) -/

theorem signExtend_low {w : Nat} (v : Word) : (v.extractLsb' 0 w).signExtend 64 = BitVec.ofInt 64 (BitVec.ofNat w v.toNat).toInt := by
  have hlow : v.extractLsb' 0 w = BitVec.ofNat w v.toNat := BitVec.eq_of_toNat_eq (by simp)
  rw [hlow]
  rfl

theorem zeroExtend_low {w : Nat} (v : Word) :
    (v.extractLsb' 0 w).setWidth 64 = BitVec.ofNat 64 (v.toNat % 2 ^ w) := by
  apply BitVec.eq_of_toNat_eq
  simp

end Sys2Proof.Machine
end

section
/-! PROOF. The scalar instructions complete with the values and flags of their rules (R113, R114, R116, R118 to R126). -/

namespace Sys2Proof.Machine

/-! ### The three shapes of a scalar instruction: a register, flags, or both -/

theorem State.done_eq (s : State) (d : GReg) (v : Word) :
    s.done d v = .next (s.setWs (s.ws.setReg (s.ws.ctl.phys d) v)).advance := rfl

theorem State.doneFl_eq (s : State) (d : GReg) (v : Word) (f : Ctl → Ctl) :
    s.doneFl d v f = .next (s.setWs { s.ws.setReg (s.ws.ctl.phys d) v with ctl := f s.ws.ctl }).advance := by
  rw [State.doneFl, State.modCtl_eq, State.setG_ctl, State.setG_eq, State.ws_setWs, State.setWs_setWs]

section
variable {r : Result} {s : State} {d : GReg} {v v' : Word}

theorem completes_done (hr : r = s.done d v) (hv : v = v') :
    Completes r (s.setWs (s.ws.setReg (s.ws.ctl.phys d) v')) :=
  completes_advance (by rw [hr, hv, State.done_eq])

theorem completes_doneFl {f : Ctl → Ctl} {c : Ctl} (hr : r = s.doneFl d v f) (hv : v = v') (hf : f s.ws.ctl = c) :
    Completes r (s.setWs { s.ws.setReg (s.ws.ctl.phys d) v' with ctl := c }) :=
  completes_advance (by rw [hr, hv, State.doneFl_eq, hf])

theorem completes_flags {f : Ctl → Ctl} {c : Ctl} (hr : r = .next (s.modCtl f).advance) (hf : f s.ws.ctl = c) :
    Completes r (s.setWs { s.ws with ctl := c }) :=
  completes_advance (by rw [hr, ← hf, State.modCtl_eq])

end

/-! ### Every scalar instruction -/

/-- BFX within bit 63 (R122). -/
theorem bfx_completes (s : State) {pos wm1 : BitVec 6} (d a : GReg) (h : pos.toNat + wm1.toNat + 1 ≤ 64) :
    Completes (exec (.bfx pos d a wm1) s) (s.setWs (s.ws.setReg (s.ws.ctl.phys d)
      (BitVec.ofNat 64 ((s.g a).toNat / 2 ^ pos.toNat % 2 ^ (wm1.toNat + 1))))) := by
  have hexec : exec (.bfx pos d a wm1) s = s.done d ((s.g a >>> pos.toNat) &&& lowMask (wm1.toNat + 1)) := by
    show execBfx pos d a wm1 s = _
    rw [execBfx, show fieldOk pos wm1 = true from decide_eq_true h, demand_true, Eff.bind_ok, State.finish_ok, State.done]
  exact completes_done hexec (extractField_eq _ _ (by omega))

/-- BFI within bit 63 (R122). -/
theorem bfi_completes (s : State) {pos wm1 : BitVec 6} (d a : GReg) (h : pos.toNat + (wm1.toNat + 1) ≤ 64) :
    Completes (exec (.bfi pos d a wm1) s) (s.setWs (s.ws.setReg (s.ws.ctl.phys d)
      (BitVec.ofNat 64 ((s.g d).toNat - (s.g d).toNat / 2 ^ pos.toNat % 2 ^ (wm1.toNat + 1) * 2 ^ pos.toNat +
        (s.g a).toNat % 2 ^ (wm1.toNat + 1) * 2 ^ pos.toNat)))) := by
  have hexec : exec (.bfi pos d a wm1) s = s.done d ((s.g d &&& ~~~(lowMask (wm1.toNat + 1) <<< pos.toNat)) |||
      ((s.g a <<< pos.toNat) &&& (lowMask (wm1.toNat + 1) <<< pos.toNat))) := by
    show execBfi pos d a wm1 s = _
    rw [execBfi, show fieldOk pos wm1 = true from decide_eq_true h, demand_true, Eff.bind_ok, State.finish_ok, State.done]
  exact completes_done hexec (insertField_eq _ _ _ h)

theorem scalarWs_completes {s : State} {i : Instr} {w : Workspace} (h : scalarWs s i = some w) :
    Completes (exec i s) (s.setWs w) := by
  cases i with
  | add d a b =>
    cases h
    exact completes_doneFl rfl (ofNat_toNat_add _ _).symm (by rw [ofNat_toNat_add, Ctl.addFl_eq])
  | sub d a b =>
    cases h
    exact completes_doneFl rfl (ofInt_toInt_sub _ _).symm (by rw [ofInt_toInt_sub, Ctl.subFl_eq])
  | cmp a b =>
    cases h
    exact completes_flags rfl (by rw [ofInt_toInt_sub, Ctl.subFl_eq])
  | cmpImm d imm =>
    cases h
    exact completes_flags rfl (by rw [ofInt_toInt_sub, Ctl.subFl_eq])
  | tst a b =>
    cases h
    exact completes_flags rfl (Ctl.tstFl_eq _ _ _)
  | mul d a b =>
    cases h
    exact completes_done rfl (mul_eq_ofNat _ _)
  | mulh ty d a b =>
    cases ty with
    | i64 =>
      cases h
      exact completes_done rfl rfl
    | n64 =>
      cases h
      exact completes_done rfl (highHalf_natCast _)
  | div ty d a b =>
    cases ty with
    | i64 =>
      cases h
      exact completes_doneFl rfl (by rw [divide_i64]) (by rw [divide_i64])
    | n64 =>
      cases h
      exact completes_doneFl rfl (by rw [divide_n64]) (by rw [divide_n64])
  | rem ty d a b =>
    cases ty with
    | i64 =>
      cases h
      exact completes_doneFl rfl (by rw [divide_i64]) (by rw [divide_i64])
    | n64 =>
      cases h
      exact completes_doneFl rfl (by rw [divide_n64]) (by rw [divide_n64])
  | min ty d a b =>
    cases ty with
    | i64 =>
      cases h
      exact completes_done rfl (eq_of_asType_i64 (asType_min _ _ _))
    | n64 =>
      cases h
      exact completes_done rfl (eq_of_asType_n64 ((asType_min _ _ _).trans (Nat.cast_min _ _).symm))
  | max ty d a b =>
    cases ty with
    | i64 =>
      cases h
      exact completes_done rfl (eq_of_asType_i64 (asType_max _ _ _))
    | n64 =>
      cases h
      exact completes_done rfl (eq_of_asType_n64 ((asType_max _ _ _).trans (Nat.cast_max _ _).symm))
  | ldi d imm | and d a b | or d a b | xor d a b | andn d a b | sel k d a b =>
    cases h
    exact completes_done rfl rfl
  | shl d a b | shlImm n d a =>
    cases h
    exact completes_done rfl (shiftLeft_eq_ofNat _ _)
  | shr d a b | shrImm n d a =>
    cases h
    exact completes_done rfl (ushiftRight_eq_ofNat _ _)
  | sar d a b | sarImm n d a =>
    cases h
    exact completes_done rfl (sshiftRight_eq_ofInt _ _)
  | rol d a b =>
    cases h
    exact completes_done rfl (rotateLeft_eq_or _ (Nat.mod_lt _ (by decide)))
  | rolImm n d a =>
    cases h
    exact completes_done rfl (rotateLeft_eq_or _ n.isLt)
  | mov d r =>
    cases r with
    | g r | mb r =>
      cases h
      exact completes_done rfl rfl
    | q q => cases h
  | movDestSelect d a =>
    cases d with
    | g d =>
      cases h
      exact completes_done rfl rfl
    | mb d =>
      cases h
      exact completes_advance rfl
    | q q => cases h
  | clz d a =>
    cases h
    exact completes_done rfl (congrArg _ (leadingZeros_eq _))
  | ctz d a =>
    cases h
    exact completes_done rfl (congrArg _ (trailingZeros_word _))
  | popc d a =>
    cases h
    exact completes_done rfl (congrArg _ (setBits_word _))
  | bfx pos d a wm1 =>
    obtain ⟨hp, hw⟩ := Option.ite_none_right_eq_some.1 h
    exact Option.some.inj hw ▸ bfx_completes s d a hp
  | bfi pos d a wm1 =>
    obtain ⟨hp, hw⟩ := Option.ite_none_right_eq_some.1 h
    exact Option.some.inj hw ▸ bfi_completes s d a hp
  | lea d a disp =>
    cases h
    exact completes_done rfl (ofNat_toNat_add _ _).symm
  | ext ty d a =>
    cases ty with
    | i8 | i16 | i32 =>
      cases h
      exact completes_done rfl (signExtend_low _)
    | n8 | n16 | n32 =>
      cases h
      exact completes_done rfl (zeroExtend_low _)
  | blkend | hintNop m b =>
    cases h
    exact completes_advance (by rw [State.setWs_ws]; rfl)
  | _ => cases h

/-- R20: a register field that names g0 reads as zero, whatever is written there. -/
theorem State.g_of_phys_zero {s : State} {r : GReg} (h : s.ws.ctl.phys r = 0) : s.g r = 0 := by
  rw [State.g, Workspace.reg, h]
  rfl

/-- Settles O7: each instruction by its result and flags, and g0 by what a read of it gives. -/
theorem scalarResults : Obligations.ScalarResults :=
  ⟨fun _ _ _ h => scalarWs_completes h,
    fun s r v h => ⟨State.g_of_phys_zero h, State.g_of_phys_zero ((congrArg (Ctl.phys · r) (s.setG_ctl r v)).trans h)⟩⟩

end Sys2Proof.Machine
end

section
/-! PROOF. MOV from and to the queues (R114, R115): what a change of one queue leaves of each, and the four outcomes. -/

namespace Sys2Proof.Machine

/-! ### Reading a queue -/

@[simp] theorem State.queue_setWs (s : State) (w : Workspace) (q : QReg) : (s.setWs w).queue q = s.queue q := by
  simp [State.queue, State.setWs_eq]

theorem State.queue_modWs (s : State) (f : Workspace → Workspace) (q : QReg) : (s.modWs f).queue q = s.queue q :=
  s.queue_setWs _ q

/-- An instruction that has completed leaves every queue as its effect did (R44). -/
theorem State.Past.queue {u t : State} (h : u.Past t) (q : QReg) : t.queue q = u.queue q := by
  obtain ⟨hws, -⟩ := h
  rw [hws, State.queue_modWs]

theorem State.queue_setQueue (s : State) (q r : QReg) (l : List Word) :
    (s.setQueue q l).queue r = if r = q then l else s.queue r := by
  have hq := q.isLt
  have hr := r.isLt
  have heq : r = q ↔ r.toNat = q.toNat := BitVec.toNat_inj.symm
  unfold State.setQueue
  by_cases hlow : q.toNat < 4
  · by_cases hrlow : r.toNat < 4
    · simp [State.queue, hlow, hrlow, State.modTask_eq, vget_vset, heq]
    · have hne : ¬ r = q := fun e => hrlow (e ▸ hlow)
      simp [State.queue, hlow, hrlow, State.modTask_eq, hne]
  · by_cases hrlow : r.toNat < 4
    · have hne : ¬ r = q := fun e => hlow (e ▸ hrlow)
      simp [State.queue, hlow, hrlow, hne, State.task]
    · have hplace : r.toNat - 4 = q.toNat - 4 ∧ q.toNat - 4 < 4 ↔ r.toNat = q.toNat := by omega
      simp [State.queue, hlow, hrlow, vget_vset, heq, hplace]

/-- A completed instruction whose effect puts l into queue q: it holds l, and every other queue is as before. -/
theorem State.Past.queues {s u t : State} {q : QReg} {l : List Word} (h : u.Past t)
    (hu : ∀ r, u.queue r = (s.setQueue q l).queue r) : t.queue q = l ∧ ∀ r, r ≠ q → t.queue r = s.queue r :=
  ⟨by rw [h.queue, hu, State.queue_setQueue, if_pos rfl],
    fun r hr => by rw [h.queue, hu, State.queue_setQueue, if_neg hr]⟩

/-! ### MOV -/

section
variable {s : State} (d a : GReg) {q : QReg}

theorem exec_mov_pop {v : Word} {rest : List Word} (h : s.queue q = v :: rest) :
    exec (.mov d (.q q)) s = .next ((s.setQueue q rest).setG d v).advance := by
  show execMov d (.q q) s = _
  simp only [execMov, State.readMov, h]
  rfl

theorem exec_mov_empty (h : s.queue q = []) : exec (.mov d (.q q)) s = .next (s.park (.queueEmpty q)) := by
  show execMov d (.q q) s = _
  simp only [execMov, State.readMov, h]
  rfl

theorem exec_mov_append (hq : 4 ≤ q.toNat) (h : (s.queue q).length < 8) :
    exec (.movDestSelect (.q q) a) s = .next (s.setQueue q (s.queue q ++ [s.g a])).advance := by
  show execMovDestSelect (.q q) a s = _
  simp [execMovDestSelect, movDestOk, State.writeMov, hq, h]

theorem exec_mov_full (hq : 4 ≤ q.toNat) (h : 8 ≤ (s.queue q).length) :
    exec (.movDestSelect (.q q) a) s = .next (s.park (.queueFull q)) := by
  show execMovDestSelect (.q q) a s = _
  simp [execMovDestSelect, movDestOk, State.writeMov, hq, Nat.not_lt.2 h]

theorem exec_mov_readOnly (hq : q.toNat < 4) : exec (.movDestSelect (.q q) a) s = .next (s.takeTrap .illop 0) := by
  show execMovDestSelect (.q q) a s = _
  simp [execMovDestSelect, movDestOk, Nat.not_le.2 hq]

end

/-- Settles O8: each MOV by its outcome, and the queues by what completing leaves of them. -/
theorem queueMoves : Obligations.QueueMoves := by
  intro s d a q
  refine ⟨fun v rest h => ?_, exec_mov_empty d, fun hq hlen => ?_, exec_mov_full a, exec_mov_readOnly a⟩
  · have hpast := State.past_advance ((s.setQueue q rest).setG d v)
    exact ⟨_, exec_mov_pop d h, hpast, hpast.queues fun r => State.queue_modWs _ _ r⟩
  · have hpast := State.past_advance (s.setQueue q (s.queue q ++ [s.g a]))
    exact ⟨_, exec_mov_append a hq hlen, hpast, hpast.queues fun _ => rfl⟩

end Sys2Proof.Machine
end

section
/-! PROOF. Control transfer and the forms that trap (R59, R72, R122, R127 to R130): branches, calls, LOOP and REP outside a REP
body, BLKEND inside one, and what each refuses. -/

namespace Sys2Proof.Machine

/-! ### Inside and outside a REP body (R130) -/

section
variable {s : State}

theorem State.noRep_inside (h : s.ws.ctl.repA = true) : s.noRep = .error (.trap .illop 0) := by
  rw [State.noRep, h]
  rfl

theorem State.noRep_outside (h : s.ws.ctl.repA = false) : s.noRep = .ok () := by
  rw [State.noRep, h]
  rfl

theorem State.settle_noRep_inside (h : s.ws.ctl.repA = true) (f : Unit → Eff State) :
    s.settle (s.noRep >>= f) = .next (s.takeTrap .illop 0) := by
  rw [State.noRep_inside h]
  rfl

theorem State.finish_noRep_inside (h : s.ws.ctl.repA = true) (f : Unit → Eff State) :
    s.finish (s.noRep >>= f) = .next (s.takeTrap .illop 0) := by
  rw [State.noRep_inside h]
  rfl

theorem State.settle_noRep_outside (h : s.ws.ctl.repA = false) (f : Unit → Eff State) :
    s.settle (s.noRep >>= f) = s.settle (f ()) := by
  rw [State.noRep_outside h]
  rfl

theorem State.finish_noRep_outside (h : s.ws.ctl.repA = false) (f : Unit → Eff State) :
    s.finish (s.noRep >>= f) = s.finish (f ()) := by
  rw [State.noRep_outside h]
  rfl

theorem exec_exit_inside (h : s.ws.ctl.repA = true) : exec .exit s = .next (s.takeTrap .illop 0) := by
  show execExit s = _
  rw [execExit, State.noRep_inside h]
  rfl

theorem exec_rft_inside (h : s.ws.ctl.repA = true) : exec .rft s = .next (s.takeTrap .illop 0) := by
  show execRft s = _
  rw [execRft, State.noRep_inside h]
  rfl

theorem exec_compose_inside (h : s.ws.ctl.repA = true) (n : Byte) :
    exec (.compose n) s = .next (s.takeTrap .illop 0) := by
  show execCompose n s = _
  rw [execCompose, State.noRep_inside h]
  rfl

end

/-! ### Refused forms -/

/-- A field that reaches beyond bit 63 (R122). -/
theorem fieldOk_beyond {pos wm1 : BitVec 6} (h : 64 < pos.toNat + wm1.toNat + 1) : fieldOk pos wm1 = false :=
  decide_eq_false (Nat.not_le.2 h)

theorem exec_bfx_beyond (s : State) {pos wm1 : BitVec 6} (d a : GReg) (h : 64 < pos.toNat + wm1.toNat + 1) :
    exec (.bfx pos d a wm1) s = .next (s.takeTrap .illop 0) := by
  show execBfx pos d a wm1 s = _
  rw [execBfx, fieldOk_beyond h]
  rfl

theorem exec_bfi_beyond (s : State) {pos wm1 : BitVec 6} (d a : GReg) (h : 64 < pos.toNat + wm1.toNat + 1) :
    exec (.bfi pos d a wm1) s = .next (s.takeTrap .illop 0) := by
  show execBfi pos d a wm1 s = _
  rw [execBfi, fieldOk_beyond h]
  rfl

theorem exec_unassigned (s : State) : exec .unassignedEncoding s = .next (s.takeTrap .illop 0) := rfl

section
variable {s : State} (hrep : s.ws.ctl.repA = false)
include hrep

/-! ### RET and JMPR (R72, R127) -/

theorem exec_ret_odd (h : (s.ws.raw 15).getLsbD 0 = true) : exec .ret s = .next (s.takeTrap .align (s.ws.raw 15)) := by
  refine (State.settle_noRep_outside hrep _).trans ?_
  rw [show s.ws.reg linkReg = s.ws.raw 15 from rfl, h]
  rfl

theorem exec_ret_even (h : (s.ws.raw 15).getLsbD 0 = false) :
    exec .ret s = .next (s.setWs { s.ws with pc := s.ws.raw 15 }) := by
  refine (State.settle_noRep_outside hrep _).trans ?_
  rw [show s.ws.reg linkReg = s.ws.raw 15 from rfl, h]
  rfl

theorem exec_jmpr_odd (d : GReg) {a : GReg} (h : (s.g a).getLsbD 0 = true) :
    exec (.jmpr d a) s = .next (s.takeTrap .align (s.g a)) := by
  refine (State.settle_noRep_outside hrep _).trans ?_
  rw [h]
  rfl

theorem exec_jmpr_even (d : GReg) {a : GReg} (h : (s.g a).getLsbD 0 = false) : exec (.jmpr d a) s = .next (s.setWs
    { (if d = 0 then s.ws else s.ws.setReg (s.ws.ctl.phys d) s.nextPc) with pc := s.g a }) := by
  refine (State.settle_noRep_outside hrep _).trans ?_
  rw [h, Bool.not_false, demandOr_true, Eff.bind_ok, State.settle_ok]
  split
  · rfl
  · rw [State.jump_eq, State.setG_eq, State.ws_setWs, State.setWs_setWs]

/-! ### BR, BRC and CALL (R127) -/

theorem exec_br_outside (off : Word) : exec (.br off) s = .next (s.setWs { s.ws with pc := s.ws.pc + 2 * off }) :=
  State.settle_noRep_outside hrep _

theorem exec_brc_outside (c : Cond) (off : Word) : exec (.brc c off) s = .next (s.setWs { s.ws with
    pc := if Cond.holds c s.ws.ctl then s.ws.pc + 2 * off else s.nextPc }) :=
  State.settle_noRep_outside hrep _

theorem exec_call_outside (off : Word) :
    exec (.call off) s = .next (s.setWs { s.ws.setReg 15 s.nextPc with pc := s.ws.pc + 2 * off }) := by
  refine (State.settle_noRep_outside hrep _).trans ?_
  rw [State.settle_ok, State.jump_eq, State.modWs_eq, State.ws_setWs, State.setWs_setWs]
  rfl

/-! ### LOOP and REP (R128, R129) -/

theorem exec_loop_zero (off : Word) : exec (.loop 0 off) s = .next (s.takeTrap .illop 0) :=
  State.settle_noRep_outside hrep _

theorem exec_loop_outside {d : GReg} (off : Word) (hd : d ≠ 0) : exec (.loop d off) s = .next (s.setWs
    { s.ws.setReg (s.ws.ctl.phys d) (s.ws.raw (s.ws.ctl.phys d) - 1) with
      ctl := { s.ws.ctl with rrb := if s.ws.ctl.rot then s.ws.ctl.rrb - 1 else s.ws.ctl.rrb }
      pc := if s.ws.raw (s.ws.ctl.phys d) = 1 then s.nextPc else s.ws.pc + 2 * off }) := by
  refine (State.settle_noRep_outside hrep _).trans ?_
  have hlast : s.ws.raw (s.ws.ctl.phys d) - 1 = 0 ↔ s.ws.raw (s.ws.ctl.phys d) = 1 := sub_eq_zero
  have hrot : (if s.ws.ctl.rot then { s.ws.ctl with rrb := s.ws.ctl.rrb - 1 } else s.ws.ctl) =
      { s.ws.ctl with rrb := if s.ws.ctl.rot then s.ws.ctl.rrb - 1 else s.ws.ctl.rrb } := by
    split <;> rfl
  rw [show (d != 0#5) = true from bne_iff_ne.2 hd, demand_true, Eff.bind_ok, State.settle_ok, State.jump_eq,
    State.modWs_eq, State.ws_setWs, State.setWs_setWs]
  simp only [hlast, ← hrot]
  rfl

theorem exec_rep_outside (st : BitVec 3) (a : GReg) (len : BitVec 6) : exec (.rep st a len) s = .next (s.setWs (
    if s.g a = 0 then { s.ws with pc := s.nextPc + BitVec.ofNat 64 (2 * (len.toNat + 1)) }
    else { s.ws with
      pc := s.nextPc
      ctl := { s.ws.ctl with
        repA := true, repRem := BitVec.ofNat 24 (min (s.g a).toNat 16777215), repI := 0, repLen := len, repOff := 0,
        repSt := st } })) := by
  refine (State.settle_noRep_outside hrep _).trans ?_
  have hnone : min (s.g a).toNat (2 ^ 24 - 1) = 0 ↔ s.g a = 0 := by
    have hzero : (s.g a).toNat = 0 ↔ s.g a = 0 := BitVec.toNat_inj (y := 0)
    rw [← hzero]
    omega
  simp only [hnone]
  split
  · rfl
  · rw [State.settle_ok, State.jump_eq, State.modCtl_eq, State.ws_setWs, State.setWs_setWs]
    rfl

end

/-- Settles O9: fields beyond bit 63, odd targets, and each instruction that a REP body may not hold. -/
theorem refusedForms : Obligations.RefusedForms := by
  refine ⟨fun s => ⟨fun pos wm1 d a h => ⟨exec_bfx_beyond s d a h, exec_bfi_beyond s d a h⟩, exec_unassigned s⟩,
    fun s hrep => ⟨exec_ret_odd hrep, fun d a h => exec_jmpr_odd hrep d h⟩, fun s i h hi => ?_⟩
  cases i with
  | br off | brc c off | call off | ret | jmpr d a | loop d off | rep st a len | exits a =>
    exact State.settle_noRep_inside h _
  | trap n | svc n | yield | dcmp => exact State.finish_noRep_inside h _
  | rft => exact exec_rft_inside h
  | exit => exact exec_exit_inside h
  | compose n => exact exec_compose_inside h n
  | _ => exact hi.elim

/-- Settles O10: each transfer by the PC that it leaves outside a REP body. -/
theorem controlTransfers : Obligations.ControlTransfers := fun _ hrep =>
  ⟨exec_br_outside hrep, exec_brc_outside hrep, exec_call_outside hrep, exec_ret_even hrep,
    fun d _ h => exec_jmpr_even hrep d h, fun _ off hd => exec_loop_outside hrep off hd, exec_loop_zero hrep,
    exec_rep_outside hrep⟩

/-! ### BLKEND in a REP body (R74, R129) -/

/-- What completing leaves of a task's workspace (R44, R129). -/
theorem State.advance_eq (s : State) : s.advance = s.setWs { s.ws with
    pc := s.nextPc - (s.ws.ctl.afterBody s.ilen).2, ctl := (s.ws.ctl.afterBody s.ilen).1 } := rfl

/-- Settles O11: BLKEND completes and does no more, so each clause is a case of AfterBodyInstruction (R129). -/
theorem repProgress : Obligations.RepProgress := by
  intro s hrep c off
  have hstep : RepStep c s.ilen s.nextPc (c.afterBody s.ilen).1 (s.nextPc - (c.afterBody s.ilen).2) :=
    Ctl.afterBody_step c s.ilen s.nextPc
  obtain ⟨-, hbefore, hagain, hlast⟩ := hstep
  have hexec : exec .blkend s = .next s.advance := rfl
  rw [hexec, State.advance_eq]
  refine ⟨fun hlt => ?_, fun hend hrem => ?_, fun hend hrem => ?_⟩
  · obtain ⟨hctl, hpc⟩ := hbefore hrep hlt
    rw [hctl, hpc]
  · obtain ⟨hctl, hpc⟩ := hagain hrep hend hrem
    rw [hctl, hpc]
  · obtain ⟨hctl, hpc⟩ := hlast hrep hend hrem
    rw [hctl, hpc]

end Sys2Proof.Machine
end

section
/-! PROOF. The trap record of the issuing task (R135, R136, R358, R375): what taking a trap writes, and what becomes of it by
the handler. -/

namespace Sys2Proof.Machine

/-! ### Updates of the focus core -/

theorem State.modCore_hereCid (s : State) (f : Core → Core) : s.modCore s.hereCid f = { s with here := f s.here } := by
  rw [State.modCore, State.core_hereCid, State.setCore_here]

theorem Core.slot_fin (c : Core) (i : Fin 8) : c.slot i.val = c.slots[i] := dif_pos i.isLt

theorem Core.setSlot_fin (c : Core) (i : Fin 8) (t : Slot) : c.setSlot i.val t = { c with slots := c.slots.set i t } :=
  congrArg (fun v => { c with slots := v }) (dif_pos i.isLt)

/-- A change of a slot that has just been written is a change of what was written. -/
theorem Core.modSlot_set (c : Core) (v : Vector Slot 8) (i : Fin 8) (t : Slot) (f : Slot → Slot) :
    ({ c with slots := v.set i t } : Core).modSlot i.val f = { c with slots := v.set i (f t) } := by
  have hread : (v.set i t)[i] = t := Vector.getElem_set_self _
  have hset : (v.set i t).set i (f t) = v.set i (f t) := Vector.set_set _ _
  rw [Core.modSlot, Core.setSlot_fin, Core.slot_fin, hread, hset]

theorem State.slot_cur (s : State) : (s.core s.hereCid).slot s.here.cur.val = s.task := by
  rw [State.core_hereCid, Core.slot_fin]
  rfl

/-- A change of the issuing slot of the focus core is one of the issuing task. -/
theorem State.modSlot_cur (s : State) (f : Slot → Slot) : s.modSlot s.hereCid s.here.cur.val f = s.modTask f := by
  rw [State.modSlot, State.modCore_hereCid, Core.modSlot, Core.setSlot_fin, Core.slot_fin]
  rfl

/-- A trigger changes what is under way to the flag fall, or the count of dropped triggers (R377). -/
theorem State.trigger_eq (s : State) (n : Nat) :
    ∃ k l, s.trigger n = { s with trigDrops := k, fallAt := l } := by
  unfold State.trigger
  split
  · exact ⟨_, _, rfl⟩
  · split <;> exact ⟨_, _, rfl⟩

/-- An uncorrectable error in the focus core's LM takes it from service (R376). -/
theorem State.failLm_here (s : State) (o : Nat) :
    ∃ r k l, s.failLm (.lm s.hereCid o) = { s with here := { s.here with retired := r }, trigDrops := k, fallAt := l } := by
  unfold State.failLm
  dsimp only
  split
  · exact ⟨_, _, _, rfl⟩
  · rw [State.outOfService, State.modCore_hereCid]
    obtain ⟨k, l, h⟩ := State.trigger_eq { s with here := { s.here with retired := true } } 129
    exact ⟨_, _, _, h⟩

/-! ### The word of TRINFO is written whole (R375) -/

/-- A damaged unit lies in word r of the issuing task's workspace. -/
def State.inWord (s : State) (r : Nat) (d : Space × Nat × Nat) : Bool :=
  decide (d.1 = .lm ∧ d.2.1 = s.hereCid ∧ d.2.2 / 2 = 64 * s.here.cur.val + r)

theorem State.mendReg_cur (s : State) (h : s.task.lost = []) {r : Nat} (hr : r < 64) :
    s.mendReg s.hereCid s.here.cur.val r = { s with damaged := s.damaged.filter fun d => !s.inWord r d } := by
  have hcur := s.here.cur.isLt
  have hslot : 512 * s.here.cur.val + 8 * r < Config.slotBytes := by
    show _ < 0x1000
    omega
  have hword (d : Space × Nat × Nat) : (d.1 == Space.lm && (d.2.1 == s.hereCid || (d.1 == Space.mem && d.2.1 == dirtyLine)) &&
      decide (512 * s.here.cur.val + 8 * r ≤ d.2.2 * 4 ∧ (d.2.2 + 1) * 4 ≤ 512 * s.here.cur.val + 8 * r + 8)) =
      s.inWord r d := by
    obtain ⟨sp, inst, u⟩ := d
    have hu : (512 * s.here.cur.val + 8 * r ≤ u * 4 ∧ (u + 1) * 4 ≤ 512 * s.here.cur.val + 8 * r + 8) ↔
        u / 2 = 64 * s.here.cur.val + r := by omega
    simp only [State.inWord, hu]
    have hmem : (Space.lm == Space.mem) = false := by decide
    cases sp <;> simp [hmem, beq_eq_decide]
  unfold State.mendReg State.mend
  split
  · next hs =>
    have hnone : s.damaged = [] := List.isEmpty_iff.1 (Bool.and_eq_true _ _ ▸ hs).1
    rw [hnone]
    exact congrArg (fun l => { s with damaged := l }) hnone
  · have hfilter := List.filter_congr (l := s.damaged) fun d _ => congrArg Bool.not (hword d)
    have hlost (p : Nat → Bool) : ({ s.task with lost := s.task.lost.filter p } : Slot) = s.task := by
      rw [h]
      exact congrArg (fun l => { s.task with lost := l }) h.symm
    simp only [if_pos hslot, show (512 * s.here.cur.val + 8 * r) / 512 = s.here.cur.val by omega]
    rw [← hfilter]
    refine (State.modSlot_cur _ _).trans ?_
    exact (congrArg (State.setTask _) (hlost _)).trans (State.setTask_task _)

/-! ### The record (R135), of a task that is alone -/

/-- A task's COMPOSE is withdrawn: nothing of a cluster changes but its queue (R295). -/
theorem State.cluster_unask (s : State) (cid slot k : Nat) : (s.unask cid slot).cluster k =
    { s.cluster k with composeQ := ((s.unask cid slot).cluster k).composeQ } := by
  rw [State.unask, State.cluster_modCluster]
  split
  · next he => rw [he]
  · rfl

/-- The issuing task's trap record: the trapped task in its slot, its TRINFO whole, its COMPOSE withdrawn (R135, R295). -/
def State.recordTrap (s : State) (c : Cause) (info : Word) : State :=
  { (s.unask s.hereCid s.here.cur).setTask (({ s.task with recompose := false } : Slot).trapped c info s.ilen) with
    damaged := s.damaged.filter fun d => !s.inWord 47 d }

theorem Slot.zeroLost_of_none {t : Slot} (h : t.lost = []) : t.zeroLost = t := if_pos (by rw [h]; rfl)

/-- Hand-back of a task without lent cores withdraws its COMPOSE, and saves nothing (R295). -/
theorem State.handBack_single (s : State) {cid slot : Nat} (h : ((s.core cid).slot slot).members = []) (live : BitVec 16) :
    s.handBack cid slot live =
      (s.unask cid slot).modSlot cid slot fun t => { t.zeroLost with members := [], recompose := false } := by
  simp [State.handBack, Slot.lostMembers, State.unask, h]

/-- Taking a trap writes the record, and then looks for the handler unless firmware has the cause first (R135, R357). -/
theorem State.deliver_alone {s : State} (h : s.Alone) (c : Cause) (info : Word) :
    s.deliver s.hereCid s.here.cur c info s.ilen =
      if c.firmwareFirst then s.recordTrap c info else (s.recordTrap c info).raise s.hereCid s.here.cur := by
  obtain ⟨hmembers, hlost⟩ := h
  have hzero : ({ s.task.zeroLost with members := [], recompose := false } : Slot) = { s.task with recompose := false } := by
    rw [Slot.zeroLost_of_none hlost, ← hmembers]
  have hback : s.handBack s.hereCid s.here.cur.val 0xFFFF#16 =
      (s.unask s.hereCid s.here.cur).setTask { s.task with recompose := false } := by
    rw [State.handBack_single s (by rw [State.slot_cur, hmembers])]
    refine (State.modSlot_cur _ _).trans ?_
    exact congrArg (State.setTask _) hzero
  have hrecord : ((s.handBack s.hereCid s.here.cur.val 0xFFFF#16).modSlot s.hereCid s.here.cur.val
      fun t => t.trapped c info s.ilen).mendReg s.hereCid s.here.cur.val 47 = s.recordTrap c info := by
    rw [hback]
    refine (congrArg (State.mendReg · s.hereCid s.here.cur.val 47) (State.modSlot_cur _ _)).trans ?_
    rw [State.modTask_eq, State.task_setTask, State.setTask_setTask]
    refine (State.mendReg_cur _ ?_ (by decide)).trans rfl
    rw [State.task_setTask]
    exact hlost
  rw [State.deliver, hrecord]

section
variable (s : State) (c : Cause) (info : Word)

/-- The task as its trap leaves it, before the handler is looked for. -/
def State.trappedTask : Slot := ({ s.task with recompose := false } : Slot).trapped c info s.ilen

/-- The record changes nothing of a cluster but the queue of what its cores wait to compose (R295). -/
theorem State.cluster_recordTrap (k : Nat) : (s.recordTrap c info).cluster k =
    { s.cluster k with composeQ := ((s.recordTrap c info).cluster k).composeQ } :=
  s.cluster_unask s.hereCid s.here.cur k

theorem State.cxOf_recordTrap (cid : Nat) : (s.recordTrap c info).cxOf cid = s.cxOf cid := by
  rw [State.cxOf, State.cluster_recordTrap]
  rfl

theorem State.core_recordTrap : (s.recordTrap c info).core s.hereCid =
    { s.here with slots := s.here.slots.set s.here.cur (s.trappedTask c info) } :=
  State.core_hereCid (s.recordTrap c info)

theorem State.slot_recordTrap : ((s.recordTrap c info).core s.hereCid).slot s.here.cur = s.trappedTask c info := by
  rw [State.core_recordTrap, Core.slot_fin]
  exact Vector.getElem_set_self _

/-- A further change of the trapped task is one of its record. -/
theorem State.modTask_recordTrap (f : Slot → Slot) : (s.recordTrap c info).modTask f = { s.recordTrap c info with
    here := { s.here with slots := s.here.slots.set s.here.cur (f (s.trappedTask c info)) } } := by
  rw [← State.modSlot_cur]
  exact (State.modCore_hereCid (s.recordTrap c info) _).trans (congrArg (fun k => { s.recordTrap c info with here := k })
    (Core.modSlot_set s.here s.here.slots s.here.cur (s.trappedTask c info) f))

/-- The handler that takes the trap is found as before the record (R358). -/
theorem State.handlerOf_recordTrap :
    (s.recordTrap c info).handlerOf s.hereCid s.here.cur = s.handlerOf s.hereCid s.here.cur := by
  unfold State.handlerOf
  rw [State.cxOf_recordTrap, State.slot_recordTrap, State.core_recordTrap, State.slot_cur, State.core_hereCid]
  rfl

end

/-- The activation record of the handler (R358). -/
def State.activationOf (s : State) (h : Nat) (e : TTEntry) : RunRec :=
  { chan := BitVec.ofNat 8 h, prio := e.prio, since := s.now, kind := .handler s.here.cur.val }

/-! ### The record, and what follows it -/

section
variable {s : State} {c : Cause} (info : Word)

/-- Firmware takes the cause first: the record is all (R135, R357). -/
theorem State.awaitsFirmware_recordTrap (hc : c.firmwareFirst = true) :
    s.AwaitsFirmware (s.recordTrap c info) c info := by
  refine ⟨?_, s.cluster_recordTrap c info⟩
  rw [State.recordTrap, Slot.trapped, if_pos hc]
  rfl

/-- No handler takes the trap: the record is all (R135, R359). -/
theorem State.recorded_unhandled (hc : c.firmwareFirst = false) (hh : s.handlerOf s.hereCid s.here.cur = none) :
    s.Recorded ((s.recordTrap c info).raise s.hereCid s.here.cur) { s.task with fwFault := none, handlerDue := false } c
      info s.here := by
  have hraise : (s.recordTrap c info).raise s.hereCid s.here.cur =
      (s.recordTrap c info).modTask fun t => { t with handlerDue := false } := by
    rw [State.raise, State.handlerOf_recordTrap, hh]
    exact State.modSlot_cur (s.recordTrap c info) _
  rw [hraise, State.modTask_recordTrap]
  refine ⟨?_, s.cluster_recordTrap c info⟩
  rw [State.trappedTask, Slot.trapped, hc]
  rfl

/-- A handler that is ready gets its activation record (R135, R277, R358). -/
theorem State.trapped_handled (hc : c.firmwareFirst = false) {h : Nat} {e : TTEntry}
    (hh : s.HandlerReady s.hereCid s.here.cur.val h e) :
    s.Trapped ((s.recordTrap c info).raise s.hereCid s.here.cur) c info h e := by
  obtain ⟨hhandler, htt, hvalid, hbound, hlink, hroom⟩ := hh
  have hsame := s.core_hereCid
  rw [hsame] at htt hlink hroom
  have hof : s.handlerOf s.hereCid s.here.cur = some (h, e.prio) := by
    simp [State.handlerOf, hhandler, htt, hvalid, hbound, hlink]
  have hraise : (s.recordTrap c info).raise s.hereCid s.here.cur = { s.recordTrap c info with
      here := { s.here.enlist (s.activationOf h e) with
        slots := s.here.slots.set s.here.cur { s.trappedTask c info with handlerDue := false } } } := by
    rw [State.raise, State.handlerOf_recordTrap, hof]
    refine ((if_pos ?_).trans (State.modCore_hereCid (s.recordTrap c info) _)).trans ?_
    · rw [State.core_recordTrap]
      exact decide_eq_true hroom
    · exact congrArg (fun k => { s.recordTrap c info with here := k })
        (Core.modSlot_set (s.here.enlist (s.activationOf h e)) s.here.slots s.here.cur (s.trappedTask c info) _)
  rw [hraise]
  refine ⟨?_, s.cluster_recordTrap c info⟩
  rw [State.trappedTask, Slot.trapped, hc]
  rfl

end

end Sys2Proof.Machine
end

section
/-! PROOF. Retirement of a task (R273), and of a trapped one that no handler takes (R359): what it leaves of the other slots. -/

namespace Sys2Proof.Machine

/-! ### What stays of the focus core while the task in slot j ends -/

/-- The same tickets, the same slots but j, and in j the same activation number. -/
structure Core.Around (j : Nat) (c d : Core) : Prop where
  cur : d.cur = c.cur
  tickets : d.tickets = c.tickets
  actNo : (d.slot j).actNo = (c.slot j).actNo
  slots : ∀ i, i ≠ j → d.slot i = c.slot i

theorem Core.Around.refl (j : Nat) (c : Core) : Core.Around j c c := ⟨rfl, rfl, rfl, fun _ _ => rfl⟩

theorem Core.Around.of_slots {j : Nat} {c d : Core} (hcur : d.cur = c.cur) (htickets : d.tickets = c.tickets)
    (hslots : d.slots = c.slots) : Core.Around j c d := by
  have hslot (i : Nat) : d.slot i = c.slot i := by rw [Core.slot, Core.slot, hslots]
  exact ⟨hcur, htickets, by rw [hslot], fun i _ => hslot i⟩

theorem Core.Around.trans {j : Nat} {c d e : Core} (h : Core.Around j c d) (k : Core.Around j d e) : Core.Around j c e :=
  ⟨k.cur.trans h.cur, k.tickets.trans h.tickets, k.actNo.trans h.actNo, fun i hi => (k.slots i hi).trans (h.slots i hi)⟩

theorem Core.around_setSlot {j : Nat} {c : Core} {t : Slot} (h : t.actNo = (c.slot j).actNo) :
    Core.Around j c (c.setSlot j t) := by
  refine ⟨rfl, rfl, ?_, fun i hi => ?_⟩
  · rw [Core.slot_setSlot]
    split
    · exact h
    · rfl
  · rw [Core.slot_setSlot, if_neg fun h => hi h.1]

theorem Core.around_modSlot {j : Nat} (c : Core) {f : Slot → Slot} (h : ∀ t, (f t).actNo = t.actNo) :
    Core.Around j c (c.modSlot j f) := Core.around_setSlot (h _)

/-- The focus core and memory while the task in its slot j ends. -/
structure State.Around (j : Nat) (s t : State) : Prop where
  cid : t.hereCid = s.hereCid
  mem : t.mem = s.mem
  here : Core.Around j s.here t.here

theorem State.Around.refl (j : Nat) (s : State) : State.Around j s s := ⟨rfl, rfl, .refl j s.here⟩

theorem State.Around.trans {j : Nat} {s t u : State} (h : State.Around j s t) (k : State.Around j t u) :
    State.Around j s u := ⟨k.cid.trans h.cid, k.mem.trans h.mem, h.here.trans k.here⟩

section
variable {j : Nat} (s : State)

theorem State.around_modCore (m : Nat) {f : Core → Core} (h : ∀ c, Core.Around j c (f c)) :
    State.Around j s (s.modCore m f) := by
  refine ⟨s.setCore_hereCid m _, s.setCore_mem m _, ?_⟩
  by_cases hm : m = s.hereCid
  · rw [hm, State.modCore_hereCid]
    exact h s.here
  · have hhere : (s.modCore m f).here = s.here := by
      rw [State.modCore, State.setCore, if_neg hm]
    rw [hhere]
    exact .refl j s.here

theorem State.around_modSlot (cid : Nat) {f : Slot → Slot} (h : ∀ t, (f t).actNo = t.actNo) :
    State.Around j s (s.modSlot cid j f) := s.around_modCore cid fun c => c.around_modSlot h

theorem State.around_modCluster (k : Nat) (f : Cluster → Cluster) : State.Around j s (s.modCluster k f) :=
  ⟨rfl, rfl, .refl j s.here⟩

theorem State.around_trigger (n : Nat) : State.Around j s (s.trigger n) := by
  obtain ⟨k, l, h⟩ := s.trigger_eq n
  rw [h]
  exact ⟨rfl, rfl, .refl j s.here⟩

/-- A record that enters a gatherer changes the dies, and by a full list's trigger what is under way to the flag fall (R361). -/
theorem State.report_eq (d : Nat) (r : FaultRec) :
    ∃ k m l, s.report d r = { s with dies := k, trigDrops := m, fallAt := l } := by
  unfold State.report
  dsimp only
  split
  · exact ⟨_, _, _, rfl⟩
  · split
    · exact ⟨_, _, _, rfl⟩
    · obtain ⟨m, l, h⟩ := State.trigger_eq (s.setDie d { Die.closeFaults { s.die d with lastErr := some r } with
        faults := [r], window := some s.now }) 130
      exact ⟨_, m, l, h⟩

@[simp] theorem State.report_hereCid (d : Nat) (r : FaultRec) : (s.report d r).hereCid = s.hereCid := by
  obtain ⟨k, m, l, h⟩ := s.report_eq d r
  rw [h]

@[simp] theorem State.report_here (d : Nat) (r : FaultRec) : (s.report d r).here = s.here := by
  obtain ⟨k, m, l, h⟩ := s.report_eq d r
  rw [h]

theorem State.around_report (d : Nat) (r : FaultRec) : State.Around j s (s.report d r) := by
  obtain ⟨k, m, l, h⟩ := s.report_eq d r
  rw [h]
  exact ⟨rfl, rfl, .refl j s.here⟩

theorem State.around_outOfService (m : Nat) : State.Around j s (s.outOfService m) := by
  refine State.Around.trans ?_ (State.around_trigger _ 129)
  exact s.around_modCore m fun c => ⟨rfl, rfl, rfl, fun _ _ => rfl⟩

theorem State.around_failLm (l : Loc) : State.Around j s (s.failLm l) := by
  unfold State.failLm
  split
  · split
    · exact .refl j s
    · exact s.around_outOfService _
  · exact .refl j s

theorem State.around_mendLm (cid : Nat) (l : List (Nat × Nat)) : State.Around j s (s.mendLm cid l) := by
  unfold State.mendLm
  split
  · exact .refl j s
  · exact ⟨rfl, rfl, .refl j s.here⟩

theorem State.around_saveTiles (cid : Nat) (live : BitVec 16) : State.Around j s (s.saveTiles cid j live) := by
  have hsave (c : Core) : Core.Around j c (c.saveTiles j live) := by
    refine Core.Around.trans ?_ (Core.around_setSlot rfl)
    exact ⟨rfl, rfl, rfl, fun _ _ => rfl⟩
  unfold State.saveTiles
  dsimp only
  split
  · exact (s.around_report _ _).trans (State.around_failLm _ _)
  · split
    · exact (s.around_modCore cid hsave).trans (State.around_mendLm _ cid _)
    · split
      · exact (s.around_modCore cid hsave).trans (State.around_mendLm _ cid _)
      · exact s.around_modCore cid hsave

/-- What hand-back does before it saves tiles: the lent cores go, and the task's COMPOSE is withdrawn (R295, R299). -/
def State.returnLent (cid slot : Nat) : State :=
  let t := (s.core cid).slot slot
  State.unask (t.members.foldl (fun s m => s.modCore m fun c => { c with lent := none })
    (t.lostMembers.foldl (fun s m => s.outOfService m) s)) cid slot

/-- Hand-back in its three parts. -/
theorem State.handBack_eq (cid slot : Nat) (live : BitVec 16) : s.handBack cid slot live =
    (if ((s.core cid).slot slot).members.isEmpty then s.returnLent cid slot
      else ((s.returnLent cid slot).modCore cid fun c =>
        c.zeroLost slot ((s.core cid).slot slot).lost).saveTiles cid slot live).modSlot cid slot
      fun t => { t.zeroLost with members := [], recompose := false } := rfl

theorem State.around_unask (cid slot : Nat) : State.Around j s (s.unask cid slot) := s.around_modCluster _ _

theorem State.around_returnLent (cid : Nat) : State.Around j s (s.returnLent cid j) := by
  unfold State.returnLent
  refine State.Around.trans ?_ (State.around_unask _ cid j)
  exact List.foldlRecOn _ _ (List.foldlRecOn _ _ (.refl j s) fun t ht m _ => ht.trans (t.around_outOfService m))
    fun t ht m _ => ht.trans (t.around_modCore m fun c => ⟨rfl, rfl, rfl, fun _ _ => rfl⟩)

theorem Core.around_zeroLost (c : Core) (i : Nat) (lost : List Nat) : Core.Around j c (c.zeroLost i lost) := by
  unfold Core.zeroLost
  dsimp only
  split
  · exact .refl j c
  · split
    · exact .of_slots rfl rfl rfl
    · exact .of_slots rfl rfl rfl

theorem Slot.actNo_zeroLost (t : Slot) : t.zeroLost.actNo = t.actNo := by
  unfold Slot.zeroLost
  split <;> rfl

theorem State.around_handBack (cid : Nat) (live : BitVec 16) : State.Around j s (s.handBack cid j live) := by
  rw [State.handBack_eq]
  refine State.Around.trans ?_ (State.around_modSlot _ cid Slot.actNo_zeroLost)
  split
  · exact s.around_returnLent cid
  · refine State.Around.trans ?_ (State.around_saveTiles _ cid live)
    refine (s.around_returnLent cid).trans (State.around_modCore _ cid fun c => c.around_zeroLost j _)

theorem State.launchEnded_eq (id : Nat) : ∃ k m, s.launchEnded id = { s with launches := k, fwMsgs := m } := by
  unfold State.launchEnded
  split
  · exact ⟨_, _, rfl⟩
  · split <;> exact ⟨_, _, rfl⟩

/-- The entries bound to a slot block (R261). -/
def Core.blockBound (slot : Nat) (c : Core) : Core :=
  { c with tt := c.tt.map fun (k, e) => (k, if e.bound && e.slot.toNat == slot then { e with blk := true } else e) }

/-- What retirement does between hand-back and freeing the slot, for a task without tickets: the entries bound to the slot block,
and its launch counts it (R261, R273, R284). -/
def State.leaveSlot (cid slot : Nat) (launch : Option Nat) : State :=
  let s3 := s.modCore cid (Core.blockBound slot)
  let s4 := match launch with
    | some id => s3.launchEnded id
    | none => s3
  { s4 with waiters := s4.waiters.filter fun w => !(w.cid == cid && w.slot == slot) }

theorem State.leaveSlot_eq (cid slot : Nat) (launch : Option Nat) : ∃ k m w,
    s.leaveSlot cid slot launch = { s.modCore cid (Core.blockBound slot) with launches := k, fwMsgs := m, waiters := w } := by
  cases launch with
  | none => exact ⟨_, _, _, rfl⟩
  | some id =>
    obtain ⟨k, m, hended⟩ := State.launchEnded_eq (s.modCore cid (Core.blockBound slot)) id
    exact ⟨k, m, _, congrArg (fun t : State =>
      { t with waiters := t.waiters.filter fun w => !(w.cid == cid && w.slot == slot) }) hended⟩

theorem State.retire_eq {s : State} {cid slot : Nat} (h : (s.core cid).ownTickets slot = []) : s.retire cid slot =
    ((s.handBack cid slot 0xFFFF#16).leaveSlot cid slot ((s.core cid).slot slot).launch).modSlot cid slot
      fun t => { Slot.reset with actNo := t.actNo } := by
  rw [State.retire, h]
  rfl

theorem State.around_leaveSlot (cid slot : Nat) (launch : Option Nat) : State.Around j s (s.leaveSlot cid slot launch) := by
  have hcore := s.around_modCore (j := j) cid (f := Core.blockBound slot) fun c => ⟨rfl, rfl, rfl, fun _ _ => rfl⟩
  obtain ⟨k, m, w, h⟩ := s.leaveSlot_eq cid slot launch
  rw [h]
  exact ⟨hcore.cid, hcore.mem, hcore.here⟩

end

/-! ### Retirement (R273) -/

theorem State.slot_modSlot_here {s : State} {cid j : Nat} (h : s.hereCid = cid) (hj : j < 8) (f : Slot → Slot) :
    (s.modSlot cid j f).here.slot j = f (s.here.slot j) := by
  subst h
  rw [State.modSlot, State.modCore_hereCid, Core.modSlot, Core.slot_setSlot, if_pos ⟨rfl, hj⟩]

theorem State.lm_modCore (s : State) (cid : Nat) {f : Core → Core} (h : ∀ c, (f c).lm = c.lm) :
    (s.modCore cid f).here.lm = s.here.lm := by
  rw [State.modCore, State.setCore]
  split
  · next hc => rw [hc, State.core_hereCid, h]
  · rfl

section
variable {s : State} {cid j : Nat} (hcid : s.hereCid = cid) (htickets : s.here.ownTickets j = [])
include hcid htickets

theorem State.retire_here : s.retire cid j =
    ((s.handBack cid j 0xFFFF#16).leaveSlot cid j (s.here.slot j).launch).modSlot cid j
      fun t => { Slot.reset with actNo := t.actNo } := by
  subst hcid
  rw [State.retire_eq (by rwa [State.core_hereCid]), State.core_hereCid]

theorem State.around_retire : State.Around j s (s.retire cid j) := by
  rw [State.retire_here hcid htickets]
  refine State.Around.trans ?_ (State.around_modSlot _ cid fun t => rfl)
  exact (s.around_handBack cid _).trans (State.around_leaveSlot _ _ _ _)

/-- The slot of a retired task is free, and keeps its activation number (R171, R273). -/
theorem State.slot_retire (hj : j < 8) :
    (s.retire cid j).here.slot j = { Slot.reset with actNo := (s.here.slot j).actNo } := by
  rw [State.retire_here hcid htickets]
  have hpast := (s.around_handBack (j := j) cid 0xFFFF#16).trans (State.around_leaveSlot _ cid j (s.here.slot j).launch)
  rw [State.slot_modSlot_here (hpast.cid.trans hcid) hj, hpast.here.actNo]

end

/-- The tickets of another slot's task are its own as before. -/
theorem Core.Around.ownTickets {j : Nat} {c d : Core} (h : Core.Around j c d) {i : Nat} (hi : i ≠ j) :
    d.ownTickets i = c.ownTickets i := by
  simp only [Core.ownTickets, Core.ticket, h.tickets, h.slots i hi]

theorem State.lm_modSlot (s : State) (cid i : Nat) (f : Slot → Slot) : (s.modSlot cid i f).here.lm = s.here.lm :=
  s.lm_modCore cid fun _ => rfl

/-- Two tasks of the focus core retire one after the other, with nothing of the core changed between. -/
theorem State.retire_twice {s w : State} {cid a b : Nat} (hcid : s.hereCid = cid) (ha : a < 8) (hb : b < 8) (hne : a ≠ b)
    (hta : s.here.ownTickets a = []) (htb : s.here.ownTickets b = []) (hw : w.hereCid = (s.retire cid a).hereCid)
    (hhere : w.here = (s.retire cid a).here) :
    (w.retire cid b).here.slot a = { Slot.reset with actNo := (s.here.slot a).actNo } ∧
      (w.retire cid b).here.slot b = { Slot.reset with actNo := (s.here.slot b).actNo } ∧
      ∀ i, i ≠ a → i ≠ b → (w.retire cid b).here.slot i = s.here.slot i := by
  have hfirst := State.around_retire hcid hta
  have hcid' : w.hereCid = cid := hw.trans (hfirst.cid.trans hcid)
  have htb' : w.here.ownTickets b = [] := by rw [hhere, hfirst.here.ownTickets hne.symm, htb]
  have hsecond := State.around_retire hcid' htb'
  refine ⟨?_, ?_, fun i hia hib => ?_⟩
  · rw [hsecond.here.slots a hne, hhere, State.slot_retire hcid hta ha]
  · rw [State.slot_retire hcid' htb' hb, hhere, hfirst.here.slots b hne.symm]
  · rw [hsecond.here.slots i hib, hhere, hfirst.here.slots i hia]

/-! ### Where a task has no lent core, or nothing is damaged, retirement reports nothing -/

theorem State.dies_outOfService (s : State) (m : Nat) :
    (s.outOfService m).dies = s.dies ∧ (s.outOfService m).damaged = s.damaged := by
  obtain ⟨k, l, h⟩ := State.trigger_eq (s.modCore m fun c => { c with retired := true }) 129
  rw [State.outOfService, h]
  exact ⟨s.setCore_dies m _, s.setCore_damaged m _⟩

theorem State.dies_returnLent (s : State) (cid slot : Nat) :
    (s.returnLent cid slot).dies = s.dies ∧ (s.returnLent cid slot).damaged = s.damaged := by
  have hout : ∀ l : List Nat, (l.foldl (fun s m => s.outOfService m) s).dies = s.dies ∧
      (l.foldl (fun s m => s.outOfService m) s).damaged = s.damaged := fun l =>
    List.foldlRecOn (motive := fun t : State => t.dies = s.dies ∧ t.damaged = s.damaged) l _ ⟨rfl, rfl⟩ fun t ht m _ =>
      ⟨(t.dies_outOfService m).1.trans ht.1, (t.dies_outOfService m).2.trans ht.2⟩
  exact List.foldlRecOn (motive := fun t : State => t.dies = s.dies ∧ t.damaged = s.damaged) _ _ (hout _) fun t ht m _ =>
    ⟨(t.setCore_dies m _).trans ht.1, (t.setCore_damaged m _).trans ht.2⟩

/-- Tiles are saved without a report where nothing is damaged (R375). -/
theorem State.dies_saveTiles {s : State} (h : s.damaged = []) (cid i : Nat) (live : BitVec 16) :
    (s.saveTiles cid i live).dies = s.dies := by
  have hmend (t : State) (ht : t.damaged = []) (l : List (Nat × Nat)) : t.mendLm cid l = t := by
    rw [State.mendLm, ht]
    rfl
  have hcore : (s.modCore cid fun c => c.saveTiles i live).damaged = [] := (s.setCore_damaged cid _).trans h
  have hno (l : List (Nat × Nat)) : s.lmHit cid l = false := by
    rw [State.lmHit, h]
    rfl
  simp only [State.saveTiles, hno, hmend _ hcore, Bool.and_false, ite_self]
  exact s.setCore_dies cid _

theorem State.dies_retire {s : State} {j : Nat} (htickets : s.here.ownTickets j = [])
    (h : (s.here.slot j).members = [] ∨ s.damaged = []) : (s.retire s.hereCid j).dies = s.dies := by
  have hback : (s.handBack s.hereCid j 0xFFFF#16).dies = s.dies := by
    obtain ⟨hdies, hdamaged⟩ := s.dies_returnLent s.hereCid j
    rw [State.handBack_eq, State.modSlot, State.modCore, State.setCore_dies, State.core_hereCid]
    split
    · exact hdies
    · next hm =>
      have hnone := h.resolve_left fun e => hm (List.isEmpty_iff.2 e)
      refine (State.dies_saveTiles ?_ _ _ _).trans ((State.setCore_dies _ _ _).trans hdies)
      exact (State.setCore_damaged _ _ _).trans (hdamaged.trans hnone)
  obtain ⟨k, m, w, hleave⟩ := State.leaveSlot_eq (s.handBack s.hereCid j 0xFFFF#16) s.hereCid j (s.here.slot j).launch
  rw [State.retire_here rfl htickets, hleave, State.modSlot, State.modCore, State.setCore_dies]
  exact (State.setCore_dies _ _ _).trans hback

/-- Nor does it write the LM where the task has no lent core (R144, R295). -/
theorem State.lm_retire {s : State} {j : Nat} (htickets : s.here.ownTickets j = []) (h : (s.here.slot j).members = []) :
    (s.retire s.hereCid j).here.lm = s.here.lm := by
  obtain ⟨k, m, w, hleave⟩ := State.leaveSlot_eq (s.handBack s.hereCid j 0xFFFF#16) s.hereCid j (s.here.slot j).launch
  have hback : (s.handBack s.hereCid j 0xFFFF#16).here.lm = s.here.lm := by
    rw [State.handBack_single s (by rwa [State.core_hereCid]), State.lm_modSlot]
    rfl
  have hleft := State.lm_modCore (s.handBack s.hereCid j 0xFFFF#16) s.hereCid (f := Core.blockBound j) fun _ => rfl
  rw [State.retire_here rfl htickets, hleave, State.lm_modSlot]
  exact hleft.trans hback

/-! ### A trapped task that no handler takes (R359) -/

/-- A first record of an empty gatherer opens its window (R361). -/
theorem State.report_first {s : State} {d : Nat} (r : FaultRec) (hfaults : (s.die d).faults = [])
    (hwindow : (s.die d).window = none) : s.report d r =
      s.setDie d { s.die d with lastErr := some r, faults := [r], window := some s.now } := by
  have hroom : (0 : Nat) < Config.faultListMax := by decide
  simp [State.report, hfaults, hwindow, hroom]

/-- The KIND 9 record of the task in slot i of the focus core. -/
def State.unhandledRec (s : State) (i : Nat) : FaultRec :=
  faultRec s.cx 0 9 (s.here.slot i).ws.tsw.cause i s.hereCid

/-- A trapped task that is no handler retires alone, and its record opens the window of an empty gatherer (R359, R361). -/
theorem State.unhandled_alone {s : State} {j : Nat} (h : (s.here.slot j).link = none) (hj : j < 8)
    (htickets : s.here.ownTickets j = []) (hm : (s.here.slot j).members = [] ∨ s.damaged = [])
    (hfaults : (s.die (dieOf s.hereCid)).faults = []) (hwindow : (s.die (dieOf s.hereCid)).window = none) :
    (s.unhandled s.hereCid j).here.slot j = { Slot.reset with actNo := (s.here.slot j).actNo } ∧
      (∀ i, i ≠ j → (s.unhandled s.hereCid j).here.slot i = s.here.slot i) ∧
      ((s.unhandled s.hereCid j).die (dieOf s.hereCid)).window = some s.now ∧
      ((s.unhandled s.hereCid j).die (dieOf s.hereCid)).faults = [s.unhandledRec j] := by
  have halone : s.unhandled s.hereCid j = (s.report (dieOf s.hereCid) (s.unhandledRec j)).retire s.hereCid j := by
    simp only [State.unhandled, State.core_hereCid, h]
    rfl
  have hdie := s.die_setDie (dieOf s.hereCid) (dieOf s.hereCid)
    { s.die (dieOf s.hereCid) with lastErr := some (s.unhandledRec j), faults := [s.unhandledRec j], window := some s.now }
  rw [if_pos rfl] at hdie
  rw [halone, State.report_first _ hfaults hwindow]
  generalize hu : s.setDie (dieOf s.hereCid) _ = u at hdie ⊢
  have hcid : u.hereCid = s.hereCid := by rw [← hu]; rfl
  have hhere : u.here = s.here := by rw [← hu]; rfl
  have hdamaged : u.damaged = s.damaged := by rw [← hu]; rfl
  rw [← hhere] at htickets hm ⊢
  rw [← hdamaged] at hm
  rw [← hcid] at hdie ⊢
  have hdies : (u.retire u.hereCid j).die (dieOf u.hereCid) = u.die (dieOf u.hereCid) := by
    rw [State.die, State.dies_retire htickets hm]
    rfl
  rw [hdies, hdie]
  exact ⟨State.slot_retire rfl htickets hj, (State.around_retire rfl htickets).here.slots, rfl, rfl⟩

/-- A handler's own trap retires it and the task that it is linked to (R359). -/
theorem State.unhandled_linked {s : State} {j l : Nat} (h : (s.here.slot j).link = some l) (hj : j < 8) (hl : l < 8)
    (hne : j ≠ l) (htj : s.here.ownTickets j = []) (htl : s.here.ownTickets l = []) :
    (s.unhandled s.hereCid j).here.slot j = { Slot.reset with actNo := (s.here.slot j).actNo } ∧
      (s.unhandled s.hereCid j).here.slot l = { Slot.reset with actNo := (s.here.slot l).actNo } ∧
      ∀ i, i ≠ j → i ≠ l → (s.unhandled s.hereCid j).here.slot i = s.here.slot i := by
  have htwice : ∃ r r', s.unhandled s.hereCid j =
      (((s.report (dieOf s.hereCid) r).retire s.hereCid j).report (dieOf s.hereCid) r').retire s.hereCid l := by
    simp only [State.unhandled, State.core_hereCid, h]
    exact ⟨_, _, rfl⟩
  obtain ⟨r, r', htwice⟩ := htwice
  have hrep := s.report_here (dieOf s.hereCid) r
  rw [htwice, ← hrep]
  exact State.retire_twice (s.report_hereCid _ _) hj hl hne (hrep ▸ htj) (hrep ▸ htl) (State.report_hereCid _ _ _)
    (State.report_here _ _ _)

/-- Nothing links to the trapped task in a slot, no handler is on its way to it, and firmware has not taken it (R359). -/
theorem exec_declined {s : State} {j : Nat} (hheld : (s.here.slot j).held = true)
    (htrapped : (s.here.slot j).ws.tsw.state = .trapped) (hfw : (s.here.slot j).fwFault = none)
    (hdue : (s.here.slot j).handlerDue = false) (hrun : ∀ r ∈ s.here.runList, r.kind ≠ .handler j)
    (hlinked : ∀ i, i < 8 → (s.here.slot i).held = true → (s.here.slot i).link ≠ some j)
    (hsaved : ∀ y ∈ s.savedTasks, ¬ (y.cid = s.hereCid ∧ y.task.link = some j)) :
    exec (.firmwareFaultDecision s.hereCid j .declined) s = .next (s.unhandled s.hereCid j) := by
  have hby : s.linkedBy s.hereCid j = false := by
    rw [State.linkedBy, Bool.or_eq_false_iff, State.core_hereCid, List.any_eq_false, List.any_eq_false]
    refine ⟨fun i hi h => ?_, fun y hy h => ?_⟩
    · obtain ⟨hi', hlink⟩ := Bool.and_eq_true_iff.1 h
      exact hlinked i (List.mem_range.1 hi) hi' (eq_of_beq hlink)
    · obtain ⟨hcx, hlink⟩ := Bool.and_eq_true_iff.1 h
      exact hsaved y hy ⟨eq_of_beq (Bool.and_eq_true_iff.1 hcx).1, eq_of_beq hlink⟩
  have hno : s.noHandler s.hereCid j = true := by
    simp [State.noHandler, hheld, htrapped, hfw, hdue, hby]
    exact hrun
  show execFirmwareFaultDecision s.hereCid j .declined s = _
  simp [execFirmwareFaultDecision, hheld, htrapped, hfw, hno]

end Sys2Proof.Machine
end

section
/-! PROOF. SVC, TRAP and unassigned encodings (R59, R134, R135, R358), the traps that firmware takes (R357, R359, R363), and RFT
(R137). -/

namespace Sys2Proof.Machine

/-! ### Taking a trap -/

theorem State.takeTrap_of_ne (s : State) {c : Cause} (h : c ≠ .mchk) (info : Word) :
    s.takeTrap c info = s.deliver s.hereCid s.here.cur c info s.ilen := by
  simp [State.takeTrap, h]

/-- What an MCHK does before its trap: trigger 128, and a core whose LM is damaged leaves service (R376, R377). -/
def State.meetError (s : State) (info : Word) : State :=
  if info.extractLsb' 60 4 = 0 then (s.trigger 128).failLm (.lm s.hereCid 0) else s.trigger 128

theorem State.meetError_eq (s : State) (info : Word) : ∃ r k l,
    s.meetError info = { s with here := { s.here with retired := r }, trigDrops := k, fallAt := l } := by
  obtain ⟨k, l, h⟩ := s.trigger_eq 128
  rw [State.meetError, h]
  split
  · obtain ⟨r, k', l', hfail⟩ := State.failLm_here { s with trigDrops := k, fallAt := l } 0
    exact ⟨r, k', l', hfail⟩
  · exact ⟨s.here.retired, k, l, rfl⟩

theorem State.takeTrap_mchk (s : State) (info : Word) : s.takeTrap .mchk info =
    (s.meetError info).deliver (s.meetError info).hereCid (s.meetError info).here.cur .mchk info (s.meetError info).ilen := by
  have hlen : (s.meetError info).ilen = s.ilen := by
    obtain ⟨r, k, l, h⟩ := s.meetError_eq info
    rw [h]
  rw [hlen]
  simp only [State.takeTrap, State.meetError, if_true, true_and]

section
variable {s : State} (h : s.Alone)
include h

theorem State.takeTrap_handled {c : Cause} (hm : c ≠ .mchk) (hc : c.firmwareFirst = false) (info : Word) {hc' : Nat}
    {e : TTEntry} (hh : s.HandlerReady s.hereCid s.here.cur.val hc' e) : s.Trapped (s.takeTrap c info) c info hc' e := by
  rw [State.takeTrap_of_ne s hm, State.deliver_alone h, hc]
  exact State.trapped_handled info hc hh

theorem State.takeTrap_unhandled {c : Cause} (hm : c ≠ .mchk) (hc : c.firmwareFirst = false) (info : Word)
    (hh : s.handlerOf s.hereCid s.here.cur = none) :
    s.Recorded (s.takeTrap c info) { s.task with fwFault := none, handlerDue := false } c info s.here := by
  rw [State.takeTrap_of_ne s hm, State.deliver_alone h, hc]
  exact State.recorded_unhandled info hc hh

theorem State.takeTrap_firmware {c : Cause} (hm : c ≠ .mchk) (hc : c.firmwareFirst = true) (info : Word) :
    s.AwaitsFirmware (s.takeTrap c info) c info := by
  rw [State.takeTrap_of_ne s hm, State.deliver_alone h, hc]
  exact State.awaitsFirmware_recordTrap info hc

theorem State.takeTrap_mchk_awaits (info : Word) : (s.meetError info).AwaitsFirmware (s.takeTrap .mchk info) .mchk info := by
  have halone : (s.meetError info).Alone := by
    obtain ⟨r, k, l, he⟩ := s.meetError_eq info
    rw [he]
    exact h
  rw [State.takeTrap_mchk, State.deliver_alone halone]
  exact State.awaitsFirmware_recordTrap info rfl

end

/-- Settles O12: outside a REP body each of the three comes down to its trap, and a ready handler takes it. -/
theorem trapEntry : Obligations.TrapEntry := fun _ _ _ hh halone =>
  ⟨fun _ hrep => ⟨_, State.finish_noRep_outside hrep _, State.takeTrap_handled halone (by decide) rfl _ hh⟩,
    fun _ hrep => ⟨_, State.finish_noRep_outside hrep _, State.takeTrap_handled halone (by decide) rfl _ hh⟩,
    ⟨_, rfl, State.takeTrap_handled halone (by decide) rfl _ hh⟩⟩

/-- No handler takes a trap of a handler, or of a context that names no channel that can (R358, R359). -/
theorem State.handlerOf_unfit {s : State} (h : s.task.link.isSome = true ∨
    ∀ k, ((s.cxOf s.hereCid).bind s.ctxCfg).bind (·.handler) = some k →
      ((s.here.tt.get k).getD TTEntry.reset).valid = false ∨ ((s.here.tt.get k).getD TTEntry.reset).bound = true) :
    s.handlerOf s.hereCid s.here.cur = none := by
  unfold State.handlerOf
  split
  · rfl
  · next k hk =>
    refine if_pos ?_
    rw [State.slot_cur, State.core_hereCid]
    rcases h with h | h
    · simp [h]
    · rcases h k hk with h | h <;> simp [h]

/-- Settles O13: the record of a trap that firmware takes first or that no handler takes, and the retirement of a task that
none has taken. -/
theorem faultsFirstTaken : Obligations.FaultsFirstTaken := by
  refine ⟨fun s info h => ⟨State.takeTrap_firmware h (by decide) rfl info, State.takeTrap_firmware h (by decide) rfl info,
    State.takeTrap_mchk_awaits h info⟩,
    fun s => ?_, ?_⟩
  · intro unfit halone h
    exact ⟨_, rfl, State.takeTrap_unhandled halone (by decide) rfl 0 (State.handlerOf_unfit h)⟩
  intro s me l x d gone hme hheld htrapped hfw hdue hrun hlinked hsaved htickets hmembers
  have hexec := exec_declined hheld htrapped hfw hdue hrun hlinked hsaved
  refine ⟨fun hlink hfaults hwindow => ?_, fun hlink hl hne hltickets => ?_⟩
  · exact ⟨_, hexec, State.unhandled_alone hlink hme htickets hmembers hfaults hwindow⟩
  · obtain ⟨hgone, hgone', hrest⟩ := State.unhandled_linked hlink hme hl hne.symm htickets hltickets
    exact ⟨_, hexec, hgone, hgone', hrest⟩

/-! ### RFT (R137) -/

/-- The trapped task as RFT releases it at an address: its repetition, its block and RESID stay where that is the trapped PC
(R74, R137, R156). -/
def Slot.releasedAt (b : Slot) (pc : Word) (now : Nat) : Slot :=
  { b with
    wait := none, runSince := now, block := if pc = b.ws.pc then b.block else none
    ws := { b.ws with
      pc := pc
      ctl := { b.ws.ctl with repA := b.ws.ctl.repA && decide (pc = b.ws.pc) }
      resid := if pc = b.ws.pc then b.ws.resid else 0
      tsw := { b.ws.tsw with cause := .none, state := .runnable } } }

theorem State.modSlot_here (s : State) (i : Nat) (f : Slot → Slot) :
    s.modSlot s.hereCid i f = { s with here := s.here.setSlot i (f (s.here.slot i)) } := s.modCore_hereCid _

theorem State.modSlot_modSlot (s : State) {i : Nat} (hi : i < 8) (f g : Slot → Slot) :
    (s.modSlot s.hereCid i f).modSlot s.hereCid i g = s.modSlot s.hereCid i fun t => g (f t) := by
  rw [State.modSlot_here s i f]
  refine (State.modSlot_here _ i g).trans ?_
  rw [State.modSlot_here]
  exact congrArg (fun c => { s with here := c }) (Core.modSlot_modSlot s.here hi f g)

theorem State.recomposeDue_single {s : State} {cid slot : Nat} (h : ((s.core cid).slot slot).ws.ctl.cw = 0) :
    s.recomposeDue cid slot = s := if_pos h

/-- RFT releases a trapped task without lent cores in one change of its slot. -/
theorem State.release_trapped {s : State} {l : Nat} (hl : l < 8) (pc : Word)
    (htrapped : (s.here.slot l).ws.tsw.state = .trapped) (hcw : (s.here.slot l).ws.ctl.cw = 0) :
    s.release s.hereCid l pc = { s with here := s.here.setSlot l ((s.here.slot l).releasedAt pc s.now) } := by
  have hnot : ¬ ((s.core s.hereCid).slot l).ws.tsw.state = .saved := by
    rw [State.core_hereCid, htrapped]
    decide
  have hctl : (if pc = (s.here.slot l).ws.pc then (s.here.slot l).ws.ctl else { (s.here.slot l).ws.ctl with repA := false }) =
      { (s.here.slot l).ws.ctl with repA := (s.here.slot l).ws.ctl.repA && decide (pc = (s.here.slot l).ws.pc) } := by
    by_cases hpc : pc = (s.here.slot l).ws.pc <;> simp [hpc]
  unfold State.release
  dsimp only
  rw [if_neg hnot, State.modSlot_modSlot s hl, State.modSlot_here, hctl]
  refine State.recomposeDue_single ?_
  refine (congrArg (fun c : Core => (c.slot l).ws.ctl.cw) (State.core_hereCid _)).trans ?_
  refine (congrArg (fun t : Slot => t.ws.ctl.cw) (Core.slot_setSlot s.here l l _)).trans ?_
  rw [if_pos ⟨rfl, hl⟩]
  exact hcw

section
variable {s : State} (hrep : s.ws.ctl.repA = false)
include hrep

theorem exec_rft_unlinked (h : s.task.link = none) : exec .rft s = .next (s.takeTrap .illop 0) := by
  show execRft s = _
  simp [execRft, State.noRep_outside hrep, h, illop]

variable {l : Nat} (h : s.task.link = some l)
include h

theorem exec_rft_odd (htract : s.task.tract = false) (hodd : s.task.trpc.getLsbD 0 = true) :
    exec .rft s = .next (s.takeTrap .align s.task.trpc) := by
  show execRft s = _
  simp [execRft, State.noRep_outside hrep, h, htract, hodd]

theorem exec_rft_retire (htract : s.task.tract = true) :
    exec .rft s = .next ((s.retire s.hereCid l).retire s.hereCid s.here.cur) := by
  show execRft s = _
  simp [execRft, State.noRep_outside hrep, h, htract]

theorem exec_rft_release (htract : s.task.tract = false) (heven : s.task.trpc.getLsbD 0 = false) :
    exec .rft s = .next ((s.release s.hereCid l s.task.trpc).retire s.hereCid s.here.cur) := by
  show execRft s = _
  simp only [execRft, State.noRep_outside hrep, h, htract, heven, Bool.false_eq_true, if_false]

end

/-- Settles O14: RFT by its four outcomes, the slots by the frame of retirement and of the release. -/
theorem handlerReturn : Obligations.HandlerReturn := by
  intro s l b hrep
  have hcur := s.here.cur.isLt
  have hactNo : (s.here.slot s.here.cur).actNo = s.task.actNo := by rw [Core.slot_fin]; rfl
  refine ⟨exec_rft_unlinked hrep, exec_rft_odd hrep, fun hlink hl hne htract htme htl => ?_,
    fun hlink hl hne htract heven hb htrapped hcw htme hmembers => ?_⟩
  · have hexec := exec_rft_retire hrep hlink htract
    have hfirst := State.around_retire rfl htl
    have htme' := (hfirst.here.ownTickets hne.symm).trans htme
    have hsecond := State.around_retire hfirst.cid htme'
    obtain ⟨hlgone, hgone, hrest⟩ := State.retire_twice rfl hl hcur hne htl htme rfl rfl
    exact ⟨_, hexec, hsecond.cid.trans hfirst.cid, hgone.trans (by rw [hactNo]), hlgone, hrest, hsecond.mem.trans hfirst.mem⟩
  · subst hb
    have hexec := exec_rft_release hrep hlink htract heven
    rw [State.release_trapped hl _ htrapped hcw] at hexec
    have haround : Core.Around l s.here (s.here.setSlot l ((s.here.slot l).releasedAt s.task.trpc s.now)) :=
      Core.around_setSlot rfl
    have hreleased : (s.here.setSlot l ((s.here.slot l).releasedAt s.task.trpc s.now)).slot l =
        (s.here.slot l).releasedAt s.task.trpc s.now := by rw [Core.slot_setSlot, if_pos ⟨rfl, hl⟩]
    generalize hu : ({ s with here := s.here.setSlot l ((s.here.slot l).releasedAt s.task.trpc s.now) } : State) = u at hexec
    have hcid : u.hereCid = s.hereCid := by rw [← hu]
    have hmem : u.mem = s.mem := by rw [← hu]
    have hhere : u.here = s.here.setSlot l ((s.here.slot l).releasedAt s.task.trpc s.now) := by rw [← hu]
    have htme' : u.here.ownTickets s.here.cur = [] := by
      rw [hhere, haround.ownTickets hne.symm, htme]
    have hcur' : u.here.slot s.here.cur = s.task := by
      rw [hhere, haround.slots _ hne.symm, Core.slot_fin]
      rfl
    have hretired := State.around_retire hcid htme'
    refine ⟨_, hexec, hretired.cid.trans hcid, ?_, ?_, fun i hil hime => ?_, hretired.mem.trans hmem, ?_⟩
    · rw [State.slot_retire hcid htme' hcur, hcur']
    · rw [hretired.here.slots l hne, hhere, hreleased]
      rfl
    · rw [hretired.here.slots i hime, hhere, haround.slots i hil]
    · have hlm := State.lm_retire htme' (by rw [hcur', hmembers])
      rw [hcid] at hlm
      exact hlm.trans (by rw [hhere]; rfl)

end Sys2Proof.Machine
end

section
/-! PROOF. Loads and stores of the issuing task that reach a place (R204, R205, R215). -/

namespace Sys2Proof.Machine

/-- The value of two words put together. -/
theorem toNat_append_eq {m n : Nat} (x : BitVec m) (y : BitVec n) : (x ++ y).toNat = x.toNat * 2 ^ n + y.toNat := by
  rw [BitVec.toNat_append, ← Nat.shiftLeft_add_eq_or_of_lt y.isLt, Nat.shiftLeft_eq]

section
variable {s u : State} {acc : Acc} {a : Word} {n : Nat} {l : Loc}

theorem State.Reaches.aligned (h : s.Reaches acc a n l u) : aligned a n = .ok () := aligned_of_mod h.1

/-- An access that reaches a place lies outside the command window (R168). -/
theorem State.Reaches.notWindow (h : s.Reaches acc a n l u) :
    ¬ (isLocal a = true ∧ winSel a = 2 ∧ winOff a + n ≤ 0x1000) := by
  rintro ⟨hl, hsel, hoff⟩
  obtain ⟨-, hres, hplace, -⟩ := h
  by_cases hacc : acc = .atomic
  · simp [State.resolve, isGlobal_of_isLocal hl, hl, hsel, hacc, Nat.not_lt.2 hoff] at hres
  · rw [State.resolve_mqw hl hacc hsel hoff] at hres
    obtain ⟨rfl, -⟩ := Prod.mk.inj (Except.ok.inj hres)
    exact hplace _ rfl

/-- No ticket holds a line of it, so it is neither QZACC nor does it wait (R205, R246). -/
theorem State.Reaches.lineCheck (h : s.Reaches acc a n l u) : u.lineCheck a l n = .ok () := by
  obtain ⟨-, -, -, hholders, -⟩ := h
  simp [State.lineCheck, State.ownQ, hholders]

theorem State.Reaches.readable (h : s.Reaches acc a n l u) : u.readable a l n = .ok () := by
  obtain ⟨-, -, -, -, hsound⟩ := h
  simp [State.readable, State.damagedByte, hsound]

theorem State.Reaches.writable (h : s.Reaches acc a n l u) : u.writable a l n = .ok () := by
  obtain ⟨-, -, -, -, hsound⟩ := h
  simp [State.writable, State.damagedPart, hsound]

/-- A load that reaches a place returns what the task loads there (R198, R204). -/
theorem State.Reaches.loadMem (h : s.Reaches .load a n l u) (nc : Bool) : s.loadMem nc a n = .ok (u.loadTask nc l n) := by
  have hcheck := h.lineCheck
  have hread := h.readable
  obtain ⟨-, hres, hplace, -⟩ := h
  cases l with
  | mqw o => exact absurd rfl (hplace o)
  | lm cid o | csp c o | dsw d o | phys pa => simp only [State.loadMem, hres, Eff.bind_ok, hcheck, hread]

theorem State.Reaches.loadG (h : s.Reaches .load a n l u) (nc : Bool) : s.loadG nc a n = .ok (u.loadTask nc l n) := by
  have hno : (isLocal a && winSel a == 2 && decide (winOff a + n ≤ 0x1000)) = false := by
    have := h.notWindow
    simpa [and_assoc] using this
  simp only [State.loadG, h.aligned, Eff.bind_ok, hno, Bool.false_eq_true, if_false, h.loadMem]

/-- A store that reaches a place writes it there (R204). -/
theorem State.Reaches.storeMem (h : s.Reaches .store a n l u) (v : Nat) : s.storeMem a n v = .ok (u.storeTask l n v) := by
  have hcheck := h.lineCheck
  have hwrite := h.writable
  obtain ⟨-, hres, hplace, -⟩ := h
  cases l with
  | mqw o => exact absurd rfl (hplace o)
  | lm cid o | csp c o | dsw d o | phys pa => simp only [State.storeMem, hres, Eff.bind_ok, hcheck, hwrite]

/-! ### Registers (R117, R204) -/

theorem State.Reaches.loadReg (h : s.Reaches .load a n l u) (signed : Bool) (o : Ordering) (sc : Scope) (nc : Bool)
    (d : GReg) : Completes (s.finish (s.loadReg signed n o sc nc d a))
      (((u.loadTask nc l n).2.setG d (extendBytes signed n (u.loadTask nc l n).1)).acquireIf o sc) :=
  completes_advance (by rw [State.loadReg, h.loadG, Eff.bind_ok]; rfl)

theorem State.storeReg_reaches {o : Ordering} {sc : Scope} (h : (s.releaseIf o sc).Reaches .store a n l u) (v : Word) :
    Completes (s.finish (s.storeReg n o sc v a)) (u.storeTask l n (v.toNat % 2 ^ (8 * n))) :=
  completes_advance (by rw [State.storeReg, h.aligned, Eff.bind_ok, h.storeMem]; rfl)

theorem ldk_completes {disp : Word} (d : GReg) (hg : isGlobal ((s.ws.pc &&& ~~~7#64) + 8 * disp) = true)
    (h : s.Reaches .load ((s.ws.pc &&& ~~~7#64) + 8 * disp) 8 l u) : Completes (exec (.ldk d disp) s)
      ((u.loadTask false l 8).2.setG d (BitVec.ofNat 64 (u.loadTask false l 8).1)) := by
  refine completes_advance ?_
  show execLdk d disp s = _
  simp only [execLdk, State.addr, hg, demandOr_true, Eff.bind_ok, h.loadMem]
  rfl

/-! ### 64-byte moves (R215) -/

theorem ldmb_completes {disp : Word} {b : GReg} (o : Ordering) (sc : Scope) (nc : Bool)
    (h : s.Reaches .load (s.g b + disp * 64) 64 l u) : Completes (exec (.ldmb o sc nc b disp) s)
      (((u.loadTask nc l 64).2.setWs { (u.loadTask nc l 64).2.ws with
        mb := Vector.ofFn fun (i : Fin 8) => BitVec.ofNat 64 ((u.loadTask nc l 64).1 / 2 ^ (64 * i.val)) }).acquireIf o sc) := by
  refine completes_advance ?_
  show execLdmb o sc nc b disp s = _
  have haddr : s.dispAddr b disp 64 = s.g b + disp * 64 := rfl
  simp only [execLdmb, haddr, h.aligned, Eff.bind_ok, h.loadMem]
  rfl

/-- Eight digits of w bits summed by their places are the digits put one above the other. -/
theorem foldl_eight_digits (x : Nat → Nat) (w : Nat) :
    (List.range 8).foldl (fun v i => v + x i * 2 ^ (w * i)) 0 =
      ((((((x 7 * 2 ^ w + x 6) * 2 ^ w + x 5) * 2 ^ w + x 4) * 2 ^ w + x 3) * 2 ^ w + x 2) * 2 ^ w + x 1) * 2 ^ w + x 0 := by
  have hrange : List.range 8 = [0, 1, 2, 3, 4, 5, 6, 7] := rfl
  rw [hrange]
  simp only [List.foldl_cons, List.foldl_nil, pow_mul]
  ring

/-- The 64 bytes of mb0 to mb7, mb0 lowest. -/
theorem State.mbLine_toNat (s : State) : s.mbLine.toNat =
    (List.range 8).foldl (fun v i => v + (vget s.ws.mb i 0).toNat * 2 ^ (64 * i)) 0 := by
  rw [foldl_eight_digits fun i => (vget s.ws.mb i 0).toNat]
  simp only [State.mbLine, toNat_append_eq]
  rfl

theorem stmb_completes {disp : Word} {b : GReg} {o : Ordering} {sc : Scope} (st : Bool)
    (h : (s.releaseIf o sc).Reaches .store (s.g b + disp * 64) 64 l u) : Completes (exec (.stmb o sc st b disp) s)
      (u.storeTask l 64 s.mbLine.toNat) := by
  refine completes_advance ?_
  show execStmb o sc st b disp s = _
  have haddr : s.dispAddr b disp 64 = s.g b + disp * 64 := rfl
  have hno : (isLocal (s.g b + disp * 64) && winSel (s.g b + disp * 64) == 2 && winOff (s.g b + disp * 64) == 0) = false := by
    refine Bool.eq_false_iff.2 fun hwin => h.notWindow ?_
    simp only [Bool.and_eq_true, beq_iff_eq] at hwin
    obtain ⟨⟨hl, hsel⟩, hoff⟩ := hwin
    exact ⟨hl, hsel, by omega⟩
  simp only [execStmb, haddr, h.aligned, Eff.bind_ok, hno, Bool.false_eq_true, if_false, h.storeMem]
  rfl

end

/-- Settles O15: each access goes to the place that it reaches, after its release and before its acquire. -/
theorem accessesComplete : Obligations.AccessesComplete := by
  refine ⟨fun s u a d b disp o sc nc l => ⟨fun sz h => h.loadReg false o sc nc d, fun sz h => h.loadReg true o sc nc d,
    fun ty h => h.loadReg (ldSigned ty) o sc nc d, fun hg h => ldk_completes d hg h⟩,
    fun s u a d b disp o sc hint sz l => ⟨fun h => State.storeReg_reaches h (s.g d), fun h => State.storeReg_reaches h (s.g d)⟩,
    fun s u a disp o sc nc l => ⟨fun h => ldmb_completes o sc nc h, fun h => ?_⟩⟩
  rw [← State.mbLine_toNat]
  exact stmb_completes nc h

end Sys2Proof.Machine
end

section
/-! PROOF. The system registers: their numbers, and the words that they read as (R131 to R133, R136, R236, R378). -/

namespace Sys2Proof.Machine

/-! ### Numbers (R132) -/

/-- The number of a register; an indexed one counts from its base. -/
def SysReg.number : SysReg → Nat
  | .pc => 0x000 | .wp => 0x001 | .fl => 0x002 | .rrb => 0x003 | .resid => 0x004 | .tsw => 0x005 | .cwid => 0x006
  | .fpf => 0x008 | .rmode => 0x009 | .vshape => 0x00A | .cid => 0x010 | .capf => 0x011 | .specbud => 0x012
  | .pth i => 0x014 + i | .qstat => 0x018 | .cwp i => 0x020 + i | .lcrd i => 0x030 + i | .lext i => 0x038 + i
  | .trcause => 0x040 | .tra => 0x041 | .trinfo => 0x042 | .trpc => 0x043 | .tract => 0x044 | .snapctl => 0x080

/-- The index of an indexed register lies in its range. -/
def SysReg.InRange : SysReg → Prop
  | .pth i => i < 4
  | .cwp i | .lcrd i | .lext i => i < 8
  | .pc | .wp | .fl | .rrb | .resid | .tsw | .cwid | .fpf | .rmode | .vshape | .cid | .capf | .specbud | .qstat
  | .trcause | .tra | .trinfo | .trpc | .tract | .snapctl => True

/-- A property of the register an entry of a table gives, and of those that the rest gives, holds of what the table gives. -/
theorem ite_some_imp {α : Type} {p : Prop} [Decidable p] {P : α → Prop} {a : α} {o : Option α} (ha : p → P a)
    (ho : ∀ x, o = some x → P x) : ∀ x, (if p then some a else o) = some x → P x := by
  intro x h
  by_cases hp : p
  · rw [if_pos hp] at h
    exact Option.some.inj h ▸ ha hp
  · rw [if_neg hp] at h
    exact ho x h

theorem ite_some_eq_none {α : Type} {p : Prop} [Decidable p] {a : α} {o : Option α} :
    (if p then some a else o) = none ↔ ¬ p ∧ o = none := by
  by_cases hp : p <;> simp [hp]

/-- The register that a number names has that number. -/
theorem sysReg_some {n : BitVec 12} : ∀ r : SysReg, sysReg n = some r → n.toNat = r.number ∧ r.InRange := by
  unfold sysReg
  generalize n.toNat = k
  repeat' refine ite_some_imp ?_ ?_
  all_goals intro hk
  rotate_right
  · exact nofun
  all_goals
    simp only [SysReg.number, SysReg.InRange, and_true]
    omega

/-- A number that names no register names no word. -/
theorem sysWord_of_sysReg_none {n : BitVec 12} (s : State) (h : sysReg n = none) : sysWord s n.toNat = none := by
  simp only [sysReg, ite_some_eq_none] at h
  unfold sysWord
  split
  case h_21 =>
    obtain ⟨-, -, -, -, -, -, -, -, -, -, -, -, -, hpth, -, hcwp, hlcrd, hlext, -⟩ := h
    rw [if_neg hpth, if_neg hcwp, if_neg hlcrd, if_neg hlext]
  all_goals
    next hk => simp [hk] at h

theorem sysRegOf_low {n : BitVec 12} (h : n.toNat < 0x800) :
    sysRegOf n = match sysReg n with | some r => .ok r | none => illop := by
  rw [sysRegOf, BitVec.msb_eq_decide, decide_eq_false (Nat.not_le.2 h)]
  rfl

theorem sysRegOf_high {n : BitVec 12} (h : 0x800 ≤ n.toNat) : sysRegOf n = .error (.trap .priv 0) := by
  rw [sysRegOf, BitVec.msb_eq_decide, decide_eq_true h]
  rfl

/-! ### Layouts -/

theorem eq_ofNat_of_toNat {x : Word} {v : Nat} (h : x.toNat = v) : x = BitVec.ofNat 64 v := by
  rw [← h, BitVec.ofNat_toNat, BitVec.setWidth_eq]

theorem Ctl.fl_toNat (c : Ctl) : c.fl.toNat = 8 * c.z.toNat + 4 * c.n.toNat + 2 * c.c.toNat + c.v.toNat := by
  simp only [Ctl.fl, toNat_append_eq, BitVec.toNat_ofBool]
  omega

theorem rotation_toNat (c : Ctl) : (0#59 ++ BitVec.ofBool c.rot ++ c.rrb).toNat = 16 * c.rot.toNat + c.rrb.toNat := by
  simp only [toNat_append_eq, BitVec.toNat_ofBool, BitVec.toNat_ofNat]
  omega

theorem Tsw.toWord_toNat (t : Tsw) : t.toWord.toNat = t.chan.toNat * 2 ^ 24 + t.prio.toNat * 2 ^ 18 +
    t.cause.code.toNat * 2 ^ 12 + t.origin.code.toNat * 16 + t.state.code.toNat := by
  simp only [Tsw.toWord, toNat_append_eq, BitVec.toNat_ofNat]
  omega

theorem State.qstat_toNat (s : State) :
    let len (i : Nat) : Nat := (vget s.task.queues i []).length % 32
    let len4 (i : Nat) : Nat := (vget s.here.local4 i []).length % 16
    s.qstat.toNat = len4 3 * 2 ^ 32 + len4 2 * 2 ^ 28 + len4 1 * 2 ^ 24 + len4 0 * 2 ^ 20 + len 3 * 2 ^ 15 +
      len 2 * 2 ^ 10 + len 1 * 2 ^ 5 + len 0 := by
  simp only [State.qstat, toNat_append_eq, BitVec.toNat_ofNat]
  omega

theorem State.snapctl_toNat (s : State) : s.snapctl.toNat =
    s.lastTrig.toNat * 2 ^ 32 + s.falls.toNat * 2 ^ 16 + 2 * s.snapHeld.toNat +
      (match s.ctxCfg s.cx with | some x => x.snapEn.toNat | none => 0) := by
  simp only [State.snapctl, toNat_append_eq, BitVec.toNat_ofBool, BitVec.toNat_ofNat]
  cases s.ctxCfg s.cx <;> simp only [Bool.toNat_false] <;> omega

/-! ### MFS (R131 to R133, R136) -/

/-- What MFS makes of the word a number names. -/
def wordOrIllop : Option Nat → Eff Word
  | some v => .ok (BitVec.ofNat 64 v)
  | none => illop

theorem State.linked_map (s : State) (f : Slot → Word) {g : Slot → Nat} (h : ∀ t, (f t).toNat = g t) :
    s.linked.map f = wordOrIllop (s.task.link.map fun l => g (s.here.slot l)) := by
  unfold State.linked
  cases s.task.link with
  | none => rfl
  | some i => exact congrArg Except.ok (eq_ofNat_of_toNat (h _))

/-- A field of at most 64 bits put into a word. -/
theorem readsAs_setWidth {m : Nat} (h : m ≤ 64) (x : BitVec m) :
    (Except.ok (x.setWidth 64) : Eff Word) = wordOrIllop (some x.toNat) :=
  congrArg Except.ok (eq_ofNat_of_toNat (BitVec.toNat_setWidth_of_le h))

theorem readsAs {x : Word} {v : Nat} (h : x.toNat = v) : (Except.ok x : Eff Word) = wordOrIllop (some v) :=
  congrArg Except.ok (eq_ofNat_of_toNat h)

/-- Each register reads as the word of its number. -/
theorem State.readSys_eq (s : State) (r : SysReg) (h : r.InRange) : s.readSys r = wordOrIllop (sysWord s r.number) := by
  cases r with
  | pc | resid => exact readsAs rfl
  | wp => rfl
  | fl => exact readsAs ((BitVec.toNat_setWidth_of_le (by decide)).trans (Ctl.fl_toNat _))
  | rrb => exact readsAs (rotation_toNat _)
  | tsw => exact readsAs (Tsw.toWord_toNat _)
  | cwid | fpf | vshape | capf | specbud => exact readsAs_setWidth (by decide) _
  | rmode => exact readsAs (toNat_append_eq _ _)
  | cid => exact congrArg Except.ok (BitVec.eq_of_toNat_eq (by simp only [BitVec.toNat_ofNat, Nat.mod_mod]))
  | pth i =>
    have hi : i < 4 := h
    interval_cases i <;> exact readsAs_setWidth (by decide) _
  | cwp i =>
    have hi : i < 8 := h
    interval_cases i <;> exact readsAs (toNat_append_eq _ _)
  | lcrd i | lext i =>
    have hi : i < 8 := h
    interval_cases i <;> exact readsAs rfl
  | trcause => exact s.linked_map (fun t => t.ws.tsw.cause.code.setWidth 64) fun t => BitVec.toNat_setWidth_of_le (by decide)
  | tra | trinfo | trpc => exact s.linked_map _ fun t => rfl
  | tract =>
    exact s.linked_map (fun _ => (BitVec.ofBool s.task.tract).setWidth 64) fun t =>
      (BitVec.toNat_setWidth_of_le (by decide)).trans (BitVec.toNat_ofBool _)
  | qstat => exact readsAs s.qstat_toNat
  | snapctl => exact readsAs s.snapctl_toNat

/-- A number below 0x800 is read as the word that it names. -/
theorem mfs_low {n : BitVec 12} (s : State) (d : GReg) (h : n.toNat < 0x800) :
    exec (.mfs d n) s = s.finish (do let v ← wordOrIllop (sysWord s n.toNat); .ok (s.setG d v)) := by
  show s.finish (do let r ← sysRegOf n; let v ← s.readSys r; .ok (s.setG d v)) = _
  rw [sysRegOf_low h]
  cases hr : sysReg n with
  | none =>
    rw [sysWord_of_sysReg_none s hr]
    rfl
  | some r =>
    obtain ⟨hnum, hrange⟩ := sysReg_some r hr
    rw [hnum, ← s.readSys_eq r hrange]
    rfl

/-- Settles O27: a number below 0x800 is read as the word it names, and every other is a firmware register. -/
theorem systemRegisterReads : Obligations.SystemRegisterReads := by
  refine fun s d n => ⟨fun v hn hv => ?_, fun hn hv => ?_, fun hn => ⟨?_, ?_⟩⟩
  · refine completes_advance ?_
    rw [mfs_low s d hn, hv]
    rfl
  · rw [mfs_low s d hn, hv]
    rfl
  · show s.finish (do let r ← sysRegOf n; let v ← s.readSys r; .ok (s.setG d v)) = _
    rw [sysRegOf_high hn]
    rfl
  · show s.finish (do let r ← sysRegOf n; s.writeSys r (s.g d)) = _
    rw [sysRegOf_high hn]
    rfl

end Sys2Proof.Machine
end

section
/-! PROOF. MTS: each writable register, and every other number (R131, R132, R242, R306). -/

namespace Sys2Proof.Machine

theorem high48_beq_zero (w : Word) : (w.extractLsb' 16 48 == 0#48) = decide (w.toNat < 2 ^ 16) := by
  have := w.isLt
  rw [Bool.eq_iff_iff, beq_iff_eq, decide_eq_true_eq, ← BitVec.toNat_inj, BitVec.extractLsb'_toNat,
    Nat.shiftRight_eq_div_pow]
  simp only [BitVec.toNat_ofNat]
  omega

theorem isGlobal_eq_decide (a : Word) : isGlobal a = decide (a.toNat < 2 ^ 56) := by
  have := a.isLt
  rw [isGlobal, Bool.eq_iff_iff, beq_iff_eq, decide_eq_true_eq, ← BitVec.toNat_inj, BitVec.extractLsb'_toNat,
    Nat.shiftRight_eq_div_pow]
  simp only [BitVec.toNat_ofNat]
  omega

/-- A field of a word is the number that stands at its place. -/
theorem extractLsb'_eq_ofNat (w : Word) (i k : Nat) : w.extractLsb' i k = BitVec.ofNat k (w.toNat / 2 ^ i) := by
  apply BitVec.eq_of_toNat_eq
  rw [BitVec.extractLsb'_toNat, Nat.shiftRight_eq_div_pow, BitVec.toNat_ofNat]

theorem lowBits_eq_ofNat (w : Word) (k : Nat) : w.extractLsb' 0 k = BitVec.ofNat k w.toNat := by
  rw [extractLsb'_eq_ofNat, pow_zero, Nat.div_one]

/-- The registers that MTS writes; every other may only be read (R132). -/
def SysReg.Writable : SysReg → Prop
  | .fl | .rrb | .fpf | .rmode | .vshape | .capf | .specbud | .pth _ | .trpc | .tract => True
  | .pc | .wp | .resid | .tsw | .cwid | .cid | .qstat | .cwp _ | .lcrd _ | .lext _ | .trcause | .tra | .trinfo
  | .snapctl => False

theorem State.writeSys_readOnly (s : State) {r : SysReg} (h : ¬ r.Writable) (v : Word) : s.writeSys r v = illop := by
  cases r with
  | fl | rrb | fpf | rmode | vshape | capf | specbud | pth | trpc | tract => exact absurd trivial h
  | pc | wp | resid | tsw | cwid | cid | qstat | cwp | lcrd | lext | trcause | tra | trinfo | snapctl => rfl

/-- The numbers of the registers that MTS writes. -/
def writableNumbers : List (BitVec 12) :=
  [0x002#12, 0x003#12, 0x008#12, 0x009#12, 0x00A#12, 0x011#12, 0x012#12, 0x014#12, 0x015#12, 0x016#12, 0x017#12, 0x043#12, 0x044#12]

theorem SysReg.Writable.number_mem {r : SysReg} (h : r.Writable) (hi : r.InRange) :
    BitVec.ofNat 12 r.number ∈ writableNumbers := by
  cases r with
  | fl | rrb | fpf | rmode | vshape | capf | specbud | trpc | tract => decide
  | pth i =>
    have hi4 : i < 4 := hi
    interval_cases i <;> decide
  | pc | wp | resid | tsw | cwid | cid | qstat | cwp | lcrd | lext | trcause | tra | trinfo | snapctl => exact h.elim

section
variable {s : State} {d : GReg} {n : BitVec 12}

/-- MTS of a number that names a register writes it. -/
theorem mts_named {r : SysReg} (hn : n.toNat < 0x800) (hr : sysReg n = some r) :
    exec (.mts d n) s = s.finish (s.writeSys r (s.g d)) := by
  show s.finish (do let r ← sysRegOf n; s.writeSys r (s.g d)) = _
  rw [sysRegOf_low hn, hr]
  rfl

theorem mts_unnamed (hn : n.toNat < 0x800) (hr : sysReg n = none) : exec (.mts d n) s = .next (s.takeTrap .illop 0) := by
  show s.finish (do let r ← sysRegOf n; s.writeSys r (s.g d)) = _
  rw [sysRegOf_low hn, hr]
  rfl

theorem mts_other (hn : n.toNat < 0x800) (hw : n ∉ writableNumbers) : exec (.mts d n) s = .next (s.takeTrap .illop 0) := by
  cases hr : sysReg n with
  | none => exact mts_unnamed hn hr
  | some r =>
    obtain ⟨hnum, hi⟩ := sysReg_some r hr
    have hread : ¬ r.Writable := fun h => hw (by
      simpa only [← hnum, BitVec.ofNat_toNat, BitVec.setWidth_eq] using h.number_mem hi)
    rw [mts_named hn hr, s.writeSys_readOnly hread]
    rfl

/-- A write that takes only some values. -/
theorem finish_demand {p : Prop} [Decidable p] {b : Bool} (hb : b = decide p) (t : State) :
    if p then Completes (s.finish (do demand b; .ok t)) t else s.finish (do demand b; .ok t) = .next (s.takeTrap .illop 0) := by
  subst hb
  split
  · next h => exact completes_advance (by rw [decide_eq_true h]; rfl)
  · next h => rw [decide_eq_false h]; rfl

theorem finish_setVshape (s : State) (v : Word) :
    if v.toNat < 2 ^ 24 ∧ (shapeOf (BitVec.ofNat 24 v.toNat)).isSome then
      Completes (s.finish (s.setShape v)) (s.modWs fun w => { w with vshape := BitVec.ofNat 24 v.toNat })
    else s.finish (s.setShape v) = .next (s.takeTrap .illop 0) := by
  have hlegal : shapeLegal v = true ↔ v.toNat < 2 ^ 24 ∧ (shapeOf (BitVec.ofNat 24 v.toNat)).isSome := by simp [shapeLegal]
  split
  · next h => exact completes_advance (by rw [State.setShape_legal _ (hlegal.2 h)]; rfl)
  · next h => rw [State.setShape_illegal _ (mt hlegal.1 h)]; rfl

/-- The handler registers exist where a task is linked (R136). -/
theorem State.linked_bind (s : State) (f : Eff State) :
    (do let _ ← s.linked; f) = if s.task.link.isSome then f else illop := by
  unfold State.linked
  cases s.task.link <;> rfl

theorem Ctl.setFl_low (c : Ctl) (v : Word) : c.setFl (v.extractLsb' 0 4) =
    { c with z := v.getLsbD 3, n := v.getLsbD 2, c := v.getLsbD 1, v := v.getLsbD 0 } := by
  simp [Ctl.setFl]

theorem sysReg_pth : ∀ i : Fin 4, (0x014 + BitVec.ofNat 12 i.val).toNat < 0x800 ∧
    sysReg (0x014 + BitVec.ofNat 12 i.val) = some (.pth i.val) := by decide

end

/-- Settles O28: the number gives the register, and the register its write. -/
theorem systemRegisterWrites : Obligations.SystemRegisterWrites := by
  intro s d v mts no
  have named (n : BitVec 12) (r : SysReg) (hn : n.toNat < 0x800) (hr : sysReg n = some r) : mts n = s.finish (s.writeSys r v) :=
    mts_named hn hr
  refine ⟨?_, ?_, ?_, ?_, ?_, ?_, ?_, fun i => ?_, ?_, ?_, fun n hn hrest => mts_other hn hrest⟩
  · rw [named 0x002 .fl (by decide) rfl]
    simp only [State.writeSys, Ctl.setFl_low]
    exact completes_advance rfl
  · rw [named 0x003 .rrb (by decide) rfl, State.writeSys, lowBits_eq_ofNat]
    exact completes_advance rfl
  · rw [named 0x008 .fpf (by decide) rfl, State.writeSys, lowBits_eq_ofNat]
    exact completes_advance rfl
  · rw [named 0x009 .rmode (by decide) rfl, State.writeSys, lowBits_eq_ofNat, extractLsb'_eq_ofNat]
    exact completes_advance rfl
  · rw [named 0x00A .vshape (by decide) rfl]
    exact finish_setVshape s v
  · rw [named 0x011 .capf (by decide) rfl, State.writeSys, lowBits_eq_ofNat]
    exact finish_demand (high48_beq_zero v) _
  · rw [named 0x012 .specbud (by decide) rfl, State.writeSys, lowBits_eq_ofNat]
    exact finish_demand rfl _
  · obtain ⟨hn, hr⟩ := sysReg_pth i
    have hset (x : BitVec 4) : vset s.here.pth i.val x = s.here.pth.set i.val x := dif_pos i.isLt
    rw [named _ _ hn hr, State.writeSys, lowBits_eq_ofNat, hset]
    exact finish_demand rfl _
  · rw [named 0x043 .trpc (by decide) rfl, State.writeSys, s.linked_bind, ite_and]
    split
    · exact finish_demand (isGlobal_eq_decide v) _
    · rfl
  · rw [named 0x044 .tract (by decide) rfl, State.writeSys, s.linked_bind]
    split
    · exact completes_advance rfl
    · rfl

end Sys2Proof.Machine
end

section
/-! PROOF. VADD, VSUB, VMUL, VFMA, VMAX, VMIN, VDIV, VSEL, VABS and VNEG (R145 to R148): the element-wise writes, and the
results of one element in its format or at its width. -/

namespace Sys2Proof.Machine

/-! ### The width of a type, and its elements as numbers (R78, R139) -/

theorem width_of_fmt {t : Elem} {f : Fmt} (h : t.fmt = some f) : f.width = t.bits := by
  revert h
  cases t <;> simp only [Elem.fmt, Option.some.injEq, reduceCtorEq, false_implies] <;> rintro rfl <;> rfl

theorem ne_lx8_of_arith {t : Elem} (h : t.arith = true) : t ≠ .lx8 := by
  rintro rfl
  exact absurd h (by decide)

theorem two_pow_pred {w : Nat} (hw : 0 < w) : 2 ^ w = 2 * 2 ^ (w - 1) := by
  rw [← Nat.pow_succ', Nat.succ_eq_add_one, Nat.sub_add_cancel hw]

/-- The bits of an element say which number it is. -/
theorem intElem_emod {w : Nat} (sg : Bool) {v : Nat} (hv : v < 2 ^ w) : intElem w sg v % 2 ^ w = v := by
  have hcast : ((2 : Int) ^ w) = ((2 ^ w : Nat) : Int) := by norm_cast
  have hself : (v : Int) % 2 ^ w = v := by
    rw [hcast]
    exact Int.emod_eq_of_lt (Int.natCast_nonneg v) (Int.ofNat_lt.2 hv)
  unfold intElem
  split
  · unfold signedOf
    split
    · rw [Int.sub_emod_right, hself]
    · exact hself
  · exact hself

/-- An element's own number fits its width (R147). -/
theorem fit_intElem {w : Nat} (sg : Bool) {v : Nat} (hv : v < 2 ^ w) : fit w sg false (intElem w sg v) = v := by
  show (intElem w sg v % 2 ^ w).toNat = v
  rw [intElem_emod sg hv, Int.toNat_natCast]

theorem intElem_eq_zero {w : Nat} (sg : Bool) {v : Nat} (hv : v < 2 ^ w) : intElem w sg v = 0 ↔ v = 0 := by
  refine ⟨fun h => ?_, fun h => ?_⟩
  · have hbits := intElem_emod sg hv
    rw [h, Int.zero_emod] at hbits
    exact (Int.natCast_eq_zero.1 hbits.symm)
  · subst h
    cases sg <;> simp [intElem, signedOf]

/-! ### One element of a binary operation (R147) -/

section
variable (o : BinOp) {t : Elem} (r : Round) (sat : Bool) (x y z : Nat)

theorem BinOp.elem_float {f : Fmt} (h : t.fmt = some f) : o.elem t r sat x y z = o.float f r x y z := by
  simp only [BinOp.elem, h]

theorem BinOp.elem_int {w : Nat} {sg : Bool} (h : t.int = some (w, sg)) : o.elem t r sat x y z =
    (fit w sg sat (o.int (intElem w sg x) (intElem w sg y) (intElem w sg z)), 0) := by
  simp only [BinOp.elem, fmt_eq_none_of_int h, h]

end

theorem fit_max {w : Nat} (sg : Bool) {x y : Nat} (hx : x < 2 ^ w) (hy : y < 2 ^ w) :
    fit w sg false (max (intElem w sg x) (intElem w sg y)) = if intElem w sg y ≤ intElem w sg x then x else y := by
  split
  · next h => rw [max_eq_left h, fit_intElem sg hx]
  · next h => rw [max_eq_right (Int.le_of_not_le h), fit_intElem sg hy]

theorem fit_min {w : Nat} (sg : Bool) {x y : Nat} (hx : x < 2 ^ w) (hy : y < 2 ^ w) :
    fit w sg false (min (intElem w sg x) (intElem w sg y)) = if intElem w sg x ≤ intElem w sg y then x else y := by
  split
  · next h => rw [min_eq_left h, fit_intElem sg hx]
  · next h => rw [min_eq_right (Int.le_of_not_le h), fit_intElem sg hy]

/-! ### Element-wise writes (R145 to R147) -/

section
variable {s : State} {mask : KReg} {d : VReg} (hopen : s.TileOpen mask d)
include hopen

/-- A masked instruction whose results of the active elements go to tile d, and whose effect ends in after. -/
theorem writesTile_active {r : Result} {res : Nat → Nat × Byte} {after : State → State} (hty : s.shape.ty.arith = true)
    (hr : r = s.finish (do
      let u ← s.claim.writeElems d (((List.range s.shape.count).filter (s.claim.lit mask)).map fun e => (e, res e))
      .ok (after u))) :
    WritesTile r s.claim d s.shape.ty.bits s.shape.count (s.claim.lit mask) res after := by
  have hflags : (((List.range s.shape.count).filter (s.claim.lit mask)).map fun e => (e, res e)).foldl
      (fun f x => f ||| x.2.2) 0 = flagsOf s.shape.count (s.claim.lit mask) res := List.foldl_map
  subst hr
  unfold WritesTile
  split
  · next hany =>
    refine ⟨_, tileGets_tilePut_map s.claim d (l := (List.range s.shape.count).filter (s.claim.lit mask)) (fun e => by simp)
      (State.shape_fits (ne_lx8_of_arith hty)) res, completes_advance ?_⟩
    rw [State.writeElems, hflags, State.putElems, if_neg (by simpa using hany),
      State.setTile_ok (by rw [State.tileOk_claim]; exact hopen.2 hany), State.shape_claim, List.map_map]
    rfl
  · next hany =>
    have hnone : (List.range s.shape.count).filter (s.claim.lit mask) = [] := by simpa using hany
    rw [hnone]
    show Completes (.next (after (s.claim.addFpf 0)).advance) _
    rw [State.addFpf_zero]
    exact completes_advance rfl

theorem elementwise_writes (hty : s.shape.ty.arith = true) (o : BinOp) (r : Round) (sat : Bool) (a b : VReg)
    {res : Nat → Nat × Byte} (hres : ∀ e, o.elem s.shape.ty r sat (tileElem (s.claim.tile a) s.shape.ty.bits e)
      (tileElem (s.claim.tile b) s.shape.ty.bits e) (tileElem (s.claim.tile d) s.shape.ty.bits e) = res e) :
    WritesTile (s.finish (s.elementwise o mask r sat d a b)) s.claim d s.shape.ty.bits s.shape.count (s.claim.lit mask)
      res id := by
  refine writesTile_active hopen hty ?_
  simp only [State.elementwise, hty, maskFits_ok hopen.1, State.active_eq, demand_true, Eff.bind_ok, hres, id_eq]
  exact congrArg _ (bind_pure _).symm

theorem unary_writes (hty : s.shape.ty.arith = true) (f : Elem → Nat → Nat) (a : VReg) {v : Nat → Nat}
    (hv : ∀ e, f s.shape.ty (tileElem (s.claim.tile a) s.shape.ty.bits e) = v e) :
    WritesTile (s.finish (s.unary f mask d a)) s.claim d s.shape.ty.bits s.shape.count (s.claim.lit mask)
      (fun e => (v e, 0)) id := by
  refine writesTile_active hopen hty ?_
  simp only [State.unary, hty, maskFits_ok hopen.1, State.active_eq, demand_true, Eff.bind_ok, hv, id_eq]
  exact congrArg _ (bind_pure _).symm

end

/-- Settles O31: each operation by its value on one element, written to the active elements. -/
theorem elementArithmetic : Obligations.ElementArithmetic := by
  intro s m d a b hty hopen u h w x y z wr
  have lt (v : VReg) (e : Nat) : tileElem (s.claim.tile v) s.shape.ty.bits e < 2 ^ s.shape.ty.bits := tileElem_lt _ _ _
  refine ⟨fun f hf => ?_, fun sg hint => ?_⟩
  · have float (o : BinOp) (r : Round) (sat : Bool) := elementwise_writes hopen hty o r sat a b fun e => o.elem_float r sat _ _ _ hf
    exact ⟨float opAdd m.round m.sat, float opSub m.round m.sat, float opMul m.round m.sat, float opFma m.round m.sat,
      float opMax .rne false, float opMin .rne false⟩
  · have int (o : BinOp) (r : Round) (sat : Bool) := elementwise_writes hopen hty o r sat a b fun e => o.elem_int r sat _ _ _ hint
    refine ⟨int opAdd m.round m.sat, int opSub m.round m.sat, int opMul m.round m.sat, int opFma m.round m.sat,
      elementwise_writes hopen hty opMax .rne false a b fun e => ?_, elementwise_writes hopen hty opMin .rne false a b fun e => ?_⟩
    · rw [BinOp.elem_int _ _ _ _ _ _ hint]
      exact congrArg (·, 0) (fit_max sg (lt a e) (lt b e))
    · rw [BinOp.elem_int _ _ _ _ _ _ hint]
      exact congrArg (·, 0) (fit_min sg (lt a e) (lt b e))

/-! ### VDIV, VSEL, VABS and VNEG (R147, R148) -/

section
variable {t : Elem} (x y : Nat)

theorem vabsElem_float (sat : Bool) {f : Fmt} (h : t.fmt = some f) :
    vabsElem t sat x = if (f.decode x).isNan then f.nanCode else x % 2 ^ (f.width - 1) := by
  simp only [vabsElem, h]

theorem vabsElem_int (sat : Bool) {w : Nat} {sg : Bool} (h : t.int = some (w, sg)) :
    vabsElem t sat x = fit w sg sat (intElem w sg x).natAbs := by
  simp only [vabsElem, fmt_eq_none_of_int h, h]

theorem vnegElem_int (sat : Bool) {w : Nat} {sg : Bool} (h : t.int = some (w, sg)) :
    vnegElem t sat x = fit w sg sat (-(intElem w sg x)) := by
  simp only [vnegElem, fmt_eq_none_of_int h, h]

/-- VNEG of a float changes its top bit (R148). -/
theorem vnegElem_float (sat : Bool) {f : Fmt} (h : t.fmt = some f) (hx : x < 2 ^ f.width) :
    vnegElem t sat x = if (f.decode x).isNan then f.nanCode
      else if x < 2 ^ (f.width - 1) then x + 2 ^ (f.width - 1) else x - 2 ^ (f.width - 1) := by
  have hw : 0 < f.width := Nat.succ_pos _
  have hflip : (x + 2 ^ (f.width - 1)) % 2 ^ f.width =
      if x < 2 ^ (f.width - 1) then x + 2 ^ (f.width - 1) else x - 2 ^ (f.width - 1) := by
    rw [two_pow_pred hw] at hx ⊢
    split
    · exact Nat.mod_eq_of_lt (by omega)
    · rw [Nat.mod_eq_sub_mod (by omega), Nat.mod_eq_of_lt (by omega)]
      omega
  simp only [vnegElem, h, hflip]

/-- Integer VDIV of one element (R147): all ones by zero, else the truncated quotient. -/
theorem vdivInt_eq {w : Nat} (sg sat : Bool) (hy : y < 2 ^ w) : vdivInt w sg sat x y =
    (if y = 0 then 2 ^ w - 1 else fit w sg sat ((intElem w sg x).tdiv (intElem w sg y)),
      y == 0 || (sg && decide (intElem w sg x = -(2 ^ (w - 1)) ∧ intElem w sg y = -1))) := by
  unfold vdivInt
  dsimp only
  by_cases h0 : y = 0
  · rw [if_pos ((intElem_eq_zero sg hy).2 h0), if_pos h0, h0]
    rfl
  · rw [if_neg (mt (intElem_eq_zero sg hy).1 h0), if_neg h0, beq_eq_false_iff_ne.2 h0, Bool.false_or]
    split
    · next hover =>
      obtain ⟨hsg, hx, hm⟩ := hover
      rw [hx, hm, hsg, Int.tdiv_neg, Int.tdiv_one, Int.neg_neg]
      simp
    · next hin =>
      refine Prod.ext rfl (Eq.symm ?_)
      simpa using hin

end

section
variable {s : State} {mask : KReg} {d : VReg} (hopen : s.TileOpen mask d) (hty : s.shape.ty.arith = true)
  (r : Round) (sat : Bool) (a b : VReg)
include hopen hty

theorem vdiv_float_writes {f : Fmt} (hf : s.shape.ty.fmt = some f) :
    WritesTile (exec (.vdiv { mask := mask, round := r, sat := sat } d a b) s) s.claim d s.shape.ty.bits s.shape.count
      (s.claim.lit mask) (fun e => f.div r (f.decode (tileElem (s.claim.tile a) s.shape.ty.bits e))
        (f.decode (tileElem (s.claim.tile b) s.shape.ty.bits e))) id := by
  refine writesTile_active hopen hty ?_
  show execVdiv _ d a b s = _
  simp only [execVdiv, hty, maskFits_ok hopen.1, State.active_eq, demand_true, Eff.bind_ok, hf, id_eq]
  exact congrArg _ (bind_pure _).symm

/-- Integer VDIV: the quotients, and FL.V where one of the active elements sets it. -/
theorem vdiv_int_writes {sg : Bool} (hint : s.shape.ty.int = some (s.shape.ty.bits, sg)) :
    let x := tileElem (s.claim.tile a) s.shape.ty.bits
    let y := tileElem (s.claim.tile b) s.shape.ty.bits
    WritesTile (exec (.vdiv { mask := mask, round := r, sat := sat } d a b) s) s.claim d s.shape.ty.bits s.shape.count
      (s.claim.lit mask) (fun e => ((vdivInt s.shape.ty.bits sg sat (x e) (y e)).1, 0))
      (fun u => u.modCtl fun c => { c with v := (List.range s.shape.count).any fun e => s.claim.lit mask e &&
        (vdivInt s.shape.ty.bits sg sat (x e) (y e)).2 }) := by
  refine writesTile_active hopen hty ?_
  show execVdiv _ d a b s = _
  simp only [execVdiv, hty, maskFits_ok hopen.1, State.active_eq, demand_true, Eff.bind_ok, fmt_eq_none_of_int hint, hint,
    List.map_map, List.any_map, List.any_filter]
  rfl

end

theorem vsel_writes {s : State} {d : VReg} (k : KReg) (a b : VReg) (hty : s.shape.ty.arith = true)
    (hn : s.shape.count ≤ 1024) (hroom : s.ws.vsd.tileOk d.toNat = true) :
    WritesTile (exec (.vsel k d a b) s) s.claim d s.shape.ty.bits s.shape.count (fun _ => true)
      (fun e => (if (s.claim.mask k).getLsbD e then tileElem (s.claim.tile a) s.shape.ty.bits e
        else tileElem (s.claim.tile b) s.shape.ty.bits e, 0)) id := by
  refine ldec_writes s d ⟨.inl rfl, hroom⟩ (ne_lx8_of_arith hty) ?_
  show execVsel k d a b s = _
  simp only [execVsel, hty, decide_eq_true hn, demand_true, Eff.bind_ok]

/-- Settles O32: VDIV, VABS and VNEG by one element in its format or at its width, VSEL by its selector mask. -/
theorem elementDivisionAndSelection : Obligations.ElementDivisionAndSelection := by
  intro s m d a b hty hopen u h w x y
  refine ⟨fun f hf => ⟨vdiv_float_writes hopen hty m.round m.sat a b hf,
      unary_writes hopen hty _ a fun e => vabsElem_float _ m.sat hf,
      unary_writes hopen hty _ a fun e => vnegElem_float _ m.sat hf (width_of_fmt hf ▸ tileElem_lt _ _ e)⟩,
    fun sg hint => ⟨?_, unary_writes hopen hty _ a fun e => vabsElem_int _ m.sat hint,
      unary_writes hopen hty _ a fun e => vnegElem_int _ m.sat hint⟩, fun k => vsel_writes k a b hty⟩
  have hdiv := vdiv_int_writes hopen hty m.round m.sat a b hint
  simp only [vdivInt_eq _ _ _ _ (tileElem_lt (s.claim.tile b) s.shape.ty.bits _)] at hdiv
  exact hdiv

end Sys2Proof.Machine
end

section
/-! PROOF. VREDR, VREDC (R154) and VRDQ (R155, R156): the places of the results, and what VRDQ takes from its queue. -/

namespace Sys2Proof.Machine

/-! ### Elements by rows -/

/-- The first elements of m rows of n. -/
theorem filter_row_starts (m : Nat) {n : Nat} (hn : 0 < n) :
    (List.range (m * n)).filter (fun e => e % n == 0) = (List.range m).map (· * n) := by
  refine List.SortedLT.eq_of_mem_iff ?_ ?_ fun e => ?_
  · exact (List.pairwise_lt_range.filter _).sortedLT
  · exact (List.pairwise_map.2 (List.pairwise_lt_range.imp fun h => Nat.mul_lt_mul_of_pos_right h hn)).sortedLT
  · simp only [List.mem_filter, List.mem_range, List.mem_map, beq_iff_eq]
    constructor
    · rintro ⟨he, hmod⟩
      have hdvd := Nat.dvd_of_mod_eq_zero hmod
      exact ⟨e / n, Nat.div_lt_of_lt_mul (by rwa [Nat.mul_comm]), Nat.div_mul_cancel hdvd⟩
    · rintro ⟨i, hi, rfl⟩
      exact ⟨Nat.mul_lt_mul_of_pos_right hi hn, Nat.mul_mod_left i n⟩

/-! ### VREDR and VREDC (R154) -/

section
variable (s : State) (op : VRedOp) (m : VMod) (d a : VReg)

/-- The active source elements of a row or column, in ascending index. -/
def redLane (p : Nat → Bool) : List Nat :=
  ((List.range s.shape.count).filter fun e => s.claim.lit m.mask e && p e).map fun e =>
    tileElem (s.claim.tile a) s.shape.ty.bits e

/-- What a reduction makes of a row or column. -/
def redResult (p : Nat → Bool) : Nat × Byte := reduce op s.shape.ty m.round m.sat (redLane s m a p)

theorem redLane_eq (p : Nat → Bool) : (((List.range s.shape.count).filter (s.claim.lit m.mask)).filter p).map
    (fun e => tileElem (s.claim.tile a) s.shape.ty.bits e) = redLane s m a p := by
  rw [List.filter_filter, redLane]
  simp only [Bool.and_comm]

variable {s m d} (hty : s.shape.ty.arith = true) (hd : s.TileReady m.mask d)
include hty hd

theorem vredr_writes : WritesTile (exec (.vredr op m d a) s) s.claim d s.shape.ty.bits s.shape.count
    (fun e => e % s.shape.cols == 0) (fun e => redResult s op m a fun k => k / s.shape.cols == e / s.shape.cols) id := by
  have hfirst (i : Nat) : i * s.shape.cols / s.shape.cols = i := Nat.mul_div_cancel i s.shape_cols_pos
  rw [← s.shape_claim]
  refine writesTile_writeElems (s := s) ?_ (State.shape_fits (by simpa using ne_lx8_of_arith hty))
    fun _ => by rw [State.tileOk_claim]; exact hd.2
  rw [s.shape_claim, Shape.count, filter_row_starts _ s.shape_cols_pos, List.map_map]
  show execVredr op m d a s = _
  simp only [execVredr, hty, maskFits_ok hd.1, State.active_eq, demand_true, Eff.bind_ok, redLane_eq]
  simp only [Function.comp_def, hfirst]
  rfl

theorem vredc_writes : WritesTile (exec (.vredc op m d a) s) s.claim d s.shape.ty.bits s.shape.cols
    (fun _ => true) (fun e => redResult s op m a fun k => k % s.shape.cols == e) id := by
  have hcols : s.shape.cols ≤ s.shape.count := Nat.le_mul_of_pos_left _ s.shape_rows_pos
  have hfit := le_trans (Nat.mul_le_mul_left s.shape.ty.bits hcols) (State.shape_fits (ne_lx8_of_arith hty))
  have hw := writesTile_writeElems_all (r := exec (.vredc op m d a) s) (s := s) (u := s.claim) (d := d) (n := s.shape.cols)
    (res := fun e => redResult s op m a fun k => k % s.shape.cols == e) ?_ (by rwa [s.shape_claim])
    (by rw [State.tileOk_claim]; exact hd.2)
  · rwa [s.shape_claim] at hw
  · show execVredc op m d a s = _
    simp only [execVredc, hty, maskFits_ok hd.1, State.active_eq, demand_true, Eff.bind_ok, redLane_eq]
    rfl

end

/-! ### The queues while the unit is claimed (R144) -/

theorem Core.local4_loadTiles (c : Core) (i : Nat) : (c.loadTiles i).local4 = c.local4 := rfl

theorem Core.local4_claimUnit (c : Core) (i : Nat) : (c.claimUnit i).local4 = c.local4 := by
  have hsave (l : List Nat) (c : Core) : (l.foldl (fun c j => if (c.slot j).held && (c.slot j).ws.vsd.vhome then
      c.saveTiles j 0xFFFF#16 else c) c).local4 = c.local4 := by
    induction l generalizing c with
    | nil => rfl
    | cons j l ih =>
      rw [List.foldl_cons, ih]
      split <;> rfl
  unfold Core.claimUnit
  split
  · rfl
  · exact (Core.local4_loadTiles _ i).trans (hsave (List.range 8) c)

theorem State.queue_claim (s : State) (q : QReg) : s.claim.queue q = s.queue q := by
  have hlocal : s.claim.here.local4 = s.here.local4 := s.here.local4_claimUnit _
  rw [State.queue, State.queue, s.task_claim, hlocal]
  rfl

theorem State.queue_withTile (u : State) (d : VReg) (t : Tile) (q : QReg) : (u.withTile d t).queue q = u.queue q := by
  show (u.modWs fun w => { w with vsd := { w.vsd with vused := w.vsd.vused ||| (1#16 <<< d.toNat) } }).queue q = _
  exact u.queue_modWs _ q

theorem State.ws_setQueue (u : State) (q : QReg) (l : List Word) : (u.setQueue q l).ws = u.ws := by
  unfold State.setQueue
  split
  · rw [State.modTask_eq, State.ws_setTask]
    rfl
  · rfl

theorem State.tile_withTile (u : State) (d : VReg) (t : Tile) : (u.withTile d t).tile d = t :=
  Vector.getElem_set_self d.isLt

/-- A tile that is marked used already is only written. -/
theorem State.withTile_used {u : State} {d : VReg} (h : u.ws.vsd.vused ||| (1#16 <<< d.toNat) = u.ws.vsd.vused) (t : Tile) :
    u.withTile d t = { u with here := { u.here with tiles := u.here.tiles.set d.toNat t } } := by
  have hws : (u.modWs fun w => { w with vsd := { w.vsd with vused := w.vsd.vused ||| (1#16 <<< d.toNat) } }) = u := by
    rw [State.modWs_eq, h, State.setWs_ws]
  rw [State.withTile, hws]

/-! ### The words that VRDQ takes (R155, R156) -/

/-- One word of a queue added into the partial sums, with the flags so far. -/
def vrdqAdd (half : Nat) (x : Tile × Byte) (p : Word × Nat) : Tile × Byte :=
  let y := vrdqWord x.1 half p.2 p.1
  (y.1, x.2 ||| y.2)

theorem vrdqLoop_eq (half left i : Nat) (q : List Word) (t : Tile) (f : Byte) : vrdqLoop half left i q t f =
    (i + (q.take left).length, q.drop left, ((q.take left).zipIdx i).foldl (vrdqAdd half) (t, f)) := by
  induction left generalizing i q t f with
  | zero => simp [vrdqLoop]
  | succ left ih =>
    cases q with
    | nil => simp [vrdqLoop]
    | cons w q =>
      rw [vrdqLoop, ih]
      simp only [List.take_succ_cons, List.length_cons, List.drop_succ_cons, List.zipIdx_cons, List.foldl_cons, vrdqAdd]
      rw [Nat.add_assoc, Nat.add_comm 1]

/-- A fresh RESID: the count that is left, and nothing taken. -/
theorem freshResid {n : Word} (h : n.toNat < 2 ^ 31) :
    (((2 : Word) ^ 63 + n).extractLsb' 0 32).toNat = n.toNat ∧ (((2 : Word) ^ 63 + n).extractLsb' 32 31).toNat = 0 := by
  have hsum : ((2 : Word) ^ 63 + n).toNat = 2 ^ 63 + n.toNat := by
    rw [BitVec.toNat_add, show ((2 : Word) ^ 63).toNat = 2 ^ 63 from by simp]
    omega
  rw [BitVec.extractLsb'_toNat, BitVec.extractLsb'_toNat, hsum, Nat.shiftRight_eq_div_pow, Nat.shiftRight_eq_div_pow]
  omega

/-- RESID while words are missing: the words taken and those left (R156). -/
theorem parkedResid {k n : Nat} (hk : k < 2 ^ 31) (hn : n < 2 ^ 32) :
    1#1 ++ BitVec.ofNat 31 k ++ BitVec.ofNat 32 n = BitVec.ofNat 64 (2 ^ 63 + k * 2 ^ 32 + n) := by
  apply BitVec.eq_of_toNat_eq
  rw [BitVec.toNat_append, BitVec.toNat_append, ← Nat.shiftLeft_add_eq_or_of_lt (BitVec.isLt _),
    ← Nat.shiftLeft_add_eq_or_of_lt (BitVec.isLt _), Nat.shiftLeft_eq, Nat.shiftLeft_eq]
  simp only [BitVec.toNat_ofNat]
  omega

section
variable (s : State) (d : VReg) (q : QReg) (n : Nat)

/-- The sums of the words that VRDQ takes, and their flags. -/
def vrdqSums : Tile × Byte :=
  (((s.queue q).take n).zipIdx).foldl (vrdqAdd (s.shape.count / 2)) (s.claim.tile d, 0)

/-- The state that VRDQ leaves with some of its words: the rest of its queue, the sums in tile d, and RESID. -/
def vrdqLeft (rest : List Word) (resid : Word) : State :=
  (((((s.claim.withTile d (s.claim.tile d)).setQueue q rest).addFpf (vrdqSums s d q n).2).withTile d
    (vrdqSums s d q n).1)).modWs fun w => { w with resid := resid }

/-- Tile d is marked used once; the sums are then only written. -/
theorem vrdqLeft_eq (rest : List Word) (resid : Word) :
    let u := ((s.claim.withTile d (s.claim.tile d)).setQueue q rest).addFpf (vrdqSums s d q n).2
    vrdqLeft s d q n rest resid =
      ({ u with here := { u.here with tiles := u.here.tiles.set d.toNat (vrdqSums s d q n).1 } } : State).modWs
        fun w => { w with resid := resid } := by
  intro u
  have hused : u.ws.vsd.vused ||| (1#16 <<< d.toNat) = u.ws.vsd.vused := by
    rw [State.vsd_addFpf, State.ws_setQueue, State.ws_withTile, BitVec.or_assoc, BitVec.or_self]
  rw [vrdqLeft, State.withTile_used hused]

end

section
variable {s : State} {d : VReg} (q : QReg) {b : GReg} (hty : s.shape.ty = .f32) (hn : s.shape.count % 2 = 0)
  (hres : s.ws.resid.msb = false) (hb : (s.g b).toNat < 2 ^ 31)
include hty hn hres hb

/-- VRDQ asked for no word (R155). -/
theorem exec_vrdq_none (h0 : (s.g b).toNat = 0) :
    exec (.vrdq d q b) s = .next (s.claim.modWs fun w => { w with resid := 0 }).advance := by
  obtain ⟨hleft, -⟩ := freshResid hb
  show execVrdq d q b s = _
  rw [execVrdq, if_neg (by simp [hty, hn]), if_neg fun h => h.2 (Nat.div_eq_of_lt hb)]
  simp only [hres, Bool.false_eq_true, if_false, hleft, h0, if_true]

variable (hroom : s.ws.vsd.tileOk d.toNat = true) (h0 : (s.g b).toNat ≠ 0)
include hroom h0

/-- VRDQ from a fresh start (R155, R156): it takes words while its queue holds some, and parks where some are missing. -/
theorem exec_vrdq : let n := (s.g b).toNat
    let k := ((s.queue q).take n).length
    exec (.vrdq d q b) s =
      if n - k = 0 then .next (vrdqLeft s d q n ((s.queue q).drop n) 0).advance
      else .next ((if k = 0 then s.claim.modWs fun w => { w with resid := BitVec.ofNat 64 (2 ^ 63 + (n - k)) }
        else vrdqLeft s d q n ((s.queue q).drop n) (BitVec.ofNat 64 (2 ^ 63 + k * 2 ^ 32 + (n - k)))).park (.queueEmpty q)) := by
  intro n k
  obtain ⟨hleft, htaken⟩ := freshResid hb
  have hk : k ≤ n := by simp only [k, List.length_take]; omega
  have hresid := parkedResid (k := k) (n := n - k) (by omega) (by omega)
  show execVrdq d q b s = _
  rw [execVrdq, if_neg (by simp [hty, hn]), if_neg fun h => h.2 (Nat.div_eq_of_lt hb)]
  simp only [hres, Bool.false_eq_true, if_false, hleft, htaken, h0, State.setTile_ok ((s.tileOk_claim _).trans hroom),
    State.queue_withTile, State.queue_claim, State.tile_withTile, vrdqLoop_eq, Nat.zero_add, Nat.sub_zero]
  by_cases hall : n - k = 0
  · rw [if_pos hall, if_pos hall, vrdqLeft_eq]
    rfl
  · rw [if_neg hall, if_neg hall]
    by_cases hnone : k = 0
    · have hsame : n - k = n := by omega
      rw [if_pos hsame, if_pos hnone, hresid, hnone, Nat.zero_mul, Nat.add_zero]
    · have hfewer : n - k ≠ n := by omega
      rw [if_neg hfewer, if_neg hnone, hresid, vrdqLeft_eq]
      rfl

end

/-- Settles O34: the reductions by the lanes of their rows and columns, VRDQ by the words that its queue holds. -/
theorem vectorReductions : Obligations.VectorReductions := by
  refine ⟨fun s op m d a hty hd => ⟨vredr_writes op a hty hd, vredc_writes op a hty hd⟩,
    fun s d q b hty hn hres hb hroom => ?_⟩
  intro n u words sums left
  have htaken : (words.take n).length = min n words.length := List.length_take
  refine ⟨fun h0 => completes_advance (exec_vrdq_none q hty hn hres hb h0), fun hpos hall => completes_advance ?_,
    fun hsome hfew => ?_, fun hempty hpos => ?_⟩
  · have hk : n - (words.take n).length = 0 := by omega
    exact (exec_vrdq q hty hn hres hb hroom (by omega)).trans (if_pos hk)
  · have hk : (words.take n).length = words.length := by omega
    have hpos : words.length ≠ 0 := fun h => hsome (List.length_eq_zero_iff.1 h)
    have hvrdq := exec_vrdq q hty hn hres hb hroom (by omega)
    simp only at hvrdq
    rw [hk, if_neg (by omega), if_neg hpos, List.drop_of_length_le (Nat.le_of_lt hfew)] at hvrdq
    exact hvrdq
  · have hk : (words.take n).length = 0 := by simp [hempty]
    have hvrdq := exec_vrdq q hty hn hres hb hroom (by omega)
    simp only at hvrdq
    rw [hk, if_neg (by omega), if_pos rfl, Nat.sub_zero] at hvrdq
    exact hvrdq

end Sys2Proof.Machine
end

section
/-! PROOF. VEXP2, VQMAX, VQZ and VSMX (R157, R158, R162, R163), and CTLD (R164, R165). -/

namespace Sys2Proof.Machine

/-! ### Elements by groups -/

/-- Groups of n elements, one after another, are the elements. -/
theorem flatMap_range_map {α : Type} (g : Nat → Nat → α) (m n : Nat) :
    (List.range m).flatMap (fun i => (List.range n).map (g i)) = (List.range (m * n)).map fun e => g (e / n) (e % n) := by
  induction m with
  | zero => simp
  | succ m ih =>
    have hlast : (List.range n).map (g m) = (List.range n).map fun j => g ((m * n + j) / n) ((m * n + j) % n) := by
      refine List.map_congr_left fun j hj => ?_
      have hj := List.mem_range.1 hj
      have hn : 0 < n := Nat.lt_of_le_of_lt (Nat.zero_le j) hj
      rw [Nat.mul_comm m, Nat.mul_add_div hn, Nat.div_eq_of_lt hj, Nat.mul_add_mod, Nat.mod_eq_of_lt hj, Nat.add_zero]
    rw [List.range_succ, List.flatMap_append, ih, List.flatMap_singleton, Nat.succ_mul, List.range_add, List.map_append,
      List.map_map, hlast]
    rfl

/-- The entries of a list that is given by their places, with their places. -/
theorem zipIdx_range_map {α β : Type} (f : Nat → α) (g : α × Nat → β) (n : Nat) :
    ((List.range n).map f).zipIdx.map g = (List.range n).map fun e => g (f e, e) := by
  refine List.ext_getElem (by simp) fun i hi _ => ?_
  simp

/-! ### VEXP2 and VQMAX (R157, R162) -/

section
variable {s : State} {d : VReg} (hd : s.TileReady 0 d) (a b : VReg)
include hd

theorem vexp2_writes (hty : s.shape.ty = .f32) : WritesTile (exec (.vexp2 d a) s) s.claim d 32 s.shape.count (fun _ => true)
    (fun e => vexp2 (fp32.decode (tileElem (s.claim.tile a) 32 e))) id := by
  have hw := ldec_writes s d hd (by simp [hty]) (r := exec (.vexp2 d a) s)
    (res := fun e => vexp2 (fp32.decode (tileElem (s.claim.tile a) 32 e))) (by
      show execVexp2 d a s = _
      simp only [execVexp2, hty, beq_self_eq_true, demand_true, Eff.bind_ok])
  rwa [hty] at hw

/-- The greatest magnitude of group k of n elements in a format. -/
def vqmaxBest (s : State) (a : VReg) (f : Fmt) (n k : Nat) : Nat :=
  ((List.range n).map fun i => tileElem (s.claim.tile a) f.width (k * n + i) % 2 ^ (f.width - 1)).foldl f.maxOf 0

theorem vqmax_writes {f : Fmt} (hf : s.shape.ty.fmt = some f) {g : BitVec 3} (hg : g.toNat < 5)
    (hrows : s.shape.rows % 2 ^ g.toNat = 0) :
    WritesTile (exec (.vqmax d a g) s) s.claim d f.width s.shape.count (fun _ => true)
      (fun e => (vqmaxBest s a f (2 ^ g.toNat * s.shape.cols) (e / (2 ^ g.toNat * s.shape.cols)), 0)) id := by
  have hcount : s.shape.rows / 2 ^ g.toNat * (2 ^ g.toNat * s.shape.cols) = s.shape.count := by
    rw [← Nat.mul_assoc, Nat.div_mul_cancel (Nat.dvd_of_mod_eq_zero hrows)]
    rfl
  have hty : s.shape.ty ≠ .lx8 := ne_lx8_of_arith (by rw [Elem.arith, hf]; rfl)
  rw [width_of_fmt hf]
  refine ldec_writes s d hd hty ?_
  show execVqmax d a g s = _
  simp only [execVqmax, hf, hg, hrows, and_self, decide_true, demand_true, Eff.bind_ok]
  rw [flatMap_range_map (fun k i => (k * (2 ^ g.toNat * s.shape.cols) + i, _, 0)), hcount]
  simp only [Nat.div_add_mod']
  rfl

/-! ### VQZ (R163) -/

/-- The quotient of element e, and its flags. -/
def vqzResult (s : State) (r : Round) (st : Sat) (a b : VReg) (f : Fmt) (e : Nat) : Nat × Byte :=
  vqzElem f (st == .wrap) r (s.draw r e) (tileElem (s.claim.tile a) f.width e) (tileElem (s.claim.tile b) f.width e)

theorem vqz_writes {f : Fmt} (hf : s.shape.ty.fmt = some f) (r : Round) {st : Sat} (hst : st ≠ .inf) :
    WritesTile (exec (.vqz r st d a b) s) s.claim d 8 s.shape.count (fun _ => true) (vqzResult s r st a b f)
      (fun t => t.drawn r) := by
  have hfit : 8 * s.shape.count ≤ 8192 := by
    have hty : s.shape.ty ≠ .lx8 := ne_lx8_of_arith (by rw [Elem.arith, hf]; rfl)
    have hbits : 8 ≤ s.shape.ty.bits := by
      revert hf
      cases s.shape.ty <;> simp [Elem.fmt, Elem.bits]
    exact le_trans (Nat.mul_le_mul_right _ hbits) (State.shape_fits hty)
  have hexec : exec (.vqz r st d a b) s =
      s.finish (s.claim.putCodes d 8 r ((List.range s.shape.count).map (vqzResult s r st a b f))) := by
    show execVqz r st d a b s = _
    simp only [execVqz, hf, bne_iff_ne.2 hst, demand_true, Eff.bind_ok, State.draw_claim, State.putCodes, zipIdx_range_map,
      List.map_map, List.foldl_map]
    rfl
  rw [hexec]
  exact writesTile_putCodes (by rw [State.tileOk_claim]; exact hd.2) s.shape_count_pos hfit r _

end

/-- VQMAX and VQZ of a shape of another class (R157). -/
theorem vqmax_refused {s : State} (hf : s.shape.ty.fmt = none) (d a : VReg) (g : BitVec 3) :
    exec (.vqmax d a g) s = .next (s.takeTrap .illop 0) := by
  show execVqmax d a g s = _
  simp only [execVqmax, hf]
  rfl

theorem vqz_refused {s : State} (hf : s.shape.ty.fmt = none) (r : Round) (st : Sat) (d a b : VReg) :
    exec (.vqz r st d a b) s = .next (s.takeTrap .illop 0) := by
  show execVqz r st d a b s = _
  simp only [execVqz, hf]
  rfl

/-! ### VSMX (R158) -/

/-- Column c of the merge of two rows, given by their columns. -/
def smxColumn (x y : Nat → Nat) (c : Nat) : Nat × Byte :=
  let m := fp32.maxOf (x 0) (y 0)
  let p := smxScale (x 0) m
  let q := smxScale (y 0) m
  if c = 0 then (m, p.2 ||| q.2) else smxMix (x c) p.1 (y c) q.1

theorem vsmxRow_range (x y : Nat → Nat) {n : Nat} (hn : 0 < n) :
    vsmxRow ((List.range n).map x) ((List.range n).map y) = (List.range n).map (smxColumn x y) := by
  obtain ⟨n, rfl⟩ := Nat.exists_eq_add_of_le' hn
  have hcols : ((List.range (n + 1)).map x).zip ((List.range (n + 1)).map y) = (List.range (n + 1)).map fun c => (x c, y c) :=
    List.zip_map' ..
  rw [vsmxRow, hcols]
  simp only [List.range_succ_eq_map, List.map_cons, List.map_map, List.drop_succ_cons, List.drop_zero, List.getD_cons_zero]
  rfl

section
variable {s : State} {d : VReg} (hd : s.TileReady 0 d) (a b : VReg)
include hd

/-- Element e that VSMX writes: its column of the merge of its rows. -/
def smxResult (s : State) (a b : VReg) (e : Nat) : Nat × Byte :=
  smxColumn (fun c => tileElem (s.claim.tile a) 32 (e / s.shape.cols * s.shape.cols + c))
    (fun c => tileElem (s.claim.tile b) 32 (e / s.shape.cols * s.shape.cols + c)) (e % s.shape.cols)

theorem vsmx_writes (hty : s.shape.ty = .f32) (hcols : 3 ≤ s.shape.cols) :
    WritesTile (exec (.vsmx d a b) s) s.claim d 32 s.shape.count (fun _ => true) (smxResult s a b) id := by
  have hw := ldec_writes s d hd (by simp [hty]) (r := exec (.vsmx d a b) s) (res := smxResult s a b) ?_
  · rwa [hty] at hw
  · show execVsmx d a b s = _
    simp only [execVsmx, hty, hcols, decide_true, beq_self_eq_true, Bool.and_self, demand_true, Eff.bind_ok,
      vsmxRow_range _ _ s.shape_cols_pos, zipIdx_range_map]
    rw [flatMap_range_map]
    simp only [Nat.div_add_mod']
    rfl

end

/-- Settles O36: the elements one by one, groups and rows by their places. -/
theorem specialFunctions : Obligations.SpecialFunctions := by
  refine ⟨fun s d a b r st g hd => ⟨vexp2_writes hd a, fun f hf => ⟨vqmax_writes hd a hf, vqz_writes hd a b hf r⟩,
    fun hf => ⟨vqmax_refused hf d a g, vqz_refused hf r st d a b⟩⟩, fun s d a b hd hty hcols => ?_⟩
  intro u h x y
  have hsmx := vsmx_writes hd a b hty hcols
  unfold smxResult smxColumn at hsmx
  simp only [Nat.add_zero, Nat.div_add_mod'] at hsmx
  exact hsmx

end Sys2Proof.Machine
end

section
/-! PROOF. CTLD (R164, R165): the presets, and the image of 1,032 bytes. -/

namespace Sys2Proof.Machine

/-- The table that 129 words hold: two values in each of the first 128, and the roles of codes in the last (R164). -/
def tableOf (ws : List Nat) : CodeTable :=
  .image ((ws.take 128).flatMap fun w => [BitVec.ofNat 19 (w / 2 ^ 13), BitVec.ofNat 19 (w / 2 ^ 45)])
    (BitVec.ofNat 27 (ws.getD 128 0))

/-- A table that CTLD takes (R165). -/
def tableLegal (ws : List Nat) : Bool := !attrClash (BitVec.ofNat 27 (ws.getD 128 0)) && !(tableOf ws).finite.isEmpty

/-- Two checks before an effect. -/
theorem finish_demands (s u : State) (b c : Bool) :
    s.finish (do demand b; demand c; .ok u) = if (b && c) = true then .next u.advance else .next (s.takeTrap .illop 0) := by
  cases b
  · rfl
  · cases c <;> rfl

section
variable {s u : State} (ct : BitVec 2) {a : GReg} {disp : Word} {ws : List Nat}

theorem exec_ctld (ha : (s.g a + disp).toNat % 8 = 0) (hl : s.loadWords 8 129 (s.g a + disp) = .ok (ws, u)) :
    exec (.ctld ct a disp) s =
      if tableLegal ws = true then .next (u.setTable ct (tableOf ws)).advance else .next (s.takeTrap .illop 0) := by
  show execCtld ct a disp s = _
  simp only [execCtld, aligned, ha, hl, decide_true, demandOr_true, Eff.bind_ok]
  exact finish_demands s _ _ _

end

/-- Settles O39: the presets 0 and 1, and an image where its last word is legal and some value finite. -/
theorem codeTables : Obligations.CodeTables := by
  intro s u ct n a disp ws attr image set
  have hlegal : tableLegal ws = true ↔ attrClash attr = false ∧ image.finite ≠ [] := by
    show (!attrClash attr && !image.finite.isEmpty) = true ↔ _
    simp
  refine ⟨completes_advance rfl, completes_advance rfl, fun hn => ?_, fun ha hl => ⟨fun hclash hfin => completes_advance ?_,
    fun hbad => ?_⟩⟩
  · show execCtldPreset ct n s = _
    rw [execCtldPreset, decide_eq_false (by omega)]
    rfl
  · rw [exec_ctld ct ha hl, if_pos (hlegal.2 ⟨hclash, hfin⟩)]
    rfl
  · refine (exec_ctld ct ha hl).trans (if_neg fun h => ?_)
    obtain ⟨hclash, hfin⟩ := hlegal.1 h
    exact hbad.elim (by simp [hclash]) hfin

end Sys2Proof.Machine
end

section
/-! PROOF. What loads, fences and replies leave of the tasks of every core (R200, R222, R225, R338, R375): their LMs, and their
slots but for a reply and the registers that are lost. -/

namespace Sys2Proof.Machine

/-! ### Tasks that stay -/

/-- A slot with another reply, and other registers lost. -/
def Slot.Like (t u : Slot) : Prop := ∃ r l, u = { t with reply := r, lost := l }

theorem Slot.Like.refl (t : Slot) : t.Like t := ⟨t.reply, t.lost, rfl⟩

theorem Slot.Like.trans {t u v : Slot} (h : t.Like u) (k : u.Like v) : t.Like v := by
  obtain ⟨r, l, rfl⟩ := h
  obtain ⟨r', l', rfl⟩ := k
  exact ⟨r', l', rfl⟩

theorem Slot.Like.ws {t u : Slot} (h : t.Like u) : u.ws = t.ws := by
  obtain ⟨r, l, rfl⟩ := h
  rfl

/-- The tasks of every core stay, with their LMs, and so do those that firmware has saved. -/
structure State.TasksStay (s t : State) : Prop where
  hereCid : t.hereCid = s.hereCid
  cur : t.here.cur = s.here.cur
  lm : ∀ k, (t.core k).lm = (s.core k).lm
  slot : ∀ k i, ((s.core k).slot i).Like ((t.core k).slot i)
  savedTasks : t.savedTasks = s.savedTasks

theorem State.TasksStay.refl (s : State) : s.TasksStay s := ⟨rfl, rfl, fun _ => rfl, fun _ _ => .refl _, rfl⟩

theorem State.TasksStay.trans {s t u : State} (h : s.TasksStay t) (k : t.TasksStay u) : s.TasksStay u :=
  ⟨k.hereCid.trans h.hereCid, k.cur.trans h.cur, fun c => (k.lm c).trans (h.lm c),
    fun c i => (h.slot c i).trans (k.slot c i), k.savedTasks.trans h.savedTasks⟩

/-- Where no core changes, the tasks stay. -/
theorem State.tasksStay_of_cores {s t : State} (hc : t.hereCid = s.hereCid) (hh : t.here = s.here) (ho : t.others = s.others)
    (hs : t.savedTasks = s.savedTasks) : s.TasksStay t := by
  have hcore (k : Nat) : t.core k = s.core k := by simp only [State.core, hc, hh, ho]
  exact ⟨hc, congrArg Core.cur hh, fun k => congrArg Core.lm (hcore k), fun k i => hcore k ▸ .refl _, hs⟩

theorem State.tasksStay_foldl {α : Type} {f : State → α → State} (h : ∀ (s : State) (a : α), s.TasksStay (f s a)) (s : State) (l : List α) :
    s.TasksStay (l.foldl f s) :=
  List.foldlRecOn l f (.refl s) fun _ hb a _ => hb.trans (h _ a)

theorem State.TasksStay.ws {s t : State} (h : s.TasksStay t) : t.ws = s.ws := by
  have hcore := h.slot s.hereCid s.here.cur
  rw [s.core_hereCid, ← h.hereCid, t.core_hereCid] at hcore
  rw [State.ws, State.ws, t.task_eq_slot, s.task_eq_slot, h.cur]
  exact hcore.ws

/-- A core whose LM and slots stay but for a reply and lost registers. -/
theorem State.tasksStay_modCore (s : State) (k : Nat) {f : Core → Core} (hcur : (f (s.core k)).cur = (s.core k).cur)
    (hlm : (f (s.core k)).lm = (s.core k).lm) (hslot : ∀ i, ((s.core k).slot i).Like ((f (s.core k)).slot i)) :
    s.TasksStay (s.modCore k f) where
  hereCid := s.setCore_hereCid k _
  cur := by
    rw [State.modCore, State.setCore]
    split
    · next h =>
      subst h
      rwa [s.core_hereCid] at hcur ⊢
    · rfl
  lm j := by
    rw [State.core_modCore]
    split
    · next h => rw [h, hlm]
    · rfl
  slot j i := by
    rw [State.core_modCore]
    split
    · next h =>
      subst h
      exact hslot i
    · exact .refl _
  savedTasks := s.setCore_savedTasks k _

theorem State.tasksStay_modSlot (s : State) (k i : Nat) {f : Slot → Slot} (hf : ∀ t : Slot, t.Like (f t)) :
    s.TasksStay (s.modSlot k i f) := by
  refine s.tasksStay_modCore k rfl rfl fun j => ?_
  rw [Core.modSlot, Core.slot_setSlot]
  split
  · next h => rw [h.1]; exact hf _
  · exact .refl _

/-! ### Memory, dies and triggers -/

theorem State.tasksStay_pokePhys (s : State) (pa n v : Nat) : s.TasksStay (s.poke (.phys pa) n v) := by
  induction n generalizing s pa v with
  | zero => exact .refl s
  | succ n ih =>
    have hbyte : s.TasksStay (s.setByteAt (.phys pa) (BitVec.ofNat 8 v)) := tasksStay_of_cores rfl rfl rfl rfl
    exact hbyte.trans (ih _ _ _)

theorem State.tasksStay_pokeHome (s : State) (pa n v : Nat) : s.TasksStay (s.pokeHome pa n v) :=
  (s.tasksStay_pokePhys pa n v).trans (tasksStay_of_cores rfl rfl rfl rfl)

theorem State.tasksStay_choose (s : State) (n : Nat) : s.TasksStay (s.choose n).2 := tasksStay_of_cores rfl rfl rfl rfl

theorem State.tasksStay_of_choose {s t : State} {n k : Nat} (h : s.choose n = (k, t)) : s.TasksStay t := by
  have hchosen := s.tasksStay_choose n
  rwa [h] at hchosen

theorem State.tasksStay_trigger (s : State) (n : Nat) : s.TasksStay (s.trigger n) := by
  unfold State.trigger
  split
  · exact .refl s
  · split <;> exact tasksStay_of_cores rfl rfl rfl rfl

theorem State.tasksStay_report (s : State) (d : Nat) (r : FaultRec) : s.TasksStay (s.report d r) := by
  unfold State.report
  dsimp only
  split
  · exact tasksStay_of_cores rfl rfl rfl rfl
  · split
    · exact tasksStay_of_cores rfl rfl rfl rfl
    · refine State.TasksStay.trans ?_ (State.tasksStay_trigger _ _)
      exact tasksStay_of_cores rfl rfl rfl rfl

/-! ### Replies (R225) -/

theorem State.tasksStay_answerWaiter (s : State) (w : Waiter) : s.TasksStay (s.answerWaiter w) := by
  unfold State.answerWaiter
  split
  · next x _ =>
    rcases s.answerFar_cases x with h | ⟨v, h⟩
    · rw [h]
      exact .refl s
    · rw [h]
      exact tasksStay_of_cores rfl rfl rfl rfl
  · refine s.tasksStay_modSlot _ _ fun t => ?_
    split
    · exact ⟨_, t.lost, rfl⟩
    · exact .refl t

theorem State.tasksStay_wakeLine (s : State) (line : Loc) : s.TasksStay (s.wakeLine line) := by
  have hwaiters : s.TasksStay { s with waiters := s.waiters.filter fun w => w.line != line } :=
    tasksStay_of_cores rfl rfl rfl rfl
  exact hwaiters.trans (State.tasksStay_foldl State.tasksStay_answerWaiter _ _)

/-! ### Combining U lines (R222) -/

theorem sumFloat_tasksStay (s : State) (n : Nat) (l : List Word) (acc : Nat) : s.TasksStay (sumFloat s n l acc).2 := by
  induction n generalizing s l acc with
  | zero => exact .refl s
  | succ n ih =>
    cases l with
    | nil => exact .refl s
    | cons v l =>
      by_cases h : (v :: l).length ≤ 1
      · simp only [sumFloat, if_pos h]
        exact ih _ _ _
      · simp only [sumFloat, if_neg h]
        exact (s.tasksStay_choose _).trans (ih _ _ _)

theorem combineWord_tasksStay (k : UKind) (s : State) (pa : Nat) (l : List Word) : s.TasksStay (combineWord k s pa l) := by
  unfold combineWord
  split
  · exact s.tasksStay_pokeHome _ _ _
  · exact (sumFloat_tasksStay s _ _ _).trans (State.tasksStay_pokeHome _ _ _ _)

theorem State.tasksStay_modCluster (s : State) (c : Nat) (f : Cluster → Cluster) : s.TasksStay (s.modCluster c f) :=
  tasksStay_of_cores rfl rfl rfl rfl

theorem State.tasksStay_combineU (s : State) (c : Nat) (u : ULine) : s.TasksStay (s.combineU c u) := by
  refine (s.tasksStay_modCluster c fun x => { x with ulines := x.ulines.filter fun y => y.line ≠ u.line }).trans ?_
  unfold State.combineU
  dsimp only
  split
  · exact State.tasksStay_report _ _ _
  · exact (State.tasksStay_foldl (fun t x => combineWord_tasksStay _ t _ _) _ _).trans (State.tasksStay_wakeLine _ _)

theorem State.tasksStay_combineWhere (s : State) (c : Nat) (p : Nat → Bool) : s.TasksStay (s.combineWhere c p) :=
  State.tasksStay_foldl (fun t u => t.tasksStay_combineU c u) s _

theorem State.tasksStay_combineLine (s : State) (line : Nat) : s.TasksStay (s.combineLine line) := by
  refine State.tasksStay_foldl (fun t ⟨c, x⟩ => ?_) s _
  dsimp only
  split
  · exact t.tasksStay_combineU _ _
  · exact .refl t

/-! ### Copies, late stores, acquires and releases (R195, R200, R201) -/

theorem State.tasksStay_dropCopies (s : State) (c : Nat) (p : Nat → Bool) : s.TasksStay (s.dropCopies c p) :=
  s.tasksStay_modCluster c _

theorem State.tasksStay_modLate (s : State) (c : Nat) (f : List Late → List Late) : s.TasksStay (s.modLate c f) := by
  obtain ⟨k, hk⟩ := s.modLate_eq c f
  rw [hk]
  exact tasksStay_of_cores rfl rfl rfl rfl

theorem State.tasksStay_acquireFor (s : State) (w : Nat × Nat) (sc : Scope) (p : Nat → Bool) :
    s.TasksStay (s.acquireFor w sc p) := by
  unfold State.acquireFor
  split
  · exact (s.tasksStay_dropCopies _ p).trans (State.tasksStay_modLate _ _ _)
  · exact s.tasksStay_modLate _ _

theorem State.tasksStay_releaseFor (s : State) (w : Nat × Nat) (sc : Scope) (p : Nat → Bool) :
    s.TasksStay (s.releaseFor w sc p) := by
  unfold State.releaseFor
  dsimp only
  split
  · refine ((s.tasksStay_combineWhere _ p).trans (State.tasksStay_foldl (fun t x => ?_) _ _)).trans
      (State.tasksStay_modLate _ _ _)
    split
    · exact .refl t
    · exact t.tasksStay_modLate _ _
  · exact s.tasksStay_modLate _ _

theorem State.tasksStay_fenceFor (s : State) (w : Nat × Nat) : s.TasksStay (s.fenceFor w) :=
  ((s.tasksStay_releaseFor w .system _).trans (State.tasksStay_acquireFor _ w .system _)).trans (State.tasksStay_modLate _ _ _)

/-! ### Mending (R299, R375) -/

theorem State.tasksStay_mend (s : State) (l : Loc) (n : Nat) : s.TasksStay (s.mend l n) := by
  have hdamaged (d : List (Space × Nat × Nat)) : s.TasksStay { s with damaged := d } := tasksStay_of_cores rfl rfl rfl rfl
  unfold State.mend
  split
  · exact .refl s
  · dsimp only
    split
    · split
      · exact (hdamaged _).trans (State.tasksStay_modSlot _ _ _ fun t => ⟨t.reply, _, rfl⟩)
      · exact hdamaged _
    · exact hdamaged _

theorem State.tasksStay_mendReg (s : State) (cid slot r : Nat) : s.TasksStay (s.mendReg cid slot r) := s.tasksStay_mend _ _

/-! ### Loads of the issuing task (R198, R200, R338) -/

theorem State.tasksStay_loadPhys (s : State) (c : Nat) (nc : Bool) (pa n : Nat) : s.TasksStay (s.loadPhys c nc pa n).2 := by
  have hdrop (t : State) : t.TasksStay (t.dropCopy c (pa / 64)) := t.tasksStay_dropCopies c _
  unfold State.loadPhys
  dsimp only
  split
  · next x _ =>
    have hread : s.TasksStay (if Line.slice x.data (pa % 64) n = s.peek (.phys pa) n then (s.peek (.phys pa) n, s) else
        match s.choose 2 with
        | (0, t) => (Line.slice x.data (pa % 64) n, t)
        | (_, t) => ((t.combineLine (pa / 64)).peek (.phys pa) n, (t.combineLine (pa / 64)).dropCopy c (pa / 64))).2 := by
      split
      · exact .refl s
      · split
        · next t ht => exact State.tasksStay_of_choose ht
        · next k t _ ht => exact ((State.tasksStay_of_choose ht).trans (t.tasksStay_combineLine _)).trans (hdrop _)
    split
    · exact hread.trans (hdrop _)
    · exact hread
  · have hline := (s.tasksStay_combineLine (pa / 64)).trans (hdrop _)
    dsimp only
    split
    · exact hline
    · exact hline.trans (State.tasksStay_modCluster _ c _)

theorem State.tasksStay_loadAt (s : State) (cid : Nat) (nc : Bool) (l : Loc) (n : Nat) : s.TasksStay (s.loadAt cid nc l n).2 := by
  cases l with
  | phys pa => exact s.tasksStay_loadPhys _ nc pa n
  | lm | csp | dsw | mqw => exact .refl s

theorem State.tasksStay_loadTask (s : State) (nc : Bool) (l : Loc) (n : Nat) : s.TasksStay (s.loadTask nc l n).2 := by
  cases l with
  | lm | csp | dsw | mqw => exact .refl s
  | phys pa =>
    have hload (t : State) := t.tasksStay_loadAt s.hereCid nc (.phys pa) n
    unfold State.loadTask
    dsimp only
    split
    · exact hload s
    · split
      · dsimp only
        exact (hload s).trans (State.tasksStay_modLate _ _ _)
      · split
        · next t ht =>
          dsimp only
          exact ((State.tasksStay_of_choose ht).trans (hload t)).trans (State.tasksStay_modLate _ _ _)
        · next k t ht =>
          dsimp only
          have hbar (c : Nat) (f : List Late → List Late) := (State.tasksStay_of_choose ht).trans (t.tasksStay_modLate c f)
          split
          · exact (hbar _ _).trans (State.tasksStay_dropCopies _ _ _)
          · exact hbar _ _

theorem State.tasksStay_fillTlb (s : State) (cid : Nat) (l : Leaf) : s.TasksStay (s.fillTlb cid l) := by
  refine (s.tasksStay_modCore cid ?_ ?_ fun i => ?_).trans (State.tasksStay_modCluster _ _ _)
  · split <;> rfl
  · split <;> rfl
  · split <;> exact .refl _

theorem State.tasksStay_leafOf (s : State) (cid va : Nat) : s.TasksStay (s.leafOf cid va).2 := by
  unfold State.leafOf
  dsimp only
  split
  · exact .refl s
  · exact s.tasksStay_choose _

theorem State.tasksStay_translate {s t : State} {cid va pa : Nat} {acc : Acc} (h : s.translate cid acc va = .ok (pa, t)) :
    s.TasksStay t := by
  unfold State.translate at h
  dsimp only at h
  split at h
  · cases h
  · cases h
  · split at h
    · cases h
    · obtain ⟨-, rfl⟩ := Prod.mk.inj (Except.ok.inj h)
      exact (s.tasksStay_leafOf cid va).trans (State.tasksStay_fillTlb _ _ _)

theorem State.tasksStay_resolve {s t : State} {acc : Acc} {a : Word} {n : Nat} {l : Loc} (h : s.resolve acc a n = .ok (l, t)) :
    s.TasksStay t := by
  unfold State.resolve at h
  split at h
  · split at h
    · next u htr =>
      obtain ⟨-, rfl⟩ := Prod.mk.inj (Except.ok.inj h)
      exact State.tasksStay_translate htr
    · cases h
    · cases h
    · cases h
  · split at h
    · cases h
    · split at h
      · cases h
      · dsimp only at h
        split at h
        · split at h
          · cases h
          · cases h
            exact .refl s
        · split at h
          · cases h
          · cases h
            exact .refl s
        · split at h
          · cases h
          · cases h
            exact .refl s
        · cases h
          exact .refl s

theorem State.tasksStay_loadMem {s t : State} {nc : Bool} {a : Word} {n v : Nat} (h : s.loadMem nc a n = .ok (v, t)) :
    s.TasksStay t := by
  obtain ⟨⟨l, u⟩, hres, h⟩ := Eff.bind_eq_ok.1 h
  have hu := State.tasksStay_resolve hres
  dsimp only at h
  split at h
  · cases h
  · obtain ⟨-, -, h⟩ := Eff.bind_eq_ok.1 h
    obtain ⟨-, -, h⟩ := Eff.bind_eq_ok.1 h
    have ht : t = (u.loadTask nc l n).2 := (congrArg Prod.snd (Except.ok.inj h)).symm
    exact ht ▸ hu.trans (u.tasksStay_loadTask nc l n)

end Sys2Proof.Machine
end

section
/-! PROOF. VLD, VLDT and VST (R151 to R153): the fault of the lowest address, the tile that the loads make, and what a tile
load brings from a local window. -/

namespace Sys2Proof.Machine

/-! ### The fault of the lowest address (R152) -/

section
variable (v : State) (y : Acc × Word × Nat)

/-- The access is one of a workspace (R17, R152). -/
def InSlot (a : Word) : Prop := isLocal a = true ∧ winSel a = 0 ∧ winOff a < 0x1000

theorem inWorkspace_iff (a : Word) : inWorkspace a = true ↔ InSlot a := by
  simp only [inWorkspace, InSlot, Bool.and_eq_true, beq_iff_eq, decide_eq_true_eq, and_assoc]
  rfl

/-- Every access may reach the address (R14 to R19, R144, R338). -/
def State.Admits : Prop := ¬ InSlot y.2.1 ∧ ∃ p, v.resolve y.1 y.2.1 y.2.2 = .ok p ∧ ∀ o, p.1 ≠ .mqw o

/-- The trap of an access alone. -/
def State.Refuses (c : Cause) (info : Word) : Prop :=
  (InSlot y.2.1 ∧ c = .perm ∧ info = y.2.1) ∨
    (¬ InSlot y.2.1 ∧ (v.resolve y.1 y.2.1 y.2.2 = .error (.trap c info) ∨
      ((∃ o u, v.resolve y.1 y.2.1 y.2.2 = .ok (.mqw o, u)) ∧ c = .perm ∧ info = y.2.1)))

/-- The address and the fault of an access, none where it may be made. -/
def State.faultOf : Option (Word × Stop) :=
  if inWorkspace y.2.1 then some (y.2.1, .trap .perm y.2.1)
  else match v.resolve y.1 y.2.1 y.2.2 with
    | .error e => some (y.2.1, e)
    | .ok (.mqw _, _) => some (y.2.1, .trap .perm y.2.1)
    | .ok _ => none

variable {v y}

theorem State.faultOf_address {x : Word × Stop} (h : v.faultOf y = some x) : x.1 = y.2.1 := by
  unfold State.faultOf at h
  split at h
  · exact (Option.some.inj h) ▸ rfl
  · split at h
    · exact (Option.some.inj h) ▸ rfl
    · exact (Option.some.inj h) ▸ rfl
    · cases h

theorem State.Admits.faultOf (h : v.Admits y) : v.faultOf y = none := by
  obtain ⟨hslot, ⟨l, u⟩, hres, hwin⟩ := h
  rw [State.faultOf, if_neg (mt (inWorkspace_iff _).1 hslot), hres]
  cases l with
  | mqw o => exact absurd rfl (hwin o)
  | lm | csp | dsw | phys => rfl

theorem State.Refuses.faultOf {c : Cause} {info : Word} (h : v.Refuses y c info) :
    v.faultOf y = some (y.2.1, .trap c info) := by
  unfold State.faultOf
  rcases h with ⟨hslot, rfl, rfl⟩ | ⟨hslot, hres | ⟨⟨o, u, hres⟩, rfl, rfl⟩⟩
  · rw [if_pos ((inWorkspace_iff _).2 hslot)]
  · rw [if_neg (mt (inWorkspace_iff _).1 hslot), hres]
  · rw [if_neg (mt (inWorkspace_iff _).1 hslot), hres]

end

/-- The first of the lowest addresses, where no other fault has as low a one. -/
theorem foldl_lowest {x m : Word × Stop} {l : List (Word × Stop)} (hx : x ∈ m :: l)
    (h : ∀ y ∈ m :: l, y = x ∨ x.1.toNat < y.1.toNat) : l.foldl (fun m y => if y.1.toNat < m.1.toNat then y else m) m = x := by
  induction l generalizing m with
  | nil => exact (List.mem_singleton.1 hx).symm
  | cons y l ih =>
    rw [List.foldl_cons]
    have hm := h m (by simp)
    have hy := h y (by simp)
    refine ih ?_ fun z hz => ?_
    · split
      · next hlt =>
        have hne : x ≠ m := by
          rintro rfl
          rcases hy with rfl | hy <;> omega
        exact (List.mem_cons.1 hx).resolve_left hne
      · next hge =>
        rcases List.mem_cons.1 hx with rfl | hx
        · exact List.mem_cons_self
        · rcases List.mem_cons.1 hx with rfl | hx
          · rcases hm with rfl | hm
            · exact List.mem_cons_self
            · omega
          · exact List.mem_cons_of_mem _ hx
    · rcases List.mem_cons.1 hz with rfl | hz
      · split <;> assumption
      · exact h z (by simp [hz])

section
variable {v : State} {l : List (Acc × Word × Nat)}

theorem State.lowestFault_eq (v : State) (l : List (Acc × Word × Nat)) : v.lowestFault l =
    match l.filterMap v.faultOf with
    | [] => .ok ()
    | x :: t => .error (t.foldl (fun m y => if y.1.toNat < m.1.toNat then y else m) x).2 := rfl

theorem State.lowestFault_ok (h : ∀ y ∈ l, v.Admits y) : v.lowestFault l = .ok () := by
  have hnone : l.filterMap v.faultOf = [] := List.filterMap_eq_nil_iff.2 fun y hy => (h y hy).faultOf
  rw [State.lowestFault_eq, hnone]

/-- Where no other access at the same or a lower address is refused, the refusal is the fault (R152). -/
theorem State.lowestFault_refused {y : Acc × Word × Nat} {c : Cause} {info : Word} (h : v.Refuses y c info)
    (hlow : y ∈ l ∧ ∀ z ∈ l, z.2.1.toNat ≤ y.2.1.toNat → z = y ∨ v.Admits z) :
    v.lowestFault l = .error (.trap c info) := by
  obtain ⟨hy, hother⟩ := hlow
  have hmem : (y.2.1, Stop.trap c info) ∈ l.filterMap v.faultOf := List.mem_filterMap.2 ⟨y, hy, h.faultOf⟩
  have hleast : ∀ x ∈ l.filterMap v.faultOf, x = (y.2.1, Stop.trap c info) ∨ y.2.1.toNat < x.1.toNat := by
    intro x hx
    obtain ⟨z, hz, hfault⟩ := List.mem_filterMap.1 hx
    rw [State.faultOf_address hfault]
    rcases Nat.lt_or_ge y.2.1.toNat z.2.1.toNat with hlt | hle
    · exact .inr hlt
    · rcases hother z hz hle with rfl | hgood
      · exact .inl (Option.some.inj (hfault.symm.trans h.faultOf))
      · exact absurd (hfault.symm.trans hgood.faultOf) nofun
  rw [State.lowestFault_eq]
  generalize l.filterMap v.faultOf = bad at hmem hleast
  cases bad with
  | nil => cases hmem
  | cons x t => exact congrArg (fun x => Except.error x.2) (foldl_lowest hmem hleast)

end

/-! ### VLD, VLDT and VST after their checks -/

section
variable {s : State} {mask : KReg} {d : VReg} {a : GReg} {disp : Word}

/-- The active elements of the issuing task. -/
abbrev activeElems (s : State) (mask : KReg) : List Nat := (List.range s.shape.count).filter (s.claim.lit mask)

/-- The accesses of a tile move that carry an active element. -/
def moveAccs (s : State) (mask : KReg) (a : GReg) (disp : Word) (transposed : Bool) : List TileAcc :=
  activeAccs (activeElems s mask) (if transposed then transposedAccesses s.shape (s.g a) (s.g (GReg.next a)) disp
    else rowAccesses s.shape (s.g a) (s.g (GReg.next a)) disp)

def moveLoads (s : State) (mask : KReg) (a : GReg) (disp : Word) (transposed : Bool) : List (Acc × Word × Nat) :=
  (moveAccs s mask a disp transposed).map fun x => (.load, x.addr, x.bytes)

def moveStores (s : State) (mask : KReg) (a : GReg) (disp : Word) : List (Acc × Word × Nat) :=
  (moveAccs s mask a disp false).flatMap fun x => x.storeAccs s.shape.ty ((activeElems s mask).contains ·)

theorem State.tasksStay_loadTileAccs {s u : State} {ty : Elem} {act : Nat → Bool} {l : List TileAcc} {d t : Tile}
    (h : s.loadTileAccs ty act l d = .ok (t, u)) : s.TasksStay u := by
  induction l generalizing s d with
  | nil =>
    obtain ⟨-, rfl⟩ := Prod.mk.inj (Except.ok.inj h)
    exact .refl s
  | cons x l ih =>
    obtain ⟨⟨v, s1⟩, hload, h⟩ := Eff.bind_eq_ok.1 h
    exact (State.tasksStay_loadMem hload).trans (ih h)

section
variable {transposed : Bool} (hops : tileMoveOk a s.shape transposed = .ok ())
  (hrows : rowsAligned s.shape (s.g a) (s.g (GReg.next a)) disp (if transposed then s.shape.cols else s.shape.rows) = .ok ())
  (hc : s.shape.ty = .lx8 → mask = 0 ∨ openGroup (activeElems s mask) s.shape.count = none)
include hops hrows hc

section
variable (hopen : s.TileOpen mask d)
include hopen

theorem State.loadTile_eq : s.loadTile mask d a disp transposed = (do
    s.claim.lowestFault (moveLoads s mask a disp transposed)
    let (t, u) ← s.claim.loadTileAccs s.shape.ty ((activeElems s mask).contains ·) (moveAccs s mask a disp transposed)
      (s.claim.tile d)
    if (activeElems s mask).isEmpty then .ok u else u.setTile d t) := by
  have hroom : ((activeElems s mask).isEmpty || s.ws.vsd.tileOk d.toNat) = true := by
    cases hany : s.anyLit mask with
    | true => rw [hopen.2 hany, Bool.or_true]
    | false =>
      have hnone : activeElems s mask = [] := by simpa [State.anyLit] using hany
      rw [hnone]
      rfl
  simp only [State.loadTile, hops, hrows, maskFits_ok hopen.1, State.active_eq, groupsCovered_ok hc, hroom, demandOr_true,
    Eff.bind_ok]
  rfl

theorem loadTile_completes {t : Tile} {u : State} (hreach : ∀ y ∈ moveLoads s mask a disp transposed, s.claim.Admits y)
    (hload : s.claim.loadTileAccs s.shape.ty ((activeElems s mask).contains ·) (moveAccs s mask a disp transposed)
      (s.claim.tile d) = .ok (t, u)) :
    Completes (s.finish (s.loadTile mask d a disp transposed)) (if activeElems s mask = [] then u else u.withTile d t) := by
  rw [State.loadTile_eq hops hrows hc hopen, State.lowestFault_ok hreach, Eff.bind_ok, hload, Eff.bind_ok]
  dsimp only
  by_cases hnone : activeElems s mask = []
  · rw [hnone]
    exact completes_advance rfl
  · have hany : s.anyLit mask = true := by simpa [State.anyLit, activeElems] using hnone
    have hok : u.ws.vsd.tileOk d.toNat = true := by
      rw [(State.tasksStay_loadTileAccs hload).ws, State.tileOk_claim]
      exact hopen.2 hany
    rw [if_neg (by simpa using hnone), if_neg hnone, State.setTile_ok hok]
    exact completes_advance rfl

theorem loadTile_refused {y : Acc × Word × Nat} {c : Cause} {info : Word} (h : s.claim.Refuses y c info)
    (hlow : y ∈ moveLoads s mask a disp transposed ∧
      ∀ z ∈ moveLoads s mask a disp transposed, z.2.1.toNat ≤ y.2.1.toNat → z = y ∨ s.claim.Admits z) :
    s.finish (s.loadTile mask d a disp transposed) = .next (s.takeTrap c info) := by
  rw [State.loadTile_eq hops hrows hc hopen, State.lowestFault_refused h hlow]
  rfl

end

end

section
variable (hops : tileMoveOk a s.shape false = .ok ())
  (hrows : rowsAligned s.shape (s.g a) (s.g (GReg.next a)) disp s.shape.rows = .ok ())
  (hn : mask = 0 ∨ s.shape.count ≤ 1024)
  (hc : s.shape.ty = .lx8 → mask = 0 ∨ openGroup (activeElems s mask) s.shape.count = none)
include hops hrows hn hc

theorem exec_vst : exec (.vst mask d a disp) s = s.finish (do
    s.claim.lowestFault (moveStores s mask a disp)
    s.claim.storeTileAccs s.shape.ty ((activeElems s mask).contains ·) (s.claim.tile d) (moveAccs s mask a disp false)) := by
  have hclosed : (if s.shape.ty = .lx8 ∧ mask ≠ 0 then openGroup (activeElems s mask) s.shape.count else none) = none := by
    split
    · next h => exact (hc h.1).resolve_left h.2
    · rfl
  show execVst mask d a disp s = _
  simp only [execVst, hops, hrows, maskFits_ok hn, State.active_eq, hclosed, Eff.bind_ok]
  rfl

theorem vst_completes {u : State} (hreach : ∀ y ∈ moveStores s mask a disp, s.claim.Admits y)
    (hstore : s.claim.storeTileAccs s.shape.ty ((activeElems s mask).contains ·) (s.claim.tile d)
      (moveAccs s mask a disp false) = .ok u) : Completes (exec (.vst mask d a disp) s) u := by
  rw [exec_vst hops hrows hn hc, State.lowestFault_ok hreach, Eff.bind_ok, hstore]
  exact completes_advance rfl

theorem vst_refused {y : Acc × Word × Nat} {c : Cause} {info : Word} (h : s.claim.Refuses y c info)
    (hlow : y ∈ moveStores s mask a disp ∧
      ∀ z ∈ moveStores s mask a disp, z.2.1.toNat ≤ y.2.1.toNat → z = y ∨ s.claim.Admits z) :
    exec (.vst mask d a disp) s = .next (s.takeTrap c info) := by
  rw [exec_vst hops hrows hn hc, State.lowestFault_refused h hlow]
  rfl

end

end

/-! ### Elements of whole bytes in a local window (R151, R153) -/

theorem bits_of_pack {t : Elem} (h : t.pack = 1) : t.bits = 8 * t.accBytes := by
  revert h
  cases t <;> decide

theorem ne_fp4_of_pack {t : Elem} (h : t.pack = 1) : t ≠ .fp4 := by
  rintro rfl
  exact absurd h (by decide)

theorem ne_lx8_of_pack {t : Elem} (h : t.pack = 1) : t ≠ .lx8 := by
  rintro rfl
  exact absurd h (by decide)

theorem accBytes_dvd (t : Elem) : t.accBytes ∣ 2 ^ 64 := by cases t <;> decide

/-- Elements of one row are aligned where the row is (R197). -/
theorem aligned_element {n : Nat} (hn : n ∣ 2 ^ 64) {x : Word} (hx : x.toNat % n = 0) (c : Nat) :
    (x + BitVec.ofNat 64 (c * n)).toNat % n = 0 := by
  rw [BitVec.toNat_add, BitVec.toNat_ofNat, Nat.add_mod_mod, Nat.mod_mod_of_dvd _ hn, Nat.add_mul_mod_self_right, hx]

/-- An address of a local window names no place in physical memory (R15). -/
theorem State.resolve_local {s t : State} {acc : Acc} {a : Word} {n : Nat} {l : Loc} (hl : isLocal a = true)
    (h : s.resolve acc a n = .ok (l, t)) (pa : Nat) : l ≠ .phys pa := by
  rintro rfl
  rw [State.resolve, if_neg (by simp [isGlobal_of_isLocal hl]), if_neg (by simp [hl])] at h
  split at h
  · cases h
  · dsimp only at h
    split at h
    · split at h <;> cases h
    · split at h <;> cases h
    · split at h <;> cases h
    · cases h

/-- An address of a local window from which an element may be loaded: nothing there is damaged, and no ticket holds a line of
it (R204, R205, R299). -/
def State.Clear (v : State) (place : Word → Loc) (n : Nat) (x : Word) : Prop :=
  isLocal x = true ∧ (winSel x = 0 → 0x1000 ≤ winOff x) ∧ v.resolve .load x n = .ok (place x, v) ∧
    (∀ o, place x ≠ .mqw o) ∧ v.holders ((place x).lines n) = [] ∧ v.sound (place x) = true

section
variable {v : State} {place : Word → Loc} {n : Nat} {x : Word} (h : v.Clear place n x)
include h

theorem State.Clear.admits : v.Admits (.load, x, n) := by
  obtain ⟨-, hslot, hres, hwin, -⟩ := h
  exact ⟨fun hin => Nat.not_lt.2 (hslot hin.2.1) hin.2.2, _, hres, hwin⟩

/-- The load of such an element gives its bytes and changes nothing. -/
theorem State.Clear.loadMem (hx : x.toNat % n = 0) : v.loadMem false x n = .ok (v.bytesAt (place x) n, v) := by
  obtain ⟨hl, -, hres, hwin, hholders, hsound⟩ := h
  have hreach : v.Reaches .load x n (place x) v := ⟨hx, hres, hwin, hholders, hsound⟩
  have hplace := State.resolve_local hl hres
  rw [hreach.loadMem, State.loadTask_of_no_late fun pa hpa => absurd hpa (hplace pa), State.loadAt_local _ _ _ _ hplace]

end

/-- Accesses of one element each. -/
def elemAccs (A : Nat → Word) (n : Nat) (l : List Nat) : List TileAcc := l.map fun e => { addr := A e, bytes := n, elems := [e] }

theorem activeAccs_elemAccs (A : Nat → Word) (n : Nat) {act l : List Nat} {p : Nat → Bool} (hact : act = l.filter p) :
    activeAccs act (elemAccs A n l) = elemAccs A n act := by
  subst hact
  rw [activeAccs, elemAccs, elemAccs, List.filter_map]
  refine congrArg _ (List.filter_congr fun e he => ?_)
  simp [he]

theorem rowAccesses_pack {h : Shape} (hp : h.ty.pack = 1) (base stride disp : Word) : rowAccesses h base stride disp =
    elemAccs (fun e => rowBase base stride disp (e / h.cols) + BitVec.ofNat 64 (e % h.cols * h.ty.accBytes)) h.ty.accBytes
      (List.range h.count) := by
  simp only [rowAccesses, hp, Nat.div_one, Nat.one_mul, List.range_one, List.map_singleton, Nat.add_zero]
  rw [flatMap_range_map]
  simp only [Nat.div_add_mod']
  rfl

theorem transposedAccesses_eq (h : Shape) (base stride disp : Word) : transposedAccesses h base stride disp =
    elemAccs (fun e => rowBase base stride disp (e % h.cols) + BitVec.ofNat 64 (e / h.cols * h.ty.accBytes)) h.ty.accBytes
      (List.range h.count) := by
  rw [transposedAccesses, flatMap_range_map]
  simp only [Nat.div_add_mod']
  rfl

/-- Loads of active elements of whole bytes, one after another, put their bytes into the tile. -/
theorem State.loadTileAccs_elems {v : State} {place : Word → Loc} {ty : Elem} (hp : ty.pack = 1) {act : Nat → Bool}
    {A : Nat → Word} {l : List Nat} (hact : ∀ e ∈ l, act e = true)
    (hload : ∀ e ∈ l, v.loadMem false (A e) ty.accBytes = .ok (v.bytesAt (place (A e)) ty.accBytes, v)) (t : Tile) :
    v.loadTileAccs ty act (elemAccs A ty.accBytes l) t =
      .ok (tilePut t ty.bits (l.map fun e => (e, v.bytesAt (place (A e)) ty.accBytes)), v) := by
  induction l generalizing t with
  | nil => rfl
  | cons e l ih =>
    have hrest := ih (fun x hx => hact x (List.mem_cons_of_mem e hx)) (fun x hx => hload x (List.mem_cons_of_mem e hx))
      (tileSet t ty.bits e (v.bytesAt (place (A e)) ty.accBytes))
    have helem : tilePut t ty.bits (([e].filter act).map fun x =>
        (x, v.bytesAt (place (A e)) ty.accBytes >>> (ty.bits * (x - [e].headD 0)))) =
        tileSet t ty.bits e (v.bytesAt (place (A e)) ty.accBytes) := by
      rw [List.filter_singleton, hact e List.mem_cons_self]
      simp [tilePut]
    rw [elemAccs, List.map_cons, State.loadTileAccs, hload e List.mem_cons_self, Eff.bind_ok]
    dsimp only
    rw [if_neg (ne_lx8_of_pack hp), helem]
    exact hrest

section
variable {s : State} {mask : KReg} {d : VReg} {a : GReg} {disp : Word} {place : Word → Loc} (h0 : a ≠ 0)
  (he : a.getLsbD 0 = false) (hopen : s.TileOpen mask d) (hp : s.shape.ty.pack = 1)
include h0 he hopen hp

/-- A tile load of elements of whole bytes, each at its own address of a local window. -/
theorem loadTile_writes {transposed : Bool} {A : Nat → Word}
    (haccs : moveAccs s mask a disp transposed = elemAccs A s.shape.ty.accBytes (activeElems s mask))
    (hrows : ∀ r, r < (if transposed then s.shape.cols else s.shape.rows) →
      (rowBase (s.g a) (s.g (GReg.next a)) disp r).toNat % s.shape.ty.accBytes = 0)
    (halign : ∀ e ∈ activeElems s mask, (A e).toNat % s.shape.ty.accBytes = 0)
    (hclear : ∀ e ∈ activeElems s mask, s.claim.Clear place s.shape.ty.accBytes (A e)) :
    WritesTile (s.finish (s.loadTile mask d a disp transposed)) s.claim d (8 * s.shape.ty.accBytes) s.shape.count
      (s.claim.lit mask) (fun e => (s.claim.bytesAt (place (A e)) s.shape.ty.accBytes, 0)) id := by
  have hlx8 := ne_lx8_of_pack hp
  have hops : tileMoveOk a s.shape transposed = .ok () := by
    have hcols : s.shape.cols % s.shape.ty.pack = 0 := by rw [hp, Nat.mod_one]
    cases transposed with
    | false => exact tileMoveOk_rows h0 he hcols
    | true => exact tileMoveOk_transposed h0 he hcols (ne_fp4_of_pack hp) hlx8
  have hload := State.loadTileAccs_elems (act := ((activeElems s mask).contains ·)) hp
    (fun e h => List.contains_iff_mem.2 h) (fun e h => (hclear e h).loadMem (halign e h)) (s.claim.tile d)
  have hreach : ∀ y ∈ moveLoads s mask a disp transposed, s.claim.Admits y := by
    intro y hy
    rw [moveLoads, haccs, elemAccs, List.map_map] at hy
    obtain ⟨e, hact, rfl⟩ := List.mem_map.1 hy
    exact (hclear e hact).admits
  have hdone := loadTile_completes hops (rowsAligned_ok hrows) (fun h => absurd h hlx8) hopen hreach (haccs ▸ hload)
  rw [← bits_of_pack hp]
  unfold WritesTile
  split
  · next hany =>
    have hne : activeElems s mask ≠ [] := by simpa using hany
    rw [if_neg hne] at hdone
    refine ⟨_, tileGets_tilePut_map s.claim d (l := activeElems s mask) (fun e => by simp) (State.shape_fits hlx8) _, ?_⟩
    rw [flagsOf_zero, State.addFpf_zero]
    exact hdone
  · next hany =>
    have hnone : activeElems s mask = [] := by simpa using hany
    rwa [if_pos hnone] at hdone

theorem vld_local (hrows : ∀ r, r < s.shape.rows →
      (rowBase (s.g a) (s.g (GReg.next a)) disp r).toNat % s.shape.ty.accBytes = 0)
    (hclear : ∀ r c, r < s.shape.rows → c < s.shape.cols → s.claim.lit mask (r * s.shape.cols + c) = true →
      s.claim.Clear place s.shape.ty.accBytes
        (rowBase (s.g a) (s.g (GReg.next a)) disp r + BitVec.ofNat 64 (c * s.shape.ty.accBytes))) :
    WritesTile (exec (.vld mask d a disp) s) s.claim d (8 * s.shape.ty.accBytes) s.shape.count (s.claim.lit mask)
      (fun e => (s.claim.bytesAt (place (rowBase (s.g a) (s.g (GReg.next a)) disp (e / s.shape.cols) +
        BitVec.ofNat 64 (e % s.shape.cols * s.shape.ty.accBytes))) s.shape.ty.accBytes, 0)) id := by
  have hplace : ∀ e ∈ activeElems s mask, e / s.shape.cols < s.shape.rows ∧ e % s.shape.cols < s.shape.cols ∧
      s.claim.lit mask (e / s.shape.cols * s.shape.cols + e % s.shape.cols) = true := by
    intro e hact
    obtain ⟨he, hlit⟩ := List.mem_filter.1 hact
    refine ⟨Nat.div_lt_of_lt_mul ?_, Nat.mod_lt _ s.shape_cols_pos, by rwa [Nat.div_add_mod']⟩
    rw [Nat.mul_comm]
    exact List.mem_range.1 he
  refine loadTile_writes (transposed := false) h0 he hopen hp ?_ hrows
    (fun e hact => aligned_element (accBytes_dvd _) (hrows _ (hplace e hact).1) _)
    fun e hact => have ⟨hr, hc, hlit⟩ := hplace e hact; hclear _ _ hr hc hlit
  rw [moveAccs, if_neg Bool.false_ne_true, rowAccesses_pack hp]
  exact activeAccs_elemAccs _ _ rfl

theorem vldt_local (hrows : ∀ r, r < s.shape.cols →
      (rowBase (s.g a) (s.g (GReg.next a)) disp r).toNat % s.shape.ty.accBytes = 0)
    (hclear : ∀ r c, r < s.shape.cols → c < s.shape.rows → s.claim.lit mask (c * s.shape.cols + r) = true →
      s.claim.Clear place s.shape.ty.accBytes
        (rowBase (s.g a) (s.g (GReg.next a)) disp r + BitVec.ofNat 64 (c * s.shape.ty.accBytes))) :
    WritesTile (exec (.vldt mask d a disp) s) s.claim d (8 * s.shape.ty.accBytes) s.shape.count (s.claim.lit mask)
      (fun e => (s.claim.bytesAt (place (rowBase (s.g a) (s.g (GReg.next a)) disp (e % s.shape.cols) +
        BitVec.ofNat 64 (e / s.shape.cols * s.shape.ty.accBytes))) s.shape.ty.accBytes, 0)) id := by
  have hplace : ∀ e ∈ activeElems s mask, e % s.shape.cols < s.shape.cols ∧ e / s.shape.cols < s.shape.rows ∧
      s.claim.lit mask (e / s.shape.cols * s.shape.cols + e % s.shape.cols) = true := by
    intro e hact
    obtain ⟨he, hlit⟩ := List.mem_filter.1 hact
    refine ⟨Nat.mod_lt _ s.shape_cols_pos, Nat.div_lt_of_lt_mul ?_, by rwa [Nat.div_add_mod']⟩
    rw [Nat.mul_comm]
    exact List.mem_range.1 he
  refine loadTile_writes (transposed := true) h0 he hopen hp ?_ hrows
    (fun e hact => aligned_element (accBytes_dvd _) (hrows _ (hplace e hact).1) _)
    fun e hact => have ⟨hr, hc, hlit⟩ := hplace e hact; hclear _ _ hr hc hlit
  rw [moveAccs, if_pos rfl, transposedAccesses_eq]
  exact activeAccs_elemAccs _ _ rfl

end

/-- Settles O35: the moves by their accesses, whose lowest refusal is the trap, and the elements of a local window by their
own addresses. -/
theorem tileMoves : Obligations.TileMoves := by
  refine ⟨fun s u mask d a disp t => ?_, fun s mask d a disp place => ?_⟩
  · intro h base stride v act row accs inSlot good refused loads stores reach lowest h0 he hn hpack hopenGroup
    have hc : s.shape.ty = .lx8 → mask = 0 ∨ openGroup (activeElems s mask) s.shape.count = none := fun hty =>
      or_iff_not_imp_left.2 (hopenGroup hty)
    refine ⟨fun hrows => ?_, fun h4 h8 hrows => ?_⟩
    · have hops := tileMoveOk_rows (g := a) (h := s.shape) h0 he hpack
      have haligned := rowsAligned_ok (base := base) (stride := stride) (disp := disp) hrows
      exact ⟨fun hopen => loadTile_completes hops haligned hc hopen, fun y c info hy =>
        ⟨fun hopen => loadTile_refused hops haligned hc hopen hy, vst_refused hops haligned hn hc hy⟩,
        vst_completes hops haligned hn hc⟩
    · intro l hopen
      have hops := tileMoveOk_transposed (g := a) (h := s.shape) h0 he hpack h4 h8
      have haligned := rowsAligned_ok (base := base) (stride := stride) (disp := disp) hrows
      exact ⟨loadTile_completes hops haligned hc hopen, fun y c info => loadTile_refused hops haligned hc hopen⟩
  · intro h n v at' clear h0 he hopen hp
    have first (r : Nat) : at' r 0 = rowBase (s.g a) (s.g (GReg.next a)) disp r := by
      show _ + BitVec.ofNat 64 (0 * n) = _
      rw [Nat.zero_mul]
      exact BitVec.add_zero _
    simp only [first]
    exact ⟨vld_local h0 he hopen hp, vldt_local h0 he hopen hp⟩

end Sys2Proof.Machine
end

section
/-! PROOF. Pre-emption requests and saves (R143, R253, R365, R366): the slot of the saved task, step by step. -/

namespace Sys2Proof.Machine

/-! ### Requests (R366, R368) -/

/-- What a request makes of a task: the first one marks it (R366). -/
def Slot.asked (now : Nat) (t : Slot) : Slot :=
  if t.held && t.ws.ctl.pres == 0 && t.preempt.isNone then
    { t with preempt := some now, ws := { t.ws with ctl := { t.ws.ctl with pres := 1 } } }
  else t

theorem exec_preemptionRequest (s : State) (cid i : Nat) :
    exec (.preemptionRequest cid (some i)) s = .next (s.modSlot cid i (Slot.asked s.now)) := rfl

theorem exec_preemptionRequest_core (s : State) (cid : Nat) : exec (.preemptionRequest cid none) s =
    .next ((List.range 8).foldl (fun t i => t.modSlot cid i (Slot.asked s.now)) s) := rfl

section
variable {t : Slot} (now : Nat)

theorem Slot.asked_first (hh : t.held = true) (hp : t.ws.ctl.pres = 0) (hr : t.preempt = none) :
    t.asked now = { t with preempt := some now, ws := { t.ws with ctl := { t.ws.ctl with pres := 1 } } } := by
  rw [Slot.asked, if_pos (by simp [hh, hp, hr])]

theorem Slot.asked_again (hp : t.ws.ctl.pres ≠ 0) : t.asked now = t := by
  have hpres : (t.ws.ctl.pres == 0) = false := beq_eq_false_iff_ne.2 hp
  rw [Slot.asked, hpres, Bool.and_false, Bool.false_and, if_neg Bool.false_ne_true]

end

/-- A change of a slot is what it makes of that slot. -/
theorem State.modSlot_congr {s : State} {cid i : Nat} {f g : Slot → Slot}
    (h : f ((s.core cid).slot i) = g ((s.core cid).slot i)) : s.modSlot cid i f = s.modSlot cid i g := by
  rw [State.modSlot, State.modSlot, State.modCore, State.modCore, Core.modSlot, Core.modSlot, h]

/-- One change of each of the first n slots of a core. -/
theorem State.slot_foldl_modSlot (s : State) (cid n : Nat) (f : Slot → Slot) {j : Nat} (hj : j < 8) :
    (((List.range n).foldl (fun t i => t.modSlot cid i f) s).core cid).slot j =
      if j < n then f ((s.core cid).slot j) else (s.core cid).slot j := by
  induction n with
  | zero => rfl
  | succ n ih =>
    rw [List.range_succ, List.foldl_append, List.foldl_cons, List.foldl_nil, State.slot_modSlot]
    rcases Nat.lt_trichotomy j n with h | rfl | h
    · rw [if_neg (by omega), ih, if_pos h, if_pos (by omega)]
    · rw [if_pos ⟨rfl, rfl, hj⟩, ih, if_neg (by omega), if_pos (by omega)]
    · rw [if_neg (by omega), ih, if_neg (by omega), if_neg (by omega)]

/-! ### What a save reads beside the slot -/

/-- t has x in a slot; the tickets of its core, memory, the damaged units, and what says where a point is listed stay. -/
structure State.Reslots (s t : State) (cid slot : Nat) (x : Slot) : Prop where
  slot : (t.core cid).slot slot = x
  tickets : (t.core cid).tickets = (s.core cid).tickets
  mem : t.mem = s.mem
  damaged : t.damaged = s.damaged
  contexts : t.contexts = s.contexts
  owner : ∀ k, (t.cluster k).owner = (s.cluster k).owner

section
variable {s t u : State} {cid slot : Nat} {x y : Slot}

theorem State.Reslots.refl (s : State) (cid slot : Nat) : s.Reslots s cid slot ((s.core cid).slot slot) :=
  ⟨rfl, rfl, rfl, rfl, rfl, fun _ => rfl⟩

theorem State.Reslots.trans (h : s.Reslots t cid slot x) (k : t.Reslots u cid slot y) : s.Reslots u cid slot y :=
  ⟨k.slot, k.tickets.trans h.tickets, k.mem.trans h.mem, k.damaged.trans h.damaged, k.contexts.trans h.contexts,
    fun c => (k.owner c).trans (h.owner c)⟩

theorem State.Reslots.listed (h : s.Reslots t cid slot x) (a : Word) :
    t.listed ((t.cxOf cid).getD 0) a = s.listed ((s.cxOf cid).getD 0) a := by
  simp only [State.listed, State.ctxCfg, State.cxOf, h.contexts, h.owner]

/-- A core that is changed in nothing but the slot, and what its tickets do not hold. -/
theorem State.Reslots.modCore (h : s.Reslots t cid slot x) {f : Core → Core} (hslot : (f (t.core cid)).slot slot = y)
    (htickets : (f (t.core cid)).tickets = (t.core cid).tickets) : s.Reslots (t.modCore cid f) cid slot y where
  slot := by rw [State.core_modCore, if_pos rfl, hslot]
  tickets := by rw [State.core_modCore, if_pos rfl, htickets, h.tickets]
  mem := (t.setCore_mem cid _).trans h.mem
  damaged := (t.setCore_damaged cid _).trans h.damaged
  contexts := (t.setCore_contexts cid _).trans h.contexts
  owner k := by
    rw [← h.owner k, State.cluster, State.cluster, State.modCore, State.setCore_clusters]

theorem State.Reslots.modSlot (h : s.Reslots t cid slot x) (hi : slot < 8) (f : Slot → Slot) :
    s.Reslots (t.modSlot cid slot f) cid slot (f x) :=
  h.modCore (by rw [Core.modSlot, Core.slot_setSlot, if_pos ⟨rfl, hi⟩, h.slot]) rfl

theorem State.Reslots.modCluster (h : s.Reslots t cid slot x) (k : Nat) {f : Cluster → Cluster}
    (hf : (f (t.cluster k)).owner = (t.cluster k).owner) : s.Reslots (t.modCluster k f) cid slot x where
  slot := h.slot
  tickets := h.tickets
  mem := h.mem
  damaged := h.damaged
  contexts := h.contexts
  owner j := by
    rw [State.cluster_modCluster, ← h.owner j]
    split
    · next hj => rw [hj, hf]
    · rfl

theorem State.Reslots.modLate (h : s.Reslots t cid slot x) (k : Nat) (f : List Late → List Late) :
    s.Reslots (t.modLate k f) cid slot x := by
  unfold State.modLate
  split
  · exact h
  · exact h.modCluster k rfl

theorem State.Reslots.dropCopies (h : s.Reslots t cid slot x) (k : Nat) (p : Nat → Bool) :
    s.Reslots (t.dropCopies k p) cid slot x := h.modCluster k rfl

theorem State.Reslots.unwait (h : s.Reslots t cid slot x) : s.Reslots (t.unwait cid slot) cid slot x := { h with }

theorem State.Reslots.trigger (h : s.Reslots t cid slot x) (n : Nat) : s.Reslots (t.trigger n) cid slot x := by
  obtain ⟨k, l, ht⟩ := t.trigger_eq n
  rw [ht]
  exact { h with }

theorem State.Reslots.acquireFor (h : s.Reslots t cid slot x) (w : Nat × Nat) (sc : Scope) (p : Nat → Bool) :
    s.Reslots (t.acquireFor w sc p) cid slot x := by
  unfold State.acquireFor
  split
  · exact (h.dropCopies _ p).modLate _ _
  · exact h.modLate _ _

end

/-! ### Saving a task (R143, R253, R366) -/

/-- A task that a save leaves in its slot (R143, R366): its live tiles are those that mask names. -/
def Slot.saved (t : Slot) (mask : Option Word) : Slot :=
  { t with
    members := [], recompose := false, wait := t.wait.filter Wait.lasts, reply := none, preempt := none, woken := none
    liveAt := mask
    ws := { t.ws with
      vsd := { t.ws.vsd with
        vused := t.ws.vsd.vused &&& (match mask with | some m => m.extractLsb' 32 16 | none => 0xFFFF)
        vhome := false }
      ctl := { t.ws.ctl with pres := if mask.isSome then 2 else 3 }
      tsw := { t.ws.tsw with state := .saved } } }

/-- A task that holds no tickets, has no lent core and no lost register, in a machine where nothing is damaged. -/
structure State.SavesPlainly (s : State) (cid slot : Nat) : Prop where
  tickets : (s.core cid).ownTickets slot = []
  members : ((s.core cid).slot slot).members = []
  lost : ((s.core cid).slot slot).lost = []
  damaged : s.damaged = []

theorem Core.slot_saveTiles (c : Core) {i : Nat} (hi : i < 8) (live : BitVec 16) : (c.saveTiles i live).slot i =
    { c.slot i with ws := { (c.slot i).ws with
      vsd := { (c.slot i).ws.vsd with vused := (c.slot i).ws.vsd.vused &&& live, vhome := false } } } :=
  (Core.slot_setSlot _ i i _).trans (if_pos ⟨rfl, hi⟩)

/-- Where nothing is damaged, saving tiles changes their core alone (R144, R375). -/
theorem State.saveTiles_undamaged {s : State} (h : s.damaged = []) (cid i : Nat) (live : BitVec 16) :
    s.saveTiles cid i live = s.modCore cid fun c => c.saveTiles i live := by
  have hmend (t : State) (ht : t.damaged = []) (l : List (Nat × Nat)) : t.mendLm cid l = t := by
    rw [State.mendLm, ht]
    rfl
  have hcore : (s.modCore cid fun c => c.saveTiles i live).damaged = [] := (s.setCore_damaged cid _).trans h
  have hno (l : List (Nat × Nat)) : s.lmHit cid l = false := by
    rw [State.lmHit, h]
    rfl
  simp only [State.saveTiles, hno, hmend _ hcore, Bool.and_false, Bool.false_eq_true, if_false, ite_self]

section
variable {s t : State} {cid slot : Nat} {x : Slot}

theorem State.Reslots.performStores (h : s.Reslots t cid slot x) (w : Nat × Nat) :
    s.Reslots (t.performStores w) cid slot x := h.modLate _ _

theorem State.Reslots.saveTiles (h : s.Reslots t cid slot x) (hi : slot < 8) (hd : s.damaged = []) (live : BitVec 16) :
    s.Reslots (t.saveTiles cid slot live) cid slot { x with ws := { x.ws with
      vsd := { x.ws.vsd with vused := x.ws.vsd.vused &&& live, vhome := false } } } := by
  rw [State.saveTiles_undamaged (h.damaged.trans hd)]
  exact h.modCore (by rw [Core.slot_saveTiles _ hi, h.slot]) rfl

/-- Hand-back of a task without lent cores and lost registers (R295, R299). -/
theorem State.SavesPlainly.handBack (h : s.SavesPlainly cid slot) (hi : slot < 8) (live : BitVec 16) :
    s.Reslots (s.handBack cid slot live) cid slot { (s.core cid).slot slot with members := [], recompose := false } := by
  have hunask : s.Reslots (s.unask cid slot) cid slot ((s.core cid).slot slot) :=
    (State.Reslots.refl s cid slot).modCluster (clusterOf cid) rfl
  have hback := hunask.modSlot hi fun t => { t.zeroLost with members := [], recompose := false }
  rw [Slot.zeroLost_of_none h.lost] at hback
  rw [State.handBack_single s h.members]
  exact hback

/-- The tiles that a save keeps (R144): all of them, or those that a listed point marks live. -/
def liveTiles (mask : Option Word) : BitVec 16 :=
  match mask with
  | some m => m.extractLsb' 32 16
  | none => 0xFFFF

/-- What a save writes of the slot itself (R366). -/
def Slot.markSaved (t : Slot) (mask : Option Word) : Slot :=
  { t with
    wait := t.wait.filter Wait.lasts, reply := none, preempt := none, woken := none, liveAt := mask
    ws := { t.ws with
      ctl := { t.ws.ctl with pres := if mask.isSome then 2 else 3 }
      tsw := { t.ws.tsw with state := .saved } } }

/-- The save of a task that holds no tickets. -/
theorem State.saveTask_eq (h : (s.core cid).ownTickets slot = []) (mask : Option Word) : s.saveTask cid slot mask =
    ((((s.handBack cid slot (liveTiles mask)).unwait cid slot).performStores (s.who cid slot)).saveTiles cid slot
      (liveTiles mask)).modSlot cid slot fun t => t.markSaved mask := by
  unfold State.saveTask
  rw [h]
  rfl

theorem State.saveTask_reslots (h : s.SavesPlainly cid slot) (hi : slot < 8) (mask : Option Word) :
    s.Reslots (s.saveTask cid slot mask) cid slot (((s.core cid).slot slot).saved mask) := by
  rw [State.saveTask_eq h.tickets]
  exact (((h.handBack hi (liveTiles mask)).unwait.performStores _).saveTiles hi h.damaged _).modSlot hi
    fun t => t.markSaved mask

end

/-! ### What a saved task keeps (R253, R275, R366) -/

/-- The task in a slot of s, saved in that slot of t at pc under a listed point's entry, or in full. -/
def State.SavedAs (s t : State) (cid slot : Nat) (pc : Word) (live : Option Word) : Prop :=
  let t0 := (s.core cid).slot slot
  let x := (t.core cid).slot slot
  x.held = true ∧ x.ws.tsw.state = .saved ∧ x.ws.ctl.pres = (if live.isSome then 2 else 3) ∧ x.ws.pc = pc ∧
    x.ws.mb = t0.ws.mb ∧ x.wait = (match t0.wait with | some (.blocked ch) => some (.blocked ch) | _ => none) ∧
    x.woken = none ∧ x.preempt = none ∧ x.liveAt = live ∧ x.taskId = t0.taskId ∧ x.queues = t0.queues ∧
    t.mem = s.mem ∧ x.ws.vsd.vused = match live with
      | some e => t0.ws.vsd.vused &&& BitVec.ofNat 16 (e.toNat / 2 ^ 32)
      | none => t0.ws.vsd.vused

/-- What a save of u keeps is what a save of t keeps, but for the registers g and the PC. -/
structure Slot.SavesLike (t u : Slot) : Prop where
  mb : u.ws.mb = t.ws.mb
  wait : u.wait.filter Wait.lasts = t.wait.filter Wait.lasts
  taskId : u.taskId = t.taskId
  queues : u.queues = t.queues
  vused : u.ws.vsd.vused = t.ws.vsd.vused

theorem Slot.SavesLike.refl (t : Slot) : t.SavesLike t := ⟨rfl, rfl, rfl, rfl, rfl⟩

theorem Wait.filter_lasts (w : Option Wait) :
    w.filter Wait.lasts = match w with | some (.blocked ch) => some (.blocked ch) | _ => none := by
  rcases w with _ | w
  · rfl
  · cases w <;> rfl

/-- A save keeps the tiles that the point marks live, or every one (R144). -/
theorem Slot.saved_vused (t : Slot) (live : Option Word) : (t.saved live).ws.vsd.vused = match live with
    | some e => t.ws.vsd.vused &&& BitVec.ofNat 16 (e.toNat / 2 ^ 32)
    | none => t.ws.vsd.vused := by
  cases live with
  | some e => exact congrArg (t.ws.vsd.vused &&& ·) (extractLsb'_eq_ofNat e 32 16)
  | none => exact BitVec.and_allOnes

theorem State.savedAs_of_reslots {s t : State} {cid slot : Nat} {u : Slot} {live : Option Word}
    (h : s.Reslots t cid slot (u.saved live)) (hheld : u.held = true) (hu : ((s.core cid).slot slot).SavesLike u) :
    s.SavedAs t cid slot u.ws.pc live := by
  unfold State.SavedAs
  dsimp only
  rw [h.slot]
  refine ⟨hheld, rfl, rfl, rfl, hu.mb, hu.wait.trans (Wait.filter_lasts _), rfl, rfl, rfl, hu.taskId, hu.queues, h.mem, ?_⟩
  rw [Slot.saved_vused, hu.vused]

/-! ### A parked WAITA completes before its task is saved (R225, R366) -/

/-- A task whose WAITA has completed with v into d, outside a REP body (R225). -/
def Slot.waitEnded (t : Slot) (now : Nat) (d : GReg) (v : Word) : Slot :=
  { t with
    wait := none, runSince := now, reply := none
    ws := { t.ws.setReg (t.ws.ctl.phys d) v with
      pc := t.ws.pc + BitVec.ofNat 64 (2 * t.chainLen)
      tsw := { t.ws.tsw with state := .runnable } } }

/-- The same, inside a REP body too: one that returns to its start begins a block there (R74, R130). -/
def Slot.waitCompleted (now : Nat) (d : GReg) (v : Word) (t : Slot) : Slot :=
  let r := t.ws.ctl.afterBody t.chainLen
  { ({ t with
      block := if r.2 = 0 then t.block else none
      ws := { t.ws.setReg (t.ws.ctl.phys d) v with
        pc := t.ws.pc + BitVec.ofNat 64 (2 * t.chainLen) - r.2, ctl := r.1 } } : Slot).wake now with reply := none }

theorem Slot.waitCompleted_of_noRep {t : Slot} (h : t.ws.ctl.repA = false) (now : Nat) (d : GReg) (v : Word) :
    t.waitCompleted now d v = t.waitEnded now d v := by
  unfold Slot.waitCompleted
  have hzero (a : Word) : a - 0 = a := BitVec.sub_zero a
  rw [Ctl.afterBody_off _ _ h]
  dsimp only
  rw [if_pos rfl, hzero]
  rfl

section
variable {s t : State} {cid slot : Nat} {x : Slot}

/-- A slot after n bytes from o of its workspace are written (R375). -/
def Slot.mended (o n : Nat) (t : Slot) : Slot :=
  { t with lost := t.lost.filter fun r => !decide (o ≤ 8 * r ∧ 8 * r + 8 ≤ o + n) }

theorem Slot.mended_of_none (h : x.lost = []) (o n : Nat) : x.mended o n = x := by
  rw [Slot.mended, h, List.filter_nil, ← h]

/-- Where nothing is damaged and the slot has lost no register, writing one of its registers whole changes nothing of it (R375). -/
theorem State.mendReg_reslots (s : State) (hi : slot < 8) (hlost : ((s.core cid).slot slot).lost = []) (hd : s.damaged = [])
    {r : Nat} (hr : r < 64) : s.Reslots (s.mendReg cid slot r) cid slot ((s.core cid).slot slot) := by
  have hslot : (512 * slot + 8 * r) / 512 = slot := by omega
  have hsame : s.Reslots { s with damaged := [] } cid slot ((s.core cid).slot slot) :=
    { State.Reslots.refl s cid slot with damaged := hd.symm }
  have hmod := hsame.modSlot hi (Slot.mended ((512 * slot + 8 * r) % 512) 8)
  rw [Slot.mended_of_none hlost] at hmod
  unfold State.mendReg State.mend
  split
  · exact .refl s cid slot
  · rw [hd]
    dsimp only [List.filter_nil]
    rw [hslot]
    split
    · exact hmod
    · exact hsame

theorem State.Reslots.seeHome (h : s.Reslots t cid slot x) (w : Nat × Nat) (line : Nat) :
    s.Reslots (t.seeHome w line) cid slot x := (h.dropCopies _ _).modLate _ _

/-- What a task sees when its wait ends: the line that it waited on, and what its acquire asks for (R217, R224). -/
def State.afterWait (s : State) (w : Nat × Nat) (wait : Option Wait) (acq : Option Scope) : State :=
  let s1 := match wait with
    | some (.waita (.phys pa) _ _ _ _ _) => s.seeHome w (pa / 64)
    | _ => s
  match acq with
  | some sc => s1.acquireFor w sc fun _ => true
  | none => s1

theorem State.Reslots.afterWait (h : s.Reslots t cid slot x) (w : Nat × Nat) (wait : Option Wait) (acq : Option Scope) :
    s.Reslots (t.afterWait w wait acq) cid slot x := by
  unfold State.afterWait
  dsimp only
  split <;> split
  · exact (h.seeHome _ _).acquireFor _ _ _
  · exact h.acquireFor _ _ _
  · exact h.seeHome _ _
  · exact h

theorem State.completeWaita_eq (s : State) (cid slot : Nat) (d : GReg) (acq : Option Scope) (v : Word) :
    s.completeWaita cid slot d acq v =
      ((s.mendReg cid slot (((s.core cid).slot slot).ws.ctl.phys d).toNat).modSlot cid slot
        (Slot.waitCompleted s.now d v)).afterWait (s.who cid slot) ((s.core cid).slot slot).wait acq := rfl

/-- A WAITA outside a REP body completes in its slot (R225). -/
theorem State.completeWaita_reslots (hi : slot < 8) (hlost : ((s.core cid).slot slot).lost = []) (hd : s.damaged = [])
    (hrep : ((s.core cid).slot slot).ws.ctl.repA = false) (d : GReg) (acq : Option Scope) (v : Word) :
    s.Reslots (s.completeWaita cid slot d acq v) cid slot (((s.core cid).slot slot).waitEnded s.now d v) := by
  have hreg : (((s.core cid).slot slot).ws.ctl.phys d).toNat < 64 :=
    (((s.core cid).slot slot).ws.ctl.phys d).isLt.trans (by decide)
  have hdone := (s.mendReg_reslots hi hlost hd hreg).modSlot hi (Slot.waitCompleted s.now d v)
  rw [Slot.waitCompleted_of_noRep hrep] at hdone
  rw [State.completeWaita_eq]
  exact hdone.afterWait _ _ _

/-- Where the word is sound and its line is cached nowhere, a wait reads it at its home and changes nothing (R222, R225). -/
theorem State.waitRead_waita {a : Loc} (hu : s.Uncached a) (w64 : Bool) (e : Word) (d : GReg) (acq : Option Scope) (va : Word) :
    s.waitRead (.waita a w64 e d acq va) = (s.waitValue (.waita a w64 e d acq va), s) := by
  cases a with
  | phys pa =>
    have hline : s.combineLine (pa / 64) = s := State.combineLine_of_noULine (State.noULine_of_uncached hu)
    show (State.waitValue (s.combineLine (pa / 64)) _, s.combineLine (pa / 64)) = _
    rw [hline]
  | lm | csp | dsw | mqw => rfl

/-- A request completes a parked WAITA with what its home holds (R225, R366). -/
theorem State.finishWaita_reslots {a : Loc} {w64 : Bool} {e : Word} {d : GReg} {acq : Option Scope} {va : Word}
    (hi : slot < 8) (hwait : ((s.core cid).slot slot).wait = some (.waita a w64 e d acq va)) (hs : s.sound a = true)
    (hu : s.Uncached a) (hlost : ((s.core cid).slot slot).lost = []) (hd : s.damaged = [])
    (hrep : ((s.core cid).slot slot).ws.ctl.repA = false) :
    s.Reslots (s.finishWaita cid slot) cid slot
      (((s.core cid).slot slot).waitEnded s.now d (s.waitValue (.waita a w64 e d acq va))) := by
  have hclean : s.waitDamage cid (.waita a w64 e d acq va) = none := by
    rw [State.waitDamage, State.damagedByte, if_pos hs]
    rfl
  rw [State.finishWaita, hwait]
  dsimp only
  rw [State.endWaitNow, hwait]
  dsimp only
  rw [hclean]
  dsimp only
  rw [State.waitRead_waita hu, State.endWait, hwait]
  exact (State.completeWaita_reslots hi hlost hd hrep d acq _).unwait

theorem State.finishWaita_of_not (h : ∀ a b d e f g, ((s.core cid).slot slot).wait ≠ some (.waita a b d e f g)) :
    s.finishWaita cid slot = s := by
  unfold State.finishWaita
  split
  · next hw => exact absurd hw (h _ _ _ _ _ _)
  · rfl

/-- What a save reads beside the slot stays, so the task may be saved as plainly. -/
theorem State.SavesPlainly.reslots (h : s.SavesPlainly cid slot) (k : s.Reslots t cid slot x)
    (htask : x.taskId = ((s.core cid).slot slot).taskId) (hmembers : x.members = []) (hlost : x.lost = []) :
    t.SavesPlainly cid slot where
  tickets := by
    have htickets := h.tickets
    unfold Core.ownTickets Core.ticket at htickets ⊢
    rw [k.slot, k.tickets, htask]
    exact htickets
  members := by rw [k.slot, hmembers]
  lost := by rw [k.slot, hlost]
  damaged := k.damaged.trans h.damaged

end

/-! ### The two saves (R366, R377) -/

section
variable {s : State} {cid slot : Nat} (h : s.SavesPlainly cid slot) (hi : slot < 8)
  (hheld : ((s.core cid).slot slot).held = true)
include h hi hheld

/-- A save leaves the task SAVED at its PC with its registers (R366). -/
theorem State.saveTask_savedAs (mask : Option Word) :
    s.SavedAs (s.saveTask cid slot mask) cid slot ((s.core cid).slot slot).ws.pc mask ∧
      (((s.saveTask cid slot mask).core cid).slot slot).ws.g = ((s.core cid).slot slot).ws.g := by
  have hsave := State.saveTask_reslots h hi mask
  exact ⟨State.savedAs_of_reslots hsave hheld (.refl _), by rw [hsave.slot]; rfl⟩

/-- A request is met at a parked or trapped task that awaits nothing of a home. -/
theorem State.meetRequest_savedAs (hwait : ∀ a b d e f g, ((s.core cid).slot slot).wait ≠ some (.waita a b d e f g)) :
    s.SavedAs (s.meetRequest cid slot) cid slot ((s.core cid).slot slot).ws.pc
        (s.listed ((s.cxOf cid).getD 0) ((s.core cid).slot slot).ws.pc) ∧
      (((s.meetRequest cid slot).core cid).slot slot).ws.g = ((s.core cid).slot slot).ws.g := by
  rw [State.meetRequest, State.finishWaita_of_not hwait]
  exact State.saveTask_savedAs h hi hheld _

/-- A request at a task parked in WAITA completes it, and saves the task behind it. -/
theorem State.meetRequest_waita {a : Loc} {w64 : Bool} {e : Word} {d : GReg} {acq : Option Scope} {va : Word}
    (hwait : ((s.core cid).slot slot).wait = some (.waita a w64 e d acq va)) (hs : s.sound a = true) (hu : s.Uncached a)
    (hrep : ((s.core cid).slot slot).ws.ctl.repA = false) :
    let t0 := (s.core cid).slot slot
    let next := t0.ws.pc + BitVec.ofNat 64 (2 * t0.chainLen)
    s.SavedAs (s.meetRequest cid slot) cid slot next (s.listed ((s.cxOf cid).getD 0) next) ∧
      (((s.meetRequest cid slot).core cid).slot slot).ws.g =
        t0.ws.g.set (t0.ws.ctl.phys d).toNat (s.waitValue (.waita a w64 e d acq va)) := by
  intro t0 next
  have hend := State.finishWaita_reslots hi hwait hs hu h.lost h.damaged hrep
  have hsave := State.saveTask_reslots (h.reslots hend rfl h.members h.lost) hi (s.listed ((s.cxOf cid).getD 0) next)
  have hlike : t0.SavesLike (t0.waitEnded s.now d (s.waitValue (.waita a w64 e d acq va))) :=
    ⟨rfl, by show none = _; rw [show t0.wait = _ from hwait]; rfl, rfl, rfl, rfl⟩
  have hmeet : s.meetRequest cid slot =
      (s.finishWaita cid slot).saveTask cid slot (s.listed ((s.cxOf cid).getD 0) next) := by
    rw [State.meetRequest, hend.listed, hend.slot]
    rfl
  rw [hmeet]
  rw [hend.slot] at hsave
  have hall := hend.trans hsave
  exact ⟨State.savedAs_of_reslots hall hheld hlike, by rw [hall.slot]; rfl⟩

end

section
variable {s : State} {cid slot : Nat} (hheld : ((s.core cid).slot slot).held = true)
  (hreq : ((s.core cid).slot slot).preempt.isSome = true)
include hheld hreq

/-- What PREEMPTION_SAVE does with a request that stands, by the state of its task. -/
theorem exec_preemptionSave_pending : exec (.preemptionSave cid slot) s =
    match ((s.core cid).slot slot).ws.tsw.state with
    | .runnable =>
      if (s.listed ((s.cxOf cid).getD 0) ((s.core cid).slot slot).ws.pc).isSome then .next (s.meetAtBoundary cid slot)
      else .next s
    | .parked => if ((s.core cid).slot slot).awaitsReply then .next s else .next (s.meetRequest cid slot)
    | .trapped => .next (s.meetRequest cid slot)
    | .saved => .next s := by
  show execPreemptionSave cid slot s = _
  have hnone : ((s.core cid).slot slot).preempt.isNone = false := by
    rw [← Option.not_isSome, hreq]
    rfl
  exact if_neg (by simp [hnone, hheld])

theorem exec_preemptionSave_trapped (hst : ((s.core cid).slot slot).ws.tsw.state = .trapped) :
    exec (.preemptionSave cid slot) s = .next (s.meetRequest cid slot) := by
  rw [exec_preemptionSave_pending hheld hreq, hst]

theorem exec_preemptionSave_parked (hst : ((s.core cid).slot slot).ws.tsw.state = .parked)
    (hreply : ((s.core cid).slot slot).awaitsReply = false) :
    exec (.preemptionSave cid slot) s = .next (s.meetRequest cid slot) := by
  rw [exec_preemptionSave_pending hheld hreq, hst, hreply]
  rfl

theorem exec_preemptionSave_listed {m : Word} (hst : ((s.core cid).slot slot).ws.tsw.state = .runnable)
    (hm : s.listed ((s.cxOf cid).getD 0) ((s.core cid).slot slot).ws.pc = some m) :
    exec (.preemptionSave cid slot) s = .next (s.saveTask cid slot (some m)) := by
  rw [exec_preemptionSave_pending hheld hreq, hst, hm, State.meetAtBoundary, hm]
  rfl

theorem exec_preemptionSave_unlisted (hst : ((s.core cid).slot slot).ws.tsw.state = .runnable)
    (hm : s.listed ((s.cxOf cid).getD 0) ((s.core cid).slot slot).ws.pc = none) :
    exec (.preemptionSave cid slot) s = .next s := by
  rw [exec_preemptionSave_pending hheld hreq, hst, hm]
  rfl

end

/-- The forced save, at no listed point, keeps everything, and raises trigger 132 (R366, R377). -/
theorem exec_preemptionForcedSave_unlisted {s : State} {cid slot : Nat} (hheld : ((s.core cid).slot slot).held = true)
    (hst : ((s.core cid).slot slot).ws.tsw.state = .runnable) (hdue : s.requestDue cid slot = true)
    (hm : s.listed ((s.cxOf cid).getD 0) ((s.core cid).slot slot).ws.pc = none) :
    exec (.preemptionForcedSave cid slot) s = .next ((s.saveTask cid slot none).trigger 132) := by
  show execPreemptionForcedSave cid slot s = _
  unfold execPreemptionForcedSave
  rw [if_pos (by simp [hheld, hst, hdue]), State.meetAtBoundary, hm]

/-- A trigger leaves the saved task as it is (R377). -/
theorem State.trigger_savedAs {s : State} {cid slot : Nat} (h : s.SavesPlainly cid slot) (hi : slot < 8)
    (hheld : ((s.core cid).slot slot).held = true) (n : Nat) :
    s.SavedAs ((s.saveTask cid slot none).trigger n) cid slot ((s.core cid).slot slot).ws.pc none ∧
      ((((s.saveTask cid slot none).trigger n).core cid).slot slot).ws.g = ((s.core cid).slot slot).ws.g := by
  have hsave := (State.saveTask_reslots h hi none).trigger n
  exact ⟨State.savedAs_of_reslots hsave hheld (.refl _), by rw [hsave.slot]; rfl⟩

end Sys2Proof.Machine
end

section
/-! PROOF. A saved task's slot is freed, and the task resumes there, or in a free slot of its core (R143, R253, R366 to R368,
R376); the proof that settles the statement about pre-emption. -/

namespace Sys2Proof.Machine

/-! ### A slot is freed (R367, R376) -/

section
variable {s : State} {cid slot : Nat}

theorem State.linkedBy_eq_false (hslots : ∀ i, i < 8 → ((s.core cid).slot i).link ≠ some slot)
    (hsaved : ∀ y ∈ s.savedTasks, ¬ (y.cid = cid ∧ y.task.link = some slot)) : s.linkedBy cid slot = false := by
  rw [State.linkedBy, Bool.or_eq_false_iff, List.any_eq_false, List.any_eq_false]
  constructor
  · intro i hi
    have hlink := hslots i (List.mem_range.1 hi)
    simp [hlink]
  · intro y hy hlinked
    simp only [Bool.and_eq_true, beq_iff_eq] at hlinked
    exact hsaved y hy ⟨hlinked.1.1, hlinked.2⟩

variable (hheld : ((s.core cid).slot slot).held = true) (hst : ((s.core cid).slot slot).ws.tsw.state = .saved)
include hheld hst

/-- A saved task to which no handler is linked, and no command belongs, is copied out; its slot is freed (R367). -/
theorem exec_savedTaskSlotRelease_free (hlink : s.linkedBy cid slot = false)
    (hdue : ((s.core cid).slot slot).handlerDue = false) (hrun : ∀ r ∈ (s.core cid).runList, r.kind ≠ .handler slot)
    (hmx : ∀ x ∈ (s.core cid).mx.queue, ¬ (x.slot = slot ∧ x.act = ((s.core cid).slot slot).actNo))
    (hclean : s.taskClean cid slot = true) :
    exec (.savedTaskSlotRelease cid slot) s =
      .next (({ s with savedTasks := s.savedTasks ++
        [{ cid := cid, slot := slot, cx := (s.cxOf cid).getD 0, task := (s.core cid).slot slot,
           area := (s.core cid).lm.within ((s.core cid).slot slot).ws.vsd.area.1
             (((s.core cid).slot slot).ws.vsd.area.1 + ((s.core cid).slot slot).ws.vsd.area.2) }] } : State).modSlot cid slot
        fun t => { Slot.reset with actNo := t.actNo }) := by
  have hhandler : ((s.core cid).runList.any fun r => r.kind == .handler slot) = false := by
    simpa [List.any_eq_false] using hrun
  have hqueue : ((s.core cid).mx.queue.any fun m => m.slot == slot && m.act == ((s.core cid).slot slot).actNo) = false := by
    simpa [List.any_eq_false] using hmx
  show execSavedTaskSlotRelease cid slot s = _
  unfold execSavedTaskSlotRelease
  dsimp only
  rw [hlink, hdue, hhandler, hqueue, hclean, hheld, hst]
  rfl

end

/-- Firmware does not release a task that it cannot read clean (R376). -/
theorem exec_savedTaskSlotRelease_unclean {s : State} {cid slot : Nat} (hclean : s.taskClean cid slot = false) :
    exec (.savedTaskSlotRelease cid slot) s = .next s := by
  show execSavedTaskSlotRelease cid slot s = _
  unfold execSavedTaskSlotRelease
  dsimp only
  rw [hclean, Bool.and_false, if_neg Bool.false_ne_true]

/-! ### Resumption (R195, R297, R367) -/

/-- The entry that says which registers of a saved task are live: none where everything was saved (R367). -/
def Slot.liveMask (y : Slot) : Option Word := if y.ws.ctl.pres = 2 then y.liveAt else none

/-- The workspace with which a saved task resumes (R367). -/
def Slot.resumeWs (y : Slot) : Workspace :=
  let w := match y.liveMask with
    | some m => y.ws.clearDead m
    | none => y.ws
  { w with ctl := { w.ctl with pres := 0 } }

/-- What a resumed task x keeps of the saved task y; m is the entry of its listed point. -/
def Slot.ResumedFrom (m : Word) (x y : Slot) : Prop :=
  x.ws.pc = y.ws.pc ∧ x.ws.ctl = { y.ws.ctl with pres := 0 } ∧ x.taskId = y.taskId ∧ x.queues = y.queues ∧
    (y.ws.tsw.cause = .none → x.ws.tsw.state = .runnable ∧ x.wait = y.wait ∧ (y.ws.ctl.cw ≠ 0 → x.recompose = true)) ∧
    (y.ws.tsw.cause ≠ .none → x.ws.tsw.state = .trapped) ∧
    (y.ws.ctl.pres = 3 → x.ws.g = y.ws.g ∧ x.ws.mb = y.ws.mb) ∧
    (y.ws.ctl.pres = 2 → y.liveAt = some m → (∀ i : Fin 32, x.ws.g[i] = if m.getLsbD i.val then y.ws.g[i] else 0) ∧
      ∀ i : Fin 8, x.ws.mb[i] = if m.getLsbD (48 + i.val) then y.ws.mb[i] else 0)

section
variable (y : Slot)

theorem Slot.resumeWs_pc : y.resumeWs.pc = y.ws.pc := by
  unfold Slot.resumeWs
  cases y.liveMask <;> dsimp only [Workspace.clearDead]

theorem Slot.resumeWs_ctl : y.resumeWs.ctl = { y.ws.ctl with pres := 0 } := by
  unfold Slot.resumeWs
  cases y.liveMask <;> rfl

variable {y}

/-- A fully saved task resumes with every register. -/
theorem Slot.resumeWs_full (h : y.ws.ctl.pres = 3) : y.resumeWs.g = y.ws.g ∧ y.resumeWs.mb = y.ws.mb := by
  have hmask : y.liveMask = none := if_neg (by rw [h]; decide)
  rw [Slot.resumeWs, hmask]
  exact ⟨rfl, rfl⟩

/-- A task saved at a listed point resumes with its live registers, and zeros (R367). -/
theorem Slot.resumeWs_live {m : Word} (h : y.ws.ctl.pres = 2) (hm : y.liveAt = some m) :
    (∀ i : Fin 32, y.resumeWs.g[i] = if m.getLsbD i.val then y.ws.g[i] else 0) ∧
      ∀ i : Fin 8, y.resumeWs.mb[i] = if m.getLsbD (48 + i.val) then y.ws.mb[i] else 0 := by
  have hmask : y.liveMask = some m := (if_pos h).trans hm
  rw [Slot.resumeWs, hmask]
  exact ⟨fun i => Vector.getElem_ofFn i.isLt, fun i => Vector.getElem_ofFn i.isLt⟩

/-- A task that continues with that workspace, in the state that its cause asks for, is resumed. -/
theorem Slot.resumedFrom_of_resumeWs {x : Slot} (m : Word) {st : TaskState}
    (hws : x.ws = { y.resumeWs with tsw := { y.resumeWs.tsw with state := st } }) (htask : x.taskId = y.taskId)
    (hqueues : x.queues = y.queues)
    (hnone : y.ws.tsw.cause = .none → st = .runnable ∧ x.wait = y.wait ∧ (y.ws.ctl.cw ≠ 0 → x.recompose = true))
    (htrap : y.ws.tsw.cause ≠ .none → st = .trapped) : x.ResumedFrom m y := by
  unfold Slot.ResumedFrom
  rw [hws]
  exact ⟨y.resumeWs_pc, y.resumeWs_ctl, htask, hqueues, hnone, htrap, Slot.resumeWs_full, Slot.resumeWs_live⟩

end

/-- t has x in a slot of s; the LM and the activation number there, and the tasks that firmware has saved, stay. -/
structure State.Continues (s t : State) (cid slot : Nat) (x : Slot) : Prop where
  slot : (t.core cid).slot slot = x
  lm : (t.core cid).lm = (s.core cid).lm
  savedTasks : t.savedTasks = s.savedTasks

section
variable {s t : State} {cid slot : Nat} {x : Slot}

theorem State.TasksStay.continues (h : s.TasksStay t) (cid slot : Nat) :
    ∃ u, ((s.core cid).slot slot).Like u ∧ s.Continues t cid slot u :=
  ⟨_, h.slot cid slot, rfl, h.lm cid, h.savedTasks⟩

theorem State.Continues.modSlot (h : s.Continues t cid slot x) (hi : slot < 8) (f : Slot → Slot) :
    s.Continues (t.modSlot cid slot f) cid slot (f x) where
  slot := by rw [State.slot_modSlot, if_pos ⟨rfl, rfl, hi⟩, h.slot]
  lm := by
    rw [State.modSlot, State.core_modCore, if_pos rfl, ← h.lm]
    rfl
  savedTasks := (t.setCore_savedTasks cid _).trans h.savedTasks

theorem State.Continues.recomposeDue (h : s.Continues t cid slot x) (hi : slot < 8) :
    ∃ b, (x.ws.ctl.cw ≠ 0 → b = true) ∧ s.Continues (t.recomposeDue cid slot) cid slot { x with recompose := b } := by
  have hctl : ((t.core cid).slot slot).ws.ctl.cw = x.ws.ctl.cw := by rw [h.slot]
  by_cases hcw : x.ws.ctl.cw = 0
  · rw [State.recomposeDue_single (hctl.trans hcw)]
    exact ⟨x.recompose, absurd hcw, h⟩
  · have hmod := h.modSlot hi fun t => { t with recompose := true }
    unfold State.recomposeDue
    dsimp only
    rw [hctl, if_neg hcw]
    exact ⟨true, fun _ => rfl, { hmod with }⟩

/-- Fencing a resuming task, and writing its dead registers whole, leave its slot but for replies and lost registers (R195,
R375). -/
theorem State.tasksStay_prepare (s : State) (cid slot : Nat) (l : List Nat) :
    s.TasksStay (l.foldl (fun s r => s.mendReg cid slot r) (s.fenceFor (s.who cid slot))) :=
  (s.tasksStay_fenceFor _).trans (State.tasksStay_foldl (fun t r => t.tasksStay_mendReg cid slot r) _ _)

/-- A resumption writes the workspace, and then the state that the task's cause asks for. -/
theorem State.resume_eq (s : State) (cid slot : Nat) : s.resume cid slot =
    let y := (s.core cid).slot slot
    let s1 := (((y.liveMask.map deadRegs).getD []).foldl (fun s r => s.mendReg cid slot r)
      (s.fenceFor (s.who cid slot))).modSlot cid slot fun t => { t with liveAt := none, ws := y.resumeWs }
    if y.ws.tsw.cause = .none then (s1.modSlot cid slot fun t => { t.wake s.now with wait := t.wait }).recomposeDue cid slot
    else s1.modSlot cid slot fun t => { t with ws := { t.ws with tsw := { t.ws.tsw with state := .trapped } } } := rfl

/-- The saved task in a slot resumes there (R367). -/
theorem State.resume_continues (s : State) (cid : Nat) (hi : slot < 8) (m : Word) :
    ∃ x, s.Continues (s.resume cid slot) cid slot x ∧ x.ResumedFrom m ((s.core cid).slot slot) ∧
      x.actNo = ((s.core cid).slot slot).actNo := by
  obtain ⟨u, ⟨r, l, rfl⟩, hprep⟩ := (s.tasksStay_prepare cid slot
    ((((s.core cid).slot slot).liveMask.map deadRegs).getD [])).continues cid slot
  have hws := hprep.modSlot hi fun t => { t with liveAt := none, ws := ((s.core cid).slot slot).resumeWs }
  rw [State.resume_eq]
  dsimp only
  generalize (s.core cid).slot slot = y at hws ⊢
  by_cases hcause : y.ws.tsw.cause = .none
  · rw [if_pos hcause]
    obtain ⟨b, hb, hwake⟩ := (hws.modSlot hi fun t => { t.wake s.now with wait := t.wait }).recomposeDue hi
    have hcw : y.resumeWs.ctl.cw = y.ws.ctl.cw := by rw [y.resumeWs_ctl]
    exact ⟨_, hwake, Slot.resumedFrom_of_resumeWs m rfl rfl rfl
      (fun _ => ⟨rfl, rfl, fun h => hb (hcw.trans_ne h)⟩) (absurd hcause), rfl⟩
  · rw [if_neg hcause]
    exact ⟨_, hws.modSlot hi fun t => { t with ws := { t.ws with tsw := { t.ws.tsw with state := .trapped } } },
      Slot.resumedFrom_of_resumeWs m rfl rfl rfl (fun h => absurd h hcause) fun _ => rfl, rfl⟩

end

/-! ### A released task returns to its slot (R290, R367) -/

theorem Memory.get_of_absent {m : Memory} {x : Nat} (h : ∀ c ∈ m, c.1 ≠ x) : m.get x = 0 := by
  induction m with
  | nil => rfl
  | cons c m ih =>
    have hrest := ih fun d hd => h d (List.mem_cons_of_mem _ hd)
    rw [Memory.get, if_neg (h c (List.mem_cons_self ..)), hrest]
    exact ite_self _

theorem Memory.get_clear_inside (m : Memory) {lo hi x : Nat} (hlo : lo ≤ x) (hhi : x < hi) : (m.clear lo hi).get x = 0 := by
  refine Memory.get_of_absent fun c hc hx => ?_
  have hout := (List.mem_filter.1 hc).2
  simp only [Bool.not_eq_true', decide_eq_false_iff_not] at hout
  exact hout (hx ▸ ⟨hlo, hhi⟩)

/-- One byte of a saved area, put back. -/
def Memory.putCell (m : Memory) (b : Host.Cell) : Memory := m.put b.1 b.2

/-- Bytes that are put back read as they were saved, where they are listed. -/
theorem Memory.get_foldl_putCell {l m : Memory} (hl : l.wf = true) (hm : m.wf = true) (x : Nat) :
    (l.foldl Memory.putCell m).get x = if l.get x = 0 then m.get x else l.get x := by
  induction l generalizing m with
  | nil => rfl
  | cons c l ih =>
    obtain ⟨j, b⟩ := c
    obtain ⟨hp, hz⟩ := (Memory.wf_iff _).1 hl
    obtain ⟨hfirst, hrest⟩ := List.pairwise_cons.1 hp
    have hb : b ≠ 0 := hz (j, b) (List.mem_cons_self ..)
    have hlow {k : Nat} (hk : k ≤ j) : Memory.get l k = 0 := Memory.get_below fun c hc => hk.trans_lt (hfirst c hc)
    have hwf : Memory.wf l = true := (Memory.wf_iff l).2 ⟨hrest, fun c hc => hz c (List.mem_cons_of_mem _ hc)⟩
    rw [List.foldl_cons, Memory.putCell, ih hwf (Memory.put_wf hm j b), Memory.get_put hm]
    rcases Nat.lt_trichotomy x j with hx | rfl | hx
    · have hget : Memory.get ((j, b) :: l) x = 0 := by
        rw [Memory.get, if_neg hx.ne', if_pos hx]
        rfl
      rw [hget, hlow hx.le, if_pos rfl, if_pos rfl, if_neg hx.ne]
    · rw [Memory.get, if_pos rfl, hlow le_rfl, if_pos rfl, if_pos rfl, if_neg hb]
    · rw [Memory.get, if_neg hx.ne, if_neg hx.not_gt, if_neg hx.ne']

section
variable {s : State} {cid slot : Nat} {y : SavedTask}

/-- A core after a saved task has returned to one of its slots (R367). -/
def Core.withTask (slot : Nat) (y : SavedTask) (c : Core) : Core :=
  ({ c with lm := y.area.foldl Memory.putCell (c.lm.clear y.task.ws.vsd.area.1
      (y.task.ws.vsd.area.1 + y.task.ws.vsd.area.2)) } : Core).setSlot slot
    { y.task with actNo := (c.slot slot).actNo + 1 }

/-- A restoration changes its core, and what is saved or damaged. -/
theorem State.restore_eq (s : State) (cid slot : Nat) (y : SavedTask) :
    ∃ d, s.restore cid slot y =
      ({ s with savedTasks := s.savedTasks.erase y, damaged := d } : State).modCore cid (Core.withTask slot y) := by
  unfold State.restore State.mendLm
  split
  · exact ⟨s.damaged, rfl⟩
  · exact ⟨_, rfl⟩

/-- The restored task, its save area, and what is saved beside it (R367). -/
theorem State.restore_task (hi : slot < 8) (hc : s.Canonical) (hy : y ∈ s.savedTasks) :
    ((s.restore cid slot y).core cid).slot slot = { y.task with actNo := ((s.core cid).slot slot).actNo + 1 } ∧
      (s.restore cid slot y).savedTasks = s.savedTasks.erase y ∧
      ∀ x, y.task.ws.vsd.area.1 ≤ x → x < y.task.ws.vsd.area.1 + y.task.ws.vsd.area.2 →
        ((s.restore cid slot y).core cid).lm.get x = y.area.get x := by
  obtain ⟨-, -, -, -, -, hsaved, -⟩ := id hc
  obtain ⟨d, hr⟩ := s.restore_eq cid slot y
  rw [hr]
  refine ⟨?_, State.setCore_savedTasks _ cid _, fun x hlo hhi => ?_⟩
  · rw [State.core_modCore, if_pos rfl, Core.withTask, Core.slot_setSlot, if_pos ⟨rfl, hi⟩]
    rfl
  · have hlm : (s.core cid).lm.wf = true := (s.canonical_core hc cid).1
    rw [State.core_modCore, if_pos rfl]
    show Memory.get (y.area.foldl Memory.putCell ((s.core cid).lm.clear _ _)) x = _
    rw [Memory.get_foldl_putCell (hsaved y hy) (Memory.clear_wf hlm _ _), Memory.get_clear_inside _ hlo hhi]
    split
    · next h => exact h.symm
    · rfl

/-- A task in its slot resumes there (R367). -/
theorem exec_resumption_held (hheld : ((s.core cid).slot slot).held = true)
    (hst : ((s.core cid).slot slot).ws.tsw.state = .saved) :
    exec (.resumption cid slot) s = .next (s.resume cid slot) := by
  show execResumption cid slot s = _
  unfold execResumption
  dsimp only
  rw [if_pos hheld, if_pos hst]

/-- The one released task of a core in service returns to its free slot, and resumes there (R367). -/
theorem exec_resumption_released (hi : slot < 8) (hheld : ((s.core cid).slot slot).held = false)
    (hlent : (s.core cid).lent = none) (hretired : (s.core cid).retired = false) (hsaved : s.savedTasks = [y])
    (hreturns : s.returnsTo cid slot y = true) :
    exec (.resumption cid slot) s = .next ((s.restore cid slot y).resume cid slot) := by
  show execResumption cid slot s = _
  unfold execResumption
  dsimp only
  rw [hheld, hlent, hretired, hsaved, List.filter_cons_of_pos hreturns, List.filter_nil, if_neg Bool.false_ne_true,
    if_neg (by simpa using hi)]
  rfl

end

/-! ### The statement -/

/-- Settles O55: each step changes the task's slot as `Slot.asked`, `Slot.saved`, `Slot.reset` and `Slot.ResumedFrom` say. -/
theorem preemption : Obligations.Preemption := by
  unfold Obligations.Preemption
  intro s cid slot m c t0 cx area savedAs resumed hi
  refine ⟨fun hheld hpres hreq => ⟨?_, ?_⟩, fun hheld hpres => ?_, fun hheld htickets hmembers hlost hreq hdamaged => ?_,
    fun hheld hst hslots hsaved hdue hrun hmx hclean => ?_, fun hheld hst hclean => ?_, fun hheld hst => ?_,
    fun y hheld hlent hretired hsaved hycid hyslot hcx hcanon => ?_⟩
  · refine ⟨_, exec_preemptionRequest s cid slot, ?_, fun j hj => ?_⟩
    · rw [State.slot_modSlot, if_pos ⟨rfl, rfl, hi⟩, Slot.asked_first _ hheld hpres hreq]
    · rw [State.slot_modSlot, if_neg fun h => hj h.2.1]
  · refine ⟨_, exec_preemptionRequest_core s cid, ?_⟩
    rw [State.slot_foldl_modSlot s cid 8 _ hi, if_pos hi, Slot.asked_first _ hheld hpres hreq]
  · rw [exec_preemptionRequest, State.modSlot_congr (g := id) (Slot.asked_again s.now hpres)]
  · have hplain : s.SavesPlainly cid slot := ⟨htickets, hmembers, hlost, hdamaged⟩
    refine ⟨fun hst => ⟨fun hm => ?_, fun hm => ⟨?_, fun hreqDue => ?_⟩⟩, fun hst hwait hreply => ?_,
      fun a b d e f h hst hwait hs hu hrep => ?_⟩
    · exact ⟨_, exec_preemptionSave_listed hheld hreq hst hm, State.saveTask_savedAs hplain hi hheld (some m)⟩
    · exact exec_preemptionSave_unlisted hheld hreq hst hm
    · exact ⟨_, exec_preemptionForcedSave_unlisted hheld hst hreqDue hm, State.trigger_savedAs hplain hi hheld 132⟩
    · have hmeet : exec (.preemptionSave cid slot) s = .next (s.meetRequest cid slot) :=
        hst.elim (fun h => exec_preemptionSave_parked hheld hreq h (hreply h)) (exec_preemptionSave_trapped hheld hreq)
      exact ⟨_, hmeet, State.meetRequest_savedAs hplain hi hheld hwait⟩
    · intro next
      have hreply : t0.awaitsReply = false := by rw [Slot.awaitsReply, hwait]
      exact ⟨_, exec_preemptionSave_parked hheld hreq hst hreply,
        State.meetRequest_waita hplain hi hheld hwait hs hu hrep⟩
  · refine ⟨_, exec_savedTaskSlotRelease_free hheld hst (State.linkedBy_eq_false hslots hsaved) hdue hrun hmx hclean, ?_, ?_⟩
    · rw [State.slot_modSlot, if_pos ⟨rfl, rfl, hi⟩]
      rfl
    · exact State.setCore_savedTasks _ cid _
  · exact exec_savedTaskSlotRelease_unclean hclean
  · obtain ⟨x, hx, hresumed, -⟩ := s.resume_continues cid hi m
    exact ⟨_, exec_resumption_held hheld hst, hx.slot ▸ hresumed⟩
  · have hreturns : s.returnsTo cid slot y = true := by simp [State.returnsTo, hycid, hyslot, hcx]
    obtain ⟨hslot, hleft, harea⟩ := State.restore_task (cid := cid) hi hcanon (hsaved ▸ List.mem_singleton_self y)
    obtain ⟨x, hx, hresumed, hact⟩ := (s.restore cid slot y).resume_continues cid hi m
    rw [hslot] at hresumed hact
    refine ⟨_, exec_resumption_released hi hheld hlent hretired hsaved hreturns, ?_, ?_, ?_, fun k hlo hhi => ?_⟩
    · rw [hx.savedTasks, hleft, hsaved, List.erase_cons_head]
    · exact hx.slot ▸ hresumed
    · rw [hx.slot, hact]
    · rw [hx.lm, harea k hlo hhi]

end Sys2Proof.Machine
end

section
/-! PROOF. CASTLE (R191 to R193): the cells of a block, the bytes that an exchange leaves, and what becomes of the two tasks. -/

namespace Sys2Proof.Machine

/-! ### Bytes of numbers in memory -/

/-- Byte i of a number read from memory is the byte at its place (R139). -/
theorem Memory.get_of_readN (m : Memory) (a : Nat) {n i : Nat} (hi : i < n) :
    BitVec.ofNat 8 (m.readN a n / 256 ^ i) = m.get (a + i) := by
  induction n generalizing a i with
  | zero => exact absurd hi (Nat.not_lt_zero i)
  | succ n ih =>
    have hlow := (m.get a).isLt
    cases i with
    | zero =>
      rw [Memory.readN, Nat.pow_zero, Nat.div_one]
      apply BitVec.eq_of_toNat_eq
      rw [BitVec.toNat_ofNat, Nat.add_mul_mod_self_left, Nat.mod_eq_of_lt hlow, Nat.add_zero]
    | succ i =>
      rw [Memory.readN, Nat.pow_succ', ← Nat.div_div_eq_div_mul, Nat.add_mul_div_left _ _ (by decide),
        Nat.div_eq_of_lt hlow, Nat.zero_add, ih (a + 1) (Nat.lt_of_succ_lt_succ hi)]
      congr 1
      omega

section
variable {α : Type} (place val : α → Nat) (n : Nat)

/-- Memory after the n bytes of each cell of a list have been written. -/
def Memory.writeCells (m : Memory) (l : List α) : Memory := l.foldl (fun m x => m.writeN (place x) n (val x)) m

theorem Memory.writeCells_wf {m : Memory} (h : m.wf = true) (l : List α) : (m.writeCells place val n l).wf = true :=
  List.foldlRecOn (motive := fun m => Memory.wf m = true) l _ h fun _ hb x _ => Memory.writeN_wf hb (place x) n (val x)

/-- A byte outside every cell stays. -/
theorem Memory.get_writeCells_outside {m : Memory} (h : m.wf = true) {l : List α} {a : Nat}
    (ha : ∀ x ∈ l, a < place x ∨ place x + n ≤ a) : (m.writeCells place val n l).get a = m.get a := by
  induction l generalizing m with
  | nil => rfl
  | cons x l ih =>
    have hx := Memory.get_writeN_outside h (place x) n (val x) a (ha x List.mem_cons_self)
    exact (ih (Memory.writeN_wf h _ _ _) fun y hy => ha y (List.mem_cons_of_mem _ hy)).trans hx

/-- A byte of a cell that meets no other is that of the cell's value. -/
theorem Memory.get_writeCells {m : Memory} (h : m.wf = true) {l : List α} {x : α} (hx : x ∈ l)
    (hdisjoint : ∀ y ∈ l, y ≠ x → place y + n ≤ place x ∨ place x + n ≤ place y) {i : Nat} (hi : i < n) :
    (m.writeCells place val n l).get (place x + i) = BitVec.ofNat 8 (val x / 256 ^ i) := by
  induction l generalizing m with
  | nil => exact absurd hx List.not_mem_nil
  | cons y l ih =>
    have hw := Memory.writeN_wf h (place y) n (val y)
    by_cases hl : x ∈ l
    · exact ih hw hl fun z hz => hdisjoint z (List.mem_cons_of_mem _ hz)
    · obtain rfl : x = y := (List.mem_cons.1 hx).resolve_right hl
      refine (Memory.get_writeCells_outside place val n hw fun z hz => ?_).trans (Memory.get_writeN h _ _ _ _ hi)
      have := hdisjoint z (List.mem_cons_of_mem _ hz) fun e => hl (e ▸ hz)
      omega

end

/-! ### The cells of a block (R191) -/

section
variable {b : Word}

/-- Its columns fit between two rows. -/
theorem castle_row_fits (hok : castleOk b = true) : castleRowBytes b ≤ castleStride b := by
  simp only [castleOk, Bool.and_eq_true, decide_eq_true_eq] at hok
  exact hok.2

theorem castleSize_pos (b : Word) : 0 < castleSize b := Nat.two_pow_pos _

theorem mem_castleCells {o i j a : Nat} : (i, j, a) ∈ castleCells o b ↔
    i < castleRows b ∧ j < castleCols b ∧ a = o + i * castleStride b + j * castleSize b := by
  simp only [castleCells, List.mem_flatMap, List.mem_map, List.mem_range, Prod.mk.injEq]
  constructor
  · rintro ⟨i, hi, j, hj, rfl, rfl, rfl⟩
    exact ⟨hi, hj, rfl⟩
  · rintro ⟨hi, hj, rfl⟩
    exact ⟨i, hi, j, hj, rfl, rfl, rfl⟩

/-- A cell ends within its row. -/
theorem castle_cell_in_row {j : Nat} (hj : j < castleCols b) :
    j * castleSize b + castleSize b ≤ castleRowBytes b := by
  rw [← Nat.succ_mul]
  exact Nat.mul_le_mul_right _ hj

/-- Two cells of a block meet nowhere. -/
theorem castleCells_disjoint (hok : castleOk b = true) {o : Nat} {x y : Nat × Nat × Nat} (hx : x ∈ castleCells o b)
    (hy : y ∈ castleCells o b) (hne : y ≠ x) : y.2.2 + castleSize b ≤ x.2.2 ∨ x.2.2 + castleSize b ≤ y.2.2 := by
  obtain ⟨i, j, a⟩ := x
  obtain ⟨i', j', a'⟩ := y
  obtain ⟨-, hj, rfl⟩ := mem_castleCells.1 hx
  obtain ⟨-, hj', rfl⟩ := mem_castleCells.1 hy
  have hrow := castle_row_fits hok
  have hend := castle_cell_in_row hj
  have hend' := castle_cell_in_row hj'
  have step {p q d : Nat} (h : p < q) : p * d + d ≤ q * d := by
    rw [← Nat.succ_mul]
    exact Nat.mul_le_mul_right _ h
  simp only at *
  rcases Nat.lt_trichotomy i i' with hi | rfl | hi
  · have := step (d := castleStride b) hi
    omega
  · rcases Nat.lt_trichotomy j j' with h | rfl | h
    · have := step (d := castleSize b) h
      omega
    · exact absurd rfl hne
    · have := step (d := castleSize b) h
      omega
  · have := step (d := castleStride b) hi
    omega

/-- A cell lies between the block's first byte and its last. -/
theorem castleCells_within {o : Nat} {x : Nat × Nat × Nat} (hx : x ∈ castleCells o b) :
    o ≤ x.2.2 ∧ x.2.2 + castleSize b ≤ o + castleSpan b := by
  obtain ⟨i, j, a⟩ := x
  obtain ⟨hi, hj, rfl⟩ := mem_castleCells.1 hx
  have hend := castle_cell_in_row hj
  have hrows : i * castleStride b ≤ (castleRows b - 1) * castleStride b := Nat.mul_le_mul_right _ (Nat.le_sub_one_of_lt hi)
  simp only [castleSpan, castleRowBytes] at *
  omega

end

/-! ### The exchange -/

/-- Where the cell in row i and column j of a block comes from in the partner's block at so (R192). -/
def castleFrom (so : Nat) (b : Word) (x : Nat × Nat × Nat) : Nat :=
  if castleTr b then so + x.2.1 * castleStride b + x.1 * castleSize b
  else so + x.1 * castleStride b + x.2.1 * castleSize b

/-- A change of the LM, for each item of a list, changes nothing else of a core. -/
theorem Core.foldl_lm {α : Type} (f : Memory → α → Memory) (c : Core) (l : List α) :
    l.foldl (fun c x => { c with lm := f c.lm x }) c = { c with lm := l.foldl f c.lm } := by
  induction l generalizing c with
  | nil => rfl
  | cons x l ih => exact ih _

/-- An LM m after the block at o has been read from an LM src, where it lies at so. -/
def castleMemory (m : Memory) (o : Nat) (b : Word) (src : Memory) (so : Nat) : Memory :=
  m.writeCells (fun x : Nat × Nat × Nat => x.2.2) (fun x => src.readN (castleFrom so b x) (castleSize b)) (castleSize b)
    (castleCells o b)

theorem castlePut_eq (dst : Core) (o : Nat) (b : Word) (src : Core) (so : Nat) :
    castlePut dst o b src so = { dst with lm := castleMemory dst.lm o b src.lm so } :=
  Core.foldl_lm (fun m (x : Nat × Nat × Nat) => m.writeN x.2.2 (castleSize b)
    (src.lm.readN (castleFrom so b x) (castleSize b))) dst (castleCells o b)

section
variable {b : Word} {m : Memory} (hwf : m.wf = true) (o : Nat) (src : Memory) (so : Nat)
include hwf

/-- Each byte of the block is the byte at its place, or at the transposed place, of the other block (R192). -/
theorem castleMemory_get (hok : castleOk b = true) {i j k : Nat} (hi : i < castleRows b) (hj : j < castleCols b)
    (hk : k < castleSize b) :
    (castleMemory m o b src so).get (o + (i * castleStride b + j * castleSize b + k)) = src.get (so +
      (if castleTr b then j * castleStride b + i * castleSize b + k else i * castleStride b + j * castleSize b + k)) := by
  have hx : (i, j, o + i * castleStride b + j * castleSize b) ∈ castleCells o b := mem_castleCells.2 ⟨hi, hj, rfl⟩
  rw [castleMemory, ← Nat.add_assoc, ← Nat.add_assoc]
  refine (Memory.get_writeCells _ _ _ hwf hx (fun y hy => castleCells_disjoint hok (y := y) hx hy) hk).trans ?_
  rw [Memory.get_of_readN _ _ hk, castleFrom]
  congr 1
  split <;> simp only [Nat.add_assoc]

/-- Every byte before the block and after it stays. -/
theorem castleMemory_get_outside {x : Nat} (hx : x < o ∨ o + castleSpan b ≤ x) :
    (castleMemory m o b src so).get x = m.get x := by
  refine Memory.get_writeCells_outside _ _ _ hwf fun y hy => ?_
  have := castleCells_within hy
  omega

end

/-! ### Held lines (R246) -/

/-- Of lines of one core's LM of which no ticket holds any, no ticket holds some. -/
theorem State.holders_lm_subset {s : State} {cid : Nat} {ls ms : List Loc} (hls : ∀ l ∈ ls, ∃ o, l = .lm cid o)
    (hsub : ms ⊆ ls) (h : s.holders ls = []) : s.holders ms = [] := by
  cases ms with
  | nil => rfl
  | cons m ms =>
    obtain ⟨o, rfl⟩ := hls m (hsub List.mem_cons_self)
    cases ls with
    | nil => exact absurd (hsub List.mem_cons_self) List.not_mem_nil
    | cons l ls =>
      obtain ⟨o', rfl⟩ := hls l List.mem_cons_self
      simp only [State.holders, State.coresAt, List.flatMap_cons, List.flatMap_nil, List.append_nil, List.map_eq_nil_iff,
        List.filter_eq_nil_iff, Bool.and_eq_true, List.any_eq_true, List.contains_iff_mem] at h ⊢
      exact fun i hi ⟨hstate, x, hx, hm⟩ => h i hi ⟨hstate, x, hx, hsub hm⟩

theorem State.ownQ_of_no_holders {s : State} {ls : List Loc} (h : s.holders ls = []) (cid slot : Nat) :
    s.ownQ cid slot ls = false := by
  rw [State.ownQ, h, List.any_nil]

theorem mem_lines_lm {cid x n : Nat} {l : Loc} (h : l ∈ (Loc.lm cid x).lines n) : ∃ o, l = .lm cid o := by
  unfold Loc.lines at h
  split at h
  · exact absurd h List.not_mem_nil
  · obtain ⟨i, -, rfl⟩ := List.mem_map.1 h
    exact ⟨_, rfl⟩

theorem mem_castleLines_lm {cid o : Nat} {b : Word} {l : Loc} (h : l ∈ castleLines cid o b) : ∃ x, l = .lm cid x := by
  obtain ⟨x, -, hx⟩ := List.mem_flatMap.1 h
  exact mem_lines_lm hx

/-- With no line of the block held, CASTLE neither traps QZACC nor waits for a line (R193). -/
theorem State.castleLineCheck_free {s : State} {o : Nat} {b : Word} (h : s.holders (castleLines s.hereCid o b) = []) :
    s.castleLineCheck o b = .ok () := by
  have hnone : ((castleRowsAt o b).find? fun x =>
      s.ownQ s.hereCid s.here.cur.val ((Loc.lm s.hereCid x).lines (castleRowBytes b))) = none := by
    rw [List.find?_eq_none]
    intro x hx
    have hsub : (Loc.lm s.hereCid x).lines (castleRowBytes b) ⊆ castleLines s.hereCid o b :=
      fun l hl => List.mem_flatMap.2 ⟨x, hx, hl⟩
    have hfree := State.holders_lm_subset (fun l => mem_castleLines_lm) hsub h
    rw [State.ownQ_of_no_holders hfree]
    exact Bool.false_ne_true
  rw [State.castleLineCheck, hnone, h]
  rfl

/-! ### The partner that waits (R192) -/

/-- Of the numbers below n, one alone has an image. -/
theorem filterMap_range_single {α : Type} {f : Nat → Option α} {n k : Nat} {v : α} (hk : k < n) (hv : f k = some v)
    (hf : ∀ i, i ≠ k → f i = none) : (List.range n).filterMap f = [v] := by
  induction n with
  | zero => exact absurd hk (Nat.not_lt_zero k)
  | succ n ih =>
    rw [List.range_succ, List.filterMap_append]
    by_cases h : k = n
    · subst h
      have hnone : (List.range k).filterMap f = [] :=
        List.filterMap_eq_nil_iff.2 fun i hi => hf i (Nat.ne_of_lt (List.mem_range.1 hi))
      rw [hnone, List.filterMap_cons_some hv, List.filterMap_nil, List.nil_append]
    · rw [ih (by omega), List.filterMap_cons_none (hf n (Ne.symm h)), List.filterMap_nil, List.append_nil]

/-- No slot of a core, beside those left out, waits in a CASTLE. -/
def Core.NoCastle (c : Core) (p : Nat → Prop) : Prop := ∀ i, p i → ∀ q x y, (c.slot i).wait ≠ some (.castle q x y)

/-- The task of a slot past its own CASTLE, and runnable (R192). -/
def Slot.castled (now : Nat) (t : Slot) : Slot :=
  let r := t.ws.ctl.afterBody t.chainLen
  { t with
    block := if r.2 = 0 then t.block else none
    ws := { t.ws with pc := t.ws.pc + BitVec.ofNat 64 (2 * t.chainLen) - r.2, ctl := r.1 } }.wake now

/-- The core that a descriptor names as partner. -/
def State.castlePartner (s : State) (p : BitVec 3) : Nat := 8 * clusterOf s.hereCid + p.toNat

/-- Both cores with their blocks exchanged, and slot k of the partner past its CASTLE. -/
def State.castled (s : State) (pc k o o' : Nat) (b : Word) : State :=
  (({ s with here := castlePut s.here o b (s.core pc) o' } : State).setCore pc (castlePut (s.core pc) o' b s.here o)).modSlot
    pc k (Slot.castled s.now)

section
variable {s : State} {p : BitVec 3} {o : Nat} {b : Word}

theorem State.castlePair_alone (h : (s.core (s.castlePartner p)).NoCastle (· < 8)) :
    s.castlePair p o b = .next (s.park (.castle p o b)) := by
  unfold State.castlePair
  dsimp only
  rw [List.filterMap_eq_nil_iff.2]
  · rfl
  · intro i hi
    split
    · next q x y hw => exact absurd hw (h i (List.mem_range.1 hi) q x y)
    · rfl

variable {k o' : Nat} {b' : Word} (hk : k < 8) (hheld : ((s.core (s.castlePartner p)).slot k).held = true)
  (hwait : ((s.core (s.castlePartner p)).slot k).wait = some (.castle (BitVec.ofNat 3 s.hereCid) o' b'))
  (halone : (s.core (s.castlePartner p)).NoCastle (· ≠ k))
include hk hheld hwait halone

/-- With nothing damaged: both tasks trap, the issuing task waits for the partner's lines, or the blocks are exchanged. -/
theorem State.castlePair_partner (hdamaged : s.damaged = []) : s.castlePair p o b =
    let pc := s.castlePartner p
    if b >>> 3 ≠ b' >>> 3 then .next ((s.deliver pc k .illop 0 ((s.core pc).slot k).chainLen).takeTrap .illop 0)
    else if !(s.holders (castleLines pc o' b)).isEmpty then .next (s.park (.line (castleLines pc o' b)))
    else .next (s.castled pc k o o' b).advance := by
  have hsound (cid o : Nat) : s.castleDamage cid o b = none := by rw [State.castleDamage, hdamaged]; rfl
  unfold State.castlePair
  dsimp only
  rw [filterMap_range_single (k := k) hk (v := (((s.core (s.castlePartner p)).slot k).waitNo, k, o', b'))]
  · simp only [hsound]
    rfl
  · show (match ((s.core (s.castlePartner p)).slot k).wait with | some (.castle q o' b') => _ | _ => none) = _
    rw [hwait]
    exact if_pos ⟨rfl, hheld⟩
  · intro i hi
    split
    · next q x y hw => exact absurd hw (halone i hi q x y)
    · rfl

end

/-! ### The checks (R191, R193) -/

section
variable {s : State} {a b : GReg} (hok : castleOk (s.g b) = true) (hself : (s.g b).toNat % 8 ≠ s.hereCid % 8)
  (halign : (s.g a).toNat % castleSize (s.g b) = 0) (hstride : castleStride (s.g b) % castleSize (s.g b) = 0)
  (hlocal : isLocal (s.g a) = true) (hlm : winSel (s.g a) = 0)
  (hextent : winOff (s.g a) + castleSpan (s.g b) ≤ 0xC000)
  (hrows : ∀ x, x ∈ castleRowsAt (winOff (s.g a)) (s.g b) → s.here.reserved x (castleRowBytes (s.g b)) = false ∧
    s.here.onCounter x (castleRowBytes (s.g b)) = false)
  (hfree : s.holders (castleLines s.hereCid (winOff (s.g a)) (s.g b)) = [])
include hok hself halign hstride hlocal hlm hextent hrows hfree

theorem exec_castle_checked :
    exec (.castle a b) s = s.castlePair (BitVec.ofNat 3 ((s.g b).toNat % 8)) (winOff (s.g a)) (s.g b) := by
  have hp : (s.g b).extractLsb' 0 3 = BitVec.ofNat 3 ((s.g b).toNat % 8) := by
    apply BitVec.eq_of_toNat_eq
    rw [BitVec.extractLsb'_toNat, BitVec.toNat_ofNat]
    simp
  have hne : ((s.g b).extractLsb' 0 3 != BitVec.ofNat 3 s.hereCid) = true := by
    rw [hp, bne_iff_ne]
    intro h
    have := congrArg BitVec.toNat h
    simp only [BitVec.toNat_ofNat] at this
    omega
  have hspan : 0 < castleSpan (s.g b) := Nat.add_pos_right _ (Nat.mul_pos (Nat.succ_pos _) (castleSize_pos _))
  have hlt : winOff (s.g a) < 0xC000 := by omega
  have hbad : ((castleRowsAt (winOff (s.g a)) (s.g b)).any fun x => s.here.reserved x (castleRowBytes (s.g b)) ||
      s.here.onCounter x (castleRowBytes (s.g b))) = false := by
    rw [List.any_eq_false]
    intro x hx
    obtain ⟨h1, h2⟩ := hrows x hx
    rw [h1, h2]
    decide
  show execCastle a b s = _
  unfold execCastle
  simp only [hok, hne, halign, hstride, hlocal, hlm, hlt, hextent, hbad, State.castleLineCheck_free hfree, Config.lmSize]
  simp [hp]

end

/-! ### The tasks afterwards (R129, R192) -/

theorem Slot.castled_frame (now : Nat) (z : Slot) : z.castled now = { z with
    wait := none, runSince := now, block := (z.castled now).block
    ws := { z.ws with pc := (z.castled now).ws.pc, ctl := (z.castled now).ws.ctl,
                      tsw := { z.ws.tsw with state := .runnable } } } := rfl

/-- The block of the task's latest instruction is the same, unless its REP body starts again (R74). -/
theorem Slot.castled_block (now : Nat) (z : Slot) :
    (z.castled now).block = z.block ∨ ((z.castled now).block = none ∧ z.ws.ctl.repA = true) := by
  show (if (z.ws.ctl.afterBody z.chainLen).2 = 0 then z.block else none) = _ ∨ _
  split
  · exact .inl rfl
  · next hback =>
    refine .inr ⟨if_neg hback, ?_⟩
    by_contra hrep
    exact hback (by rw [Ctl.afterBody_off _ _ (Bool.eq_false_of_not_eq_true hrep)])

theorem State.castled_frame (s : State) (pc k o o' : Nat) (b : Word) : (s.castled pc k o o' b).hereCid = s.hereCid ∧
    (s.castled pc k o o' b).ilen = s.ilen ∧ (s.castled pc k o o' b).mem = s.mem := by
  simp [State.castled, State.modSlot, State.modCore]

section
variable {s : State} {pc : Nat} (hpc : pc ≠ s.hereCid) (k o o' : Nat) (b : Word)
include hpc

/-- The issuing core has its block exchanged, and no task of it differs. -/
theorem State.castled_here : (s.castled pc k o o' b).here =
    { s.here with lm := castleMemory s.here.lm o b (s.core pc).lm o' } := by
  rw [← castlePut_eq]
  simp [State.castled, State.modSlot, State.modCore, State.setCore, hpc]

theorem State.castled_ws : (s.castled pc k o o' b).ws = s.ws := by
  simp only [State.ws, State.task, State.castled_here hpc]

/-- The partner has its block exchanged, and the task of slot k past its CASTLE, also once the issuing task has completed. -/
theorem State.castled_partner : (s.castled pc k o o' b).advance.core pc =
    { s.core pc with lm := castleMemory (s.core pc).lm o' b s.here.lm o }.modSlot k (Slot.castled s.now) := by
  obtain ⟨hcid, -, -⟩ := s.castled_frame pc k o o' b
  have hadvance : (s.castled pc k o o' b).advance.core pc = (s.castled pc k o o' b).core pc := by
    unfold State.core
    rw [if_neg (hcid ▸ hpc), if_neg (hcid ▸ hpc)]
    rfl
  rw [hadvance, State.castled, State.modSlot, State.core_modCore, if_pos rfl, State.core_setCore, if_pos rfl, castlePut_eq]

theorem State.castled_partner_slot (hk : k < 8) : ((s.castled pc k o o' b).advance.core pc).slot k =
    ((s.core pc).slot k).castled s.now := by
  rw [State.castled_partner hpc, Core.modSlot, Core.slot_setSlot, if_pos ⟨rfl, hk⟩]
  rfl

theorem State.castled_partner_slot_other {i : Nat} (hi : i ≠ k) :
    ((s.castled pc k o o' b).advance.core pc).slot i = (s.core pc).slot i := by
  rw [State.castled_partner hpc, Core.modSlot, Core.slot_setSlot, if_neg fun h => hi h.1]
  rfl

theorem State.castled_lm :
    (s.castled pc k o o' b).advance.here.lm = castleMemory s.here.lm o b (s.core pc).lm o' := by
  show (s.castled pc k o o' b).here.lm = _
  rw [State.castled_here hpc]

theorem State.castled_partner_lm :
    ((s.castled pc k o o' b).advance.core pc).lm = castleMemory (s.core pc).lm o' b s.here.lm o := by
  rw [State.castled_partner hpc]
  rfl

end

/-- Completing an instruction leaves the slots of the other tasks. -/
theorem State.advance_slot_other (s : State) {i : Nat} (hi : i ≠ s.here.cur.val) : s.advance.here.slot i = s.here.slot i := by
  show vget (s.here.slots.set s.here.cur _) i Slot.reset = vget s.here.slots i Slot.reset
  unfold vget
  split
  · exact Vector.getElem_set_ne _ _ (Ne.symm hi)
  · rfl

theorem ushiftRight_three_eq_div (x : Word) : x >>> 3 = x / 8 := by
  apply BitVec.eq_of_toNat_eq
  rw [BitVec.toNat_ushiftRight, BitVec.toNat_udiv, Nat.shiftRight_eq_div_pow]
  rfl

/-- Settles O40: the checks pass, and what follows depends on the one task of the partner that waits. Where the descriptors agree
each cell of either block is written with the other's, and cells meet nowhere. -/
theorem castleExchange : Obligations.CastleExchange := by
  unfold Obligations.CastleExchange
  intro s a b k o' desc' desc o p pc n stride hok hself halign hstride hlocal hlm hextent hrows hfree hdamaged
  have hexec := exec_castle_checked hok hself halign hstride hlocal hlm hextent hrows hfree
  have hp : p < 8 := Nat.mod_lt _ (by decide)
  have hpartner : s.castlePartner (BitVec.ofNat 3 p) = pc := by
    rw [State.castlePartner, BitVec.toNat_ofNat, Nat.mod_eq_of_lt hp]
    rfl
  have hne : pc ≠ s.hereCid := by
    have hp' : p ≠ s.hereCid % 8 := hself
    show 8 * (s.hereCid / 8) + p ≠ s.hereCid
    omega
  have hpair (hk : k < 8) (hheld : ((s.core pc).slot k).held = true)
      (hwait : ((s.core pc).slot k).wait = some (.castle (BitVec.ofNat 3 s.hereCid) o' desc'))
      (halone : ∀ i, i ≠ k → ∀ q x y, ((s.core pc).slot i).wait ≠ some (.castle q x y)) :=
    hexec.trans (State.castlePair_partner (p := BitVec.ofNat 3 p) (o := o) (b := desc) hk (hpartner ▸ hheld)
      (hpartner ▸ hwait) (hpartner ▸ halone) hdamaged)
  rw [hpartner, ushiftRight_three_eq_div, ushiftRight_three_eq_div] at hpair
  refine ⟨fun hnone => ?_, fun hk hheld hwait hsame halone hfree' hcanon => ?_, fun hk hheld hwait hother halone => ?_⟩
  · exact hexec.trans (State.castlePair_alone (hpartner ▸ hnone))
  · have hstep : exec (.castle a b) s = .next (s.castled pc k o o' desc).advance := by
      rw [hpair hk hheld hwait halone, if_neg (not_not.2 hsame), hfree']
      rfl
    obtain ⟨-, hilen, hmem⟩ := s.castled_frame pc k o o' desc
    have hwf := hcanon.1.1
    have hwf' := (State.canonical_core hcanon pc).1
    refine ⟨_, hstep, ?_, ?_, fun i hi => ?_, fun i hi => State.castled_partner_slot_other hne k o o' desc hi,
      fun i j m hi hj hm => ⟨?_, ?_⟩, fun x hx => ?_, hmem⟩
    · rw [State.castled_partner_slot hne k o o' desc hk]
      exact ⟨Slot.castled_frame _ _, Ctl.afterBody_frame _ _, Slot.castled_block _ _, Ctl.afterBody_step _ _ _⟩
    · obtain ⟨-, -, hrep⟩ := (s.castled pc k o o' desc).past_advance
      rwa [State.nextPc, State.castled_ws hne, hilen] at hrep
    · have hhere := State.castled_here hne k o o' desc
      rw [State.advance_slot_other _ (by rwa [hhere]), hhere]
      rfl
    · rw [State.castled_lm hne, castleMemory_get hwf _ _ _ hok hi hj hm]
    · rw [State.castled_partner_lm hne, castleMemory_get hwf' _ _ _ hok hi hj hm]
    · rw [State.castled_lm hne, castleMemory_get_outside hwf _ _ _ hx]
  · rw [hpair hk hheld hwait halone]
    exact if_pos hother

end Sys2Proof.Machine
end

section
/-! PROOF. ACCRD of a command whose COLS is out of range but whose stored checks say that it passed (R182, R397): it clears words
of the row below the last that it names. -/

namespace Sys2Proof.Machine

/-- ACCRD of one row and 33 columns of accumulator 0, to LM offset 0x1000, with CLEAR: a row has 32 columns, so that COLS lies
out of its range (R182). -/
def wideAccrd : MxCmd :=
  { bits := BitVec.ofNat 512 (4 + 2 ^ 8 + 0xFF00000000001000 * 2 ^ 128 + 2 ^ 192 + 33 * 2 ^ 200 + 132 * 2 ^ 224)
    seq := 0, slot := 0, act := 0, atab := .preset false, btab := .preset false }

/-- Core 0 with that command at the head of its queue and a 1 in the first word of row 1 of accumulator 0. The field head says
that the command has passed its checks, though made now they would find BADCMD. -/
def wideAccrdState : State :=
  { State.reset with here := { Core.reset with mx := { Mx.reset with
      queue := [wideAccrd], head := some 0, acc := Mx.reset.acc.set 0 (accPut 0 1 0 1) } } }

theorem wideAccrdState_canonical : wideAccrdState.Canonical := by
  have hlist {α : Type} {p : α → Prop} : ∀ x ∈ ([] : List α), p x := fun x hx => nomatch hx
  exact ⟨⟨rfl, Core.canonical_reset.2⟩, hlist, hlist, hlist, rfl, hlist, hlist⟩

theorem wideAccrd_heads : wideAccrdState.Heads 0 wideAccrd [] .accrd := by
  have hkind : wideAccrd.kind = some .accrd := by decide +kernel
  have hnext : wideAccrdState.mxIsNext 0 = true := by decide +kernel
  have hplaced : wideAccrdState.mxPlaced 0 wideAccrd = none := by decide +kernel
  exact ⟨rfl, hkind, rfl, rfl, hnext, fun l h => nomatch hplaced.symm.trans h⟩

/-- The one row that it names is a legal place, in no held line. -/
theorem wideAccrd_spans : ∀ x ∈ wideAccrd.spans .accrd (wideAccrdState.core 0).mx.ctx 0, ∃ l,
    wideAccrdState.mxPlace 0 true x.1 x.2.1 x.2.2 = some l ∧ wideAccrdState.holders (l.lines x.2.1) = [] := by
  have hspans : wideAccrd.spans .accrd (wideAccrdState.core 0).mx.ctx 0 = [(0xFF00000000001000, 132, 4)] := by
    decide +kernel
  rw [hspans]
  intro x hx
  rw [List.mem_singleton.1 hx]
  exact ⟨.lm 0 0x1000, by decide +kernel, by decide +kernel⟩

/-- The next state of an outcome; of any other outcome the state given. -/
def Result.stateOr (s : State) : Result → State
  | .next t => t
  | _ => s

theorem Result.stateOr_next {s t : State} {r : Result} (h : r = .next t) : Result.stateOr s r = t := by
  subst h
  rfl

/-- The state after the step that runs the command. -/
def wideAccrdAfter : State := Result.stateOr wideAccrdState (exec (.accrd 0) wideAccrdState)

/-- Word 32 of row 0 is the first word of row 1, and CLEAR has made it 0. -/
theorem wideAccrd_clears_row1 : accWord (vget (wideAccrdState.core 0).mx.acc 0 0) 1 0 = 1 ∧
    accWord (vget (wideAccrdAfter.core 0).mx.acc 0 0) 1 0 = 0 := by
  decide +kernel

/-- Refutes O48: by its clause on ACCRD, CLEAR leaves the words of a row that the command does not name. The state here is
canonical and meets every hypothesis of that clause, but its field head holds 0 for a command whose COLS is 33. Such a command the
checks of R397 refuse, so only a hypothesis that relates head to the command would exclude the state: column 32 of row 0 is
column 0 of row 1, which CLEAR makes 0. -/
theorem not_matrixUnit : ¬ Obligations.MatrixUnit := by
  unfold Obligations.MatrixUnit
  rintro ⟨-, -, -, hcommands⟩
  obtain ⟨-, -, -, -, -, -, -, -, haccrd, -⟩ := hcommands wideAccrdState 0 wideAccrd [] wideAccrdState_canonical rfl
  obtain ⟨t, hstep, -, hwords, -⟩ := haccrd wideAccrd_heads rfl wideAccrd_spans
  have hrow : ¬ (1 < wideAccrd.field 192 6) := by decide +kernel
  have hkept := hwords 0 1 0 (by decide) (by decide)
  obtain ⟨hbefore, hafter⟩ := wideAccrd_clears_row1
  have hsame : wideAccrdAfter = t := Result.stateOr_next hstep
  rw [if_neg fun ⟨_, _, h, _⟩ => hrow h, hbefore, ← hsame, hafter] at hkept
  exact absurd hkept (by decide)

end Sys2Proof.Machine
end

section
/-! PROOF. LDS, LDT, STF and STE (R201, R210 to R213), the copies that an arrival drops (R349), and the full/empty bits (R210). -/

namespace Sys2Proof.Machine

/-! ### Rising lists of numbers -/

theorem mem_insertNat {l : List Nat} {k j : Nat} : j ∈ insertNat l k ↔ j = k ∨ j ∈ l := by
  induction l with
  | nil => simp [insertNat]
  | cons x t ih =>
    simp only [insertNat]
    split
    · simp only [List.mem_cons, ih]; tauto
    · split
      · next h => simp only [List.mem_cons, h]; tauto
      · simp

theorem mem_eraseNat {l : List Nat} {k j : Nat} : j ∈ eraseNat l k ↔ j ∈ l ∧ j ≠ k := by
  simp [eraseNat]

theorem contains_setBit (l : List Nat) (k j : Nat) (f : Bool) :
    (if f then insertNat l k else eraseNat l k).contains j = if j = k then f else l.contains j := by
  cases f <;> by_cases h : j = k <;> simp [List.contains_eq_mem, mem_insertNat, mem_eraseNat, h]

/-! ### The full/empty bits (R210) -/

/-- The bit of the word in place reads as it was set. -/
theorem State.isFull_setFull_same (s : State) {l : Loc} (h : (∃ cid o, l = .lm cid o) ∨ ∃ c o, l = .csp c o) (f : Bool) :
    (s.setFull l f).isFull l = f := by
  rcases h with ⟨cid, o, rfl⟩ | ⟨c, o, rfl⟩
  · simp only [State.setFull, State.isFull, State.core_modCore, if_pos, contains_setBit]
  · simp only [State.setFull, State.isFull, State.cluster_modCluster, if_pos, contains_setBit]

/-- Every other word's bit stays. -/
theorem State.isFull_setFull_other (s : State) {l x : Loc} (h : x.line ≠ l.line ∨ x.off / 4 ≠ l.off / 4) (f : Bool) :
    (s.setFull l f).isFull x = s.isFull x := by
  cases l with
  | lm cid o =>
    cases x with
    | lm cid' o' =>
      have hne : cid' = cid → o' / 4 ≠ o / 4 := by
        rintro rfl he
        rcases h with h | h
        · exact h (congrArg (Loc.lm cid') (by omega))
        · exact h he
      simp only [State.setFull, State.isFull, State.core_modCore]
      split
      · next hc => rw [contains_setBit, if_neg (hne hc), hc]
      · rfl
    | csp c o' => simp [State.setFull, State.isFull, State.cluster, State.modCore]
    | _ => rfl
  | csp c o =>
    cases x with
    | csp c' o' =>
      have hne : c' = c → o' / 4 ≠ o / 4 := by
        rintro rfl he
        rcases h with h | h
        · exact h (congrArg (Loc.csp c') (by omega))
        · exact h he
      simp only [State.setFull, State.isFull, State.cluster_modCluster]
      split
      · next hc => rw [contains_setBit, if_neg (hne hc), hc]
      · rfl
    | _ => rfl
  | _ => rfl

theorem State.keeps_setFull (s : State) (l : Loc) (f : Bool) : s.Keeps (s.setFull l f) := by
  cases l with
  | lm cid o =>
    have hcore (k : Nat) : ∃ fl ar, (s.setFull (.lm cid o) f).core k = { s.core k with full := fl, arrivals := ar } := by
      simp only [State.setFull, State.core_modCore]
      split
      · next h => exact ⟨_, _, by rw [h]⟩
      · exact ⟨_, _, rfl⟩
    refine ⟨fun x => ?_, fun hw => ⟨by simpa [State.setFull, State.modCore] using hw, fun k i => ?_⟩⟩
    · cases x with
      | lm k o' =>
        obtain ⟨fl, ar, hk⟩ := hcore k
        simp only [State.byteAt, hk]
        rfl
      | _ => simp [State.setFull, State.modCore, State.byteAt, State.cluster, State.die]
    · obtain ⟨fl, ar, hk⟩ := hcore k
      rw [hk]
      rfl
  | csp c o =>
    exact s.keeps_modCluster c (fun x => { x with full := if f then insertNat x.full (o / 4) else eraseNat x.full (o / 4) }) rfl
  | _ => exact .refl s

/-! ### Arrival words (R349) -/

theorem State.cluster_modLate_copies (s : State) (c : Nat) (f : List Late → List Late) (k : Nat) :
    ((s.modLate c f).cluster k).copies = (s.cluster k).copies := by
  unfold State.modLate
  split
  · rfl
  · rw [State.cluster_modCluster]
    split
    · next h => rw [h]
    · rfl

/-- An arrival word's load leaves the copies outside the page that has arrived. -/
theorem State.mem_copies_seeArrival {s : State} {cid o p : Nat} (h : (s.core cid).arrivals.get (o / 4) = some p) (x : Copy) :
    x ∈ ((s.seeArrival (.lm cid o)).cluster (cid / 8)).copies ↔
      x ∈ (s.cluster (cid / 8)).copies ∧ ¬ (p / 64 ≤ x.line ∧ x.line < p / 64 + 1024) := by
  simp only [State.seeArrival, h, State.barLate, State.cluster_modLate_copies, State.cluster_dropCopies]
  simp only [clusterOf, if_pos, List.mem_filter, Bool.not_eq_true', decide_eq_false_iff_not]

theorem State.seeArrival_none {s : State} {cid o : Nat} (h : (s.core cid).arrivals.get (o / 4) = none) :
    s.seeArrival (.lm cid o) = s := by
  simp [State.seeArrival, h]

/-! ### The instructions (R201, R210 to R213) -/

theorem State.dispAddr_four (s : State) (a : GReg) (disp : Word) : s.dispAddr a disp 4 = s.g a + disp * 4 := rfl

section
variable {s : State} {acc : Acc} {a : Word} {l : Loc} (h : s.ReachesWord acc a l)
include h

theorem State.ReachesWord.wordAt : s.wordAt acc a = .ok (l, s) := by
  obtain ⟨halign, hlocal, hwin, hres, hholders, -⟩ := h
  simp [State.wordAt, aligned_of_mod halign, hlocal, hwin, hres, State.lineCheck, State.ownQ, hholders]

theorem State.ReachesWord.readable : s.readable a l 4 = .ok () := by
  obtain ⟨-, -, -, -, -, hsound⟩ := h
  simp [State.readable, State.damagedByte, hsound]

end

section
variable {s : State} {d a : GReg} {disp : Word} {l : Loc}

theorem lds_full (h : s.ReachesWord .load (s.g a + disp * 4) l) (hf : s.isFull l = true) :
    Completes (exec (.lds d a disp) s)
      (((s.setG d (BitVec.ofNat 64 (s.bytesAt l 4))).seeArrival l).acquire (wordScope l)) := by
  refine completes_advance ?_
  show execLds d a disp s = _
  simp only [execLds, State.dispAddr_four, h.wordAt, Eff.bind_ok, hf, await_true, h.readable, State.peek_eq_bytesAt,
    State.finish_ok]

theorem ldt_full (h : s.ReachesWord .load (s.g a + disp * 4) l) (hf : s.isFull l = true) :
    Completes (exec (.ldt d a disp) s)
      (((s.setG d (BitVec.ofNat 64 (s.bytesAt l 4))).setFull l false).acquire (wordScope l)) := by
  refine completes_advance ?_
  show execLdt d a disp s = _
  simp only [execLdt, State.dispAddr_four, h.wordAt, Eff.bind_ok, hf, await_true, h.readable, State.peek_eq_bytesAt,
    State.finish_ok]

theorem lds_empty (h : s.ReachesWord .load (s.g a + disp * 4) l) (hf : s.isFull l = false) :
    exec (.lds d a disp) s = .next (s.park (.word l)) := by
  show execLds d a disp s = _
  simp only [execLds, State.dispAddr_four, h.wordAt, Eff.bind_ok, hf, await_false, Eff.bind_error, State.finish_error,
    State.settle_park]

theorem ldt_empty (h : s.ReachesWord .load (s.g a + disp * 4) l) (hf : s.isFull l = false) :
    exec (.ldt d a disp) s = .next (s.park (.word l)) := by
  show execLdt d a disp s = _
  simp only [execLdt, State.dispAddr_four, h.wordAt, Eff.bind_ok, hf, await_false, Eff.bind_error, State.finish_error,
    State.settle_park]

theorem stf_completes (h : s.ReachesWord .store (s.g a + disp * 4) l) : Completes (exec (.stf d a disp) s)
    (((s.releaseTo (wordScope l)).storeAt s.hereCid l 4 ((s.g d).toNat % 2 ^ 32)).setFull l true) := by
  refine completes_advance ?_
  show execStf d a disp s = _
  simp only [execStf, State.dispAddr_four, h.wordAt, Eff.bind_ok, State.finish_ok]

theorem ste_completes (h : s.ReachesWord .store (s.g a + disp * 4) l) :
    Completes (exec (.ste a disp) s) (s.setFull l false) := by
  refine completes_advance ?_
  show execSte a disp s = _
  simp only [execSte, State.dispAddr_four, h.wordAt, Eff.bind_ok, State.finish_ok]

end

/-- Settles O19: the four instructions reach their word through State.wordAt; the bits are a rising list of word numbers. -/
theorem fullEmptyWords : Obligations.FullEmptyWords := by
  unfold Obligations.FullEmptyWords
  refine ⟨fun s d a disp l => ⟨fun h hf => ?_, fun h hf => ⟨lds_empty h hf, ldt_empty h hf⟩, fun h => ?_⟩,
    fun s cid o => ⟨fun p hp x => State.mem_copies_seeArrival hp x, State.seeArrival_none⟩,
    fun s l x f => ⟨fun h => s.isFull_setFull_same h f, fun h => s.isFull_setFull_other h f, (s.keeps_setFull l f).bytes x⟩⟩
  · exact ⟨lds_full h hf, ldt_full h hf⟩
  · exact ⟨stf_completes h, ste_completes h⟩

end Sys2Proof.Machine
end

section
/-! PROOF. AMO, TOPK and RED where the home is reached and takes the request (R216 to R223). -/

namespace Sys2Proof.Machine

/-- A core that awaits no answer may send a request to any slice (R218). -/
theorem State.roomAtHome_idle {u : State} (h : u.here.unanswered = []) (l : Loc) : u.roomAtHome l = .ok () := by
  simp [State.roomAtHome, h]

theorem extendBytes_word (v : Nat) : extendBytes false 8 v = BitVec.ofNat 64 v :=
  BitVec.eq_of_toNat_eq (by simp [extendBytes])

section
variable {s u : State} {a : GReg} {n : Nat} {l : Loc} (h : s.Reaches .atomic (s.g a) n l u)
  (hidle : u.here.unanswered = [])
include h

theorem State.Reaches.resolve : s.resolve .atomic (s.g a) n = .ok (l, u) := h.2.1

include hidle

/-- The checks of an atomic pass where its home is reached and takes the request (R216, R220). -/
theorem State.Reaches.atomicAt : s.atomicAt (s.g a) n = .ok (l, u) := by
  simp only [State.atomicAt, h.aligned, h.resolve, Eff.bind_ok, h.lineCheck, h.readable, State.roomAtHome_idle hidle]

/-- An AMO sends its request after the release, and its task has the old value before the acquire (R216). -/
theorem State.Reaches.amo (op : HomeOp) (signed : Bool) (o : Ordering) (sc : Scope) (d b : GReg) :
    let r := (u.releaseIf o sc).request l op (s.g b).toNat (s.g d).toNat
    Completes (s.finish (s.amo op n signed o sc d a b))
      (((r.2.2.addFpf r.2.1).setG d (extendBytes signed n r.1)).acquireIf o sc) :=
  completes_advance (by rw [State.amo, h.atomicAt hidle, Eff.bind_ok, State.finish_ok])

theorem topk_completes (hn : n = 64) (o : Ordering) (sc : Scope) (b : GReg) :
    Completes (exec (.topk o sc a b) s) ((u.releaseIf o sc).request l .topk (s.g b).toNat 0).2.2 := by
  subst hn
  refine completes_advance ?_
  show execTopk o sc a b s = _
  rw [execTopk, h.atomicAt hidle, Eff.bind_ok, State.finish_ok]

/-- At a DSW line a RED is a request to its slice (R222). -/
theorem State.Reaches.redAt_dsw {dd off : Nat} (hl : l = .dsw dd off) (k : UKind) (op : HomeOp) (b : GReg) :
    Completes (s.finish (s.redAt k op n a b)) (u.request l op ((s.g b).toNat % 2 ^ (8 * n)) 0).2.2 := by
  subst hl
  refine completes_advance ?_
  simp only [State.redAt, h.aligned, h.resolve, Eff.bind_ok, h.lineCheck, h.readable, State.roomAtHome_idle hidle,
    State.finish_ok]

omit hidle

/-- At a line of memory a RED combines in the issuing cluster's CDC (R222). -/
theorem State.Reaches.redAt_phys {pa : Nat} (hl : l = .phys pa) (k : UKind) (op : HomeOp) (b : GReg) :
    Completes (s.finish (s.redAt k op n a b)) (u.redLocal pa k (BitVec.ofNat 64 ((s.g b).toNat % 2 ^ (8 * n)))) := by
  subst hl
  refine completes_advance ?_
  simp only [State.redAt, h.aligned, h.resolve, Eff.bind_ok, h.lineCheck, State.finish_ok]

end

theorem toNat_mod_two_pow (w : Word) : w.toNat % 2 ^ (8 * 8) = w.toNat := Nat.mod_eq_of_lt w.isLt

theorem ofNat_toNat_mod_two_pow (w : Word) : BitVec.ofNat 64 (w.toNat % 2 ^ (8 * 8)) = w := by
  rw [toNat_mod_two_pow, BitVec.ofNat_toNat, BitVec.setWidth_eq]

/-- Settles O21: each form passes its checks and sends one request, or combines in its cluster. -/
theorem atomicsComplete : Obligations.AtomicsComplete := by
  unfold Obligations.AtomicsComplete
  refine ⟨fun s u o sc d a b l hidle => ⟨fun h op sg => ?_, fun h op sg => h.amo hidle _ sg o sc d b,
    fun h => h.amo hidle _ false o sc d b, fun h => topk_completes h hidle rfl o sc b⟩,
    fun s u a b l hidle => ⟨fun pa hl => ⟨fun h op sg => ?_, fun h op sg => h.redAt_phys hl _ _ b,
      fun h => h.redAt_phys hl _ _ b⟩, fun dd off hl => ⟨fun h op sg => ?_, fun h op sg => h.redAt_dsw hidle hl _ _ b,
      fun h => h.redAt_dsw hidle hl _ _ b⟩⟩⟩
  · have hamo := h.amo hidle (.amo op true sg) false o sc d b
    simp only [extendBytes_word] at hamo
    exact hamo
  · have hred := h.redAt_phys hl { op := some op, w64 := true, signed := sg } (.red op true sg) b
    rwa [ofNat_toNat_mod_two_pow] at hred
  · have hred := h.redAt_dsw hidle hl { op := some op, w64 := true, signed := sg } (.red op true sg) b
    rwa [toNat_mod_two_pow] at hred

end Sys2Proof.Machine
end

section
/-! PROOF. Requests at their home (R216 to R218, R372): what an answer leaves, the arithmetic of an AMO, and the reply cache. -/

namespace Sys2Proof.Machine

/-! ### Bytes as one number -/

theorem State.bytesAt_lt (s : State) (l : Loc) (n : Nat) : s.bytesAt l n < 256 ^ n := by
  induction n with
  | zero => exact Nat.one_pos
  | succ n ih =>
    have hbyte := (s.byteAt (l.add n)).isLt
    have hmul : (s.byteAt (l.add n)).toNat * 256 ^ n ≤ 255 * 256 ^ n := Nat.mul_le_mul_right _ (by omega)
    rw [State.bytesAt_succ, Nat.pow_succ]
    omega

theorem State.bytesAt_congr {s t : State} {l k : Loc} {n : Nat} (h : ∀ i, i < n → t.byteAt (k.add i) = s.byteAt (l.add i)) :
    t.bytesAt k n = s.bytesAt l n := by
  induction n with
  | zero => rfl
  | succ n ih => rw [State.bytesAt_succ, State.bytesAt_succ, ih fun i hi => h i (by omega), h n (by omega)]

theorem State.Stored.bytesAt {s t : State} {l : Loc} {n v : Nat} (h : s.Stored t l n v) : t.bytesAt l n = v % 256 ^ n := by
  obtain ⟨hw, -, -⟩ := h
  induction n with
  | zero => simp [State.bytesAt, Nat.mod_one]
  | succ n ih =>
    rw [State.bytesAt_succ, ih fun i hi => hw i (by omega), hw n (by omega), BitVec.toNat_ofNat, Nat.pow_succ 256 n,
      Nat.mul_comm _ (256 ^ n)]
    exact (Nat.mod_mul (a := 256 ^ n) (b := 256)).symm

theorem two_pow_bits (n : Nat) : (2 : Nat) ^ (8 * n) = 256 ^ n := by rw [Nat.pow_mul]

/-! ### The arithmetic of an AMO (R216) -/

theorem signedOf_eq_toInt {w v : Nat} (hw : 0 < w) (hv : v < 2 ^ w) : signedOf w v = (BitVec.ofNat w v).toInt := by
  have htwo := two_pow_pred hw
  rw [BitVec.toInt_eq_toNat_cond, BitVec.toNat_ofNat, Nat.mod_eq_of_lt hv, signedOf]
  by_cases h : 2 ^ (w - 1) ≤ v
  · rw [if_pos h, if_neg (by omega)]; push_cast; rfl
  · rw [if_neg h, if_pos (by omega)]

/-- The value that the home writes is that of the rule, on w-bit numbers. -/
theorem amoValue_eq_spec216 (op : AmoOp) (sg : Bool) {w old val cmp : Nat} (hw : 0 < w) (ho : old < 2 ^ w) (hv : val < 2 ^ w)
    (hc : cmp < 2 ^ w) :
    amoValue op sg w old val cmp = (spec216 op sg w (BitVec.ofNat w old) (BitVec.ofNat w val) (BitVec.ofNat w cmp)).toNat := by
  have hno := toNat_ofNat_of_lt ho
  have hnv := toNat_ofNat_of_lt hv
  have heq : BitVec.ofNat w old = BitVec.ofNat w cmp ↔ old = cmp := by
    rw [← BitVec.toNat_inj, hno, toNat_ofNat_of_lt hc]
  cases op with
  | swap => exact hnv.symm
  | cas =>
    simp only [amoValue, spec216, heq]
    split
    · exact hnv.symm
    · exact hno.symm
  | add => simp [amoValue, spec216, redValue, Nat.add_mod]
  | and => simp only [amoValue, spec216, redValue, BitVec.toNat_and, hno, hnv]
  | or => simp only [amoValue, spec216, redValue, BitVec.toNat_or, hno, hnv]
  | xor => simp only [amoValue, spec216, redValue, BitVec.toNat_xor, hno, hnv]
  | min | max =>
    simp only [amoValue, spec216, redValue, signedOf_eq_toInt hw ho, signedOf_eq_toInt hw hv, hno, hnv]
    generalize (if sg = true then decide ((BitVec.ofNat w val).toInt < (BitVec.ofNat w old).toInt) else decide (val < old)) = b
    cases b
    · simp [hno, hnv]
    · simp [hno, hnv]

theorem ofNat_mod_two_pow (w x : Nat) : BitVec.ofNat w (x % 2 ^ w) = BitVec.ofNat w x :=
  BitVec.eq_of_toNat_eq (by simp)

/-! ### What a write at the home leaves (R225, R375) -/

/-- A write of n bytes at their home: damage mended, waiters answered. -/
def State.writeHome (s : State) (l : Loc) (n v : Nat) : State :=
  (match l with
    | .phys pa => (s.mend l n).pokeHome pa n v
    | l => (s.mend l n).poke l n v).wakeLine l.line

theorem State.stored_writeHome {s : State} (hc : s.Canonical) {l : Loc} (hp : l.plain) (hl : ∀ o, l ≠ .mqw o) (n v : Nat) :
    s.Stored (s.writeHome l n v) l n v := by
  obtain ⟨d, hd⟩ := s.mend_plain hp n
  have hs : ({ s with damaged := d } : State).Canonical := hc
  refine (s.keeps_damaged d).then_stored (State.Stored.then_keeps ?_ (State.keeps_wakeLine _ _))
  cases l with
  | phys pa => rw [hd]; exact (State.stored_poke hs hp hl n v).then_keeps (State.keeps_oldCode _ _)
  | mqw o => exact absurd rfl (hl o)
  | lm _ _ | csp _ _ | dsw _ _ => dsimp only; rw [hd]; exact State.stored_poke hs hp hl n v

theorem State.answerWaiter_eq (s : State) (w : Waiter) : ∃ h o r, s.answerWaiter w = { s with here := h, others := o, lastRead := r } := by
  unfold State.answerWaiter
  split
  · next y _ =>
    rcases s.answerFar_cases y with h | ⟨v, h⟩
    · exact ⟨s.here, s.others, s.lastRead, h⟩
    · exact ⟨s.here, s.others, v, h⟩
  · simp only [State.answer, State.modSlot, State.modCore, State.setCore]
    split
    · exact ⟨_, s.others, s.lastRead, rfl⟩
    · exact ⟨s.here, _, s.lastRead, rfl⟩

/-- The waiters of a line are answered: only cores, waiters and what was read last change (R225). -/
theorem State.wakeLine_eq (s : State) (line : Loc) :
    ∃ h o r, s.wakeLine line = { s with
      here := h, others := o, lastRead := r, waiters := s.waiters.filter (fun w => w.line != line) } := by
  refine List.foldlRecOn (motive := fun t => ∃ h o r, t = { s with
      here := h, others := o, lastRead := r, waiters := s.waiters.filter (fun w => w.line != line) }) _ _ ⟨s.here, s.others, s.lastRead, rfl⟩ fun t ht w _ => ?_
  obtain ⟨h, o, r, rfl⟩ := ht
  exact State.answerWaiter_eq _ w

theorem State.wakeLine_replies (s : State) (line : Loc) : (s.wakeLine line).replies = s.replies := by
  obtain ⟨_, _, _, h⟩ := s.wakeLine_eq line
  rw [h]

theorem State.setByteAt_replies (s : State) (l : Loc) (b : Byte) : (s.setByteAt l b).replies = s.replies := by
  cases l <;> simp [State.setByteAt, State.modCore, State.modCluster, State.modDie, State.setCluster, State.setDie]

theorem State.poke_replies (s : State) (l : Loc) (n v : Nat) : (s.poke l n v).replies = s.replies := by
  induction n generalizing s l v with
  | zero => rfl
  | succ n ih => exact (ih _ _ _).trans (s.setByteAt_replies l _)

theorem State.writeHome_replies {s : State} {l : Loc} (hp : l.plain) (n v : Nat) : (s.writeHome l n v).replies = s.replies := by
  obtain ⟨d, hd⟩ := s.mend_plain hp n
  unfold State.writeHome
  rw [State.wakeLine_replies]
  have hpoke : ((s.mend l n).poke l n v).replies = s.replies := by rw [State.poke_replies, hd]
  cases l <;> exact hpoke

/-! ### The reply cache (R218, R372) -/

/-- A slice remembers the answer to a request. -/
def State.remember (s : State) (e : ReplyEntry) : State := { s with replies := keepReplies e.slice e.src s.replies ++ [e] }

theorem State.keeps_remember (s : State) (e : ReplyEntry) : s.Keeps (s.remember e) :=
  ⟨fun x => by cases x <;> rfl, fun h => ⟨h, fun _ _ => rfl⟩⟩

theorem mem_keepReplies {slice src : Nat} {l : List ReplyEntry} {e : ReplyEntry} (h : e ∈ keepReplies slice src l) : e ∈ l := by
  unfold keepReplies at h
  dsimp only at h
  split at h
  · exact h
  · exact List.mem_of_mem_eraseP h

/-- A remembered answer is the one found, where none was before. -/
theorem State.find_remember {s : State} {e : ReplyEntry} (h : s.Unanswered e.slice e.src e.seq) :
    ((s.remember e).replies.find? fun x => x.slice == e.slice && x.src == e.src && x.seq == e.seq) = some e := by
  rw [State.remember, List.find?_append, List.find?_eq_none.2, Option.none_or]
  · simp
  · intro x hx
    simpa [and_assoc] using h x (mem_keepReplies hx)

theorem State.find_unanswered {s : State} {slice src seq : Nat} (h : s.Unanswered slice src seq) :
    (s.replies.find? fun e => e.slice == slice && e.src == src && e.seq == seq) = none := by
  rw [List.find?_eq_none]
  intro e he
  simpa [and_assoc] using h e he

/-- A request whose answer is remembered gets it, and changes nothing. -/
theorem State.perform_again {s : State} {l : Loc} {src seq : Nat} {e : ReplyEntry}
    (h : (s.replies.find? fun x => x.slice == l.slice && x.src == src && x.seq == seq) = some e) (op : HomeOp) (val cmp : Nat) :
    s.perform src seq l op val cmp = (e.old.toNat, e.flags, s) := by
  simp only [State.perform, h]

/-! ### One request at its home (R216 to R219) -/

theorem State.redirected_self {s : State} (h : s.redirects = []) (l : Loc) : s.redirected l = l := by
  cases l <;> simp [State.redirected, h]

/-- The entry of an answer of value old and flags f. -/
def State.replyOf (s : State) (src seq : Nat) (l : Loc) (old : Nat) (f : Byte) : ReplyEntry :=
  { slice := l.slice, src := src, seq := seq, line := l.line, old := BitVec.ofNat 64 old, flags := f, moved := false,
    cx := (s.cxOf src).getD 0 }

section
variable {s : State} {src seq : Nat} {h : HomeLoc} (hunc : s.Uncached (homePlace h)) (hred : s.redirects = [])
  (hnew : s.Unanswered (homePlace h).slice src seq)

theorem homePlace_plain (h : HomeLoc) : (homePlace h).plain := by cases h <;> trivial
theorem homePlace_ne_mqw (h : HomeLoc) (o : Nat) : homePlace h ≠ .mqw o := by cases h <;> exact nofun

include hunc hred hnew

/-- An AMO that no reply cache answers (R216): CAS that fails writes nothing. -/
theorem State.perform_amo (op : AmoOp) (w64 sg : Bool) (val cmp : Nat) :
    let n := if w64 then 8 else 4
    let l := homePlace h
    let old := s.bytesAt l n
    s.perform src seq l (.amo op w64 sg) val cmp = (old, 0,
      (if op = .cas ∧ old ≠ cmp % 2 ^ (8 * n) then s
        else s.writeHome l n (amoValue op sg (8 * n) old (val % 2 ^ (8 * n)) (cmp % 2 ^ (8 * n)))).remember
          (s.replyOf src seq l old 0)) := by
  simp only [State.perform, State.find_unanswered hnew, State.redirected_self hred, ← State.peek_eq_bytesAt]
  cases h with
  | phys pa => simp only [homePlace, State.combineLine_of_noULine (State.noULine_of_uncached hunc)]; rfl
  | dsw d o => rfl

/-- A TOPK that no reply cache answers (R219). -/
theorem State.perform_topk (pair : Nat) :
    let l := homePlace h
    s.perform src seq l .topk pair 0 = (0, 0,
      (s.writeHome l 64 (topkRecord (s.bytesAt l 64) pair)).remember (s.replyOf src seq l 0 0)) := by
  simp only [State.perform, State.find_unanswered hnew, State.redirected_self hred, ← State.peek_eq_bytesAt]
  cases h with
  | phys pa => simp only [homePlace, State.combineLine_of_noULine (State.noULine_of_uncached hunc)]; rfl
  | dsw d o => rfl

end

/-! ### Requests as steps -/

theorem State.sound_redirected {s : State} (h : s.damaged = []) (q : HomeLoc) : s.sound (s.redirected (homePlace q)) = true := by
  cases q with
  | phys pa =>
    simp only [homePlace, State.redirected]
    split <;> simp [State.sound, h]
  | dsw d o => simp [homePlace, State.redirected, State.sound, h]

/-- An aligned request that its source has issued, of a readable line, is performed. -/
theorem State.performReq_issued {s : State} {q : HomeReq} (hd : s.damaged = []) (hi : s.issued q = true)
    (ha : (homePlace q.loc).off % homeBytes q.op = 0) :
    s.performReq q = (s.perform q.src q.seq (homePlace q.loc) q.op q.val.toNat q.cmp.toNat).2.2 := by
  simp [State.performReq, State.homeOk, ha, State.damagedByte, State.sound_redirected hd, hi]

/-- What an AMO makes of the bytes at its home: the word of its rule, and no other byte. -/
theorem State.stored_amo {s : State} {l : Loc} (hc : s.Canonical) (hp : l.plain) (hl : ∀ o, l ≠ .mqw o) (op : AmoOp) (w64 sg : Bool)
    (val cmp : Nat) {n old : Nat} (hn : n = if w64 then 8 else 4) (ho : old = s.bytesAt l n) {t : State}
    (ht : t = if op = .cas ∧ old ≠ cmp % 2 ^ (8 * n) then s
      else s.writeHome l n (amoValue op sg (8 * n) old (val % 2 ^ (8 * n)) (cmp % 2 ^ (8 * n)))) :
    t.bytesAt l n = (spec216 op sg (8 * n) (BitVec.ofNat (8 * n) old) (BitVec.ofNat (8 * n) val)
      (BitVec.ofNat (8 * n) cmp)).toNat ∧ (∀ x : Loc, x.outside l n → t.byteAt x = s.byteAt x) ∧ t.replies = s.replies := by
  have hold : old < 2 ^ (8 * n) := by rw [ho, two_pow_bits]; exact s.bytesAt_lt l n
  have hpos : 0 < 8 * n := by rw [hn]; split <;> decide
  have hval := amoValue_eq_spec216 op sg hpos hold (Nat.mod_lt val (Nat.two_pow_pos (8 * n)))
    (Nat.mod_lt cmp (Nat.two_pow_pos (8 * n)))
  rw [ofNat_mod_two_pow, ofNat_mod_two_pow] at hval
  by_cases hcas : op = .cas ∧ old ≠ cmp % 2 ^ (8 * n)
  · rw [if_pos hcas] at ht
    subst ht
    refine ⟨?_, fun _ _ => rfl, rfl⟩
    rw [← hval, hcas.1, amoValue, if_neg hcas.2, ho]
  · rw [if_neg hcas] at ht
    subst ht
    have hst := State.stored_writeHome hc hp hl n
      (amoValue op sg (8 * n) old (val % 2 ^ (8 * n)) (cmp % 2 ^ (8 * n)))
    refine ⟨?_, hst.frame, State.writeHome_replies hp n _⟩
    rw [hst.bytesAt, hval, ← two_pow_bits, Nat.mod_eq_of_lt (BitVec.isLt _)]

/-- Settles O22: the request is performed once (State.perform_amo), and its answer is then the one found. -/
theorem atomicAtHome : Obligations.AtomicAtHome := by
  unfold Obligations.AtomicAtHome
  intro s src seq h op w64 sg val cmp l n hc hunc hred hnew hd hoff old new r
  have hr : r = _ := State.perform_amo hunc hred hnew op w64 sg val.toNat cmp.toNat
  obtain ⟨hbytes, hframe, hreplies⟩ := State.stored_amo hc (homePlace_plain h) (homePlace_ne_mqw h) op w64 sg val.toNat cmp.toNat
    (n := n) (old := old) rfl rfl rfl
  have hkeep := State.keeps_remember (if op = .cas ∧ old ≠ cmp.toNat % 2 ^ (8 * n) then s
        else s.writeHome l n (amoValue op sg (8 * n) old (val.toNat % 2 ^ (8 * n)) (cmp.toNat % 2 ^ (8 * n))))
      (s.replyOf src seq l old 0)
  have hold : old < 2 ^ 64 :=
    Nat.lt_of_lt_of_le (s.bytesAt_lt l n) (by simp only [n]; split <;> decide)
  refine ⟨congrArg (·.1) hr, congrArg (·.2.1) hr, ?_, fun x hx => ?_, ?_, fun q hsrc hseq hloc hop hval hcmp hmem => ?_⟩
  · rw [hr]
    exact (State.bytesAt_congr fun i _ => hkeep.bytes _).trans hbytes
  · rw [hr]
    exact (hkeep.bytes x).trans (hframe x hx)
  · have hfind : (r.2.2.replies.find? fun x => x.slice == l.slice && x.src == src && x.seq == seq) =
        some (s.replyOf src seq l old 0) := by
      rw [hr]
      exact State.find_remember (e := s.replyOf src seq l old 0) fun e he => hnew e (hreplies ▸ he)
    rw [State.perform_again hfind, State.replyOf, toNat_ofNat_of_lt hold]
  · subst hsrc hseq hloc hval hcmp
    have hissued : s.issued q = true := by
      simp only [State.issued, Bool.or_eq_true]
      exact .inl (List.contains_iff_mem.2 hmem)
    have hdone := State.performReq_issued hd hissued (by rw [hop]; exact hoff)
    show execAtomicAtHome q s = _
    rw [execAtomicAtHome, hop]
    simp only [hdone, hop]
    rfl

end Sys2Proof.Machine
end

section
/-! PROOF. A RED of a line that nothing caches: its U line in the issuing cluster's CDC, and the word once the line is combined
(R221, R222). -/

namespace Sys2Proof.Machine

/-! ### Tables: a walk that stops at one entry only -/

/-- A walk over a table that only its new entry advances. -/
theorem Table.foldl_put {α β : Type} {f : β → Nat × α → β} {t : Table α} (h : ∀ x ∈ t, ∀ b, f b x = b) (k : Nat) (v : α) (b : β) :
    (t.put k v).foldl f b = f b (k, v) := by
  induction t generalizing b with
  | nil => rfl
  | cons x t ih =>
    obtain ⟨j, y⟩ := x
    have hstay (b : β) : t.foldl f b = b :=
      List.foldlRecOn (motive := fun c => c = b) t f rfl fun c hc x hx => (h x (List.mem_cons_of_mem _ hx) c).trans hc
    simp only [Table.put]
    split
    · rw [List.foldl_cons, h (j, y) List.mem_cons_self, ih fun x hx => h x (List.mem_cons_of_mem _ hx)]
    · split
      · rw [List.foldl_cons, hstay]
      · rw [List.foldl_cons, List.foldl_cons, h (j, y) List.mem_cons_self, hstay]

/-! ### The U line of a RED (R222) -/

/-- The line of one contribution. -/
def freshULine (pa : Nat) (k : UKind) (v : Word) (src : Nat) : ULine :=
  { line := pa / 64, kind := k, contrib := [(pa % 64, [v])], src := src }

theorem State.cluster_ulines_of_noULine {s : State} {line : Nat} (h : s.NoULine line) (c : Nat) :
    ∀ u ∈ (s.cluster c).ulines, u.line ≠ line :=
  s.forall_cluster (p := fun y => ∀ u ∈ y.ulines, u.line ≠ line) h (by simp [Cluster.reset]) c

theorem State.find_ulines_of_noULine {s : State} {line : Nat} (h : s.NoULine line) (c : Nat) :
    ((s.cluster c).ulines.find? fun u => u.line == line) = none := by
  simpa [List.find?_eq_none] using State.cluster_ulines_of_noULine h c

theorem State.canonical_modCluster {s : State} (h : s.Canonical) (c : Nat) {f : Cluster → Cluster}
    (hf : ∀ x, (f x).csp = x.csp) : (s.modCluster c f).Canonical :=
  State.canonical_setCluster h (by rw [hf]; exact s.canonical_cluster h c) c

/-- A state that differs from another only in what clusters hold, their CSPs excepted. -/
structure State.Recached (s t : State) (line : Nat) : Prop where
  here : t.here = s.here
  hereCid : t.hereCid = s.hereCid
  keeps : s.Keeps t
  canonical : s.Canonical → t.Canonical
  noULine : s.NoULine line → t.NoULine line
  damaged : t.damaged = s.damaged

theorem State.Recached.refl (s : State) (line : Nat) : s.Recached s line := ⟨rfl, rfl, .refl s, id, id, rfl⟩

theorem State.Recached.trans {s t u : State} {line : Nat} (h : s.Recached t line) (k : t.Recached u line) : s.Recached u line :=
  ⟨k.here.trans h.here, k.hereCid.trans h.hereCid, h.keeps.trans k.keeps, fun hc => k.canonical (h.canonical hc),
    fun hu => k.noULine (h.noULine hu), k.damaged.trans h.damaged⟩

theorem State.recached_modCluster (s : State) (line c : Nat) {f : Cluster → Cluster} (hcsp : ∀ x, (f x).csp = x.csp)
    (hu : ∀ x, (f x).ulines = x.ulines) : s.Recached (s.modCluster c f) line where
  here := rfl
  hereCid := rfl
  keeps := s.keeps_modCluster c f (hcsp _)
  canonical := fun h => State.canonical_modCluster h c hcsp
  noULine := fun h => State.noULine_modCluster h c f (hu _)
  damaged := rfl

theorem State.recached_modLate (s : State) (line c : Nat) (f : List Late → List Late) : s.Recached (s.modLate c f) line := by
  unfold State.modLate
  split
  · exact .refl s line
  · exact s.recached_modCluster line c (fun _ => rfl) fun _ => rfl

theorem State.recached_seeHome (s : State) (w : Nat × Nat) (line : Nat) : s.Recached (s.seeHome w line) line := by
  have hdrop : s.Recached (s.dropCopy (clusterOf w.1) line) line :=
    s.recached_modCluster line _ (f := fun x => { x with copies := x.copies.filter fun y => !(y.line == line) })
      (fun _ => rfl) fun _ => rfl
  exact hdrop.trans (State.recached_modLate _ _ _ _)

/-- A line that fits beside the U lines of a CDC finds room without one of them being combined. -/
theorem State.recached_makeRoom (s : State) (line c : Nat) (h : (s.cluster c).ulines.length < 2048) :
    s.Recached (s.makeRoom c) line := by
  unfold State.makeRoom
  dsimp only
  split
  · exact .refl s line
  · next hfull =>
    split
    · exact s.recached_modCluster line c (f := fun x => { x with copies := x.copies.dropLast }) (fun _ => rfl) fun _ => rfl
    · next hcopies _ =>
      exact absurd (show (s.cluster c).copies.length + (s.cluster c).ulines.length < 2048 by simpa [hcopies] using h) hfull
    · exact .refl s line

theorem State.ulines_modLate (s : State) (c k : Nat) (f : List Late → List Late) :
    ((s.modLate c f).cluster k).ulines = (s.cluster k).ulines := by
  unfold State.modLate
  split
  · rfl
  · rw [State.cluster_modCluster]
    split
    · next h => rw [h]
    · rfl

theorem State.ulines_seeHome (s : State) (w : Nat × Nat) (line k : Nat) :
    ((s.seeHome w line).cluster k).ulines = (s.cluster k).ulines := by
  unfold State.seeHome State.dropCopy State.barLate
  rw [State.ulines_modLate, State.cluster_dropCopies]
  split
  · next h => rw [h]
  · rfl

/-- A RED of a line in U state nowhere, with room for it, allocates the line with its contribution and changes nothing else. -/
theorem State.redLocal_fresh {s : State} {pa : Nat} (hu : s.NoULine (pa / 64))
    (hroom : (s.cluster (clusterOf s.hereCid)).ulines.length < 2048) (k : UKind) (v : Word) (hk : k.combine [] v = [v]) :
    ∃ t, s.Recached t (pa / 64) ∧ s.redLocal pa k v = t.modCluster (clusterOf s.hereCid) fun x =>
      { x with ulines := freshULine pa k v s.hereCid :: x.ulines.filter fun y => y.line ≠ pa / 64 } := by
  have hsee := s.recached_seeHome s.me (pa / 64)
  have hmake := (s.seeHome s.me (pa / 64)).recached_makeRoom (pa / 64) (clusterOf s.hereCid)
    (by rw [State.ulines_seeHome]; exact hroom)
  have hboth := hsee.trans hmake
  refine ⟨_, hboth, ?_⟩
  unfold State.redLocal
  simp only [State.find_ulines_of_noULine hu, State.find_ulines_of_noULine (hsee.noULine hu),
    State.find_ulines_of_noULine (hboth.noULine hu), Option.getD_none, Table.get, Table.put, hk]
  rfl

/-! ### Combining it (R221, R222) -/

theorem redValue_eq_amoValue (op : RedOp) (sg : Bool) (w old v cmp : Nat) :
    redValue op sg w old v = amoValue (redAsAmo op) sg w old v cmp := by cases op <;> rfl

/-- Without damage, a line's contributions are combined at its home and its waiters answered. -/
theorem State.combineU_undamaged {s : State} (h : s.damaged = []) (c : Nat) (u : ULine) :
    s.combineU c u = (u.contrib.foldl (fun s x => combineWord u.kind s (64 * u.line + x.1) x.2)
      (s.modCluster c fun x => { x with ulines := x.ulines.filter fun y => y.line ≠ u.line })).wakeLine (.phys u.line) := by
  simp [State.combineU, State.isDamaged, State.lostAt, h]

/-- Of an integer kind, the one contribution of a fresh line gives the word of the operation. -/
theorem State.stored_combineU_fresh {s : State} (hc : s.Canonical) (hd : s.damaged = []) (c pa src : Nat) (op : RedOp)
    (w64 sg : Bool) (v : Word) {w : Nat} (hw : w = if w64 then 64 else 32) :
    s.Stored (s.combineU c (freshULine pa { op := some op, w64 := w64, signed := sg } v src)) (.phys pa) (w / 8)
      (redValue op sg w (s.bytesAt (.phys pa) (w / 8)) v.toNat) := by
  have hpa : 64 * (pa / 64) + pa % 64 = pa := Nat.div_add_mod pa 64
  have hkeep : s.Keeps (s.modCluster c fun x => { x with ulines := x.ulines.filter fun y => y.line ≠ pa / 64 }) :=
    s.keeps_modCluster c _ rfl
  have hcanon : (s.modCluster c fun x => { x with ulines := x.ulines.filter fun y => y.line ≠ pa / 64 }).Canonical :=
    State.canonical_modCluster hc c fun _ => rfl
  have hwidth : UKind.width { op := some op, w64 := w64, signed := sg } = w := by rw [hw]; rfl
  rw [State.combineU_undamaged hd]
  simp only [freshULine, List.foldl_cons, List.foldl_nil, combineWord, hpa, hwidth, List.drop_one, List.tail_cons,
    List.headD_cons, State.peek_eq_bytesAt]
  exact ((hkeep.then_stored (State.stored_poke hcanon (l := .phys pa) trivial nofun _ _)).then_keeps
    (State.keeps_oldCode _ _)).then_keeps (State.keeps_wakeLine _ _)

/-- With the line in U state in one cluster only, combining it is combining that U line (R222). -/
theorem State.combineLine_single {t : State} {line c : Nat} (hu : t.NoULine line) {u : ULine} (hline : u.line = line)
    (f : List ULine → List ULine) (s : State) (hs : s = t.modCluster c fun x => { x with ulines := u :: f x.ulines }) :
    s.combineLine line = s.combineU c u := by
  have hclusters : s.clusters = t.clusters.put c { t.cluster c with ulines := u :: f (t.cluster c).ulines } := by
    rw [hs]; rfl
  unfold State.combineLine
  rw [hclusters, Table.foldl_put]
  · simp [hline]
  · intro x hx b
    have hnone : (x.2.ulines.find? fun u => u.line == line) = none := by simpa [List.find?_eq_none] using hu x hx
    simp [hnone]

/-- Settles O24: the RED allocates a U line with its operand (State.redLocal_fresh), which is the only one of its line, so that
combining the line writes the word of the operation (State.stored_combineU_fresh). -/
theorem reductionReachesHome : Obligations.ReductionReachesHome := by
  unfold Obligations.ReductionReachesHome
  intro s pa op w64 sg v n hc hunc hd hpa hv hroom t
  have hu := State.noULine_of_uncached hunc
  obtain ⟨t0, hrec, ht⟩ := State.redLocal_fresh hu hroom { op := some op, w64 := w64, signed := sg } v rfl
  have hkeep : t0.Keeps t := by
    rw [show t = _ from ht]
    exact t0.keeps_modCluster _ _ rfl
  have hcanon : t.Canonical := by
    rw [show t = _ from ht]
    exact State.canonical_modCluster (hrec.canonical hc) _ fun _ => rfl
  have hbytes := fun x => (hkeep.bytes x).trans (hrec.keeps.bytes x)
  refine ⟨hbytes, (congrArg State.here ht).trans hrec.here, ?_⟩
  have hdt : t.damaged = [] := (congrArg State.damaged ht).trans (hrec.damaged.trans hd)
  have hn : 8 * n = if w64 then 64 else 32 := by simp only [n]; split <;> rfl
  have hwn : 8 * n / 8 = n := by omega
  have hold : t.bytesAt (.phys pa) n = s.bytesAt (.phys pa) n := State.bytesAt_congr fun i _ => hbytes _
  have hst := State.stored_combineU_fresh hcanon hdt (clusterOf s.hereCid) pa s.hereCid op w64 sg v hn
  rw [hwn, hold, redValue_eq_amoValue op sg _ _ _ 0] at hst
  have hv' : v.toNat < 2 ^ (8 * n) := by
    cases w64 with
    | false => exact hv rfl
    | true => exact v.isLt
  have hlt : s.bytesAt (.phys pa) n < 2 ^ (8 * n) := by rw [two_pow_bits]; exact s.bytesAt_lt _ n
  rw [State.combineLine_single (hrec.noULine hu) (u := freshULine pa _ v s.hereCid) rfl
      (fun l => l.filter fun y => y.line ≠ pa / 64) t ht, hst.bytesAt,
    amoValue_eq_spec216 _ _ (by simp only [n]; split <;> decide) hlt hv' (Nat.two_pow_pos _), ← two_pow_bits,
    Nat.mod_eq_of_lt (BitVec.isLt _)]
  rfl

end Sys2Proof.Machine
end

section
/-! PROOF. TOPK on a record (R219): the order of scores, one pair for each expert, the best of them, and their places. -/

namespace Sys2Proof.Machine

/-! ### The order of the values of a format -/

/-- The place of a value that is not NaN in the order of R219: −∞, the finite values with −0 at +0, +∞. -/
def FV.rank : FV → WithBot (WithTop ℤ)
  | .inf true => ⊥
  | .inf false => ((⊤ : WithTop ℤ) : WithBot (WithTop ℤ))
  | x => ((x.toInt : WithTop ℤ) : WithBot (WithTop ℤ))

theorem FV.lt_iff_rank {x y : FV} (hx : x.isNan = false) (hy : y.isNan = false) : x.lt y = true ↔ x.rank < y.rank := by
  cases x with
  | nan => exact absurd hx (by decide)
  | inf a =>
    cases y with
    | nan => exact absurd hy (by decide)
    | inf b => cases a <;> cases b <;> simp [FV.lt, FV.rank]
    | fin b n =>
      cases a with
      | true => simp [FV.lt, FV.rank]
      | false => exact iff_of_false nofun (not_lt_of_ge (WithBot.coe_le_coe.2 le_top))
  | fin a m =>
    cases y with
    | nan => exact absurd hy (by decide)
    | inf b =>
      cases b with
      | true => simp [FV.lt, FV.rank]
      | false => exact iff_of_true rfl (WithBot.coe_lt_coe.2 (WithTop.coe_lt_top _))
    | fin b n => simp [FV.lt, FV.rank, WithBot.coe_lt_coe]

theorem FV.lt_eq_false_iff_rank {x y : FV} (hx : x.isNan = false) (hy : y.isNan = false) :
    x.lt y = false ↔ y.rank ≤ x.rank := by
  rw [← not_lt, ← FV.lt_iff_rank hx hy, Bool.not_eq_true]

/-! ### Pairs: score, expert, and the two orders of R219 -/

def pairScore (x : BitVec 64) : FV := fp32.decode (x.toNat / 2 ^ 32)
def pairExpert (x : BitVec 64) : Nat := x.toNat % 2 ^ 32

/-- Of one expert's pairs the greatest is kept: by score, +0 over −0. -/
def pairKey (x : BitVec 64) : WithBot (WithTop ℤ) ×ₗ Bool := toLex ((pairScore x).rank, !(pairScore x).isNeg)

/-- Of different experts' pairs the least goes first: by descending score, a tie by the lower expert. -/
def pairPlace (x : BitVec 64) : (WithBot (WithTop ℤ))ᵒᵈ ×ₗ ℕ := toLex (OrderDual.toDual (pairScore x).rank, pairExpert x)

/-- The pair's score is a number. -/
def Scored (x : BitVec 64) : Prop := (pairScore x).isNan = false

theorem pairPlace_inj {x y : BitVec 64} (h : pairPlace x = pairPlace y) : pairExpert x = pairExpert y :=
  congrArg (fun z => (ofLex z).2) h

theorem topkBefore_iff {x y : BitVec 64} (hx : Scored x) (hy : Scored y) : topkBefore x y = true ↔ pairPlace x < pairPlace y := by
  have h : topkBefore x y = ((pairScore y).lt (pairScore x) ||
      (!(pairScore x).lt (pairScore y) && decide (pairExpert x < pairExpert y))) := by
    simp only [topkBefore, toNat_highHalf, toNat_lowHalf]
    rfl
  rw [h, Bool.or_eq_true, Bool.and_eq_true, FV.lt_iff_rank hy hx, Bool.not_eq_true', FV.lt_eq_false_iff_rank hx hy,
    decide_eq_true_eq, pairPlace, pairPlace, Prod.Lex.toLex_lt_toLex, OrderDual.toDual_lt_toDual, EmbeddingLike.apply_eq_iff_eq]
  constructor
  · rintro (h | ⟨hle, hexp⟩)
    · exact .inl h
    · exact hle.lt_or_eq.imp id fun he => ⟨he.symm, hexp⟩
  · rintro (h | ⟨he, hexp⟩)
    · exact .inl h
    · exact .inr ⟨he.ge, hexp⟩

/-! ### One pair for each expert -/

/-- l holds for each expert of the pool the greatest of its pairs. -/
structure BestOfEach (pool l : List (BitVec 64)) : Prop where
  nodup : (l.map pairExpert).Nodup
  mem : ∀ x ∈ l, x ∈ pool
  covers : ∀ y ∈ pool, ∃ x ∈ l, pairExpert x = pairExpert y
  best : ∀ x ∈ l, ∀ y ∈ pool, pairExpert y = pairExpert x → pairKey y ≤ pairKey x

theorem replaces_iff {x y : BitVec 64} (hx : Scored x) (hy : Scored y) :
    ((pairScore y).lt (pairScore x) || (!(pairScore x).lt (pairScore y) && (pairScore y).isNeg && !(pairScore x).isNeg)) = true ↔
      pairKey y < pairKey x := by
  rw [Bool.or_eq_true, Bool.and_eq_true, Bool.and_eq_true, FV.lt_iff_rank hy hx, Bool.not_eq_true', Bool.not_eq_true',
    FV.lt_eq_false_iff_rank hx hy, pairKey, pairKey, Prod.Lex.toLex_lt_toLex]
  constructor
  · rintro (h | ⟨⟨hle, hneg⟩, hpos⟩)
    · exact .inl h
    · exact hle.lt_or_eq.imp id fun he => ⟨he, by simp [hneg, hpos]⟩
  · rintro (h | ⟨he, hneg⟩)
    · exact .inl h
    · obtain ⟨hy', hx'⟩ := Bool.lt_iff.1 hneg
      exact .inr ⟨⟨he.le, by simpa using hy'⟩, by simpa using hx'⟩

theorem mergeTopk_eq (l : List (BitVec 64)) (x : BitVec 64) : mergeTopk l x =
    match l.find? fun y => decide (pairExpert y = pairExpert x) with
    | none => l ++ [x]
    | some y => if ((pairScore y).lt (pairScore x) || (!(pairScore x).lt (pairScore y) && (pairScore y).isNeg &&
        !(pairScore x).isNeg)) = true then l.map (fun z => if z == y then x else z) else l := by
  have hexp (y : BitVec 64) : (y.extractLsb' 0 32 == x.extractLsb' 0 32) = decide (pairExpert y = pairExpert x) := by
    rw [Bool.beq_eq_decide_eq, pairExpert, pairExpert, ← toNat_lowHalf, ← toNat_lowHalf]
    exact decide_eq_decide.2 BitVec.toNat_inj.symm
  simp only [mergeTopk, hexp, toNat_highHalf, pairScore]
  rfl

/-- A pair more: its expert is new, or the greater of the two pairs stays. -/
theorem BestOfEach.merge {pool l : List (BitVec 64)} (h : BestOfEach pool l) (hpool : ∀ y ∈ pool, Scored y) {x : BitVec 64}
    (hx : Scored x) : BestOfEach (pool ++ [x]) (mergeTopk l x) := by
  rw [mergeTopk_eq]
  cases hf : l.find? fun y => decide (pairExpert y = pairExpert x) with
  | none =>
    have hnew : ∀ y ∈ l, pairExpert y ≠ pairExpert x := by simpa [List.find?_eq_none] using hf
    have hpnew : ∀ y ∈ pool, pairExpert y ≠ pairExpert x := fun y hy he => by
      obtain ⟨z, hz, hze⟩ := h.covers y hy
      exact hnew z hz (hze.trans he)
    refine ⟨?_, fun z hz => ?_, fun y hy => ?_, fun z hz y hy he => ?_⟩
    · simp only [List.map_append, List.map_cons, List.map_nil]
      refine List.Nodup.append h.nodup (List.nodup_singleton _) ?_
      simpa using hnew
    · rcases List.mem_append.1 hz with hz | hz
      · exact List.mem_append_left _ (h.mem z hz)
      · exact List.mem_append_right _ hz
    · rcases List.mem_append.1 hy with hy | hy
      · obtain ⟨z, hz, hze⟩ := h.covers y hy
        exact ⟨z, List.mem_append_left _ hz, hze⟩
      · exact ⟨y, List.mem_append_right _ hy, rfl⟩
    · rcases List.mem_append.1 hz with hz | hz <;> rcases List.mem_append.1 hy with hy | hy
      · exact h.best z hz y hy he
      · exact absurd (he.symm.trans (by rw [List.mem_singleton.1 hy])) (hnew z hz)
      · exact absurd (he.trans (by rw [List.mem_singleton.1 hz])) (hpnew y hy)
      · rw [List.mem_singleton.1 hz, List.mem_singleton.1 hy]
  | some w =>
    have hw := List.mem_of_find?_eq_some hf
    have hwe : pairExpert w = pairExpert x := by simpa using List.find?_some hf
    have hws := hpool w (h.mem w hw)
    have hinj : ∀ z ∈ l, pairExpert z = pairExpert w → z = w := fun z hz he => List.inj_on_of_nodup_map h.nodup hz hw he
    simp only [replaces_iff hx hws]
    split
    · next hlt =>
      have hmap : (l.map fun z => if z == w then x else z).map pairExpert = l.map pairExpert := by
        rw [List.map_map]
        refine List.map_congr_left fun z _ => ?_
        by_cases hz : z = w
        · simp [hz, hwe]
        · simp [hz]
      have hmem {z : BitVec 64} (hz : z ∈ l.map fun z => if z == w then x else z) : z = x ∨ (z ∈ l ∧ z ≠ w) := by
        obtain ⟨v, hv, rfl⟩ := List.mem_map.1 hz
        by_cases hvw : v = w
        · exact .inl (by simp [hvw])
        · exact .inr (by simp [hvw, hv])
      refine ⟨hmap ▸ h.nodup, fun z hz => ?_, fun y hy => ?_, fun z hz y hy he => ?_⟩
      · rcases hmem hz with rfl | ⟨hz, -⟩
        · simp
        · exact List.mem_append_left _ (h.mem z hz)
      · have hey : pairExpert y ∈ l.map pairExpert := by
          rcases List.mem_append.1 hy with hy | hy
          · obtain ⟨z, hz, hze⟩ := h.covers y hy
            exact List.mem_map.2 ⟨z, hz, hze⟩
          · rw [List.mem_singleton.1 hy, ← hwe]
            exact List.mem_map_of_mem hw
        rw [← hmap] at hey
        exact List.mem_map.1 hey
      · rcases hmem hz with rfl | ⟨hz, hne⟩ <;> rcases List.mem_append.1 hy with hy | hy
        · exact (h.best w hw y hy (he.trans hwe.symm)).trans hlt.le
        · rw [List.mem_singleton.1 hy]
        · exact h.best z hz y hy he
        · exact absurd (hinj z hz (by rw [← he, List.mem_singleton.1 hy, hwe])) hne
    · next hle =>
      refine ⟨h.nodup, fun z hz => List.mem_append_left _ (h.mem z hz), fun y hy => ?_, fun z hz y hy he => ?_⟩
      · rcases List.mem_append.1 hy with hy | hy
        · exact h.covers y hy
        · exact ⟨w, hw, by rw [List.mem_singleton.1 hy, hwe]⟩
      · rcases List.mem_append.1 hy with hy | hy
        · exact h.best z hz y hy he
        · rw [List.mem_singleton.1 hy] at he ⊢
          rw [hinj z hz (he.symm.trans hwe.symm)]
          exact not_lt.1 hle

theorem bestOfEach_foldl {pool : List (BitVec 64)} (hpool : ∀ y ∈ pool, Scored y) : BestOfEach pool (pool.foldl mergeTopk []) := by
  induction pool using List.reverseRecOn with
  | nil => exact ⟨List.nodup_nil, nofun, nofun, nofun⟩
  | append_singleton l x ih =>
    rw [List.foldl_append]
    have hl : ∀ y ∈ l, Scored y := fun y hy => hpool y (List.mem_append_left _ hy)
    exact (ih hl).merge hl (hpool x (by simp))

/-! ### The best pairs, in order -/

theorem mem_insertTopk {x y : BitVec 64} {l : List (BitVec 64)} : y ∈ insertTopk x l ↔ y = x ∨ y ∈ l := by
  induction l with
  | nil => simp [insertTopk]
  | cons z t ih =>
    simp only [insertTopk]
    split
    · simp
    · simp only [List.mem_cons, ih]; tauto

theorem length_insertTopk (x : BitVec 64) (l : List (BitVec 64)) : (insertTopk x l).length = l.length + 1 := by
  induction l with
  | nil => rfl
  | cons z t ih =>
    simp only [insertTopk]
    split
    · rfl
    · simp [ih]

theorem pairwise_insertTopk {x : BitVec 64} {l : List (BitVec 64)} (hx : Scored x) (hl : ∀ y ∈ l, Scored y)
    (hne : ∀ y ∈ l, pairExpert y ≠ pairExpert x) (h : l.Pairwise fun a b => pairPlace a < pairPlace b) :
    (insertTopk x l).Pairwise fun a b => pairPlace a < pairPlace b := by
  induction l with
  | nil => simp [insertTopk]
  | cons z t ih =>
    obtain ⟨hz, ht⟩ := List.pairwise_cons.1 h
    simp only [insertTopk, topkBefore_iff hx (hl z List.mem_cons_self)]
    split
    · next hlt =>
      refine List.pairwise_cons.2 ⟨fun y hy => ?_, h⟩
      rcases List.mem_cons.1 hy with rfl | hy
      · exact hlt
      · exact hlt.trans (hz y hy)
    · next hle =>
      have hzx : pairPlace z < pairPlace x :=
        lt_of_le_of_ne (not_lt.1 hle) fun he => hne z List.mem_cons_self (pairPlace_inj he)
      refine List.pairwise_cons.2 ⟨fun y hy => ?_, ih (fun y hy => hl y (List.mem_cons_of_mem _ hy))
        (fun y hy => hne y (List.mem_cons_of_mem _ hy)) ht⟩
      rcases mem_insertTopk.1 hy with rfl | hy
      · exact hzx
      · exact hz y hy

/-- The pairs by place: those of the list, each before the ones after it. -/
theorem sorted_foldl_insertTopk {l : List (BitVec 64)} (hl : ∀ y ∈ l, Scored y) (hn : (l.map pairExpert).Nodup) :
    let r := l.foldl (fun l x => insertTopk x l) []
    r.Pairwise (fun a b => pairPlace a < pairPlace b) ∧ (∀ y, y ∈ r ↔ y ∈ l) ∧ r.length = l.length := by
  induction l using List.reverseRecOn with
  | nil => simp
  | append_singleton l x ih =>
    rw [List.map_append, List.nodup_append] at hn
    obtain ⟨hn, -, hdisj⟩ := hn
    obtain ⟨hp, hm, hlen⟩ := ih (fun y hy => hl y (List.mem_append_left _ hy)) hn
    simp only [List.foldl_append, List.foldl_cons, List.foldl_nil]
    refine ⟨pairwise_insertTopk (hl x (by simp)) (fun y hy => hl y (List.mem_append_left _ ((hm y).1 hy))) (fun y hy => ?_) hp,
      fun y => ?_, ?_⟩
    · exact hdisj _ (List.mem_map_of_mem ((hm y).1 hy)) _ (by simp)
    · rw [mem_insertTopk, hm, List.mem_append, List.mem_singleton, or_comm]
    · rw [length_insertTopk, hlen, List.length_append, List.length_singleton]

theorem nodup_eraseDups (l : List Nat) : l.eraseDups.Nodup := by
  induction hn : l.length using Nat.strongRecOn generalizing l with
  | ind n ih =>
    cases l with
    | nil => simp
    | cons a t =>
      rw [List.eraseDups_cons]
      have hlt : (t.filter fun b => !b == a).length < n :=
        Nat.lt_of_le_of_lt (List.length_filter_le _ _) (by rw [← hn]; exact Nat.lt_succ_self _)
      refine List.nodup_cons.2 ⟨?_, ih _ hlt _ rfl⟩
      simp [List.mem_eraseDups]

/-- The experts of a pool, each once, are as many as the pairs kept. -/
theorem BestOfEach.length {pool l : List (BitVec 64)} (h : BestOfEach pool l) :
    l.length = ((pool.map pairExpert).eraseDups).length := by
  rw [← List.length_map pairExpert]
  refine List.Perm.length_eq ((List.perm_ext_iff_of_nodup h.nodup (nodup_eraseDups _)).2 fun e => ?_)
  rw [List.mem_eraseDups, List.mem_map, List.mem_map]
  constructor
  · rintro ⟨x, hx, rfl⟩
    exact ⟨x, h.mem x hx, rfl⟩
  · rintro ⟨y, hy, rfl⟩
    exact h.covers y hy

/-- The k best pairs of a pool (R219). -/
def topkBest (pool : List (BitVec 64)) (k : Nat) : List (BitVec 64) :=
  ((pool.foldl mergeTopk []).foldl (fun l x => insertTopk x l) []).take k

/-- x goes before y: a greater score, or no lower one and a lower expert. -/
def pairAhead (x y : BitVec 64) : Prop :=
  (pairScore y).lt (pairScore x) = true ∨ ((pairScore x).lt (pairScore y) = false ∧ pairExpert x < pairExpert y)

theorem pairAhead_iff {x y : BitVec 64} (hx : Scored x) (hy : Scored y) : pairAhead x y ↔ pairPlace x < pairPlace y := by
  rw [← topkBefore_iff hx hy, topkBefore, toNat_highHalf, toNat_highHalf, toNat_lowHalf, toNat_lowHalf, pairAhead]
  simp [pairScore, pairExpert]

section
variable {pool : List (BitVec 64)} (hpool : ∀ y ∈ pool, Scored y) (k : Nat)
include hpool

theorem topkBest_spec :
    (topkBest pool k).length = min k ((pool.map pairExpert).eraseDups).length ∧ (topkBest pool k).Pairwise pairAhead ∧
      (∀ x ∈ topkBest pool k, x ∈ pool ∧ ∀ y ∈ pool, pairExpert y = pairExpert x → (pairScore x).lt (pairScore y) = false ∧
        ((pairScore y).lt (pairScore x) = false → (pairScore y).isNeg = false → (pairScore x).isNeg = false)) ∧
      ∀ y ∈ pool, (∀ x ∈ topkBest pool k, pairExpert x ≠ pairExpert y) → ∀ x ∈ topkBest pool k, pairAhead x y := by
  have hbest := bestOfEach_foldl hpool
  have hscored : ∀ y ∈ pool.foldl mergeTopk [], Scored y := fun y hy => hpool y (hbest.mem y hy)
  obtain ⟨hsorted, hmem, hlen⟩ := sorted_foldl_insertTopk hscored hbest.nodup
  have hkept : ∀ x ∈ topkBest pool k, x ∈ pool.foldl mergeTopk [] := fun x hx => (hmem x).1 (List.mem_of_mem_take hx)
  refine ⟨?_, ?_, fun x hx => ⟨hbest.mem x (hkept x hx), fun y hy he => ?_⟩, fun y hy hout x hx => ?_⟩
  · rw [topkBest, List.length_take, hlen, hbest.length]
  · exact (hsorted.sublist (List.take_sublist k _)).imp_of_mem fun ha hb hab =>
      (pairAhead_iff (hscored _ (hkept _ ha)) (hscored _ (hkept _ hb))).2 hab
  · have hle := hbest.best x (hkept x hx) y hy he
    have hxs := hscored x (hkept x hx)
    rw [FV.lt_eq_false_iff_rank hxs (hpool y hy), FV.lt_eq_false_iff_rank (hpool y hy) hxs]
    rw [pairKey, pairKey, Prod.Lex.toLex_le_toLex] at hle
    rcases hle with hlt | ⟨heq, hneg⟩
    · exact ⟨hlt.le, fun hge => absurd hge (not_le.2 hlt)⟩
    · refine ⟨heq.le, fun _ hyneg => ?_⟩
      simp only [hyneg, Bool.not_false] at hneg
      simpa using Bool.eq_true_of_true_le hneg
  · obtain ⟨z, hz, hze⟩ := hbest.covers y hy
    have hxs := hscored x (hkept x hx)
    have hzdrop : z ∈ ((pool.foldl mergeTopk []).foldl (fun l x => insertTopk x l) []).drop k := by
      have := (hmem z).2 hz
      rw [← List.take_append_drop k ((pool.foldl mergeTopk []).foldl (fun l x => insertTopk x l) []), List.mem_append] at this
      exact this.resolve_left fun h => hout z h hze
    have hxz : pairPlace x < pairPlace z := by
      rw [← List.take_append_drop k ((pool.foldl mergeTopk []).foldl (fun l x => insertTopk x l) []),
        List.pairwise_append] at hsorted
      exact hsorted.2.2 x hx z hzdrop
    have hzy : pairPlace z ≤ pairPlace y := by
      have hle := hbest.best z hz y hy hze.symm
      rw [pairKey, pairKey, Prod.Lex.toLex_le_toLex] at hle
      rw [pairPlace, pairPlace, Prod.Lex.toLex_le_toLex]
      rcases hle with hlt | ⟨heq, -⟩
      · exact .inl hlt
      · exact .inr ⟨congrArg OrderDual.toDual heq.symm, hze.le⟩
    exact (pairAhead_iff hxs (hpool y hy)).2 (hxz.trans_le hzy)

end

/-! ### The record's words -/

/-- Words 1 to n of a record as one number, word 0 zero. -/
def packWords (v : Nat → Nat) (n : Nat) : Nat := (List.range n).foldl (fun a i => a + v i * 2 ^ (64 * (i + 1))) 0

theorem packWords_succ (v : Nat → Nat) (n : Nat) : packWords v (n + 1) = packWords v n + v n * 2 ^ (64 * (n + 1)) := by
  simp [packWords, List.range_succ]

section
variable {v : Nat → Nat} (hv : ∀ i, v i < 2 ^ 64) {h : Nat} (hh : h < 2 ^ 64)

theorem packWords_mod (v : Nat → Nat) (n : Nat) : packWords v n % 2 ^ 64 = 0 := by
  induction n with
  | zero => rfl
  | succ n ih =>
    rw [packWords_succ, Nat.mul_succ, Nat.pow_add, ← Nat.mul_assoc, Nat.add_mul_mod_self_right, ih]

include hv hh

theorem packWords_lt (n : Nat) : h + packWords v n < 2 ^ (64 * (n + 1)) := by
  induction n with
  | zero => simpa [packWords] using hh
  | succ n ih =>
    have hmul : v n * 2 ^ (64 * (n + 1)) ≤ (2 ^ 64 - 1) * 2 ^ (64 * (n + 1)) := Nat.mul_le_mul_right _ (by have := hv n; omega)
    have hpow : 2 ^ (64 * (n + 1 + 1)) = 2 ^ 64 * 2 ^ (64 * (n + 1)) := by rw [← Nat.pow_add]; congr 1; omega
    rw [packWords_succ, hpow]
    omega

theorem packWords_word {n i : Nat} (hi : i < n) : (h + packWords v n) / 2 ^ (64 * (i + 1)) % 2 ^ 64 = v i := by
  induction n with
  | zero => omega
  | succ n ih =>
    rw [packWords_succ, ← Nat.add_assoc]
    by_cases he : i = n
    · subst he
      rw [Nat.add_mul_div_right _ _ (Nat.two_pow_pos _), Nat.div_eq_of_lt (packWords_lt hv hh i), Nat.zero_add,
        Nat.mod_eq_of_lt (hv i)]
    · have hpow : 2 ^ (64 * (n + 1)) = 2 ^ (64 * (n - i - 1)) * 2 ^ 64 * 2 ^ (64 * (i + 1)) := by
        rw [← Nat.pow_add, ← Nat.pow_add]; congr 1; omega
      rw [hpow, ← Nat.mul_assoc, Nat.add_mul_div_right _ _ (Nat.two_pow_pos _), ← Nat.mul_assoc, Nat.add_mul_mod_self_right,
        ih (by omega)]

end

end Sys2Proof.Machine
end

section
/-! PROOF. The requests of TOPK, RED at the DSW and fadd at their homes, and the ageing of cached copies (R200, R218, R219, R222). -/

namespace Sys2Proof.Machine

/-! ### A record after TOPK (R219) -/

/-- The pairs that compete for the slots of a record. -/
def topkPool (old : Nat) (pair : BitVec 64) : List (BitVec 64) :=
  ((topkPairs old).filter fun x => !(pairScore x).isNan) ++ [pair]

/-- Word i + 1 of the record: a best pair, or what the slot held. -/
def topkWord (old : Nat) (best : List (BitVec 64)) (i : Nat) : Nat :=
  if i < best.length then (best.getD i 0).toNat else old / 2 ^ (64 * (i + 1)) % 2 ^ 64

/-- The header with the number of slots that hold a pair. -/
def topkHead (old n : Nat) : Nat := old % 2 ^ 64 / 2048 * 2048 + n * 256 + old % 256

theorem topkRecord_eq (old : Nat) (pair : BitVec 64) : topkRecord old pair.toNat =
    if old % 8 = 0 ∨ (pairScore pair).isNan = true then old
    else topkHead old (topkBest (topkPool old pair) (old % 8)).length +
      packWords (topkWord old (topkBest (topkPool old pair) (old % 8))) 7 := by
  have hpair : BitVec.ofNat 64 pair.toNat = pair := by rw [BitVec.ofNat_toNat, BitVec.setWidth_eq]
  simp only [topkRecord, hpair, Bool.or_eq_true, decide_eq_true_eq, toNat_highHalf]
  rfl

theorem topkWord_lt (old : Nat) (best : List (BitVec 64)) (i : Nat) : topkWord old best i < 2 ^ 64 := by
  unfold topkWord
  split
  · exact BitVec.isLt _
  · exact Nat.mod_lt _ (Nat.two_pow_pos 64)

theorem topkHead_low (old n : Nat) : topkHead old n % 256 = old % 256 := by unfold topkHead; omega

section
variable (old : Nat) {n : Nat} (hn : n < 8)
include hn

theorem topkHead_lt : topkHead old n < 2 ^ 64 := by unfold topkHead; omega
theorem topkHead_filled : topkHead old n / 256 % 8 = n := by unfold topkHead; omega
theorem topkHead_high : topkHead old n / 2048 = old % 2 ^ 64 / 2048 := by unfold topkHead; omega

end

/-- The words of a new record: its header, and the best pairs in its slots. -/
theorem topkPairs_packed {old h : Nat} {best : List (BitVec 64)} (hlow : h < 2 ^ 64) (hfilled : h / 256 % 8 = best.length)
    (_ : best.length < 8) : topkPairs (h + packWords (topkWord old best) 7) = best := by
  have hbody := packWords_mod (topkWord old best) 7
  have hcount : (h + packWords (topkWord old best) 7) / 256 % 8 = best.length := by omega
  refine List.ext_getElem (by rw [topkPairs, hcount, List.length_map, List.length_range]) fun i hi hi' => ?_
  simp only [topkPairs, List.getElem_map, List.getElem_range]
  refine BitVec.eq_of_toNat_eq ?_
  rw [BitVec.toNat_ofNat, packWords_word (topkWord_lt old best) hlow (by omega), topkWord, if_pos hi',
    List.getD_eq_getElem _ _ hi']

/-- A header and seven words are 64 bytes. -/
theorem record_lt {v : Nat → Nat} (hv : ∀ i, v i < 2 ^ 64) {h : Nat} (hh : h < 2 ^ 64) : h + packWords v 7 < 256 ^ 64 := by
  have hlt := packWords_lt hv hh 7
  rwa [show 64 * (7 + 1) = 8 * 64 from rfl, two_pow_bits] at hlt

/-- What TOPK leaves of a record is what R219 says. -/
theorem topkAfter_topkRecord {old : Nat} (hold : old < 256 ^ 64) (pair : BitVec 64) :
    TopkAfter old (topkRecord old pair.toNat % 256 ^ 64) pair := by
  rw [topkRecord_eq]
  by_cases hskip : old % 8 = 0 ∨ (pairScore pair).isNan = true
  · rw [if_pos hskip, Nat.mod_eq_of_lt hold]
    refine ⟨fun _ => rfl, fun hk hnan => ?_⟩
    exact absurd hskip (by rintro (h | h); exacts [hk h, absurd (hnan.symm.trans h) (by decide)])
  · rw [if_neg hskip]
    have hscored : ∀ y ∈ topkPool old pair, Scored y := fun y hy => by
      rcases List.mem_append.1 hy with hy | hy
      · simpa [Scored] using (List.mem_filter.1 hy).2
      · rw [List.mem_singleton.1 hy]
        simpa [Scored] using (not_or.1 hskip).2
    obtain ⟨hlen, hsorted, hmem, hout⟩ := topkBest_spec hscored (old % 8)
    generalize hbest : topkBest (topkPool old pair) (old % 8) = best at *
    have hshort : best.length < 8 := by omega
    have hlow := topkHead_lt old hshort
    have hwords := topkWord_lt old best
    have hbody := packWords_mod (topkWord old best) 7
    have hhigh := topkHead_high old hshort
    have hpack := topkPairs_packed (old := old) hlow (topkHead_filled old hshort) hshort
    rw [Nat.mod_eq_of_lt (record_lt hwords hlow)]
    refine ⟨fun h => absurd h hskip, fun _ _ => ?_⟩
    rw [hpack]
    refine ⟨hlen, hsorted, hmem, hout, ?_, ?_, fun i hi h7 => ?_⟩
    · have := topkHead_low old best.length
      omega
    · omega
    · rw [packWords_word hwords hlow h7, topkWord, if_neg (Nat.not_lt.2 hi)]

/-- TOPK at its home: the record of R219, and no other byte. -/
theorem State.topk_atHome {s : State} {src seq : Nat} {h : HomeLoc} (hc : s.Canonical) (hunc : s.Uncached (homePlace h))
    (hred : s.redirects = []) (hnew : s.Unanswered (homePlace h).slice src seq) (pair : BitVec 64) {t : State}
    (ht : t = (s.perform src seq (homePlace h) .topk pair.toNat 0).2.2) :
    TopkAfter (s.bytesAt (homePlace h) 64) (t.bytesAt (homePlace h) 64) pair ∧
      ∀ x : Loc, x.outside (homePlace h) 64 → t.byteAt x = s.byteAt x := by
  rw [State.perform_topk hunc hred hnew] at ht
  have hst := State.stored_writeHome hc (homePlace_plain h) (homePlace_ne_mqw h) 64
    (topkRecord (s.bytesAt (homePlace h) 64) pair.toNat)
  have hst : s.Stored t (homePlace h) 64 (topkRecord (s.bytesAt (homePlace h) 64) pair.toNat) := by
    rw [ht]
    exact hst.then_keeps (State.keeps_remember _ (s.replyOf src seq (homePlace h) 0 0))
  refine ⟨?_, hst.frame⟩
  rw [hst.bytesAt]
  exact topkAfter_topkRecord (s.bytesAt_lt _ 64) pair

/-! ### The steps of the home slices (R218, R222) -/

theorem State.performReq_not_issued {s : State} {q : HomeReq} (h : s.issued q = false) : s.performReq q = s := by
  simp [State.performReq, h]

section
variable (s : State) (q : HomeReq)

theorem exec_atomicAtHome_idle (h : ¬ (q.op = .fadd ∨ ∃ op w64 sg, q.op = .amo op w64 sg) ∨ s.issued q = false) :
    exec (.atomicAtHome q) s = .next s := by
  show execAtomicAtHome q s = _
  rw [execAtomicAtHome]
  rcases h with h | h
  · cases hop : q.op with
    | amo op w64 sg => exact absurd (.inr ⟨op, w64, sg, hop⟩) h
    | fadd => exact absurd (.inl hop) h
    | _ => rfl
  · rw [State.performReq_not_issued h]
    split <;> rfl

theorem exec_redDswApply_idle (h : ¬ (q.op = .redFadd ∨ ∃ op w64 sg, q.op = .red op w64 sg) ∨ (∃ pa, q.loc = .phys pa) ∨
    s.issued q = false) : exec (.redDswApply q) s = .next s := by
  show execRedDswApply q s = _
  rw [execRedDswApply]
  rcases h with h | ⟨pa, h⟩ | h
  · cases hop : q.op with
    | red op w64 sg => exact absurd (.inr ⟨op, w64, sg, hop⟩) h
    | redFadd => exact absurd (.inl hop) h
    | _ => rfl
  · rw [h]
    cases q.op <;> rfl
  · rw [State.performReq_not_issued h]
    split <;> rfl

theorem exec_topkAtHome_idle (h : q.op ≠ .topk ∨ s.issued q = false) : exec (.topkAtHome q) s = .next s := by
  show execTopkAtHome q s = _
  rw [execTopkAtHome]
  rcases h with h | h
  · cases hop : q.op with
    | topk => exact absurd hop h
    | _ => rfl
  · rw [State.performReq_not_issued h]
    split <;> rfl

theorem exec_tokcAtHome_idle (h : q.op ≠ .tokc ∨ s.issued q = false) : exec (.tokcAtHome q) s = .next s := by
  show execTokcAtHome q s = _
  rw [execTokcAtHome]
  rcases h with h | h
  · cases hop : q.op with
    | tokc => exact absurd hop h
    | _ => rfl
  · simp only [h, Bool.and_false, Bool.false_and, Bool.false_eq_true, if_false]
    split <;> rfl

end

/-! ### Copies and stores that have grown old (R200) -/

theorem State.cdcCopyExpiry_spec (s : State) (k line : Nat) : ∃ t, exec (.cdcCopyExpiry k line) s = .next t ∧ t.here = s.here ∧
    t.mem = s.mem ∧ (∀ j, j ≠ k → t.cluster j = s.cluster j) ∧
    (∀ x, x ∈ (t.cluster k).copies ↔ x ∈ (s.cluster k).copies ∧ (x.line ≠ line ∨ s.now < x.since + 65536)) ∧
    ∀ x, x ∈ (t.cluster k).late ↔ x ∈ (s.cluster k).late ∧ (x.line ≠ line ∨ s.now < x.since + 65536) := by
  refine ⟨_, rfl, rfl, rfl, fun j hj => ?_, fun x => ?_, fun x => ?_⟩
  · rw [State.cluster_modCluster, if_neg hj]
  · simp only [State.cluster_modCluster, if_pos, List.mem_filter, Bool.or_eq_true, bne_iff_ne, decide_eq_true_eq]
    exact Iff.rfl
  · simp only [State.cluster_modCluster, if_pos, List.mem_filter, Bool.or_eq_true, bne_iff_ne, decide_eq_true_eq]
    exact Iff.rfl

/-- Settles O23: an issued request is performed (State.performReq_issued), any other changes nothing; TOPK's record is that of
topkAfter_topkRecord. -/
theorem homeEvents : Obligations.HomeEvents := by
  unfold Obligations.HomeEvents
  refine ⟨fun s q hd hi => ⟨fun op w64 sg dd off hop hloc hoff => ?_, fun dd off hop hloc hoff => ?_, fun hop hoff => ?_,
    fun hop hoff => ?_⟩, fun s q => ⟨exec_atomicAtHome_idle s q, exec_redDswApply_idle s q, exec_topkAtHome_idle s q,
      exec_tokcAtHome_idle s q⟩, fun s src seq h pair hc hunc hred hnew _ _ => State.topk_atHome hc hunc hred hnew pair rfl,
    fun s k line => s.cdcCopyExpiry_spec k line⟩
  · have hdone := State.performReq_issued hd hi (by rw [hop, hloc]; exact hoff)
    show execRedDswApply q s = _
    simp only [execRedDswApply, hop, hloc, hdone]
  · have hdone := State.performReq_issued hd hi (by rw [hop, hloc]; exact hoff)
    show execRedDswApply q s = _
    simp only [execRedDswApply, hop, hloc, hdone]
  · have hdone := State.performReq_issued hd hi (by rw [hop]; exact hoff)
    show execTopkAtHome q s = _
    simp only [execTopkAtHome, hop, hdone]
  · have hdone := State.performReq_issued hd hi (by rw [hop]; exact hoff)
    show execAtomicAtHome q s = _
    simp only [execAtomicAtHome, hop, hdone]

end Sys2Proof.Machine
end

section
/-! PROOF. WAITA: it parks at issue (R224), its request and its waiters at the home, and its reply (R225, R129). -/

namespace Sys2Proof.Machine

/-! ### Issue (R224) -/

section
variable {s u : State} {a : GReg} {n : Nat} {l : Loc} (h : s.Reaches .atomic (s.g a) n l u)
include h

theorem State.Reaches.waita (o : Ordering) (sc : Scope) (d b : GReg) : s.waita n o sc d a b =
    .next (s.park (.waita l (n == 8) (BitVec.ofNat 64 ((s.g b).toNat % 2 ^ (8 * n))) d
      (if o = .acq then some sc else none) (s.g a))) := by
  simp only [State.waita, h.aligned, h.resolve, Eff.bind_ok, h.lineCheck, h.readable, State.settle_park]

end

/-! ### Answers to waiters (R225) -/

/-- A task after the home has answered it. -/
def Slot.answered (s : State) (t : Slot) : Slot :=
  match t.wait with
  | some w => { t with reply := some (s.waitValue w) }
  | none => t

theorem Slot.answered_wait (s : State) (t : Slot) : (t.answered s).wait = t.wait := by
  unfold Slot.answered
  split <;> rfl

theorem Slot.answered_reply {s : State} {t : Slot} {w : Wait} (h : t.wait = some w) :
    (t.answered s).reply = some (s.waitValue w) := by
  simp [Slot.answered, h]

/-- An answer stays, or a later one takes its place. -/
theorem Slot.answered_isSome {s : State} {t : Slot} (h : t.reply.isSome = true) : (t.answered s).reply.isSome = true := by
  unfold Slot.answered
  split
  · rfl
  · exact h

theorem State.answer_eq (s : State) (cid slot : Nat) : s.answer cid slot = s.modSlot cid slot (Slot.answered s) := by
  unfold State.answer
  refine State.modSlot_congr ?_
  unfold Slot.answered
  cases ((s.core cid).slot slot).wait <;> rfl

theorem State.slot_answer (s : State) (cid slot c i : Nat) : ((s.answer cid slot).core c).slot i =
    if c = cid ∧ i = slot ∧ slot < 8 then ((s.core cid).slot slot).answered s else (s.core c).slot i := by
  rw [State.answer_eq, State.slot_modSlot]

/-- What an answer to a waiter leaves of a task: its wait, and whether it has a reply. -/
theorem State.answerWaiter_slot (s : State) (w : Waiter) (c i : Nat) :
    (((s.answerWaiter w).core c).slot i).wait = ((s.core c).slot i).wait ∧
      (((s.core c).slot i).reply.isSome = true → (((s.answerWaiter w).core c).slot i).reply.isSome = true) := by
  unfold State.answerWaiter
  split
  · next x _ =>
    rcases s.answerFar_cases x with h | ⟨v, h⟩ <;> rw [h] <;> exact ⟨rfl, id⟩
  · rw [State.slot_answer]
    split
    · next h =>
      obtain ⟨rfl, rfl, -⟩ := h
      exact ⟨Slot.answered_wait _ _, Slot.answered_isSome⟩
    · exact ⟨rfl, id⟩

/-- A waiter of this X40 that waits has its reply. -/
theorem State.answerWaiter_replied {s : State} {w : Waiter} (hfar : w.far = none) (hi : w.slot < 8)
    (hw : ((s.core w.cid).slot w.slot).wait.isSome = true) :
    (((s.answerWaiter w).core w.cid).slot w.slot).reply.isSome = true := by
  obtain ⟨x, hx⟩ := Option.isSome_iff_exists.1 hw
  unfold State.answerWaiter
  rw [hfar]
  dsimp only
  rw [State.slot_answer, if_pos ⟨rfl, rfl, hi⟩, Slot.answered_reply hx]
  rfl

/-- Every waiter of a list that is answered has its reply. -/
theorem State.foldl_answerWaiter (l : List Waiter) (s : State) :
    (∀ c i, (((l.foldl State.answerWaiter s).core c).slot i).wait = ((s.core c).slot i).wait ∧
      (((s.core c).slot i).reply.isSome = true → (((l.foldl State.answerWaiter s).core c).slot i).reply.isSome = true)) ∧
    ∀ x ∈ l, x.far = none → x.slot < 8 → ((s.core x.cid).slot x.slot).wait.isSome = true →
      (((l.foldl State.answerWaiter s).core x.cid).slot x.slot).reply.isSome = true := by
  induction l generalizing s with
  | nil => exact ⟨fun _ _ => ⟨rfl, id⟩, nofun⟩
  | cons w l ih =>
    obtain ⟨hslots, hreplied⟩ := ih (s.answerWaiter w)
    refine ⟨fun c i => ?_, fun x hx hfar hi hw => ?_⟩
    · obtain ⟨hwait, hsome⟩ := s.answerWaiter_slot w c i
      exact ⟨(hslots c i).1.trans hwait, fun h => (hslots c i).2 (hsome h)⟩
    · rcases List.mem_cons.1 hx with rfl | hx
      · exact (hslots _ _).2 (State.answerWaiter_replied hfar hi hw)
      · exact hreplied x hx hfar hi (by rw [(s.answerWaiter_slot w _ _).1]; exact hw)

theorem State.answer_waiters (s : State) (cid slot : Nat) : (s.answer cid slot).waiters = s.waiters :=
  State.setCore_waiters _ _ _

theorem State.wakeLine_waiters (s : State) (line : Loc) :
    (s.wakeLine line).waiters = s.waiters.filter fun w => w.line != line := by
  obtain ⟨_, _, _, h⟩ := s.wakeLine_eq line
  rw [h]

/-! ### The request at the home (R225) -/

section
variable {s : State} {cid slot : Nat} {l : Loc} {w64 : Bool} {e va : Word} {d : GReg} {acq : Option Scope}
  (hunc : s.Uncached l) (hsound : s.sound l = true)
  (hwait : ((s.core cid).slot slot).wait = some (.waita l w64 e d acq va))

/-- The value at the home, as the reply to the wait carries it. -/
theorem State.waitValue_waita (s : State) (l : Loc) (w64 : Bool) (e : Word) (d : GReg) (acq : Option Scope) (va : Word) :
    s.waitValue (.waita l w64 e d acq va) = BitVec.ofNat 64 (s.bytesAt l (if w64 then 8 else 4)) := by
  rw [State.waitValue, State.peek_eq_bytesAt]

include hsound in
theorem State.waitDamage_sound : s.waitDamage cid (.waita l w64 e d acq va) = none := by
  simp [State.waitDamage, State.damagedByte, hsound]

include hunc hsound hwait

theorem exec_waitaAtHome (hreply : ((s.core cid).slot slot).reply = none)
    (hnone : ∀ x ∈ s.waiters, ¬ (x.cid = cid ∧ x.slot = slot)) :
    exec (.waitaAtHome cid slot) s =
      if BitVec.ofNat 64 (s.bytesAt l (if w64 then 8 else 4)) ≠ e then .next (s.answer cid slot)
      else if (s.waiters.filter fun x => x.line == l.line).length < 16 then
        .next { s with waiters := s.waiters ++ [{ line := l.line, cid := cid, slot := slot }] }
      else .next ((s.wakeLine l.line).answer cid slot) := by
  have hany : (s.waiters.any fun x => x.cid == cid && x.slot == slot) = false := by
    rw [List.any_eq_false]
    intro x hx
    simpa using hnone x hx
  show execWaitaAtHome cid slot s = _
  simp only [execWaitaAtHome, hwait, Wait.homeLine, hreply, hany, State.waitDamage_sound hsound, State.waitRead_waita hunc,
    State.waitValue_waita, State.overflow, Option.isSome_none, Bool.or_self, Bool.false_eq_true, if_false]

omit hunc hsound in
/-- A seventeenth waiter: each that waits on the line has its reply, and none is registered. -/
theorem State.overflow_spec (hi : slot < 8) : ((((s.wakeLine l.line).answer cid slot).core cid).slot slot).reply =
      some (BitVec.ofNat 64 (s.bytesAt l (if w64 then 8 else 4))) ∧
    ∀ x ∈ s.waiters.filter fun x => x.line == l.line, x.far = none → x.slot < 8 →
      ((s.core x.cid).slot x.slot).wait.isSome = true →
      ((((s.wakeLine l.line).answer cid slot).core x.cid).slot x.slot).reply.isSome = true := by
  obtain ⟨hslots, hreplied⟩ := State.foldl_answerWaiter (s.waiters.filter fun x => x.line == l.line)
    { s with waiters := s.waiters.filter fun w => w.line != l.line }
  have hwaits : (((s.wakeLine l.line).core cid).slot slot).wait = some (.waita l w64 e d acq va) :=
    (hslots cid slot).1.trans hwait
  have hbytes := (s.keeps_wakeLine l.line).bytes
  refine ⟨?_, fun x hx hfar hx8 hxw => ?_⟩
  · rw [State.slot_answer, if_pos ⟨rfl, rfl, hi⟩, Slot.answered_reply hwaits, State.waitValue_waita,
      State.bytesAt_congr fun i _ => hbytes _]
  · rw [State.slot_answer]
    split
    · next h =>
      obtain ⟨hc, hs, -⟩ := h
      rw [Slot.answered_reply hwaits]
      rfl
    · exact hreplied x hx hfar hx8 hxw

end

/-! ### The reply (R129, R225) -/

section
variable {s : State} {cid slot : Nat} {l : Loc} {w64 : Bool} {e va : Word} {d : GReg} {acq : Option Scope}

theorem State.afterWait_eq (s : State) (w : Nat × Nat) (wait : Option Wait) (acq : Option Scope) :
    ∃ k, s.afterWait w wait acq = { s with clusters := k } := by
  have hsee (s : State) (line : Nat) : ∃ k, s.seeHome w line = { s with clusters := k } := by
    unfold State.seeHome State.barLate
    obtain ⟨k, hk⟩ := (s.dropCopy (clusterOf w.1) line).modLate_eq (clusterOf w.1)
      (fun l => l.map fun y => if (y.line == line) = true then y.bar w else y)
    exact ⟨k, hk⟩
  have hacq (s : State) (sc : Scope) : ∃ k, (s.acquireFor w sc fun _ => true) = { s with clusters := k } := by
    unfold State.acquireFor
    split
    · obtain ⟨k, hk⟩ := State.modLate_eq (s.dropCopies (clusterOf w.1) fun _ => true) (clusterOf w.1) _
      exact ⟨k, hk⟩
    · exact State.modLate_eq _ _ _
  unfold State.afterWait
  dsimp only
  split <;> split
  · obtain ⟨k, hk⟩ := hsee s _
    rw [hk]
    obtain ⟨k', hk'⟩ := hacq { s with clusters := k } _
    exact ⟨k', hk'⟩
  · exact hacq s _
  · exact hsee s _
  · exact ⟨s.clusters, rfl⟩

theorem State.mend_waiters (s : State) (l : Loc) (n : Nat) : (s.mend l n).waiters = s.waiters := by
  unfold State.mend
  split
  · rfl
  · cases l with
    | lm c o =>
      dsimp only
      split
      · exact State.setCore_waiters _ _ _
      · rfl
    | _ => rfl

/-- t is s with a WAITA of a slot ended by a value v for d: the task is runnable past the instruction, and waits no more. -/
def State.WaitEnded (s t : State) (cid slot : Nat) (d : GReg) (v : Word) : Prop :=
  let x := (s.core cid).slot slot
  let y := (t.core cid).slot slot
  y.wait = none ∧ y.reply = none ∧ y.ws.tsw.state = .runnable ∧ y.ws.g = x.ws.g.set (x.ws.ctl.phys d).toNat v ∧
    (x.ws.ctl.repA = false → y.ws.pc = x.ws.pc + BitVec.ofNat 64 (2 * x.chainLen)) ∧
    (∀ w ∈ t.waiters, ¬ (w.cid = cid ∧ w.slot = slot)) ∧ t.mem = s.mem

/-- The slot of a task whose WAITA ends with v: what its acquire and its register's repair leave of it (R225, R375). -/
theorem State.slot_endWait (hi : slot < 8) (hwait : ((s.core cid).slot slot).wait = some (.waita l w64 e d acq va)) (v : Word) :
    ((s.endWait cid slot v).core cid).slot slot = Slot.waitCompleted s.now d v { (s.core cid).slot slot with
      lost := ((s.core cid).slot slot).lost.filter fun r => r != (((s.core cid).slot slot).ws.ctl.phys d).toNat } ∧
      (s.endWait cid slot v).mem = s.mem := by
  have hreg : (((s.core cid).slot slot).ws.ctl.phys d).toNat < 64 :=
    (((s.core cid).slot slot).ws.ctl.phys d).isLt.trans (by decide)
  obtain ⟨hcore, hmem⟩ := s.core_mend_slot cid hi hreg
  have hslot : ((s.mendReg cid slot (((s.core cid).slot slot).ws.ctl.phys d).toNat).core cid).slot slot = { (s.core cid).slot slot with
      lost := ((s.core cid).slot slot).lost.filter fun r => r != (((s.core cid).slot slot).ws.ctl.phys d).toNat } := by
    rw [State.mendReg, hcore, Core.modSlot, Core.slot_setSlot, if_pos ⟨rfl, hi⟩]
  obtain ⟨k, hk⟩ := ((s.mendReg cid slot (((s.core cid).slot slot).ws.ctl.phys d).toNat).modSlot cid slot
        (Slot.waitCompleted s.now d v)).afterWait_eq (s.who cid slot) ((s.core cid).slot slot).wait acq
  rw [State.endWait, hwait]
  constructor
  · dsimp only
    rw [State.completeWaita_eq, hk]
    show ((State.modSlot _ cid slot _).core cid).slot slot = _
    rw [State.slot_modSlot, if_pos ⟨rfl, rfl, hi⟩, hslot]
  · show State.mem (State.completeWaita _ _ _ _ _ _) = _
    rw [State.completeWaita_eq, hk]
    exact (State.setCore_mem _ _ _).trans hmem

theorem State.endWait_waitEnded (hi : slot < 8) (hwait : ((s.core cid).slot slot).wait = some (.waita l w64 e d acq va)) (v : Word) :
    s.WaitEnded (s.endWait cid slot v) cid slot d v := by
  obtain ⟨hslot, hmem⟩ := State.slot_endWait hi hwait v
  unfold State.WaitEnded
  dsimp only
  rw [hslot]
  refine ⟨rfl, rfl, rfl, rfl, fun hrep => ?_, fun w hw => ?_, hmem⟩
  · rw [Slot.waitCompleted_of_noRep (by exact hrep)]
    rfl
  · rw [State.endWait, hwait] at hw
    simpa [imp_iff_not_or] using (List.mem_filter.1 hw).2

theorem exec_accessReply (hreplied : (s.core cid).repliedSlot = some slot) {v : Word}
    (hv : ((s.core cid).slot slot).reply = some v) : exec (.accessReply cid) s = .next (s.endWait cid slot v) := by
  show execAccessReply cid s = _
  simp only [execAccessReply, hreplied, hv, Option.getD_some]

theorem exec_waitaTimeout (hwait : ((s.core cid).slot slot).wait = some (.waita l w64 e d acq va))
    (htime : ((s.core cid).slot slot).waitSince + 2 ^ 20 ≤ s.now) (hunc : s.Uncached l) (hsound : s.sound l = true) :
    exec (.waitaTimeout cid slot) s =
      .next (s.endWait cid slot (BitVec.ofNat 64 (s.bytesAt l (if w64 then 8 else 4)))) := by
  have hbound : decide (((s.core cid).slot slot).waitSince + Config.waitaBound ≤ s.now) = true := decide_eq_true htime
  show execWaitaTimeout cid slot s = _
  simp only [execWaitaTimeout, hwait, Wait.homeLine, hbound, Option.isSome_some, Bool.and_self, if_true, State.endWaitNow,
    State.waitDamage_sound hsound, State.waitRead_waita hunc, State.waitValue_waita]

end

/-- Settles O25. -/
theorem waitaProtocol : Obligations.WaitaProtocol := by
  unfold Obligations.WaitaProtocol
  refine ⟨fun s u o sc d a b l => ⟨fun h => ?_, fun h => h.waita o sc d b⟩,
    fun s cid slot l w64 e va d acq hi hunc hsound hwait hreply hnone => ?_,
    fun s cid slot l w64 e v va d acq hi hwait => ⟨fun hreplied hv => ?_, fun htime hunc hsound => ?_, fun hnone => ?_⟩⟩
  · have hpark := h.waita o sc d b
    rw [ofNat_toNat_mod_two_pow] at hpark
    exact hpark
  · have hexec := exec_waitaAtHome hunc hsound hwait hreply hnone
    refine ⟨fun hv => ?_, fun hv hroom => ?_, fun hv hfull => ⟨_, ?_, ?_, State.overflow_spec hwait hi⟩⟩
    · rw [hexec, if_pos hv, State.answer_eq]
      refine congrArg _ (State.modSlot_congr ?_)
      rw [Slot.answered, hwait]
      dsimp only
      rw [State.waitValue_waita]
    · rw [hexec, if_neg (not_not.2 hv), if_pos hroom]
    · rw [hexec, if_neg (not_not.2 hv), if_neg (Nat.not_lt.2 hfull)]
    · rw [State.answer_waiters, State.wakeLine_waiters]
  · exact ⟨_, exec_accessReply hreplied hv, State.endWait_waitEnded hi hwait v⟩
  · exact ⟨_, exec_waitaTimeout hwait htime hunc hsound, State.endWait_waitEnded hi hwait _⟩
  · show execAccessReply cid s = _
    simp only [execAccessReply, hnone]

end Sys2Proof.Machine
end

section
/-! PROOF. Token rings: TOKC at issue and at the home of its record (R217, R317, R318). -/

namespace Sys2Proof.Machine

/-! ### The words of a record -/

/-- The bytes of a place as those below and those from byte m. -/
theorem State.bytesAt_add (s : State) (l : Loc) (m n : Nat) :
    s.bytesAt l (m + n) = s.bytesAt l m + 256 ^ m * s.bytesAt (l.add m) n := by
  induction n with
  | zero => rfl
  | succ n ih =>
    rw [← Nat.add_assoc, State.bytesAt_succ, ih, State.bytesAt_succ, Loc.add_add, Nat.pow_add]
    ring

theorem State.bytesAt_split (s : State) {l : Loc} {m n k : Nat} (h : k = m + n) :
    s.bytesAt l k = s.bytesAt l m + 256 ^ m * s.bytesAt (l.add m) n := h ▸ s.bytesAt_add l m n

theorem State.bytesAt_div (s : State) (l : Loc) (m : Nat) {n k : Nat} (h : k = m + n) :
    s.bytesAt l k / 256 ^ m = s.bytesAt (l.add m) n := by
  rw [s.bytesAt_split h, Nat.add_mul_div_left _ _ (Nat.pow_pos (by decide)), Nat.div_eq_of_lt (s.bytesAt_lt l m), Nat.zero_add]

/-- n bytes inside a longer run of bytes. -/
theorem State.bytesAt_inside (s : State) (l : Loc) {m n k : Nat} (h : m + n ≤ k) :
    s.bytesAt l k / 256 ^ m % 256 ^ n = s.bytesAt (l.add m) n := by
  obtain ⟨j, rfl⟩ := Nat.exists_eq_add_of_le h
  rw [s.bytesAt_div l m (Nat.add_assoc m n j), State.bytesAt_add, Nat.add_mul_mod_self_left, Nat.mod_eq_of_lt (s.bytesAt_lt _ n)]

/-- Word i of the record at pa. -/
def State.recordWord (s : State) (pa i : Nat) : Word := BitVec.ofNat 64 (s.bytesAt (.phys (pa + 8 * i)) 8)

/-- The 64 bytes at pa. -/
def State.recordLine (s : State) (pa : Nat) : Line := BitVec.ofNat 512 (s.bytesAt (.phys pa) 64)

theorem State.recordLine_toNat (s : State) (pa : Nat) : (s.recordLine pa).toNat = s.bytesAt (.phys pa) 64 :=
  toNat_ofNat_of_lt ((two_pow_bits 64).symm ▸ s.bytesAt_lt _ 64)

theorem State.recordWord_toNat (s : State) (pa i : Nat) : (s.recordWord pa i).toNat = s.bytesAt (.phys (pa + 8 * i)) 8 :=
  toNat_ofNat_of_lt ((two_pow_bits 8).symm ▸ s.bytesAt_lt _ 8)

theorem State.recordLine_word (s : State) (pa : Nat) {i : Nat} (hi : i < 8) :
    (s.recordLine pa).extractLsb' (64 * i) 64 = s.recordWord pa i := by
  apply BitVec.eq_of_toNat_eq
  rw [BitVec.extractLsb'_toNat, State.recordLine_toNat, State.recordWord_toNat, Nat.shiftRight_eq_div_pow,
    show 64 * i = 8 * (8 * i) by omega, two_pow_bits, show (2 : Nat) ^ 64 = 256 ^ 8 from rfl,
    State.bytesAt_inside _ _ (show 8 * i + 8 ≤ 64 by omega)]
  rfl

/-- The words from 4 up are 0. -/
theorem State.record_rest (s : State) (pa : Nat) (hzero : ∀ i, 4 ≤ i → i < 8 → s.recordWord pa i = 0) :
    s.bytesAt (.phys (pa + 32)) 32 = 0 := by
  have hword (i : Nat) (h4 : 4 ≤ i) (h8 : i < 8) : s.bytesAt (.phys (pa + 8 * i)) 8 = 0 := by
    rw [← State.recordWord_toNat, hzero i h4 h8]
    rfl
  rw [s.bytesAt_split (show 32 = 8 + (8 + (8 + 8)) from rfl), State.bytesAt_add, State.bytesAt_add]
  simp only [Loc.add, Nat.add_assoc, Nat.reduceAdd, hword 4 (by omega) (by omega), hword 5 (by omega) (by omega),
    hword 6 (by omega) (by omega), hword 7 (by omega) (by omega), Nat.mul_zero, Nat.add_zero]

theorem State.record_length (s : State) (pa : Nat) (hzero : ∀ i, 4 ≤ i → i < 8 → s.recordWord pa i = 0) :
    s.bytesAt (.phys (pa + 24)) 40 = (s.recordWord pa 3).toNat := by
  have hrest : s.bytesAt ((Loc.phys (pa + 24)).add 8) 32 = 0 := s.record_rest pa hzero
  rw [s.bytesAt_split (show 40 = 8 + 32 from rfl), hrest, Nat.mul_zero, Nat.add_zero, State.recordWord_toNat]

/-- A length of at most 20 is then all that stands from bit 192 up. -/
theorem State.recordLine_high (s : State) (pa : Nat) (hzero : ∀ i, 4 ≤ i → i < 8 → s.recordWord pa i = 0) :
    (s.recordLine pa).toNat / 2 ^ (8 * 24) = (s.recordWord pa 3).toNat := by
  rw [State.recordLine_toNat, ← s.record_length pa hzero, two_pow_bits]
  exact s.bytesAt_div (.phys pa) 24 (show 64 = 24 + 40 from rfl)

theorem State.recordLine_length (s : State) (pa : Nat) (hlen : (s.recordWord pa 3).toNat ≤ 20)
    (hzero : ∀ i, 4 ≤ i → i < 8 → s.recordWord pa i = 0) :
    ((s.recordLine pa).extractLsb' 192 5).toNat = (s.recordWord pa 3).toNat ∧ (s.recordLine pa).extractLsb' 197 315 = 0 := by
  have hhigh := s.recordLine_high pa hzero
  constructor
  · rw [BitVec.extractLsb'_toNat, Nat.shiftRight_eq_div_pow, show 192 = 8 * 24 from rfl, hhigh]
    exact Nat.mod_eq_of_lt (by omega)
  · apply BitVec.eq_of_toNat_eq
    rw [BitVec.extractLsb'_toNat, Nat.shiftRight_eq_div_pow, show 197 = 8 * 24 + 5 from rfl, Nat.pow_add, ← Nat.div_div_eq_div_mul,
      hhigh, Nat.div_eq_of_lt (by omega)]
    rfl

/-! ### A store at the home keeps what the next one needs -/

theorem State.canonical_wakeLine {s : State} (h : s.Canonical) (line : Loc) : (s.wakeLine line).Canonical := by
  refine List.foldlRecOn (motive := State.Canonical) _ _ h fun t ht w _ => ?_
  unfold State.answerWaiter
  split
  · next x _ => rcases t.answerFar_cases x with he | ⟨v, he⟩ <;> rw [he] <;> exact ht
  · rw [State.answer_eq]
    exact State.canonical_modSlot ht _ _ _

section
variable {s : State} {pa : Nat} (hu : s.NoULine (pa / 64)) (n v : Nat)
include hu

theorem State.canonical_storeHome (h : s.Canonical) : (s.storeHome pa n v).Canonical := by
  rw [State.storeHome, State.combineLine_of_noULine hu]
  have hpoke : (s.pokeHome pa n v).Canonical := State.canonical_poke h (.phys pa) n v
  exact State.canonical_wakeLine hpoke _

theorem State.clusters_storeHome : (s.storeHome pa n v).clusters = s.clusters := by
  rw [State.storeHome, State.combineLine_of_noULine hu, State.clusters_wakeLine, State.clusters_pokeHome]

theorem State.storeHome_replies : (s.storeHome pa n v).replies = s.replies := by
  rw [State.storeHome, State.combineLine_of_noULine hu, State.wakeLine_replies]
  exact State.poke_replies _ _ _ _

end

/-! ### TOKC at its home (R317, R318) -/

/-- The home of a record of a ring, with its counter, its ring's slot and its consumer counter uncached and undamaged. -/
structure State.RingAt (s : State) (src seq pa cons ring place : Nat) : Prop where
  damaged : s.damaged = []
  redirects : s.redirects = []
  fresh : s.Unanswered (Loc.phys pa).slice src seq
  recordHome : s.NoULine (pa / 64)
  consHome : s.NoULine (cons / 64)
  placeHome : s.NoULine (place / 64)
  length : (s.recordWord pa 3).toNat ≤ 20
  rest : ∀ i, 4 ≤ i → i < 8 → s.recordWord pa i = 0
  consAddr : s.tokcAddr src (s.recordWord pa 2) = .ok cons
  ringAddr : s.tokcAddr src (s.recordWord pa 1) = .ok ring
  placeAddr : s.tokcAddr src (s.recordWord pa 1 +
    BitVec.ofNat 64 (8 * ((s.recordWord pa 0).toNat % 2 ^ (s.recordWord pa 3).toNat))) = .ok place

/-- The consumer counter's value. -/
def State.consumed (s : State) (cons : Nat) : Word := BitVec.ofNat 64 (s.bytesAt (.phys cons) 8)

/-- The state after the entry and the counter are written. -/
def State.ringPut (s : State) (pa place : Nat) (entry : Word) : State :=
  (s.storeHome place 8 entry.toNat).storeHome pa 8 (s.recordWord pa 0 + 1).toNat

/-- The slice's memory of the place given. -/
def State.ringReply (s : State) (src seq pa : Nat) : ReplyEntry :=
  { slice := (Loc.phys pa).slice, src := src, seq := seq, line := (Loc.phys pa).line, old := s.recordWord pa 0, flags := 0,
    moved := false, cx := (s.cxOf src).getD 0 }

theorem State.writable_of_undamaged {s : State} (h : s.damaged = []) (a : Word) (pa n : Nat) :
    s.writable a (.phys pa) n = .ok () := by
  have hsound : s.sound (.phys pa) = true := by simp [State.sound, h]
  have hnone : s.damagedPart (.phys pa) n = none := if_pos hsound
  rw [State.writable, hnone]

namespace State.RingAt

variable {s : State} {src seq pa cons ring place : Nat} (h : s.RingAt src seq pa cons ring place) (entry : Word)
include h

theorem tokcHome : s.tokcHome src seq pa entry =
    if 2 ^ (s.recordWord pa 3).toNat ≤ (s.recordWord pa 0 - s.consumed cons).toNat then
      (.full cons (s.consumed cons) (s.recordWord pa 2), s)
    else (.done (s.recordWord pa 0), (s.ringPut pa place entry).remember (s.ringReply src seq pa)) := by
  obtain ⟨hlen, hhigh⟩ := s.recordLine_length pa h.length h.rest
  have hzero : (s.recordLine pa).extractLsb' 0 64 = s.recordWord pa 0 := s.recordLine_word pa (i := 0) (by decide)
  have hone : (s.recordLine pa).extractLsb' 64 64 = s.recordWord pa 1 := s.recordLine_word pa (i := 1) (by decide)
  have htwo : (s.recordLine pa).extractLsb' 128 64 = s.recordWord pa 2 := s.recordLine_word pa (i := 2) (by decide)
  have hline : BitVec.ofNat 512 (s.peek (.phys pa) 64) = s.recordLine pa := by rw [State.peek_eq_bytesAt]; rfl
  have hcons : BitVec.ofNat 64 (s.peek (.phys cons) 8) = s.consumed cons := by rw [State.peek_eq_bytesAt]; rfl
  have hmend : s.mend (.phys place) 8 = s := State.mend_of_sound (by simp [State.sound, h.damaged]) 8
  have hok : ¬ ((s.recordLine pa).extractLsb' 197 315 ≠ 0 ∨ 20 < (s.recordWord pa 3).toNat) := by
    rw [hhigh]
    have := h.length
    simp only [ne_eq, not_true, false_or]
    omega
  simp only [State.tokcHome, State.find_unanswered h.fresh, State.redirected_self h.redirects, Loc.off,
    State.combineLine_of_noULine h.recordHome, hline, hlen, hzero, hone, htwo, if_neg hok, h.consAddr, h.ringAddr, h.placeAddr,
    State.readable_of_undamaged h.damaged, State.combineLine_of_noULine h.consHome, hcons,
    State.writable_of_undamaged h.damaged, hmend]
  rfl

/-- The entry stands at its place, the counter is one more, and every other byte is as it was. -/
theorem ringPut_spec (hc : s.Canonical) (hpa : pa % 64 = 0) (hplace : place % 8 = 0) (hne : place ≠ pa) :
    (s.ringPut pa place entry).bytesAt (.phys place) 8 = entry.toNat ∧
      (s.ringPut pa place entry).bytesAt (.phys pa) 8 = (s.recordWord pa 0 + 1).toNat ∧
      (∀ x : Loc, x.outside (.phys place) 8 → x.outside (.phys pa) 8 → (s.ringPut pa place entry).byteAt x = s.byteAt x) ∧
      (s.ringPut pa place entry).replies = s.replies := by
  have hrecord : (s.storeHome place 8 entry.toNat).NoULine (pa / 64) := by
    unfold State.NoULine
    rw [State.clusters_storeHome h.placeHome]
    exact h.recordHome
  have hfirst := State.stored_storeHome hc h.placeHome 8 entry.toNat
  have hsecond := State.stored_storeHome (State.canonical_storeHome h.placeHome 8 entry.toNat hc) hrecord 8
    (s.recordWord pa 0 + 1).toNat
  have hword (w : Word) : w.toNat % 256 ^ 8 = w.toNat := Nat.mod_eq_of_lt w.isLt
  refine ⟨?_, ?_, fun x hx hx' => (hsecond.frame x hx').trans (hfirst.frame x hx), ?_⟩
  · refine (State.bytesAt_congr fun i hi => hsecond.frame _ fun j hj he => ?_).trans (hfirst.bytesAt.trans (hword entry))
    have : place + i = pa + j := by simpa [Loc.add] using he
    omega
  · exact hsecond.bytesAt.trans (hword _)
  · rw [State.ringPut, State.storeHome_replies hrecord, State.storeHome_replies h.placeHome]

end State.RingAt

theorem State.tokcHome_again {s : State} {src seq pa : Nat} {e : ReplyEntry}
    (h : (s.replies.find? fun x => x.slice == (Loc.phys pa).slice && x.src == src && x.seq == seq) = some e) (entry : Word) :
    s.tokcHome src seq pa entry = (.done e.old, s) := by
  simp only [State.tokcHome, h]

/-! ### TOKC at issue (R217, R317) -/

theorem State.tokcSeen_spec (s : State) (pa : Nat) : (s.tokcSeen pa).mem = s.mem ∧ (s.tokcSeen pa).here = s.here ∧
    ∀ y ∈ ((s.tokcSeen pa).cluster (s.hereCid / 8)).copies, y.line ≠ pa / 64 := by
  have hcl : clusterOf s.hereCid = s.hereCid / 8 := rfl
  unfold State.tokcSeen State.barLate
  dsimp only
  refine ⟨?_, ?_, fun y hy => ?_⟩
  · obtain ⟨k, hk⟩ := State.modLate_eq _ _ _
    rw [hk]
    rfl
  · obtain ⟨k, hk⟩ := State.modLate_eq _ _ _
    rw [hk]
    rfl
  · rw [State.cluster_modLate_copies, State.cluster_dropCopies, hcl, if_pos rfl] at hy
    have hp := (List.mem_filter.1 hy).2
    simp only [Bool.not_eq_true', Bool.or_eq_false_iff, beq_eq_false_iff_ne] at hp
    exact hp.1.1

section
variable {s u : State} {a : GReg} {pa : Nat} (h : s.Reaches .atomic (s.g a) 64 (.phys pa) u) (hk : paKind pa = .device)
  (hd : paDevice pa = 0) (hidle : u.here.unanswered = [])
include h hk hd hidle

/-- The state in which TOKC's request is made: after its release. -/
def State.tokcReleased (u : State) (pa : Nat) : State :=
  (u.releaseTo .system).acknowledge u.hereCid (Loc.phys pa).slice (u.here.seqFor (Loc.phys pa).slice)

/-- A request of number q has been sent to a slice. -/
def State.askedOnce (s : State) (slice q : Nat) : State :=
  { s with here := { s.here with nextSeq := s.here.nextSeq.put slice (q + 1) } }

theorem State.Reaches.tokc_done (d b : GReg) {c : Word} {s3 : State}
    (hdone : (u.tokcReleased pa).tokcHome (u.tokcReleased pa).hereCid ((u.tokcReleased pa).here.seqFor (Loc.phys pa).slice) pa (s.g b) =
      (.done c, s3)) :
    exec (.tokc d a b) s = .next (((s3.askedOnce (Loc.phys pa).slice
      ((u.tokcReleased pa).here.seqFor (Loc.phys pa).slice)).tokcSeen pa).setG d c).advance := by
  have hown : paKind pa = .device ∧ paDevice pa = Config.ownDevice := ⟨hk, hd⟩
  unfold State.tokcReleased at *
  show execTokc d a b s = _
  simp only [execTokc, h.atomicAt hidle, Eff.bind_ok, if_pos hown, hdone] <;> rfl

theorem State.Reaches.tokc_full (d b : GReg) {cons : Nat} {v va : Word} {s3 : State}
    (hfull : (u.tokcReleased pa).tokcHome (u.tokcReleased pa).hereCid ((u.tokcReleased pa).here.seqFor (Loc.phys pa).slice) pa (s.g b) =
      (.full cons v va, s3)) :
    exec (.tokc d a b) s = .next ((s3.tokcSeen pa).park (.tokcFull cons v va)) := by
  have hown : paKind pa = .device ∧ paDevice pa = Config.ownDevice := ⟨hk, hd⟩
  unfold State.tokcReleased at *
  show execTokc d a b s = _
  simp only [execTokc, h.atomicAt hidle, Eff.bind_ok, if_pos hown, hfull]

end

/-- A request of TOKC that its source has issued is performed at the record's home (R317). -/
theorem exec_tokcAtHome_issued {s : State} {q : HomeReq} {pa : Nat} (hop : q.op = .tokc) (hloc : q.loc = .phys pa)
    (hd : s.damaged = []) (hpa : pa % 64 = 0) (hk : paKind pa = .device) (hdev : paDevice pa = 0)
    (hcx : (s.cxOf q.src).isSome = true) (hi : s.issued q = true) {c : Word} {t : State}
    (hdone : s.tokcHome q.src q.seq pa q.val = (.done c, t)) : exec (.tokcAtHome q) s = .next t := by
  have hsound : s.sound (s.redirected (homePlace q.loc)) = true := State.sound_redirected hd q.loc
  have hoff : (homePlace q.loc).off % homeBytes q.op = 0 := by
    rw [hloc, hop]
    exact hpa
  have hok : s.homeOk q = true := by simp [State.homeOk, hoff, State.damagedByte, hsound]
  have hown : decide (paKind pa = .device ∧ paDevice pa = Config.ownDevice) = true := decide_eq_true ⟨hk, hdev⟩
  show execTokcAtHome q s = _
  simp only [execTokcAtHome, hop, hloc, hok, hi, hcx, hown, Bool.and_self, if_true, hdone]

/-- Settles O26. -/
theorem tokenRings : Obligations.TokenRings := by
  unfold Obligations.TokenRings
  refine ⟨fun s u d a b pa h hk hd hidle => ⟨fun c s3 hdone => ?_, fun cons v va s3 hfull => ?_⟩, State.tokcSeen_spec, ?_⟩
  · exact completes_advance (h.tokc_done hk hd hidle d b hdone)
  · exact h.tokc_full hk hd hidle d b hfull
  · intro s src seq pa cons ring place entry q word c logn u slot hc hdam hred hfresh hupa hucons huplace hpa hplace hlen hzero hne
      hconsA hringA hplaceA
    have hring : s.RingAt src seq pa cons ring place := ⟨hdam, hred, hfresh, State.noULine_of_uncached hupa,
      State.noULine_of_uncached hucons, State.noULine_of_uncached huplace, hlen, hzero, hconsA, hringA, hplaceA⟩
    have hhome := hring.tokcHome entry
    refine ⟨fun hroom => ?_, fun hfull => ?_⟩
    · rw [if_neg (show ¬ 2 ^ (s.recordWord pa 3).toNat ≤ (s.recordWord pa 0 - s.consumed cons).toNat from Nat.not_le.2 hroom)] at hhome
      obtain ⟨hentry, hcount, hframe, hreplies⟩ := hring.ringPut_spec entry hc hpa hplace (hne 0 (by decide))
      have hkeep (e : ReplyEntry) := State.keeps_remember (s.ringPut pa place entry) e
      refine ⟨_, hhome, ?_, ?_, fun x hx hx' => ?_, ?_, fun hq hk hdev hcx hi => ?_⟩
      · exact (State.bytesAt_congr fun i _ => (hkeep _).bytes _).trans hentry
      · exact (State.bytesAt_congr fun i _ => (hkeep _).bytes _).trans hcount
      · exact ((hkeep _).bytes x).trans (hframe x hx hx')
      · exact State.tokcHome_again (State.find_remember (s := s.ringPut pa place entry) (e := s.ringReply src seq pa)
          fun e he => hfresh e (hreplies ▸ he)) entry
      · subst hq
        exact exec_tokcAtHome_issued rfl rfl hdam hpa hk hdev hcx hi hhome
    · rw [if_pos (show 2 ^ (s.recordWord pa 3).toNat ≤ (s.recordWord pa 0 - s.consumed cons).toNat from hfull)] at hhome
      exact hhome

end Sys2Proof.Machine
end

section
/-! PROOF. Deliveries of the copy engines (R212, R235 to R239): what translating and reading leave, what writing a word leaves,
and the counts of the channel. -/

namespace Sys2Proof.Machine

/-! ### Held lines depend on tickets, owners and contexts (R246) -/

/-- A core that the machine does not list is at its reset value. -/
theorem State.core_of_not_mem {s : State} {c : Nat} (h : c ∉ s.coreIds) : s.core c = Core.reset := by
  rw [State.coreIds, mem_insertNat, not_or] at h
  rw [State.core, if_neg h.1]
  cases hg : s.others.get c with
  | none => rfl
  | some y => exact absurd (List.mem_map_of_mem (f := Prod.fst) (Table.mem_of_get hg)) h.2

/-- A ticket of a core holds one of these lines. -/
def State.holdsOne (s : State) (ls : List Loc) (c i : Nat) : Bool :=
  let t := (s.core c).ticket i
  (t.state == .spec || t.state == .exposing) && (s.ticketLines c t).any fun x => ls.contains x

theorem State.holders_eq_nil_iff (s : State) (l : Loc) (ls : List Loc) : s.holders (l :: ls) = [] ↔
    ∀ c ∈ s.coresAt l, ∀ i < 32, s.holdsOne (l :: ls) c i = false := by
  simp [State.holders, State.holdsOne]

theorem Core.ticket_reset (i : Nat) : Core.reset.ticket i = Ticket.reset := vget_replicate 32 i _

theorem State.holdsOne_of_not_mem {s : State} {c : Nat} (h : c ∉ s.coreIds) (ls : List Loc) (i : Nat) :
    s.holdsOne ls c i = false := by
  rw [State.holdsOne, State.core_of_not_mem h, Core.ticket_reset]
  rfl

theorem State.window_congr {s t : State} (hctx : t.contexts = s.contexts) {cid : Nat} (hcx : t.cxOf cid = s.cxOf cid) (a : Word) :
    t.window cid a = s.window cid a := by
  unfold State.window State.ctxCfg
  rw [hcx, hctx]

/-- Where tickets, owners and contexts are the same, the same lines are free. -/
theorem State.holders_nil_of {s t : State} (hctx : t.contexts = s.contexts) (hcx : ∀ c, t.cxOf c = s.cxOf c)
    (ht : ∀ c, (t.core c).tickets = (s.core c).tickets) {ls : List Loc} (h : s.holders ls = []) : t.holders ls = [] := by
  cases ls with
  | nil => rfl
  | cons l ls =>
    rw [State.holders_eq_nil_iff] at h ⊢
    intro c hc i hi
    have hsame : t.holdsOne (l :: ls) c i = s.holdsOne (l :: ls) c i := by
      have hticket : (t.core c).ticket i = (s.core c).ticket i := by rw [Core.ticket, Core.ticket, ht]
      simp only [State.holdsOne, State.ticketLines, hticket, State.window_congr hctx (hcx c)]
    rw [hsame]
    cases l with
    | dsw d o =>
      by_cases hs : c ∈ s.coreIds
      · exact h c (List.mem_filter.2 ⟨hs, (List.mem_filter.1 hc).2⟩) i hi
      · exact State.holdsOne_of_not_mem hs _ i
    | lm | csp | mqw | phys => exact h c hc i hi

/-! ### What looking at memory leaves (R339) -/

/-- t is s after translations and reads: only TLBs, cached copies and choices differ. -/
structure State.Looked (s t : State) : Prop where
  bytes : ∀ x, t.byteAt x = s.byteAt x
  canonical : s.Canonical → t.Canonical
  uncached : ∀ l, s.Uncached l → t.Uncached l
  held : ∀ ls, s.holders ls = [] → t.holders ls = []
  damaged : t.damaged = s.damaged
  slots : ∀ c, (t.core c).slots = (s.core c).slots
  chans : ∀ c, (t.core c).chans = (s.core c).chans

theorem State.Looked.refl (s : State) : s.Looked s := ⟨fun _ => rfl, id, fun _ => id, fun _ => id, rfl, fun _ => rfl, fun _ => rfl⟩

theorem State.Looked.trans {s t u : State} (h : s.Looked t) (k : t.Looked u) : s.Looked u where
  bytes := fun x => (k.bytes x).trans (h.bytes x)
  canonical := fun hc => k.canonical (h.canonical hc)
  uncached := fun l hl => k.uncached l (h.uncached l hl)
  held := fun ls hl => k.held ls (h.held ls hl)
  damaged := k.damaged.trans h.damaged
  slots := fun c => (k.slots c).trans (h.slots c)
  chans := fun c => (k.chans c).trans (h.chans c)

theorem State.Looked.sound {s t : State} (h : s.Looked t) (l : Loc) : t.sound l = s.sound l := by
  unfold State.sound Core.slot
  rw [h.damaged]
  cases l with
  | lm cid o => simp only [h.slots]
  | _ => rfl

theorem State.Looked.bytesAt {s t : State} (h : s.Looked t) (l : Loc) (n : Nat) : t.bytesAt l n = s.bytesAt l n :=
  State.bytesAt_congr fun _ _ => h.bytes _

theorem State.looked_tick (s : State) (n : Nat) : s.Looked { s with tick := n } :=
  ⟨fun x => by cases x <;> rfl, id, fun _ => id, fun _ h => h, rfl, fun _ => rfl, fun _ => rfl⟩

/-- A change of the TLB of a core. -/
theorem State.looked_modCore (s : State) (k : Nat) {f : Core → Core} (hf : ∀ c, ∃ l, f c = { c with l1 := l }) :
    s.Looked (s.modCore k f) := by
  have hcore (c : Nat) : ∃ l, (s.modCore k f).core c = { s.core c with l1 := l } := by
    rw [State.core_modCore]
    split
    · next h => rw [h]; exact hf _
    · exact ⟨_, rfl⟩
  have hcl (c : Nat) : (s.modCore k f).cluster c = s.cluster c := by rw [State.cluster, State.modCore, State.setCore_clusters]; rfl
  refine ⟨fun x => ?_, fun h => ?_, fun l h pa hl x hx => ?_, fun ls h => State.holders_nil_of ?_ (fun c => ?_) (fun c => ?_) h, ?_,
    fun c => ?_, fun c => ?_⟩
  · cases x with
    | lm c o =>
      obtain ⟨l, h⟩ := hcore c
      simp only [State.byteAt, h] <;> rfl
    | csp c o => simp only [State.byteAt, hcl]
    | dsw d o => simp [State.byteAt, State.modCore, State.die]
    | mqw o => rfl
    | phys a => simp [State.byteAt, State.modCore]
  · obtain ⟨l, hl⟩ := hf (s.core k)
    exact State.canonical_setCore h (by rw [hl]; exact s.canonical_core h k) k
  · rw [State.modCore, State.setCore_clusters] at hx
    exact h pa hl x hx
  · simp [State.modCore]
  · rw [State.cxOf, hcl]; rfl
  · obtain ⟨l, h⟩ := hcore c; rw [h]
  · simp [State.modCore]
  · obtain ⟨l, h⟩ := hcore c; rw [h]
  · obtain ⟨l, h⟩ := hcore c; rw [h]

/-- A change of a cluster that drops copies leaves an uncached line uncached. -/
theorem State.uncached_modCluster {s : State} {l : Loc} (h : s.Uncached l) (k : Nat) {f : Cluster → Cluster}
    (hu : ∀ x, (f x).ulines = x.ulines) (hcopies : ∀ x, (f x).copies ⊆ x.copies) (hlate : ∀ x, (f x).late ⊆ x.late) :
    (s.modCluster k f).Uncached l := by
  intro pa hl x hx
  rcases Table.mem_put hx with rfl | hx
  · have hlisted := h pa hl
    refine ⟨fun u hm => ?_, fun y hy => ?_, fun y hy => ?_⟩
    · exact s.forall_cluster (p := fun c => ∀ u ∈ c.ulines, u.line ≠ pa / 64) (fun x hx => (hlisted x hx).1) (by simp [Cluster.reset]) k u (hu _ ▸ hm)
    · exact s.forall_cluster (p := fun c => ∀ u ∈ c.copies, u.line ≠ pa / 64) (fun x hx => (hlisted x hx).2.1) (by simp [Cluster.reset]) k y
        (hcopies _ hy)
    · exact s.forall_cluster (p := fun c => ∀ u ∈ c.late, u.line ≠ pa / 64) (fun x hx => (hlisted x hx).2.2) (by simp [Cluster.reset]) k y
        (hlate _ hy)
  · exact h pa hl x hx

/-- A change of a cluster that drops copies or enters a translation. -/
theorem State.looked_modCluster (s : State) (k : Nat) {f : Cluster → Cluster} (hcsp : ∀ x, (f x).csp = x.csp)
    (hown : ∀ x, (f x).owner = x.owner) (hu : ∀ x, (f x).ulines = x.ulines) (hcopies : ∀ x, (f x).copies ⊆ x.copies)
    (hlate : ∀ x, (f x).late ⊆ x.late) : s.Looked (s.modCluster k f) := by
  have hcx (c : Nat) : (s.modCluster k f).cxOf c = s.cxOf c := by
    rw [State.cxOf, State.cluster_modCluster]
    split
    · next he => rw [hown, ← he]; rfl
    · rfl
  exact ⟨(s.keeps_modCluster k f (hcsp _)).bytes, fun h => State.canonical_modCluster h k hcsp,
    fun l h => State.uncached_modCluster h k hu hcopies hlate, fun ls h => State.holders_nil_of (s := s) (t := s.modCluster k f) rfl hcx
      (fun _ => rfl) h, rfl,
    fun _ => rfl, fun _ => rfl⟩

theorem State.looked_modLate (s : State) (k : Nat) {f : List Late → List Late} (hf : ∀ l, f l ⊆ l) : s.Looked (s.modLate k f) := by
  unfold State.modLate
  split
  · exact .refl s
  · exact s.looked_modCluster k (fun _ => rfl) (fun _ => rfl) (fun _ => rfl) (fun _ => List.Subset.refl _) fun x => hf x.late

theorem State.looked_dropCopies (s : State) (k : Nat) (p : Nat → Bool) : s.Looked (s.dropCopies k p) :=
  s.looked_modCluster k (f := fun x => { x with copies := x.copies.filter fun y => !p y.line })
    (fun _ => rfl) (fun _ => rfl) (fun _ => rfl) (fun _ => List.filter_subset_self _) fun _ => List.Subset.refl _

theorem State.looked_fillTlb (s : State) (cid : Nat) (l : Leaf) : s.Looked (s.fillTlb cid l) := by
  refine (s.looked_modCore cid fun c => ?_).trans (State.looked_modCluster _ _ (fun x => ?_) (fun x => ?_) (fun x => ?_)
    (fun x => ?_) fun x => ?_)
  · split
    · exact ⟨c.l1, rfl⟩
    · exact ⟨_, rfl⟩
  all_goals split
  all_goals first
    | rfl
    | exact List.Subset.refl _

theorem State.looked_leafOf (s : State) (cid va : Nat) : s.Looked (s.leafOf cid va).2 := by
  unfold State.leafOf
  dsimp only
  split
  · exact .refl s
  · exact s.looked_tick _

theorem State.looked_translate {s u : State} {cid va pa : Nat} {acc : Acc} (h : s.translate cid acc va = .ok (pa, u)) :
    s.Looked u := by
  unfold State.translate at h
  dsimp only at h
  split at h
  · cases h
  · cases h
  · split at h
    · cases h
    · obtain ⟨-, rfl⟩ := Prod.mk.inj (Except.ok.inj h)
      exact (s.looked_leafOf cid va).trans (State.looked_fillTlb _ _ _)

theorem State.looked_engineLoc {s u : State} {cid : Nat} {acc : Acc} {a : Word} {l : Loc} (h : s.engineLoc cid acc a = .ok (l, u)) :
    s.Looked u := by
  unfold State.engineLoc at h
  split at h
  · split at h
    · obtain ⟨-, rfl⟩ := Prod.mk.inj (Except.ok.inj h)
      exact .refl s
    · cases h
  · split at h
    · cases ht : s.translate cid acc a.toNat with
      | error e => rw [ht] at h; cases h
      | ok x =>
        rw [ht] at h
        obtain ⟨-, rfl⟩ := Prod.mk.inj (Except.ok.inj h)
        exact State.looked_translate (u := x.2) ht
    · cases h

/-- An engine reads the bytes that stand at the home (R198). -/
theorem State.engineRead_uncached {s : State} {l : Loc} (h : s.Uncached l) (cid n : Nat) :
    (s.engineRead cid l n).1 = s.bytesAt l n ∧ s.Looked (s.engineRead cid l n).2 := by
  cases l with
  | phys pa =>
    rw [State.engineRead]
    dsimp only
    rw [State.combineLine_of_noULine (State.noULine_of_uncached h)]
    refine ⟨s.peek_eq_bytesAt _ n, (s.looked_dropCopies (clusterOf cid) fun x => x == pa / 64).trans ?_⟩
    exact State.looked_modLate _ _ fun l => List.filter_subset_self _
  | lm | csp | dsw | mqw => exact ⟨s.peek_eq_bytesAt _ n, .refl s⟩

/-! ### A translation does not depend on cached copies -/

theorem State.translate_copies {s : State} {cid va pa : Nat} {acc : Acc} {u : State} (h : s.translate cid acc va = .ok (pa, u))
    {t : State} (htr : ∀ cx, t.translations cid cx va = s.translations cid cx va) (hcx : t.cxOf cid = s.cxOf cid)
    (hg : t.grants = s.grants) (htick : t.tick = s.tick) : ∃ v, t.translate cid acc va = .ok (pa, v) := by
  have hleaf : (t.leafOf cid va).1 = (s.leafOf cid va).1 := by
    unfold State.leafOf
    dsimp only
    rw [htr, hcx]
    split
    · rfl
    · unfold State.choose
      rw [htick]
  have hgrant (cx pa : Nat) : t.granted cx pa = s.granted cx pa := by rw [State.granted, State.granted, hg]
  unfold State.translate at h ⊢
  dsimp only at h ⊢
  rw [hleaf, hcx]
  split at h
  · cases h
  · cases h
  · next l _ =>
    simp only [hgrant]
    split at h
    · cases h
    · next hok =>
      obtain ⟨rfl, -⟩ := Prod.mk.inj (Except.ok.inj h)
      rw [if_neg hok]
      exact ⟨_, rfl⟩

/-- What an engine has read of a line does not change where it writes. -/
theorem State.engineLoc_engineRead {s u : State} {cid : Nat} {acc : Acc} {a : Word} {l : Loc} {k : Loc} (hk : s.Uncached k)
    (h : s.engineLoc cid acc a = .ok (l, u)) (n : Nat) : ∃ v, (s.engineRead cid k n).2.engineLoc cid acc a = .ok (l, v) := by
  cases k with
  | phys pa =>
    have hread : ∃ y, (s.engineRead cid (.phys pa) n).2 = y ∧ y.contexts = s.contexts ∧ y.mem = s.mem ∧ y.grants = s.grants ∧
        y.tick = s.tick ∧ y.oldWalks = s.oldWalks ∧ (∀ c, y.core c = s.core c) ∧
        ∀ c, (y.cluster c).owner = (s.cluster c).owner ∧ (y.cluster c).l2 = (s.cluster c).l2 := by
      refine ⟨_, rfl, ?_⟩
      rw [State.engineRead]
      dsimp only
      rw [State.combineLine_of_noULine (State.noULine_of_uncached hk)]
      unfold State.dropLate State.modLate State.dropCopy
      have hdrop (c : Nat) := s.cluster_dropCopies (clusterOf cid) c fun x => x == pa / 64
      split
      · refine ⟨rfl, rfl, rfl, rfl, rfl, fun _ => rfl, fun c => ?_⟩
        rw [hdrop]
        split
        · next he => rw [he]; exact ⟨rfl, rfl⟩
        · exact ⟨rfl, rfl⟩
      · refine ⟨rfl, rfl, rfl, rfl, rfl, fun _ => rfl, fun c => ?_⟩
        rw [State.cluster_modCluster]
        split
        · next he => rw [hdrop, if_pos rfl, he]; exact ⟨rfl, rfl⟩
        · next he => rw [hdrop, if_neg he]; exact ⟨rfl, rfl⟩
    obtain ⟨y, hy, hctx, hmem, hg, htick, hold, hcore, hcl⟩ := hread
    rw [hy]
    have hcx : y.cxOf cid = s.cxOf cid := (hcl _).1
    have htr (cx va : Nat) : y.translations cid cx va = s.translations cid cx va := by
      unfold State.translations State.walk State.ctxCfg
      rw [hctx, hmem, hold, hcore]
      dsimp only
      rw [(hcl _).2]
    unfold State.engineLoc at h ⊢
    rw [State.window_congr hctx hcx]
    split at h
    · next hl =>
      rw [if_pos hl]
      split at h
      · obtain ⟨rfl, -⟩ := Prod.mk.inj (Except.ok.inj h)
        exact ⟨_, rfl⟩
      · cases h
    · next hl =>
      rw [if_neg hl]
      split at h
      · next hgl =>
        rw [if_pos hgl]
        cases ht : s.translate cid acc a.toNat with
        | error e => rw [ht] at h; cases h
        | ok x =>
          rw [ht] at h
          obtain ⟨rfl, -⟩ := Prod.mk.inj (Except.ok.inj h)
          obtain ⟨v, hv⟩ := State.translate_copies (u := x.2) ht (htr · _) hcx hg htick
          rw [hv]
          exact ⟨_, rfl⟩
      · cases h
  | lm | csp | dsw | mqw => exact ⟨u, h⟩

end Sys2Proof.Machine
end

section
/-! PROOF. Words that a copy engine writes, what it counts, and the deliveries (R212, R235 to R239). -/

namespace Sys2Proof.Machine

/-! ### What writes leave of every core beside its bytes -/

/-- A part of a core that holds neither bytes nor full/empty bits. -/
def Core.Aside {α : Type} (p : Core → α) : Prop :=
  ∀ (c : Core) (slots : Vector Slot 8) (lm : Memory) (full : List Nat) (arrivals : Table Nat),
    p { c with
      slots := slots
      lm := lm
      full := full
      arrivals := arrivals } = p c

theorem Core.aside_chans : Core.Aside Core.chans := fun _ _ _ _ _ => rfl

/-- The part p of every core is as it was. -/
def State.CoresKeep {α : Type} (p : Core → α) (s t : State) : Prop := ∀ c, p (t.core c) = p (s.core c)

section
variable {α : Type} {p : Core → α}

theorem State.CoresKeep.refl (s : State) : State.CoresKeep p s s := fun _ => rfl

theorem State.CoresKeep.trans {s t u : State} (h : State.CoresKeep p s t) (k : State.CoresKeep p t u) : State.CoresKeep p s u :=
  fun c => (k c).trans (h c)

theorem State.coresKeep_modCore (s : State) (k : Nat) {f : Core → Core} (hf : ∀ c, p (f c) = p c) :
    State.CoresKeep p s (s.modCore k f) := fun c => by
  rw [State.core_modCore]
  split
  · next h => rw [h, hf]
  · rfl

theorem State.coresKeep_foldl {β : Type} {f : State → β → State} (h : ∀ (s : State) (a : β), State.CoresKeep p s (f s a)) (s : State)
    (l : List β) : State.CoresKeep p s (l.foldl f s) := List.foldlRecOn l f (.refl s) fun _ hb a _ => hb.trans (h _ a)

theorem State.coresKeep_modLate (s : State) (c : Nat) (f : List Late → List Late) : State.CoresKeep p s (s.modLate c f) := by
  unfold State.modLate
  split <;> exact .refl _

theorem State.coresKeep_trigger (s : State) (n : Nat) : State.CoresKeep p s (s.trigger n) := by
  obtain ⟨k, l, h⟩ := s.trigger_eq n
  rw [h]
  exact fun _ => rfl

theorem State.coresKeep_report (s : State) (d : Nat) (r : FaultRec) : State.CoresKeep p s (s.report d r) := by
  obtain ⟨k, m, l, h⟩ := s.report_eq d r
  rw [h]
  exact fun _ => rfl

variable (hp : Core.Aside p)
include hp

theorem State.coresKeep_setByteAt (s : State) (l : Loc) (b : Byte) : State.CoresKeep p s (s.setByteAt l b) := by
  cases l with
  | lm cid o =>
    refine s.coresKeep_modCore cid fun c => ?_
    unfold Core.setLmByte
    split
    · exact hp c _ c.lm c.full c.arrivals
    · exact hp c c.slots _ c.full c.arrivals
  | csp | dsw | mqw | phys => exact .refl _

theorem State.coresKeep_poke (s : State) (l : Loc) (n v : Nat) : State.CoresKeep p s (s.poke l n v) := by
  induction n generalizing s l v with
  | zero => exact .refl s
  | succ n ih => exact (s.coresKeep_setByteAt hp l _).trans (ih _ _ _)

theorem State.coresKeep_pokeHome (s : State) (pa n v : Nat) : State.CoresKeep p s (s.pokeHome pa n v) :=
  s.coresKeep_poke hp (.phys pa) n v

theorem State.coresKeep_wakeLine (s : State) (line : Loc) : State.CoresKeep p s (s.wakeLine line) := by
  refine List.foldlRecOn (motive := fun t => State.CoresKeep p s t) _ _ (State.CoresKeep.refl s) fun t ht w _ => ht.trans ?_
  unfold State.answerWaiter
  split
  · next x _ => rcases t.answerFar_cases x with h | ⟨v, h⟩ <;> rw [h] <;> exact .refl _
  · exact t.coresKeep_modCore _ fun c => hp c _ c.lm c.full c.arrivals

theorem State.coresKeep_setFull (s : State) (l : Loc) (f : Bool) : State.CoresKeep p s (s.setFull l f) := by
  cases l with
  | lm cid o => exact s.coresKeep_modCore cid fun c => hp c c.slots c.lm _ _
  | csp | dsw | mqw | phys => exact .refl _

end

/-! ### Records of faults change no byte (R361) -/

theorem State.byteAt_setDie (s : State) (d : Nat) {x : Die} (h : x.dsw = (s.die d).dsw) (l : Loc) :
    (s.setDie d x).byteAt l = s.byteAt l := by
  cases l with
  | dsw k o =>
    simp only [State.byteAt, State.die, State.setDie, Table.get_put]
    split
    · next hk => rw [hk]; simp [h, State.die]
    · rfl
  | _ => rfl

theorem State.byteAt_trigger (s : State) (n : Nat) (l : Loc) : (s.trigger n).byteAt l = s.byteAt l := by
  unfold State.trigger
  split
  · rfl
  · split <;> cases l <;> rfl

theorem State.byteAt_report (s : State) (d : Nat) (r : FaultRec) (l : Loc) : (s.report d r).byteAt l = s.byteAt l := by
  unfold State.report
  dsimp only
  split
  · exact s.byteAt_setDie d (x := { s.die d with lastErr := some r, faults := _ }) rfl l
  · split
    · exact s.byteAt_setDie d (x := { s.die d with lastErr := some r, faults := _, window := _ }) rfl l
    · exact (State.byteAt_trigger _ _ _).trans
        (s.byteAt_setDie d (x := { Die.closeFaults { s.die d with lastErr := some r } with faults := [r], window := _ }) rfl l)

theorem State.engineFault_spec (s : State) (cid detail : Nat) (a : Word) (e : XErr) :
    State.CoresKeep Core.chans s (s.engineFault cid detail a e) ∧ ∀ l, (s.engineFault cid detail a e).byteAt l = s.byteAt l := by
  unfold State.engineFault
  dsimp only
  split
  · exact ⟨((s.coresKeep_report _ _).trans (State.coresKeep_trigger _ _)).trans (State.coresKeep_report _ _ _),
      fun l => (State.byteAt_report _ _ _ l).trans ((State.byteAt_trigger _ _ l).trans (s.byteAt_report _ _ l))⟩
  · exact ⟨s.coresKeep_report _ _, s.byteAt_report _ _⟩

/-! ### A word that an engine writes (R210, R212) -/

theorem State.isFull_setFull_of_full {s : State} {l : Loc} (h : s.isFull l = true) (x : Loc) : (s.setFull x true).isFull l = true := by
  cases l with
  | lm cid o =>
    cases x with
    | lm k p =>
      simp only [State.setFull, State.isFull, State.core_modCore] at h ⊢
      split
      · next hk =>
        subst hk
        simpa [List.contains_iff_mem, mem_insertNat] using .inr (by simpa [List.contains_iff_mem] using h)
      · exact h
    | csp | dsw | mqw | phys => exact h
  | csp k o =>
    cases x with
    | csp c p =>
      simp only [State.setFull, State.isFull, State.cluster_modCluster] at h ⊢
      split
      · next hk =>
        subst hk
        simpa [List.contains_iff_mem, mem_insertNat] using .inr (by simpa [List.contains_iff_mem] using h)
      · exact h
    | lm k p =>
      rw [State.isFull, State.cluster] at h ⊢
      simpa [State.setFull, State.modCore] using h
    | dsw | mqw | phys => exact h
  | dsw | mqw | phys => exact absurd h nofun

/-- A word of the LM or the CSP is full after a range that begins with it is set full. -/
theorem State.isFull_setFullRange (s : State) {l : Loc} (h : (∃ cid o, l = .lm cid o) ∨ ∃ c o, l = .csp c o) {n : Nat} (hn : 0 < n) :
    (s.setFullRange l n true).isFull l = true := by
  have hcount : ∃ m, (l.off % 4 + n + 3) / 4 = m + 1 := Nat.exists_eq_add_one.2 (by omega)
  obtain ⟨m, hm⟩ := hcount
  have hzero : l.add (4 * 0) = l := by cases l <;> rfl
  unfold State.setFullRange
  rw [hm, List.range_succ_eq_map, List.foldl_cons]
  refine List.foldlRecOn (motive := fun (t : State) => t.isFull l = true) _ _ ?_ fun t ht i _ => State.isFull_setFull_of_full ht _
  rw [hzero]
  exact s.isFull_setFull_same h true

/-- What a word written at its place by an engine leaves. -/
structure State.Put (s t : State) (l : Loc) (v : Nat) : Prop where
  word : t.bytesAt l 4 = v % 256 ^ 4
  frame : ∀ x : Loc, x.outside l 4 → t.byteAt x = s.byteAt x
  chans : State.CoresKeep Core.chans s t
  full : ((∃ cid o, l = .lm cid o) ∨ ∃ c o, l = .csp c o) → t.isFull l = true

section
variable {s : State} {l : Loc} (hc : s.Canonical) (hd : s.damaged = []) (hp : l.plain) (hl : ∀ o, l ≠ .mqw o) (hu : s.Uncached l)
include hd hp

theorem State.sound_plain : s.sound l = true := by
  cases l with
  | lm cid o => simp [State.sound, hd, show Config.slotBytes ≤ o from hp]
  | csp | dsw | mqw | phys => simp [State.sound, hd]

include hu

theorem State.chans_storeAt (cid n v : Nat) : State.CoresKeep Core.chans s (s.storeAt cid l n v) := by
  unfold State.storeAt
  rw [State.mend_of_sound (State.sound_plain hd hp)]
  cases l with
  | phys pa =>
    dsimp only
    rw [State.storeHome, State.combineLine_of_noULine (State.noULine_of_uncached hu)]
    exact (s.coresKeep_pokeHome Core.aside_chans pa n v).trans (State.coresKeep_wakeLine Core.aside_chans _ _)
  | dsw d o =>
    have hpoke := s.coresKeep_poke Core.aside_chans (.dsw d o) n v
    exact hpoke.trans (State.coresKeep_foldl (State.coresKeep_wakeLine Core.aside_chans) _ _)
  | lm | csp | mqw => exact s.coresKeep_poke Core.aside_chans _ _ _

include hc hl

theorem State.storeEngine_spec (cid n v : Nat) : s.Stored (s.storeEngine cid l n v) l n v ∧ State.CoresKeep Core.chans s (s.storeEngine cid l n v) := by
  have hst := State.stored_storeAt hc hp hl (fun pa hpa => by subst hpa; exact State.noULine_of_uncached hu) cid n v
  have hch := State.chans_storeAt hd hp hu cid n v
  cases l with
  | phys pa => exact ⟨hst.then_keeps (State.keeps_modLate _ _ _), hch.trans (State.coresKeep_modLate _ _ _)⟩
  | lm | csp | dsw | mqw => exact ⟨hst, hch⟩

/-- A word of a transfer is written at its place, and is full there. -/
theorem State.put_deliverTo (cid ch : Nat) (x : Transfer) (dst : Word) (v : Nat) : s.Put (s.deliverTo cid ch x dst l v) l v := by
  obtain ⟨hst, hch⟩ := State.storeEngine_spec hc hd hp hl hu cid 4 v
  have hwrite : s.engineWrite cid l 4 v ch = (s.storeEngine cid l 4 v).setFullRange l 4 true := by
    rw [State.engineWrite, State.damagedPart, if_pos (State.sound_plain hd hp)]
    rfl
  have hset : (s.storeEngine cid l 4 v).Keeps ((s.storeEngine cid l 4 v).setFullRange l 4 true) :=
    State.keeps_foldl (fun t i => t.keeps_setFull _ true) _ _
  have hfull : s.Put ((s.storeEngine cid l 4 v).setFullRange l 4 true) l v :=
    ⟨(State.bytesAt_congr fun _ _ => hset.bytes _).trans hst.bytesAt, fun x hx => (hset.bytes x).trans (hst.frame x hx),
      hch.trans (State.coresKeep_foldl (fun t i => t.coresKeep_setFull Core.aside_chans _ true) _ _),
      fun h => State.isFull_setFullRange _ h (by decide)⟩
  unfold State.deliverTo
  cases l with
  | phys pa =>
    have hnot : s.isDamaged (.phys pa) = false := by simp [State.isDamaged, State.lostAt, hd]
    simp only [hnot, Bool.false_eq_true, if_false]
    exact ⟨hst.bytesAt, hst.frame, hch, fun h => by rcases h with ⟨_, _, h⟩ | ⟨_, _, h⟩ <;> cases h⟩
  | mqw o => exact absurd rfl (hl o)
  | lm | csp | dsw =>
    dsimp only
    rw [hwrite]
    exact hfull

end

/-! ### A word of a transfer (R212, R238) -/

section
variable {s : State} {ld : Loc} (hc : s.Canonical) (hd : s.damaged = []) (hopen : s.Open ld) (hp : ld.plain)
include hc hd hopen hp

/-- The word v goes to its place from a state that has only looked at memory. -/
theorem State.Looked.deliver {r v : State} (h : s.Looked r) {cid : Nat} {dst : Word} (hloc : r.engineLoc cid .store dst = .ok (ld, v))
    (ch : Nat) (x : Transfer) (w : Nat) : ∃ t, (match r.engineLoc cid .store dst with
      | .error e => Deliv.fault dst e
      | .ok (l, s1) => if !(s1.holders (l.lines 4)).isEmpty then .wait else .word false (s1.deliverTo cid ch x dst l w)) =
        .word false t ∧ s.Put t ld w := by
  obtain ⟨hl, hu, hheld, -⟩ := hopen
  have hv : s.Looked v := h.trans (State.looked_engineLoc hloc)
  have hput := State.put_deliverTo (hv.canonical hc) (hv.damaged.trans hd) hp hl (hv.uncached _ hu) cid ch x dst w
  refine ⟨v.deliverTo cid ch x dst ld w, ?_, ⟨hput.word, fun b hb => (hput.frame b hb).trans (hv.bytes b), fun c => (hput.chans c).trans (hv.chans c), hput.full⟩⟩
  rw [hloc]
  simp [hv.held _ hheld]

/-- A word of the source that an engine can read is delivered (R212). -/
theorem State.deliverWord_read {u v : State} {ls : Loc} {cid : Nat} {src dst : Word} (hsound : s.sound ls = true) (hls : s.Open ls)
    (hsrc : s.engineLoc cid .load src = .ok (ls, u)) (hdst : u.engineLoc cid .store dst = .ok (ld, v)) (ch : Nat) (x : Transfer) :
    ∃ t, s.deliverWord cid ch x (some src) dst = .word false t ∧ s.Put t ld (s.bytesAt ls 4) := by
  have hu := State.looked_engineLoc hsrc
  obtain ⟨-, huls, hheld, -⟩ := hls
  obtain ⟨hvalue, hread⟩ := State.engineRead_uncached (hu.uncached _ huls) cid 4
  obtain ⟨v', hdst'⟩ := State.engineLoc_engineRead (hu.uncached _ huls) hdst 4
  obtain ⟨t, ht, hput⟩ := State.Looked.deliver hc hd hopen hp (hu.trans hread) hdst' ch x (s.bytesAt ls 4)
  refine ⟨t, ?_, hput⟩
  have hdamage : u.damagedByte ls 4 = none := if_pos ((hu.sound ls).trans hsound)
  rw [← ht, ← hu.bytesAt ls 4, ← hvalue]
  simp [State.deliverWord, hsrc, hu.held _ hheld, hdamage] <;> rfl

/-- A zero is delivered where nothing is read (R239). -/
theorem State.deliverWord_zero {v : State} {cid : Nat} {dst : Word} (hdst : s.engineLoc cid .store dst = .ok (ld, v)) (ch : Nat)
    (x : Transfer) : ∃ t, s.deliverWord cid ch x none dst = .word false t ∧ s.Put t ld 0 := by
  obtain ⟨t, ht, hput⟩ := State.Looked.deliver hc hd hopen hp (.refl s) hdst ch x 0
  exact ⟨t, ht ▸ rfl, hput⟩

end

/-! ### The counts of the channel (R235) -/

theorem Core.chan_setChan (c : Core) (i j : Nat) (x : Channel) :
    (c.setChan i x).chan j = if j = i ∧ i < 8 then x else c.chan j := vget_vset _ _ _ _ _

theorem Core.chan_congr {c d : Core} (h : d.chans = c.chans) (i : Nat) : d.chan i = c.chan i := by rw [Core.chan, Core.chan, h]

/-- A change of one channel of a core. -/
theorem State.modChan_spec (s : State) (cid : Nat) {ch : Nat} (hch : ch < 8) (f : Channel → Channel) :
    let t := s.modCore cid fun c => c.setChan ch (f (c.chan ch))
    (t.core cid).chan ch = f ((s.core cid).chan ch) ∧ (∀ k, k ≠ ch → (t.core cid).chan k = (s.core cid).chan k) ∧
      (∀ x, t.byteAt x = s.byteAt x) ∧ ∀ x, t.isFull x = s.isFull x := by
  have hcore := s.core_modCore cid cid fun c => c.setChan ch (f (c.chan ch))
  rw [if_pos rfl] at hcore
  refine ⟨?_, fun k hk => ?_, fun x => ?_, fun x => ?_⟩
  · rw [hcore, Core.chan_setChan, if_pos ⟨rfl, hch⟩]
  · rw [hcore, Core.chan_setChan, if_neg fun h => hk h.1]
  · cases x with
    | lm k o =>
      simp only [State.byteAt, State.core_modCore]
      split
      · next h => rw [h]; rfl
      · rfl
    | csp | dsw | mqw | phys => simp [State.byteAt, State.modCore, State.cluster, State.die]
  · cases x with
    | lm k o =>
      simp only [State.isFull, State.core_modCore]
      split
      · next h => rw [h]; rfl
      · rfl
    | csp | dsw | mqw | phys => simp [State.isFull, State.modCore, State.cluster]

/-- What one word delivered and counted leaves (R235). -/
theorem State.Put.counted {s t : State} {l : Loc} {w : Nat} (h : s.Put t l w) (cid : Nat) {ch : Nat} (hch : ch < 8) {x : Transfer}
    {y : Transfer} (hlen : y.len = x.len) (hpos : y.pos = x.pos) (drop : Bool) :
    let u := t.counted cid ch y drop
    u.bytesAt l 4 = w % 256 ^ 4 ∧ (∀ b : Loc, b.outside l 4 → u.byteAt b = s.byteAt b) ∧
      (((∃ cid o, l = .lm cid o) ∨ ∃ c o, l = .csp c o) → u.isFull l = true) ∧
      (u.core cid).chan ch = ((s.core cid).chan ch).after x y drop ∧
      ∀ k, k ≠ ch → (u.core cid).chan k = (s.core cid).chan k := by
  obtain ⟨hsame, hother, hbytes, hfull⟩ := t.modChan_spec cid hch fun c => c.after x y drop
  have hcounted : t.counted cid ch y drop = t.modCore cid fun c => c.setChan ch ((c.chan ch).after x y drop) := by
    have hafter (c : Channel) : c.after x y drop = c.after y y drop := by unfold Channel.after; rw [← hlen, ← hpos]
    simp only [hafter] <;> rfl
  dsimp only
  rw [hcounted]
  exact ⟨(State.bytesAt_congr fun _ _ => hbytes _).trans h.word, fun b hb => (hbytes b).trans (h.frame b hb),
    fun hl => (hfull l).trans (h.full hl), hsame.trans (by rw [Core.chan_congr (h.chans cid)]),
    fun k hk => (hother k hk).trans (Core.chan_congr (h.chans cid) k)⟩

/-! ### The steps (R235, R237, R239) -/

section
variable {s : State} {cid ch : Nat} {x : Transfer} {rest : List Transfer} (hflight : ((s.core cid).chan ch).flight = x :: rest)
  (hfault : x.fault = none)
include hflight hfault

theorem exec_copyDelivery_word (hcopy : x.gather = false) {t : State}
    (h : s.deliverWord cid ch x (some (x.src + BitVec.ofNat 64 x.pos)) (x.dst + BitVec.ofNat 64 x.pos) = .word false t) :
    exec (.copyDelivery cid ch) s = .next (t.counted cid ch x false) := by
  show execCopyDelivery cid ch s = _
  unfold execCopyDelivery
  rw [hflight]
  dsimp only
  rw [if_neg (by simp [hcopy, hfault]), h]
  simp only [Bool.or_false]

theorem exec_copyDelivery_fault (hcopy : x.gather = false) {e : XErr}
    (h : s.engineLoc cid .load (x.src + BitVec.ofNat 64 x.pos) = .error e) :
    exec (.copyDelivery cid ch) s = .next (s.stall cid ch x (x.src + BitVec.ofNat 64 x.pos) e) := by
  show execCopyDelivery cid ch s = _
  unfold execCopyDelivery
  rw [hflight]
  dsimp only
  rw [if_neg (by simp [hcopy, hfault])]
  simp only [State.deliverWord, h]

omit hfault in
theorem State.stall_spec (hch : ch < 8) (a : Word) (e : XErr) :
    ((s.stall cid ch x a e).core cid).chan ch =
      { (s.core cid).chan ch with flight := { x with fault := some (pageNo a, e.cause) } :: rest } ∧
      ∀ b, (s.stall cid ch x a e).byteAt b = s.byteAt b := by
  obtain ⟨hchans, hbytes⟩ := s.engineFault_spec cid ch a e
  obtain ⟨hsame, -, hkeep, -⟩ := (s.engineFault cid ch a e).modChan_spec cid hch
    fun c => { c with flight := { x with fault := some (pageNo a, e.cause) } :: c.flight.drop 1 }
  refine ⟨hsame.trans ?_, fun b => (hkeep b).trans (hbytes b)⟩
  rw [Core.chan_congr (hchans cid), hflight]
  rfl

/-- The index of the row is the one read before, or that of the list (R239). -/
theorem exec_gatherDelivery_word (hgather : x.gather = true) {idx : Nat} (hidx : s.gatherIndex cid x = some idx)
    (hrecord : s.listRecord cid ch x = (x.listReported, s)) {t : State}
    (h : s.deliverWord cid ch x (if decide (idx < x.limit) = true then some (x.src + BitVec.ofNat 64 (idx * x.row + x.pos % x.row))
      else none) (x.dst + BitVec.ofNat 64 x.pos) = .word false t) :
    exec (.gatherDelivery cid ch) s = .next (t.counted cid ch
      { x with cur := if x.pos % x.row + 4 = x.row then none else some idx }
      (x.pos % x.row == 0 && !decide (idx < x.limit))) := by
  show execGatherDelivery cid ch s = _
  unfold execGatherDelivery
  rw [hflight]
  dsimp only
  rw [if_neg (by simp [hgather, hfault]), hidx, hrecord]
  dsimp only
  rw [h]
  simp only [Bool.or_false]

end

section
variable {s : State} {cid : Nat} {x : Transfer}

/-- An index that has been read stays (R239). -/
theorem State.gatherIndex_read {i : Nat} (h : x.cur = some i) (ch : Nat) :
    s.gatherIndex cid x = some i ∧ s.listRecord cid ch x = (x.listReported, s) := by
  constructor
  · rw [State.gatherIndex, h]
  · simp only [State.listRecord, h]

/-- An index is read from its list, whose word is open and sound (R239). -/
theorem State.gatherIndex_unread {li : Loc} (h : x.cur = none)
    (hwin : s.window cid (x.list + BitVec.ofNat 64 (4 * (x.pos / x.row))) = some li) (hheld : s.holders (li.lines 4) = [])
    (hsound : s.sound li = true) (ch : Nat) :
    s.gatherIndex cid x = some (s.bytesAt li 4) ∧ s.listRecord cid ch x = (x.listReported, s) := by
  have hdamage : s.damagedByte li 4 = none := if_pos hsound
  have hfree : ¬ (!(s.holders (li.lines 4)).isEmpty) = true := by simp [hheld]
  have hok : ¬ (s.damagedByte li 4).isSome = true := by simp [hdamage]
  constructor
  · rw [State.gatherIndex, h]
    dsimp only
    rw [hwin]
    dsimp only
    rw [if_neg hfree, if_neg hok, State.peek_eq_bytesAt]
  · simp only [State.listRecord, h, hwin]
    rw [if_neg hok]

end

section
variable {s v : State} {cid ch : Nat} {x : Transfer} {rest : List Transfer} {ld : Loc} (hch : ch < 8)
  (hflight : ((s.core cid).chan ch).flight = x :: rest) (hfault : x.fault = none) (hc : s.Canonical) (hld : s.Open ld)
  (hp : ld.plain)
include hch hflight hfault hc hld hp

theorem copyDelivery_delivers {u : State} {ls : Loc} (hcopy : x.gather = false) (hsound : s.sound ls = true) (hls : s.Open ls)
    (hsrc : s.engineLoc cid .load (x.src + BitVec.ofNat 64 x.pos) = .ok (ls, u))
    (hdst : u.engineLoc cid .store (x.dst + BitVec.ofNat 64 x.pos) = .ok (ld, v)) :
    ∃ t, exec (.copyDelivery cid ch) s = .next t ∧ t.bytesAt ld 4 = s.bytesAt ls 4 ∧
      (∀ b : Loc, b.outside ld 4 → t.byteAt b = s.byteAt b) ∧
      (((∃ i o, ld = .lm i o) ∨ ∃ i o, ld = .csp i o) → t.isFull ld = true) ∧
      (t.core cid).chan ch = ((s.core cid).chan ch).after x x false ∧ ∀ k, k ≠ ch → (t.core cid).chan k = (s.core cid).chan k := by
  have hd : s.damaged = [] := by simpa using (Bool.and_eq_true_iff.1 hsound).1
  obtain ⟨t, ht, hput⟩ := State.deliverWord_read hc hd hld hp hsound hls hsrc hdst ch x
  obtain ⟨hbytes, hrest⟩ := hput.counted cid hch (x := x) (y := x) rfl rfl false
  exact ⟨_, exec_copyDelivery_word hflight hfault hcopy ht, hbytes.trans (Nat.mod_eq_of_lt (s.bytesAt_lt ls 4)), hrest⟩

section
variable {idx : Nat} (hgather : x.gather = true) (hd : s.damaged = []) (hidx : s.gatherIndex cid x = some idx)
  (hrecord : s.listRecord cid ch x = (x.listReported, s))
include hgather hd hidx hrecord

theorem gatherDelivery_delivers {u : State} {ls : Loc} (hlt : idx < x.limit) (hsound : s.sound ls = true) (hls : s.Open ls)
    (hsrc : s.engineLoc cid .load (x.src + BitVec.ofNat 64 (idx * x.row + x.pos % x.row)) = .ok (ls, u))
    (hdst : u.engineLoc cid .store (x.dst + BitVec.ofNat 64 x.pos) = .ok (ld, v)) :
    ∃ t, exec (.gatherDelivery cid ch) s = .next t ∧ t.bytesAt ld 4 = s.bytesAt ls 4 ∧
      (∀ b : Loc, b.outside ld 4 → t.byteAt b = s.byteAt b) ∧ (t.core cid).chan ch =
        ((s.core cid).chan ch).after x { x with cur := if x.pos % x.row + 4 = x.row then none else some idx } false := by
  have hvalid : decide (idx < x.limit) = true := decide_eq_true hlt
  obtain ⟨t, ht, hput⟩ := State.deliverWord_read hc hd hld hp hsound hls hsrc hdst ch x
  have hexec := exec_gatherDelivery_word hflight hfault hgather hidx hrecord (t := t) (by rw [hvalid]; exact ht)
  rw [hvalid, Bool.not_true, Bool.and_false] at hexec
  obtain ⟨hbytes, hframe, -, hchan, -⟩ := hput.counted cid hch (x := x)
    (y := { x with cur := if x.pos % x.row + 4 = x.row then none else some idx }) rfl rfl false
  exact ⟨_, hexec, hbytes.trans (Nat.mod_eq_of_lt (s.bytesAt_lt ls 4)), hframe, hchan⟩

theorem gatherDelivery_leavesOut (hle : x.limit ≤ idx)
    (hdst : s.engineLoc cid .store (x.dst + BitVec.ofNat 64 x.pos) = .ok (ld, v)) :
    ∃ t, exec (.gatherDelivery cid ch) s = .next t ∧ t.bytesAt ld 4 = 0 ∧
      (∀ b : Loc, b.outside ld 4 → t.byteAt b = s.byteAt b) ∧ (t.core cid).chan ch =
        ((s.core cid).chan ch).after x { x with cur := if x.pos % x.row + 4 = x.row then none else some idx }
          (x.pos % x.row == 0) := by
  have hvalid : decide (idx < x.limit) = false := decide_eq_false (Nat.not_lt.2 hle)
  obtain ⟨t, ht, hput⟩ := State.deliverWord_zero hc hd hld hp hdst ch x
  have hexec := exec_gatherDelivery_word hflight hfault hgather hidx hrecord (t := t) (by rw [hvalid]; exact ht)
  rw [hvalid, Bool.not_false, Bool.and_true] at hexec
  obtain ⟨hbytes, hframe, -, hchan, -⟩ := hput.counted cid hch (x := x)
    (y := { x with cur := if x.pos % x.row + 4 = x.row then none else some idx }) rfl rfl (x.pos % x.row == 0)
  exact ⟨_, hexec, hbytes.trans (Nat.zero_mod _), hframe, hchan⟩

end
end

/-- The index of the row, however it is come by (R239). -/
theorem State.gatherIndex_spec {s : State} {cid : Nat} {x : Transfer} {li : Loc} {idx : Nat}
    (hidx : idx = x.cur.getD (s.bytesAt li 4))
    (h : x.cur = none → s.window cid (x.list + BitVec.ofNat 64 (4 * (x.pos / x.row))) = some li ∧ s.holders (li.lines 4) = [] ∧
      s.sound li = true) (ch : Nat) : s.gatherIndex cid x = some idx ∧ s.listRecord cid ch x = (x.listReported, s) := by
  subst hidx
  cases hcur : x.cur with
  | some i =>
    rw [Option.getD_some]
    exact State.gatherIndex_read hcur ch
  | none =>
    obtain ⟨hwin, hheld, hsound⟩ := h hcur
    rw [Option.getD_none]
    exact State.gatherIndex_unread hcur hwin hheld hsound ch

/-- Settles O42. -/
theorem engineDeliveries : Obligations.EngineDeliveries := by
  unfold Obligations.EngineDeliveries
  refine ⟨?_, ?_⟩
  · intro s u v cid ch x rest ls ld c src dst hch hflight hcopy hfault
    refine ⟨fun hc hsound hsrc hdst hls hld hp => ?_, fun e he => ?_⟩
    · obtain ⟨t, ht, hbytes, hframe, hfull, hchan⟩ :=
        copyDelivery_delivers hch hflight hfault hc hld hp hcopy hsound hls hsrc hdst
      refine ⟨t, ht, hbytes, fun b hb _ => hframe b hb, fun h => ?_, hchan⟩
      obtain ⟨i, o, h | h⟩ := h
      · exact hfull (.inl ⟨i, o, h⟩)
      · exact hfull (.inr ⟨i, o, h⟩)
    · exact ⟨_, exec_copyDelivery_fault hflight hfault hcopy he, State.stall_spec hflight hch _ _⟩
  · intro s u v cid ch x rest ls ld li c row j idx src dst hch hflight hgather hfault hc hd hlist hls hld hp cur fine
    obtain ⟨hidx, hrecord⟩ := State.gatherIndex_spec (idx := idx) rfl hlist ch
    refine ⟨fun hlt hsound hsrc hdst => ?_, fun hle hdst => ?_⟩
    · obtain ⟨t, ht, hbytes, hframe, hchan⟩ :=
        gatherDelivery_delivers hch hflight hfault hc hld hp hgather hd hidx hrecord hlt hsound hls hsrc hdst
      exact ⟨t, ht, hbytes, fun b hb _ => hframe b hb, hchan⟩
    · obtain ⟨t, ht, hbytes, hframe, hchan⟩ :=
        gatherDelivery_leavesOut hch hflight hfault hc hld hp hgather hd hidx hrecord hle hdst
      exact ⟨t, ht, hbytes, fun b hb _ => hframe b hb, hchan⟩

end Sys2Proof.Machine
end

section
/-! PROOF. TLBI (R339, R380): the entries it drops, and the accesses that used them (R222). -/

namespace Sys2Proof.Machine

/-! ### The entries dropped -/

theorem Table.get_map {α : Type} (t : Table α) (f : Nat → α → α) (k : Nat) :
    Table.get (t.map fun x => (x.1, f x.1 x.2)) k = (t.get k).map (f k) := by
  induction t with
  | nil => rfl
  | cons x t ih =>
    obtain ⟨j, y⟩ := x
    simp only [List.map_cons, Table.get]
    split
    · next h => rw [h]; rfl
    · exact ih

theorem dropLeaves_nil (cx lo n : Nat) : dropLeaves cx lo n [] = [] := rfl

section
variable (s : State) (scope : Option Nat) (cx lo n : Nat)

theorem State.core_dropTlb (i : Nat) : (s.dropTlb scope cx lo n).core i =
    if tlbiHit scope (clusterOf i) then { s.core i with l1 := dropLeaves cx lo n (s.core i).l1 } else s.core i := by
  unfold State.core
  by_cases hi : i = s.hereCid
  · subst hi
    rw [if_pos (show s.hereCid = (s.dropTlb scope cx lo n).hereCid from rfl), if_pos rfl]
    rfl
  · rw [if_neg (show ¬ i = (s.dropTlb scope cx lo n).hereCid from hi), if_neg hi]
    have hget := Table.get_map s.others (fun k c =>
      if tlbiHit scope (clusterOf k) then { c with l1 := dropLeaves cx lo n c.l1 } else c) i
    have hothers : (s.dropTlb scope cx lo n).others.get i = _ := hget
    rw [hothers]
    cases s.others.get i with
    | none =>
      show Core.reset = if tlbiHit scope (clusterOf i) then { Core.reset with l1 := dropLeaves cx lo n [] } else Core.reset
      rw [dropLeaves_nil]
      exact (ite_self _).symm
    | some c => rfl

theorem State.cluster_dropTlb (k : Nat) : (s.dropTlb scope cx lo n).cluster k =
    if tlbiHit scope k then { s.cluster k with l2 := dropLeaves cx lo n (s.cluster k).l2 } else s.cluster k := by
  have hget := Table.get_map s.clusters (fun k c => if tlbiHit scope k then { c with l2 := dropLeaves cx lo n c.l2 } else c) k
  have hclusters : (s.dropTlb scope cx lo n).clusters.get k = _ := hget
  unfold State.cluster
  rw [hclusters]
  cases s.clusters.get k with
  | none =>
    show Cluster.reset = if tlbiHit scope k then { Cluster.reset with l2 := dropLeaves cx lo n [] } else Cluster.reset
    rw [dropLeaves_nil]
    exact (ite_self _).symm
  | some c => rfl

end

/-! ### Combining U lines keeps the TLBs -/

theorem Core.aside_l1 : Core.Aside Core.l1 := fun _ _ _ _ _ => rfl

section
variable {α : Type} {p : Core → α} (hp : Core.Aside p)
include hp

omit hp in
theorem sumFloat_coresKeep (s : State) (n : Nat) (l : List Word) (acc : Nat) : State.CoresKeep p s (sumFloat s n l acc).2 := by
  induction n generalizing s l acc with
  | zero => exact .refl s
  | succ n ih =>
    cases l with
    | nil => exact .refl s
    | cons v l =>
      by_cases h : (v :: l).length ≤ 1
      · simp only [sumFloat, if_pos h]
        exact ih _ _ _
      · simp only [sumFloat, if_neg h]
        exact ih _ _ _

theorem combineWord_coresKeep (k : UKind) (s : State) (pa : Nat) (l : List Word) : State.CoresKeep p s (combineWord k s pa l) := by
  unfold combineWord
  split
  · exact s.coresKeep_pokeHome hp _ _ _
  · exact (sumFloat_coresKeep s _ _ _).trans (State.coresKeep_pokeHome hp _ _ _ _)

theorem State.coresKeep_combineU (s : State) (c : Nat) (u : ULine) : State.CoresKeep p s (s.combineU c u) := by
  unfold State.combineU
  split
  · exact State.coresKeep_report (s.modCluster c fun x => { x with ulines := x.ulines.filter fun y => y.line ≠ u.line }) _ _
  · have hwords := State.coresKeep_foldl (fun t x => combineWord_coresKeep hp u.kind t (64 * u.line + x.1) x.2)
      (s.modCluster c fun x => { x with ulines := x.ulines.filter fun y => y.line ≠ u.line }) u.contrib
    exact State.CoresKeep.trans hwords (State.coresKeep_wakeLine hp _ _)

theorem State.coresKeep_combineWhere (s : State) (c : Nat) (f : Nat → Bool) : State.CoresKeep p s (s.combineWhere c f) :=
  State.coresKeep_foldl (fun t u => t.coresKeep_combineU hp c u) s _

end

/-- Every cluster has its second-level TLB, and no U line that it had not. -/
def State.ClustersKeep (s t : State) : Prop :=
  ∀ k, (t.cluster k).l2 = (s.cluster k).l2 ∧ (t.cluster k).ulines ⊆ (s.cluster k).ulines

theorem State.ClustersKeep.refl (s : State) : s.ClustersKeep s := fun _ => ⟨rfl, List.Subset.refl _⟩

theorem State.ClustersKeep.trans {s t u : State} (h : s.ClustersKeep t) (k : t.ClustersKeep u) : s.ClustersKeep u :=
  fun j => ⟨(k j).1.trans (h j).1, List.Subset.trans (k j).2 (h j).2⟩

theorem State.clustersKeep_combineU (s : State) (c : Nat) (u : ULine) : s.ClustersKeep (s.combineU c u) := by
  intro k
  have hcluster : (s.combineU c u).cluster k =
      (s.modCluster c fun x => { x with ulines := x.ulines.filter fun y => y.line ≠ u.line }).cluster k :=
    congrArg (fun t => (Table.get t k).getD Cluster.reset) (s.clusters_combineU c u)
  rw [hcluster, State.cluster_modCluster]
  split
  · next h => rw [h]; exact ⟨rfl, List.filter_subset_self _⟩
  · exact ⟨rfl, List.Subset.refl _⟩

theorem State.clustersKeep_combineWhere (s : State) (c : Nat) (f : Nat → Bool) : s.ClustersKeep (s.combineWhere c f) :=
  List.foldlRecOn (motive := fun t => s.ClustersKeep t) _ _ (State.ClustersKeep.refl s)
    fun t ht u _ => ht.trans (t.clustersKeep_combineU c u)

theorem State.clustersKeep_modLate (s : State) (c : Nat) (f : List Late → List Late) : s.ClustersKeep (s.modLate c f) := by
  intro k
  unfold State.modLate
  split
  · exact ⟨rfl, List.Subset.refl _⟩
  · rw [State.cluster_modCluster]
    split
    · next h => rw [h]; exact ⟨rfl, List.Subset.refl _⟩
    · exact ⟨rfl, List.Subset.refl _⟩

/-! ### The accesses that used dropped entries are performed (R222, R380) -/

/-- The U lines of a cluster that satisfy used are combined, and its older values of them dropped. -/
def State.performUsed (used : Nat → Bool) (s : State) (k : Nat) : State := (s.combineWhere k used).dropLate k used

section
variable (used : Nat → Bool)

theorem State.clustersKeep_performUsed (s : State) (k : Nat) : s.ClustersKeep (s.performUsed used k) :=
  (s.clustersKeep_combineWhere k used).trans (State.clustersKeep_modLate _ _ _)

theorem State.ulines_performUsed (s : State) (k : Nat) : ∀ y ∈ ((s.performUsed used k).cluster k).ulines, used y.line = false :=
  fun y hy => s.ulines_combineWhere k used y ((State.clustersKeep_modLate _ _ _ k).2 hy)

/-- After every cluster of a list has performed them, none of the list holds a used line in U state. -/
theorem State.foldl_performUsed (mine : List Nat) (s : State) :
    s.ClustersKeep (mine.foldl (State.performUsed used) s) ∧
      ∀ k ∈ mine, ∀ y ∈ ((mine.foldl (State.performUsed used) s).cluster k).ulines, used y.line = false := by
  induction mine generalizing s with
  | nil => exact ⟨.refl s, nofun⟩
  | cons j mine ih =>
    obtain ⟨hkeep, hnone⟩ := ih (s.performUsed used j)
    refine ⟨(s.clustersKeep_performUsed used j).trans hkeep, fun k hk y hy => ?_⟩
    rcases List.mem_cons.1 hk with rfl | hk
    · exact s.ulines_performUsed used k y ((hkeep k).2 hy)
    · exact hnone k hk y hy

/-- With no U line about, nothing is combined. -/
theorem State.foldl_performUsed_idle (mine : List Nat) {s : State} (h : ∀ x ∈ s.clusters, x.2.ulines = []) :
    (mine.foldl (State.performUsed used) s).mem = s.mem ∧ (mine.foldl (State.performUsed used) s).here = s.here := by
  have hstep (t : State) (ht : ∀ k, (t.cluster k).ulines = []) (k : Nat) :
      (t.performUsed used k).mem = t.mem ∧ (t.performUsed used k).here = t.here := by
    obtain ⟨c, hc⟩ := t.modLate_eq k fun l => l.filter fun y => !used y.line
    have hidle : t.combineWhere k used = t := by rw [State.combineWhere, ht k]; rfl
    rw [State.performUsed, hidle, State.dropLate, hc]
    exact ⟨rfl, rfl⟩
  have hs (k : Nat) : (s.cluster k).ulines = [] := s.forall_cluster (p := fun c => c.ulines = []) h rfl k
  clear h
  induction mine generalizing s with
  | nil => exact ⟨rfl, rfl⟩
  | cons j mine ih =>
    obtain ⟨hmem, hhere⟩ := hstep s hs j
    have hnext (k : Nat) : ((s.performUsed used j).cluster k).ulines = [] :=
      List.subset_nil.1 (hs k ▸ (s.clustersKeep_performUsed used j k).2)
    obtain ⟨hmem', hhere'⟩ := ih hnext
    exact ⟨hmem'.trans hmem, hhere'.trans hhere⟩

theorem State.coresKeep_performUsed (s : State) (mine : List Nat) :
    State.CoresKeep Core.l1 s (mine.foldl (State.performUsed used) s) :=
  State.coresKeep_foldl (fun t k => (t.coresKeep_combineWhere Core.aside_l1 k used).trans (State.coresKeep_modLate _ _ _)) s mine

end

/-! ### The whole instruction (R380) -/

/-- The clusters that a TLBI covers: the issuing one, or every one. -/
def State.tlbiScope (s : State) (cl : Bool) : Option Nat := if cl then some (clusterOf s.hereCid) else none

theorem tlbiHit_iff (s : State) (cl : Bool) (k : Nat) : tlbiHit (s.tlbiScope cl) k = true ↔ cl = false ∨ k = s.hereCid / 8 := by
  cases cl with
  | false => simp [State.tlbiScope, tlbiHit]
  | true =>
    have hscope : tlbiHit (s.tlbiScope true) k = (s.hereCid / 8 == k) := rfl
    rw [hscope, beq_iff_eq]
    exact ⟨fun h => .inr h.symm, fun h => (h.resolve_left nofun).symm⟩

/-- What stays of a list of leaves. -/
theorem dropLeaves_eq (cx lo n : Nat) (l : List Leaf) :
    dropLeaves cx lo n l = l.filter fun x => x.cx != cx || (n != 0 && !overlaps x.va x.size lo n) := by
  unfold dropLeaves
  refine List.filter_congr fun x _ => ?_
  rw [Bool.not_or]
  rfl

/-- t holds of the TLBs of s what a TLBI leaves. -/
structure State.Invalidated (s t : State) (scope : Option Nat) (cx lo n : Nat) : Prop where
  l1 : ∀ i, (t.core i).l1 = if tlbiHit scope (clusterOf i) then dropLeaves cx lo n (s.core i).l1 else (s.core i).l1
  l2 : ∀ k, (t.cluster k).l2 = if tlbiHit scope k then dropLeaves cx lo n (s.cluster k).l2 else (s.cluster k).l2

theorem State.invalidated_dropTlb {s t : State} (hcore : State.CoresKeep Core.l1 s t) (hcluster : s.ClustersKeep t)
    (scope : Option Nat) (cx lo n : Nat) : s.Invalidated (t.dropTlb scope cx lo n) scope cx lo n where
  l1 := fun i => by
    rw [State.core_dropTlb, ← hcore i]
    split <;> rfl
  l2 := fun k => by
    rw [State.cluster_dropTlb, ← (hcluster k).1]
    split <;> rfl

/-- A line of a leaf that an access may have used. -/
def State.usedLine (s : State) (scope : Option Nat) (cx lo n line : Nat) : Bool :=
  (s.usedLeaves scope cx lo n).any fun l => decide (l.pa ≤ 64 * line ∧ 64 * line < l.pa + l.size)

/-- The clusters of a context in the scope. -/
def State.tlbiClusters (s : State) (scope : Option Nat) (cx : Nat) : List Nat :=
  s.clusters.filterMap fun x => if tlbiHit scope x.1 && x.2.owner == some cx then some x.1 else none

/-- The state in which a TLBI drops its entries. -/
def State.usesPerformed (s : State) (scope : Option Nat) (cx lo n : Nat) : State :=
  (s.tlbiClusters scope cx).foldl (State.performUsed (s.usedLine scope cx lo n)) s

theorem State.tlbi_eq (s : State) (scope : Option Nat) (cx lo n : Nat) : ∃ o, s.tlbi scope cx lo n =
    { (s.usesPerformed scope cx lo n).dropTlb scope cx lo n with oldWalks := o } := ⟨_, rfl⟩

section
variable {s : State} {scope : Option Nat} {cx lo n : Nat}

theorem mem_usedLeaves {k : Nat} {x : Leaf} (hk : tlbiHit scope k = true) (hx : x ∈ (s.cluster k).l2) (hcx : (x.cx == cx) = true)
    (hover : (n == 0 || overlaps x.va x.size lo n) = true) : x ∈ s.usedLeaves scope cx lo n := by
  have hmem : (k, s.cluster k) ∈ s.clusters := by
    unfold State.cluster at hx ⊢
    cases hg : s.clusters.get k with
    | none => rw [hg] at hx; exact absurd hx List.not_mem_nil
    | some c => exact Table.mem_of_get hg
  have hl2 : x ∈ s.clusters.flatMap fun x => if tlbiHit scope x.1 then x.2.l2 else [] :=
    List.mem_flatMap.2 ⟨_, hmem, by rw [if_pos hk]; exact hx⟩
  refine List.mem_filter.2 ⟨?_, by rw [hcx, hover]; rfl⟩
  exact List.mem_append_left _ (List.mem_append_left _ (List.mem_append_right _ hl2))

/-- A cluster of the context in the scope keeps no U line in a leaf of its own that is dropped. -/
theorem State.ulines_tlbi {k : Nat} (hk : tlbiHit scope k = true) (hown : (s.cluster k).owner = some cx) {x : Leaf}
    (hx : x ∈ (s.cluster k).l2) (hcx : (x.cx == cx) = true) (hover : (n == 0 || overlaps x.va x.size lo n) = true) :
    ∀ y ∈ ((s.tlbi scope cx lo n).cluster k).ulines, ¬ (x.pa ≤ 64 * y.line ∧ 64 * y.line < x.pa + x.size) := by
  intro y hy hin
  have hmem : (k, s.cluster k) ∈ s.clusters := by
    unfold State.cluster at hown ⊢
    cases hg : s.clusters.get k with
    | none => rw [hg] at hown; exact absurd hown nofun
    | some c => exact Table.mem_of_get hg
  have hmine : k ∈ s.tlbiClusters scope cx := List.mem_filterMap.2 ⟨_, hmem, by simp [hk, hown]⟩
  have hulines : y ∈ ((s.usesPerformed scope cx lo n).cluster k).ulines := by
    obtain ⟨o, ho⟩ := s.tlbi_eq scope cx lo n
    have hcluster : (s.tlbi scope cx lo n).cluster k = ((s.usesPerformed scope cx lo n).dropTlb scope cx lo n).cluster k := by
      rw [ho]
      rfl
    rw [hcluster, State.cluster_dropTlb] at hy
    split at hy <;> exact hy
  have hunused : s.usedLine scope cx lo n y.line = false := (State.foldl_performUsed _ _ s).2 k hmine y hulines
  exact List.any_eq_false.1 hunused x (mem_usedLeaves hk hx hcx hover) (decide_eq_true hin)

theorem State.invalidated_tlbi : s.Invalidated (s.tlbi scope cx lo n) scope cx lo n := by
  obtain ⟨o, ho⟩ := s.tlbi_eq scope cx lo n
  have h := State.invalidated_dropTlb (State.coresKeep_performUsed (s.usedLine scope cx lo n) s (s.tlbiClusters scope cx))
    (State.foldl_performUsed _ _ s).1 scope cx lo n
  rw [ho]
  exact ⟨h.l1, h.l2⟩

theorem State.dropTlb_here_slots (s : State) (scope : Option Nat) (cx lo n : Nat) :
    (s.dropTlb scope cx lo n).here.slots = s.here.slots := by
  unfold State.dropTlb
  dsimp only
  split <;> rfl

/-- With no U line about, a TLBI changes no memory and no task. -/
theorem State.tlbi_idle (h : ∀ x ∈ s.clusters, x.2.ulines = []) :
    (s.tlbi scope cx lo n).mem = s.mem ∧ (s.tlbi scope cx lo n).here.slots = s.here.slots := by
  obtain ⟨hmem, hhere⟩ := State.foldl_performUsed_idle (s.usedLine scope cx lo n) (s.tlbiClusters scope cx) h
  obtain ⟨o, ho⟩ := s.tlbi_eq scope cx lo n
  rw [ho]
  exact ⟨hmem, ((s.usesPerformed scope cx lo n).dropTlb_here_slots scope cx lo n).trans (congrArg Core.slots hhere)⟩

end

/-- A task waits at a place that its address no longer names. -/
theorem State.astray_iff (s : State) (scope : Option Nat) (cx : Nat) : s.astray scope cx = true ↔
    ∃ c ∈ s.coreIds, tlbiHit scope (clusterOf c) = true ∧ s.cxOf c = some cx ∧ ∃ i < 8,
      s.waitsAstray cx ((s.core c).slot i) = true := by
  simp [State.astray, and_assoc]

theorem State.waitsAstray_iff (s : State) (cx : Nat) (t : Slot) : s.waitsAstray cx t = true ↔
    t.held = true ∧ t.reply = none ∧
      ((∃ pa w64 e d acq va, t.wait = some (.waita (.phys pa) w64 e d acq va) ∧
          ∀ l, s.walk cx va.toNat = .leaf l → l.pa + (va.toNat - l.va) ≠ pa) ∨
        ∃ pa v va, t.wait = some (.tokcFull pa v va) ∧ ∀ l, s.walk cx va.toNat = .leaf l → l.pa + (va.toNat - l.va) ≠ pa) := by
  have hplace (pa : Nat) (va : Word) : (match s.walk cx va.toNat with
      | .leaf l => l.pa + (va.toNat - l.va) != pa
      | _ => true) = true ↔ ∀ l, s.walk cx va.toNat = .leaf l → l.pa + (va.toNat - l.va) ≠ pa := by
    cases s.walk cx va.toNat with
    | leaf l => simp
    | absent | malformed => simp
  unfold State.waitsAstray
  rw [Bool.and_eq_true, Bool.and_eq_true, Option.isNone_iff_eq_none, and_assoc]
  refine and_congr_right fun _ => and_congr_right fun _ => ?_
  split
  · next pa w64 e d acq va hw =>
    refine Iff.trans (hplace pa va) ⟨fun h => .inl ⟨pa, w64, e, d, acq, va, hw, h⟩, ?_⟩
    rintro (⟨_, _, _, _, _, _, hw', h⟩ | ⟨_, _, _, hw', -⟩) <;> rw [hw] at hw' <;> cases hw'
    exact h
  · next pa v va hw =>
    refine Iff.trans (hplace pa va) ⟨fun h => .inr ⟨pa, v, va, hw, h⟩, ?_⟩
    rintro (⟨_, _, _, _, _, _, hw', -⟩ | ⟨_, _, _, hw', h⟩) <;> rw [hw] at hw' <;> cases hw'
    exact h
  · next h1 h2 =>
    refine iff_of_false (by simp) ?_
    rintro (⟨pa, w64, e, d, acq, va, hw, -⟩ | ⟨pa, v, va, hw, -⟩)
    · exact h1 pa w64 e d acq va hw
    · exact h2 pa v va hw

section
variable {s : State} {cl : Bool} {a b : GReg}

theorem exec_tlbi_bad (h : 2 ^ 56 ≤ (s.g a).toNat ∨ 2 ^ 64 < (s.g a).toNat + (s.g b).toNat) :
    exec (.tlbi cl a b) s = .next (s.takeTrap .illop 0) := by
  have hbad : (!(isGlobal (s.g a) && decide ((s.g a).toNat + (s.g b).toNat ≤ 2 ^ 64))) = true := by
    rw [isGlobal_eq_decide, Bool.not_eq_true', Bool.and_eq_false_iff, decide_eq_false_iff_not, decide_eq_false_iff_not]
    exact h.imp Nat.not_lt.2 Nat.not_le.2
  show execTlbi cl a b s = _
  rw [execTlbi, if_pos hbad]
  rfl

variable (hlo : (s.g a).toNat < 2 ^ 56) (hn : (s.g a).toNat + (s.g b).toNat ≤ 2 ^ 64)
include hlo hn

theorem exec_tlbi_good : exec (.tlbi cl a b) s =
    if s.astray (s.tlbiScope cl) s.cx then .next (s.dropTlb (s.tlbiScope cl) s.cx (s.g a).toNat (s.g b).toNat)
    else .next (s.tlbi (s.tlbiScope cl) s.cx (s.g a).toNat (s.g b).toNat).advance := by
  have hgood : ¬ (!(isGlobal (s.g a) && decide ((s.g a).toNat + (s.g b).toNat ≤ 2 ^ 64))) = true := by
    rw [isGlobal_of_lt hlo, decide_eq_true hn]
    decide
  show execTlbi cl a b s = _
  rw [execTlbi, if_neg hgood]
  rfl

end

/-- What a TLBI drops, as the statement says it. -/
theorem State.Invalidated.spec {s u : State} {cl : Bool} {lo n : Nat} (h : s.Invalidated u (s.tlbiScope cl) s.cx lo n) :
    let keeps (x : Leaf) : Bool := x.cx != s.cx || (n != 0 && !overlaps x.va x.size lo n)
    let within (k : Nat) : Prop := cl = false ∨ k = s.hereCid / 8
    (∀ k, within k → (u.cluster k).l2 = (s.cluster k).l2.filter keeps) ∧
      (∀ k, cl = true → k ≠ s.hereCid / 8 → (u.cluster k).l2 = (s.cluster k).l2) ∧
      (∀ i, within (i / 8) → (u.core i).l1 = (s.core i).l1.filter keeps) ∧
      ∀ i, cl = true → i / 8 ≠ s.hereCid / 8 → (u.core i).l1 = (s.core i).l1 := by
  have hout (k : Nat) (hcl : cl = true) (hk : k ≠ s.hereCid / 8) : ¬ tlbiHit (s.tlbiScope cl) k = true := by
    rw [tlbiHit_iff, hcl]
    simpa using hk
  refine ⟨fun k hk => ?_, fun k hcl hk => ?_, fun i hi => ?_, fun i hcl hi => ?_⟩
  · rw [h.l2, if_pos ((tlbiHit_iff s cl k).2 hk), dropLeaves_eq]
  · rw [h.l2, if_neg (hout k hcl hk)]
  · rw [h.l1, if_pos ((tlbiHit_iff s cl (clusterOf i)).2 hi), dropLeaves_eq]
  · rw [h.l1, if_neg (hout (clusterOf i) hcl hi)]

/-- Settles O30. -/
theorem tlbInvalidation : Obligations.TlbInvalidation := by
  unfold Obligations.TlbInvalidation
  intro s cl a b lo n keeps within dropped elsewhere astray
  have hastray : s.astray (s.tlbiScope cl) s.cx = true ↔ astray := by
    rw [State.astray_iff]
    simp only [State.waitsAstray_iff, tlbiHit_iff]
    exact Iff.rfl
  refine ⟨fun hlo hn h => ?_, fun hlo hn h => ?_, exec_tlbi_bad⟩
  · refine ⟨s.dropTlb (s.tlbiScope cl) s.cx lo n, ?_, ?_, rfl, ?_, rfl⟩
    · rw [exec_tlbi_good hlo hn, if_pos (hastray.2 h)]
    · exact (State.invalidated_dropTlb (.refl s) (.refl s) _ _ _ _).spec
    · exact s.dropTlb_here_slots _ _ _ _
  · refine ⟨s.tlbi (s.tlbiScope cl) s.cx lo n, completes_advance ?_, State.invalidated_tlbi.spec, fun k hk hown x hx hkeep => ?_,
      fun hidle => ?_⟩
    · rw [exec_tlbi_good hlo hn, if_neg fun hs => h (hastray.1 hs)]
    · have hdrop : (x.cx == s.cx) = true ∧ (n == 0 || overlaps x.va x.size lo n) = true := by
        have hnot : (x.cx != s.cx || (n != 0 && !overlaps x.va x.size lo n)) = false := hkeep
        obtain ⟨hcx, hover⟩ := Bool.or_eq_false_iff.1 hnot
        refine ⟨by simpa using hcx, ?_⟩
        rw [← Bool.not_not (n == 0 || overlaps x.va x.size lo n), Bool.not_or]
        exact congrArg not hover
      exact State.ulines_tlbi ((tlbiHit_iff s cl k).2 hk) hown hx hdrop.1 hdrop.2
    · exact State.tlbi_idle hidle

end Sys2Proof.Machine
end

section
/-! PROOF. Barriers (R226, R227), and which request for lent cores is granted (R288, R289). -/

namespace Sys2Proof.Machine

/-! ### What combining U lines leaves -/

/-- t is s but for what combining a U line may write: cores, memory, clusters, waiters, reports and choices. -/
def State.Combines (s t : State) : Prop := t = { s with
  here := t.here
  others := t.others
  mem := t.mem
  clusters := t.clusters
  waiters := t.waiters
  lastRead := t.lastRead
  dies := t.dies
  fallAt := t.fallAt
  trigDrops := t.trigDrops
  tick := t.tick
  oldCode := t.oldCode }

theorem State.Combines.refl (s : State) : s.Combines s := rfl

theorem State.Combines.trans {s t u : State} (h : s.Combines t) (k : t.Combines u) : s.Combines u := by
  unfold State.Combines at h k ⊢
  refine k.trans ?_
  rw [h]

theorem State.Combines.rest {s t : State} (h : s.Combines t) : t.launches = s.launches ∧ t.damaged = s.damaged ∧
    t.savedClusters = s.savedClusters ∧ t.hereCid = s.hereCid := by
  unfold State.Combines at h
  rw [h]
  exact ⟨rfl, rfl, rfl, rfl⟩

theorem State.combines_foldl {α : Type} {f : State → α → State} (h : ∀ (s : State) (a : α), s.Combines (f s a)) (s : State)
    (l : List α) : s.Combines (l.foldl f s) := List.foldlRecOn l f (.refl s) fun _ hb a _ => hb.trans (h _ a)

theorem sumFloat_combines (s : State) (n : Nat) (l : List Word) (acc : Nat) : s.Combines (sumFloat s n l acc).2 := by
  induction n generalizing s l acc with
  | zero => rfl
  | succ n ih =>
    cases l with
    | nil => rfl
    | cons v l =>
      by_cases h : (v :: l).length ≤ 1
      · simp only [sumFloat, if_pos h]
        exact ih _ _ _
      · simp only [sumFloat, if_neg h]
        exact State.Combines.trans (t := (s.choose (v :: l).length).2) rfl (ih _ _ _)

theorem State.combines_poke_phys (s : State) (pa n v : Nat) : s.Combines (s.poke (.phys pa) n v) := by
  induction n generalizing s pa v with
  | zero => rfl
  | succ n ih => exact State.Combines.trans (t := s.setByteAt (.phys pa) (BitVec.ofNat 8 v)) rfl (ih _ (pa + 1) (v / 256))

theorem State.combines_pokeHome (s : State) (pa n v : Nat) : s.Combines (s.pokeHome pa n v) :=
  State.Combines.trans (s.combines_poke_phys pa n v) rfl

theorem combineWord_combines (k : UKind) (s : State) (pa : Nat) (l : List Word) : s.Combines (combineWord k s pa l) := by
  unfold combineWord
  split
  · exact s.combines_pokeHome _ _ _
  · exact (sumFloat_combines s _ _ _).trans (State.combines_pokeHome _ _ _ _)

theorem State.combines_wakeLine (s : State) (line : Loc) : s.Combines (s.wakeLine line) := by
  obtain ⟨h, o, r, hwake⟩ := s.wakeLine_eq line
  rw [hwake]
  rfl

theorem State.combines_report (s : State) (d : Nat) (r : FaultRec) : s.Combines (s.report d r) := by
  obtain ⟨k, m, l, h⟩ := s.report_eq d r
  rw [h]
  rfl

theorem State.combines_combineU (s : State) (c : Nat) (u : ULine) : s.Combines (s.combineU c u) := by
  have hdrop : s.Combines (s.modCluster c fun x => { x with ulines := x.ulines.filter fun y => y.line ≠ u.line }) := rfl
  unfold State.combineU
  split
  · exact hdrop.trans (State.combines_report _ _ _)
  · exact (hdrop.trans (State.combines_foldl (fun t (x : Nat × List Word) => combineWord_combines u.kind t (64 * u.line + x.1) x.2) _ _)).trans
      (State.combines_wakeLine _ _)

theorem State.combines_combineWhere (s : State) (c : Nat) (p : Nat → Bool) : s.Combines (s.combineWhere c p) :=
  State.combines_foldl (fun t u => t.combines_combineU c u) s _

theorem State.combines_modLate (s : State) (c : Nat) (f : List Late → List Late) : s.Combines (s.modLate c f) := by
  obtain ⟨k, hk⟩ := s.modLate_eq c f
  rw [hk]
  rfl

theorem State.combines_releaseFor (s : State) (w : Nat × Nat) (sc : Scope) (p : Nat → Bool) :
    s.Combines (s.releaseFor w sc p) := by
  unfold State.releaseFor
  dsimp only
  refine .trans ?_ (State.combines_modLate _ _ _)
  split
  · refine List.foldlRecOn _ _ (s.combines_combineWhere (clusterOf w.1) p) fun t ht x _ => ?_
    split
    · exact ht
    · exact ht.trans (State.combines_modLate _ _ _)
  · rfl

theorem State.releaseFor_launches (s : State) (w : Nat × Nat) (sc : Scope) (p : Nat → Bool) :
    (s.releaseFor w sc p).launches = s.launches:=
  (s.combines_releaseFor w sc p).rest.1

/-! ### Barriers (R226, R227) -/

theorem Barrier.arrive_id (b : Barrier) : b.arrive.id = b.id ∧ b.arrive.inst = b.inst := by
  unfold Barrier.arrive
  split <;> exact ⟨rfl, rfl⟩

/-- A barrier that a task names is one of its launch's, in the one of its core. -/
theorem State.barrier_inst {s : State} {cid : Nat} {launch : Option Nat} {id : BarId} {b : Barrier}
    (h : s.barrier cid launch id = some b) : b.inst = barInst id.scope cid := by
  unfold State.barrier at h
  split at h
  · cases h
  · split at h
    · cases h
    · have hb := List.find?_some h
      simp only [Bool.and_eq_true, beq_iff_eq] at hb
      exact hb.2

/-- One arrival at a barrier: the task finds it one arrival on. -/
theorem State.barrier_arriveAt {s t : State} {cid : Nat} {launch : Option Nat} {id : BarId} {b : Barrier}
    (h : s.barrier cid launch id = some b) (ht : t.launches = s.launches) :
    (t.arriveAt cid launch id).barrier cid launch id = some b.arrive := by
  unfold State.barrier at h
  split at h
  · cases h
  · next l =>
    split at h
    · cases h
    · next x hx =>
      have hid : x.id = l := by simpa using List.find?_some hx
      have hb : (b.id == id && b.inst == barInst id.scope cid) = true :=
        List.find?_some (p := fun b : Barrier => b.id == id && b.inst == barInst id.scope cid) h
      have hlaunch : ((t.arriveAt cid (some l) id).launches.find? fun x => x.id == l) = some { x with
          barriers := x.barriers.map fun b => if b.id == id && b.inst == barInst id.scope cid then b.arrive else b } := by
        rw [State.arriveAt, ht, List.find?_map]
        have hsame : ((fun x => x.id == l) ∘ fun x => if some x.id = some l then { x with
            barriers := x.barriers.map fun b => if b.id == id && b.inst == barInst id.scope cid then b.arrive else b } else x) =
            fun x : Launch => x.id == l := by
          funext y
          simp only [Function.comp]
          split <;> rfl
        rw [hsame, hx, Option.map_some, if_pos (congrArg some hid)]
      have hbarrier : ((x.barriers.map fun b => if b.id == id && b.inst == barInst id.scope cid then b.arrive else b).find?
          fun b => b.id == id && b.inst == barInst id.scope cid) = some b.arrive := by
        rw [List.find?_map]
        have hsame : ((fun b : Barrier => b.id == id && b.inst == barInst id.scope cid) ∘ fun b : Barrier =>
            if b.id == id && b.inst == barInst id.scope cid then b.arrive else b) =
            fun b : Barrier => b.id == id && b.inst == barInst id.scope cid := by
          funext y
          simp only [Function.comp]
          split
          · rw [y.arrive_id.1, y.arrive_id.2]
          · rfl
        rw [hsame, h, Option.map_some, if_pos hb]
      simp only [State.barrier, hlaunch, hbarrier]

section
variable {s : State} {sc : BScope} {n : Byte} {b : Barrier}
  (h : s.barrier s.hereCid s.task.launch { scope := sc, num := n.toNat } = some b)
include h

theorem State.barw_spec (odd : Bool) : (b.odd = odd → s.barw sc n odd = .next (s.acquire (barScope sc)).advance) ∧
    (b.odd ≠ odd → s.barw sc n odd = .next (s.park (.barrier { scope := sc, num := n.toNat } odd))) := by
  simp only [State.barw, h]
  refine ⟨fun ho => ?_, fun ho => ?_⟩
  · rw [ho, beq_self_eq_true, await_true]
    rfl
  · rw [beq_eq_false_iff_ne.2 ho, await_false]
    rfl

theorem exec_barv : exec (.barv sc n) s =
    .next ((s.releaseTo (barScope sc)).arriveAt s.hereCid s.task.launch { scope := sc, num := n.toNat }).advance := by
  show execBarv sc n s = _
  simp only [execBarv, h]

end

/-! ### The cores that may be lent (R288, R289) -/

/-- How far a core lies behind its leader on the ring of their cluster. -/
def ringDist (ld m : Nat) : Nat := (m % 8 + 8 - ld % 8) % 8

/-- The other cores of the leader's cluster, in the order of R289. -/
def ringMates (ld : Nat) : List Nat := (List.range 7).map fun i => 8 * (ld / 8) + (ld % 8 + i + 1) % 8

theorem mem_ringMates {ld m : Nat} : m ∈ ringMates ld ↔ m / 8 = ld / 8 ∧ m ≠ ld := by
  simp only [ringMates, List.mem_map, List.mem_range]
  constructor
  · rintro ⟨i, hi, rfl⟩
    omega
  · rintro ⟨hk, hne⟩
    exact ⟨ringDist ld m - 1, by unfold ringDist; omega, by unfold ringDist; omega⟩

theorem pairwise_ringMates (ld : Nat) : (ringMates ld).Pairwise fun a b => ringDist ld a < ringDist ld b := by
  refine List.pairwise_map.2 (List.pairwise_lt_range.imp_of_mem fun hi hj hij => ?_)
  rw [List.mem_range] at hi hj
  unfold ringDist
  omega

/-- A core that is free for a grant to a leader's context. -/
def State.freeFor (s : State) (ld m : Nat) : Bool :=
  decide ((∀ i : Fin 8, ((s.core m).slot i.val).held = false) ∧ (s.core m).runList = [] ∧
    (s.core m).deque = [] ∧ (s.core m).lent = none ∧ (s.core m).retired = false ∧ (s.cxOf m).isSome ∧ s.cxOf m = s.cxOf ld)

theorem State.freeCore_eq (s : State) (ld m : Nat) : s.freeCore (s.cxOf ld) m = s.freeFor ld m := by
  have hheld : ((List.range 8).all fun i => !((s.core m).slot i).held) = true ↔ ∀ i : Fin 8, ((s.core m).slot i.val).held = false := by
    simp only [List.all_eq_true, List.mem_range, Bool.not_eq_true']
    exact ⟨fun h i => h i.val i.isLt, fun h i hi => h ⟨i, hi⟩⟩
  rw [Bool.eq_iff_iff, State.freeFor, decide_eq_true_eq]
  simp only [State.freeCore, Bool.and_eq_true, hheld, List.isEmpty_iff, Option.isNone_iff_eq_none, Bool.not_eq_true', beq_iff_eq]
  constructor
  · rintro ⟨⟨⟨⟨⟨⟨h1, h2⟩, h3⟩, h4⟩, h5⟩, h6⟩, h7⟩
    exact ⟨h1, h2, h3, h4, h5, h6 ▸ h7, h6⟩
  · rintro ⟨h1, h2, h3, h4, h5, h7, h6⟩
    exact ⟨⟨⟨⟨⟨⟨h1, h2⟩, h3⟩, h4⟩, h5⟩, h6⟩, h6 ▸ h7⟩

/-- The free cores of the leader's cluster, in the order of R289. -/
def State.freeMates (s : State) (ld : Nat) : List Nat := (ringMates ld).filter (s.freeFor ld)

/-- The first adjacent cluster that is all free, in the order of R289. -/
def State.freeNeighbour (s : State) (ld : Nat) : Option Nat :=
  ([1, 2, 3, 4].filterMap fun d => neighbour (ld / 8) d).find? fun m => (List.range 8).all fun j => s.freeFor ld (8 * m + j)

theorem State.members_eq (s : State) (ld n : Nat) : s.members ld n =
    if n = 16 then
      if (s.freeMates ld).length < 7 then none
      else (s.freeNeighbour ld).map fun m => s.freeMates ld ++ (List.range 8).map fun j => 8 * m + j
    else if n - 1 ≤ (s.freeMates ld).length then some ((s.freeMates ld).take (n - 1)) else none := by
  have hfree : s.freeCore (s.cxOf ld) = s.freeFor ld := funext fun m => s.freeCore_eq ld m
  unfold State.members
  dsimp only
  rw [hfree]
  split
  · split
    · next hn h => exact (if_pos h).symm
    · next hn h =>
      refine Eq.trans ?_ (if_neg h).symm
      show (match s.freeNeighbour ld with
        | some m => some (s.freeMates ld ++ (List.range 8).map fun j => 8 * m + j)
        | none => none) = _
      cases s.freeNeighbour ld <;> rfl
  · rfl

theorem State.mem_freeMates {s : State} {ld m : Nat} : m ∈ s.freeMates ld ↔ m / 8 = ld / 8 ∧ m ≠ ld ∧ s.freeFor ld m = true := by
  rw [State.freeMates, List.mem_filter, mem_ringMates, and_assoc]

theorem State.pairwise_freeMates (s : State) (ld : Nat) : (s.freeMates ld).Pairwise fun a b => ringDist ld a < ringDist ld b :=
  (pairwise_ringMates ld).sublist List.filter_sublist

/-- As many as the free ones among the others, counted by their place in the cluster. -/
theorem State.length_freeMates (s : State) (ld : Nat) : (s.freeMates ld).length =
    ((List.range 8).filter fun i => decide (8 * (ld / 8) + i ≠ ld) && s.freeFor ld (8 * (ld / 8) + i)).length := by
  refine Eq.trans ?_ (List.length_map fun i => 8 * (ld / 8) + i)
  refine List.Perm.length_eq ((List.perm_ext_iff_of_nodup ?_ ?_).2 fun m => ?_)
  · refine (s.pairwise_freeMates ld).imp fun {a b} h => ?_
    rintro rfl
    exact Nat.lt_irrefl _ h
  · exact (List.nodup_range.filter _).map fun a b h => Nat.add_left_cancel h
  · rw [State.mem_freeMates, List.mem_map]
    simp only [List.mem_filter, List.mem_range, Bool.and_eq_true, decide_eq_true_eq]
    constructor
    · rintro ⟨hk, hne, hf⟩
      have he : 8 * (ld / 8) + m % 8 = m := by omega
      exact ⟨m % 8, ⟨by omega, by rw [he]; exact hne, by rw [he]; exact hf⟩, he⟩
    · rintro ⟨i, ⟨hi, hne, hf⟩, rfl⟩
      exact ⟨by omega, hne, hf⟩

/-- The first of the free cores go in the order of R289, and no other free one lies nearer. -/
theorem State.take_freeMates (s : State) (ld n : Nat) :
    ((s.freeMates ld).take n).Pairwise (fun a b => ringDist ld a < ringDist ld b) ∧
      (∀ m ∈ (s.freeMates ld).take n, m / 8 = ld / 8 ∧ m ≠ ld ∧ s.freeFor ld m = true) ∧
      ∀ i ∈ (List.range 8).filter fun i => decide (8 * (ld / 8) + i ≠ ld) && s.freeFor ld (8 * (ld / 8) + i),
        8 * (ld / 8) + i ∉ (s.freeMates ld).take n → ∀ x ∈ (s.freeMates ld).take n, ringDist ld x < ringDist ld i := by
  have hsorted := s.pairwise_freeMates ld
  refine ⟨hsorted.sublist (List.take_sublist n _), fun m hm => State.mem_freeMates.1 (List.mem_of_mem_take hm), fun i hi hout x hx => ?_⟩
  rw [List.mem_filter, List.mem_range, Bool.and_eq_true, decide_eq_true_eq] at hi
  obtain ⟨hi8, hne, hf⟩ := hi
  have hmem : 8 * (ld / 8) + i ∈ s.freeMates ld := State.mem_freeMates.2 ⟨by omega, hne, hf⟩
  rw [← List.take_append_drop n (s.freeMates ld)] at hmem hsorted
  have hdrop := (List.mem_append.1 hmem).resolve_left hout
  have hdist : ringDist ld (8 * (ld / 8) + i) = ringDist ld i := by unfold ringDist; omega
  exact hdist ▸ (List.pairwise_append.1 hsorted).2.2 x hx _ hdrop

section
variable {s : State} {ld : Nat}

theorem State.clusterFree_iff (k : Nat) : ((List.range 8).all fun j => s.freeFor ld (8 * k + j)) = true ↔
    ∀ j, j < 8 → s.freeFor ld (8 * k + j) = true := by
  simp only [List.all_eq_true, List.mem_range]

theorem State.freeNeighbour_none : s.freeNeighbour ld = none ↔
    ∀ d k, d ∈ [1, 2, 3, 4] → neighbour (ld / 8) d = some k → ¬ ∀ j, j < 8 → s.freeFor ld (8 * k + j) = true := by
  rw [State.freeNeighbour, List.find?_eq_none]
  simp only [State.clusterFree_iff, List.mem_filterMap]
  exact ⟨fun h d k hd hk => h k ⟨d, hd, hk⟩, fun h k ⟨d, hd, hk⟩ => h d k hd hk⟩

/-- The first element of a rising list that a test passes. -/
theorem find?_filterMap_first {f : Nat → Option Nat} {p : Nat → Bool} {ds : List Nat} (hs : ds.Pairwise (· < ·)) {k : Nat}
    (h : (ds.filterMap f).find? p = some k) :
    ∃ d ∈ ds, f d = some k ∧ p k = true ∧ ∀ d' ∈ ds, d' < d → ∀ k', f d' = some k' → ¬ p k' = true := by
  induction ds with
  | nil => cases h
  | cons e ds ih =>
    obtain ⟨hlt, hs⟩ := List.pairwise_cons.1 hs
    have hrest (h' : (ds.filterMap f).find? p = some k) (he : ∀ k', f e = some k' → ¬ p k' = true) :
        ∃ d ∈ e :: ds, f d = some k ∧ p k = true ∧ ∀ d' ∈ e :: ds, d' < d → ∀ k', f d' = some k' → ¬ p k' = true := by
      obtain ⟨d, hd, hf, hp, hfirst⟩ := ih hs h'
      refine ⟨d, List.mem_cons_of_mem _ hd, hf, hp, fun d' hd' hlt' => ?_⟩
      rcases List.mem_cons.1 hd' with rfl | hd'
      · exact he
      · exact hfirst d' hd' hlt'
    cases he : f e with
    | none =>
      rw [List.filterMap_cons_none he] at h
      exact hrest h (by simp [he])
    | some j =>
      rw [List.filterMap_cons_some he, List.find?_cons] at h
      cases hp : p j with
      | true =>
        rw [hp] at h
        cases h
        refine ⟨e, List.mem_cons_self, he, hp, fun d' hd' hlt' => ?_⟩
        rcases List.mem_cons.1 hd' with rfl | hd'
        · exact absurd hlt' (Nat.lt_irrefl _)
        · exact absurd hlt' (Nat.not_lt.2 (hlt d' hd').le)
      | false =>
        rw [hp] at h
        refine hrest h fun k' hk' => ?_
        rw [he] at hk'
        cases hk'
        simp [hp]

theorem State.freeNeighbour_some {k : Nat} (h : s.freeNeighbour ld = some k) : ∃ d, d ∈ [1, 2, 3, 4] ∧
    neighbour (ld / 8) d = some k ∧ (∀ j, j < 8 → s.freeFor ld (8 * k + j) = true) ∧
    ∀ d' k', 1 ≤ d' → d' < d → neighbour (ld / 8) d' = some k' → ¬ ∀ j, j < 8 → s.freeFor ld (8 * k' + j) = true := by
  obtain ⟨d, hd, hk, hp, hfirst⟩ := find?_filterMap_first (by decide) h
  refine ⟨d, hd, hk, (State.clusterFree_iff k).1 hp, fun d' k' h1 hlt hk' hall => ?_⟩
  have hd' : d' ∈ [1, 2, 3, 4] := by
    simp only [List.mem_cons, List.not_mem_nil, or_false] at hd ⊢
    omega
  exact hfirst d' hd' hlt k' hk' ((State.clusterFree_iff k').2 hall)

end

/-! ### The oldest request that is granted (R289, R297) -/

/-- A request that may be granted now and that the free cores satisfy. -/
def State.Grants (s : State) (r : ComposeReq) : Prop :=
  (r.again = false ∨ s.atBlockStart r.cid r.slot = true) ∧ (s.members r.cid r.n).isSome = true

theorem State.grantable_iff (s : State) (r : ComposeReq) :
    s.grantable r = true ↔ r.again = false ∨ s.atBlockStart r.cid r.slot = true := by
  simp [State.grantable]

theorem State.nextGrant_cons (s : State) (r : ComposeReq) (q : List ComposeReq) :
    (∀ l, s.Grants r → s.members r.cid r.n = some l → s.nextGrant (r :: q) = some (r, l)) ∧
      (¬ s.Grants r → s.nextGrant (r :: q) = s.nextGrant q) := by
  rw [State.nextGrant]
  refine ⟨fun l hr hl => ?_, fun hr => ?_⟩
  · rw [if_pos ((s.grantable_iff r).2 hr.1), hl]
  · by_cases hg : s.grantable r = true
    · rw [if_pos hg]
      cases hm : s.members r.cid r.n with
      | none => rfl
      | some l => exact absurd ⟨(s.grantable_iff r).1 hg, by rw [hm]; rfl⟩ hr
    · rw [if_neg hg]

theorem State.nextGrant_some {s : State} {q : List ComposeReq} {r : ComposeReq} {l : List Nat} (h : s.nextGrant q = some (r, l)) :
    s.members r.cid r.n = some l ∧ ∃ before after, q = before ++ r :: after ∧ s.Grants r ∧ ∀ y ∈ before, ¬ s.Grants y := by
  induction q with
  | nil => cases h
  | cons y q ih =>
    by_cases hy : s.Grants y
    · obtain ⟨m, hm⟩ := Option.isSome_iff_exists.1 hy.2
      rw [(s.nextGrant_cons y q).1 m hy hm] at h
      cases h
      exact ⟨hm, [], q, rfl, hy, nofun⟩
    · rw [(s.nextGrant_cons y q).2 hy] at h
      obtain ⟨hm, before, after, rfl, hr, hbefore⟩ := ih h
      refine ⟨hm, y :: before, after, rfl, hr, fun z hz => ?_⟩
      rcases List.mem_cons.1 hz with rfl | hz
      · exact hy
      · exact hbefore z hz

theorem State.nextGrant_none {s : State} {q : List ComposeReq} : s.nextGrant q = none ↔ ∀ y ∈ q, ¬ s.Grants y := by
  induction q with
  | nil => simp [State.nextGrant]
  | cons y q ih =>
    rw [List.forall_mem_cons]
    by_cases hy : s.Grants y
    · obtain ⟨m, hm⟩ := Option.isSome_iff_exists.1 hy.2
      rw [(s.nextGrant_cons y q).1 m hy hm]
      exact ⟨nofun, fun h => absurd hy h.1⟩
    · rw [(s.nextGrant_cons y q).2 hy, ih]
      exact ⟨fun h => ⟨hy, h⟩, fun h => h.2⟩

end Sys2Proof.Machine
end

section
/-! PROOF. Composition (R286 to R299): hand-back, COMPOSE, DCMP, grants, the time limit and reclaims. -/

namespace Sys2Proof.Machine

/-! ### Lending and returning cores (R286, R290) -/

/-- Every core is as it was but for the task it is lent to. -/
def State.Relent (s t : State) : Prop :=
  (∀ c, ∃ x, t.core c = { s.core c with lent := x }) ∧ t.clusters = s.clusters ∧ t.hereCid = s.hereCid

/-- The cores of a list are lent to a task, or return. -/
def State.lendAll (s : State) (l : List Nat) (x : Option (Nat × Nat)) : State :=
  l.foldl (fun s m => s.modCore m fun c => { c with lent := x }) s

theorem State.lendAll_spec (l : List Nat) (x : Option (Nat × Nat)) (s : State) :
    s.Relent (s.lendAll l x) ∧ ∀ m, ((s.lendAll l x).core m).lent = if m ∈ l then x else (s.core m).lent := by
  induction l generalizing s with
  | nil => exact ⟨⟨fun c => ⟨_, rfl⟩, rfl, rfl⟩, fun m => rfl⟩
  | cons k l ih =>
    have hcore (c : Nat) : (s.modCore k fun c => { c with lent := x }).core c = if c = k then { s.core k with lent := x } else s.core c :=
      s.core_modCore k c _
    obtain ⟨⟨hcores, hclusters, hcid⟩, hlent⟩ := ih (s.modCore k fun c => { c with lent := x })
    refine ⟨⟨fun c => ?_, hclusters.trans (s.setCore_clusters _ _), hcid.trans (s.setCore_hereCid _ _)⟩, fun m => ?_⟩
    · obtain ⟨y, hy⟩ := hcores c
      refine ⟨y, hy.trans ?_⟩
      rw [hcore]
      split
      · next h => rw [h]
      · rfl
    · refine (hlent m).trans ?_
      rw [hcore]
      by_cases hm : m ∈ l
      · rw [if_pos hm, if_pos (List.mem_cons_of_mem _ hm)]
      · by_cases hk : m = k
        · rw [if_neg hm, if_pos hk, if_pos (by simp [hk])]
        · rw [if_neg hm, if_neg hk, if_neg (by simp [hk, hm])]

/-- The requests of a task leave its cluster's queue. -/
theorem State.composeQ_unask (s : State) (cid slot k : Nat) : ((s.unask cid slot).cluster k).composeQ =
    if k = clusterOf cid then (s.cluster k).composeQ.filter fun r => !(r.cid == cid && r.slot == slot)
    else (s.cluster k).composeQ := by
  rw [State.unask, State.cluster_modCluster]
  split
  · next h => rw [h]
  · rfl

theorem State.coresKeep_modSlot {α : Type} {p : Core → α} (s : State) (cid slot : Nat)
    (h : ∀ (c : Core) (v : Vector Slot 8), p { c with slots := v } = p c) (f : Slot → Slot) : State.CoresKeep p s (s.modSlot cid slot f) :=
  s.coresKeep_modCore cid fun c => h c _

/-! ### Saving tiles (R144) -/

/-- What a save of the tiles of a task leaves: of its slot only where its tiles lie, of every core whom it is lent to. -/
structure State.TilesOnly (s t : State) (cid slot : Nat) : Prop where
  task : ∃ v, (t.core cid).slot slot = { (s.core cid).slot slot with ws := { ((s.core cid).slot slot).ws with vsd := v } }
  lent : State.CoresKeep Core.lent s t
  cur : State.CoresKeep Core.cur s t
  clusters : t.clusters = s.clusters
  hereCid : t.hereCid = s.hereCid

theorem State.TilesOnly.refl (s : State) (cid slot : Nat) : s.TilesOnly s cid slot :=
  ⟨⟨_, rfl⟩, .refl s, .refl s, rfl, rfl⟩

theorem State.TilesOnly.trans {s t u : State} {cid slot : Nat} (h : s.TilesOnly t cid slot) (k : t.TilesOnly u cid slot) :
    s.TilesOnly u cid slot := by
  obtain ⟨v, hv⟩ := h.task
  obtain ⟨w, hw⟩ := k.task
  exact ⟨⟨w, by rw [hw, hv]⟩, h.lent.trans k.lent, h.cur.trans k.cur, k.clusters.trans h.clusters, k.hereCid.trans h.hereCid⟩

/-- A core that leaves service keeps its tasks (R376). -/
theorem State.tilesOnly_failLm (s : State) (cid slot o : Nat) : s.TilesOnly (s.failLm (.lm cid o)) cid slot := by
  unfold State.failLm
  dsimp only
  split
  · exact ⟨⟨_, rfl⟩, .refl s, .refl s, rfl, rfl⟩
  · obtain ⟨k, l, h⟩ := (s.modCore cid fun c => { c with retired := true }).trigger_eq 129
    rw [State.outOfService, h]
    refine ⟨⟨((s.core cid).slot slot).ws.vsd, ?_⟩, s.coresKeep_modCore cid fun _ => rfl, s.coresKeep_modCore cid fun _ => rfl,
      s.setCore_clusters _ _, s.setCore_hereCid _ _⟩
    show ((s.modCore cid fun c => { c with retired := true }).core cid).slot slot = _
    rw [State.core_modCore, if_pos rfl]
    rfl

theorem State.tilesOnly_mendLm (s : State) (cid slot : Nat) (l : List (Nat × Nat)) : s.TilesOnly (s.mendLm cid l) cid slot := by
  unfold State.mendLm
  split <;> exact ⟨⟨_, rfl⟩, .refl s, .refl s, rfl, rfl⟩

theorem State.tilesOnly_saveTiles (s : State) (cid : Nat) {slot : Nat} (hi : slot < 8) (live : BitVec 16) :
    s.TilesOnly (s.saveTiles cid slot live) cid slot := by
  have hsaved : s.TilesOnly (s.modCore cid fun c => c.saveTiles slot live) cid slot := by
    refine ⟨?_, s.coresKeep_modCore cid fun _ => rfl, s.coresKeep_modCore cid fun _ => rfl, s.setCore_clusters _ _,
      s.setCore_hereCid _ _⟩
    rw [State.core_modCore, if_pos rfl, Core.slot_saveTiles _ hi]
    exact ⟨_, rfl⟩
  unfold State.saveTiles
  dsimp only
  split
  · obtain ⟨k, m, l, hreport⟩ := s.report_eq (dieOf cid) (faultRec ((s.cxOf cid).getD 0) 0 2 .mchk 0 cid)
    have hfail := State.tilesOnly_failLm { s with dies := k, fallAt := l, trigDrops := m } cid slot 0
    rw [hreport]
    exact ⟨hfail.task, hfail.lent, hfail.cur, hfail.clusters, hfail.hereCid⟩
  · split
    · exact hsaved.trans (State.tilesOnly_mendLm _ cid slot _)
    · split
      · exact hsaved.trans (State.tilesOnly_mendLm _ cid slot _)
      · exact hsaved

/-! ### Hand-back (R286, R295, R299) -/

/-- The lent cores of a task with every register have come back: its requests are withdrawn, and of its slot only where its tiles
lie has changed. -/
structure State.HandedBack (s t : State) (cid slot : Nat) : Prop where
  task : ∃ v, (t.core cid).slot slot = { (s.core cid).slot slot with
    members := []
    recompose := false
    ws := { ((s.core cid).slot slot).ws with vsd := v } }
  lent : ∀ m ∈ ((s.core cid).slot slot).members, (t.core m).lent = none
  queue : ∀ k, (t.cluster k).composeQ = if k = clusterOf cid then
    (s.cluster k).composeQ.filter fun r => !(r.cid == cid && r.slot == slot) else (s.cluster k).composeQ
  cur : State.CoresKeep Core.cur s t
  hereCid : t.hereCid = s.hereCid

section
variable {s : State} {cid slot : Nat} (hi : slot < 8) (hlost : ((s.core cid).slot slot).lost = [])
include hlost

theorem State.returnLent_of_whole :
    s.returnLent cid slot = (s.lendAll ((s.core cid).slot slot).members none).unask cid slot := by
  have hwhole : ((s.core cid).slot slot).lostMembers = [] := by simp [Slot.lostMembers, hlost]
  rw [State.returnLent, hwhole]
  rfl

include hi

theorem State.handedBack_handBack (live : BitVec 16) : s.HandedBack (s.handBack cid slot live) cid slot := by
  obtain ⟨⟨hcores, hclusters, hcid⟩, hlent⟩ := State.lendAll_spec ((s.core cid).slot slot).members none s
  have hslot : ((s.lendAll ((s.core cid).slot slot).members none).core cid).slot slot = (s.core cid).slot slot := by
    obtain ⟨x, hx⟩ := hcores cid
    rw [hx]
    rfl
  rw [State.handBack_eq, hlost, State.returnLent_of_whole hlost]
  generalize hr : (s.lendAll ((s.core cid).slot slot).members none).unask cid slot = r
  have hcore (c : Nat) : r.core c = (s.lendAll ((s.core cid).slot slot).members none).core c := by
    rw [← hr]
    rfl
  have hsaved : r.TilesOnly (if ((s.core cid).slot slot).members.isEmpty then r
      else (r.modCore cid fun c => c.zeroLost slot []).saveTiles cid slot live) cid slot := by
    split
    · exact .refl r cid slot
    · refine .trans ⟨⟨((r.core cid).slot slot).ws.vsd, ?_⟩, r.coresKeep_modCore cid fun _ => rfl, r.coresKeep_modCore cid fun _ => rfl, r.setCore_clusters _ _,
        r.setCore_hereCid _ _⟩ (State.tilesOnly_saveTiles _ cid hi live)
      rw [State.core_modCore, if_pos rfl]
  generalize (if ((s.core cid).slot slot).members.isEmpty then r
      else (r.modCore cid fun c => c.zeroLost slot []).saveTiles cid slot live) = t at hsaved ⊢
  obtain ⟨v, hv⟩ := hsaved.task
  rw [hcore, hslot] at hv
  have hwhole : ((t.core cid).slot slot).lost = [] := by rw [hv]; exact hlost
  refine ⟨⟨v, ?_⟩, fun m hm => ?_, fun k => ?_, fun c => ?_, ?_⟩
  · rw [State.slot_modSlot, if_pos ⟨rfl, rfl, hi⟩, Slot.zeroLost_of_none hwhole, hv]
  · refine (t.coresKeep_modSlot cid slot (fun _ _ => rfl) _ m).trans ((hsaved.lent m).trans ?_)
    rw [hcore, hlent, if_pos hm]
  · rw [State.modSlot, State.modCore, State.cluster, State.setCore_clusters, hsaved.clusters, ← State.cluster, ← hr,
      State.composeQ_unask, State.cluster, hclusters, ← State.cluster]
  · refine (t.coresKeep_modSlot cid slot (fun _ _ => rfl) _ c).trans ((hsaved.cur c).trans ?_)
    obtain ⟨x, hx⟩ := hcores c
    rw [hcore, hx]
  · rw [State.modSlot, State.modCore, State.setCore_hereCid, hsaved.hereCid, ← hr]
    exact hcid

end

/-- The issuing task's lent cores have come back. -/
theorem State.handedBack_task {s t : State} (h : s.HandedBack t s.hereCid s.here.cur.val) :
    ∃ v, t.task = { s.task with members := [], recompose := false, ws := { s.ws with vsd := v } } := by
  obtain ⟨v, hv⟩ := h.task
  have hcur := h.cur s.hereCid
  have hhere : t.core s.hereCid = t.here := by rw [← h.hereCid, State.core_hereCid]
  rw [hhere, State.core_hereCid] at hcur
  rw [State.slot_cur, hhere, ← hcur, ← State.task_eq_slot] at hv
  exact ⟨v, hv⟩

end Sys2Proof.Machine
end

section
/-! PROOF. COMPOSE and DCMP, grants, the time limit and reclaims (R287 to R290, R297). -/

namespace Sys2Proof.Machine

/-! ### COMPOSE and DCMP (R287) -/

/-- The widths of COMPOSE, as the statement lists them. -/
theorem widthCode_byte (n : Byte) : widthCode n.toNat =
    if n = 2 then 1 else if n = 4 then 2 else if n = 8 then 3 else if n = 16 then 4 else (0 : BitVec 3) := by
  have h (k : Nat) (hk : k < 256) : (n.toNat = k) = (n = BitVec.ofNat 8 k) :=
    propext ⟨fun e => by rw [← e, BitVec.ofNat_toNat, BitVec.setWidth_eq], fun e => by rw [e, BitVec.toNat_ofNat, Nat.mod_eq_of_lt hk]⟩
  simp only [widthCode, h 2 (by decide), h 4 (by decide), h 8 (by decide), h 16 (by decide)]
  rfl

/-- The request that COMPOSE of width n puts in its cluster's queue. -/
def State.asks (s : State) (n : Nat) : ComposeReq := { cid := s.hereCid, slot := s.here.cur.val, n := n, again := false }

theorem State.composeQ_askCompose (s : State) (cid slot n : Nat) (again : Bool) :
    ((s.askCompose cid slot n again).cluster (clusterOf cid)).composeQ =
      (s.cluster (clusterOf cid)).composeQ ++ [{ cid := cid, slot := slot, n := n, again := again }] := by
  rw [State.askCompose, State.cluster_modCluster, if_pos rfl]

theorem State.coresKeep_setTask {α : Type} {p : Core → α} (s : State) (t : Slot)
    (h : ∀ c : Core, p { c with slots := c.slots.set s.here.cur t } = p c) : State.CoresKeep p s (s.setTask t) := by
  intro c
  by_cases hc : c = s.hereCid
  · exact ((congrArg p (if_pos hc)).trans (h _)).trans (congrArg p (if_pos hc)).symm
  · exact (congrArg p (if_neg hc)).trans (congrArg p (if_neg hc)).symm

theorem State.task_parked (s : State) (w : Wait) : (s.park w).task = { s.task with
    wait := some w
    waitNo := s.task.placeFor w s.parkNo
    waitSince := s.now
    chainLen := s.ilen
    ws := { s.task.ws with tsw := { s.task.ws.tsw with state := .parked } } } := s.task_setTask _

section
variable {s : State} {n : Byte}

theorem exec_compose_illegal (h : s.ws.ctl.repA = true ∨ widthCode n.toNat = 0) :
    exec (.compose n) s = .next (s.takeTrap .illop 0) := by
  show execCompose n s = _
  cases hrep : s.ws.ctl.repA with
  | true => simp only [execCompose, State.noRep_inside hrep]; rfl
  | false =>
    have hcode : widthCode n.toNat = 0 := h.resolve_left (by simp [hrep])
    simp only [execCompose, State.noRep_outside hrep, hcode]
    rfl

section
variable (hrep : s.ws.ctl.repA = false) (hcode : widthCode n.toNat ≠ 0)
include hrep hcode

theorem exec_compose_same (hcw : s.ws.ctl.cw = widthCode n.toNat) :
    exec (.compose n) s = .next (s.modCtl fun c => { c with c := false }).advance := by
  show execCompose n s = _
  have hdemand : (do s.noRep; demand (widthCode n.toNat != 0#3) : Eff Unit) = .ok () := by
    rw [State.noRep_outside hrep, show (widthCode n.toNat != 0#3) = true from bne_iff_ne.2 hcode]
    rfl
  simp only [execCompose, hdemand, if_pos hcw]

theorem exec_compose_other (hcw : s.ws.ctl.cw ≠ widthCode n.toNat) : exec (.compose n) s = .next
    (((if s.ws.ctl.cw = 0 then s else (s.handBack s.hereCid s.here.cur.val 0xFFFF#16).modCtl fun c => { c with cw := 0 }).askCompose
      s.hereCid s.here.cur.val n.toNat false).park (.compose n.toNat s.now)) := by
  show execCompose n s = _
  have hdemand : (do s.noRep; demand (widthCode n.toNat != 0#3) : Eff Unit) = .ok () := by
    rw [State.noRep_outside hrep, show (widthCode n.toNat != 0#3) = true from bne_iff_ne.2 hcode]
    rfl
  simp only [execCompose, hdemand, if_neg hcw]

end

/-- What DCMP leaves where CW is not 0, and COMPOSE of another width before it asks: the lent cores have come back, and CW is 0. -/
def State.narrowed (s : State) : State := (s.handBack s.hereCid s.here.cur.val 0xFFFF#16).modCtl fun c => { c with cw := 0 }

theorem State.narrowed_spec (hlost : s.task.lost = []) :
    (∃ v, s.narrowed.task = { s.task with
      members := []
      recompose := false
      ws := { s.ws with vsd := v, ctl := { s.ws.ctl with cw := 0 } } }) ∧
      (∀ m ∈ s.task.members, (s.narrowed.core m).lent = none) ∧
      (s.narrowed.cluster (clusterOf s.hereCid)).composeQ =
        (s.cluster (clusterOf s.hereCid)).composeQ.filter fun r => !(r.cid == s.hereCid && r.slot == s.here.cur.val) := by
  have hback := State.handedBack_handBack s.here.cur.isLt (by rw [State.slot_cur]; exact hlost) 0xFFFF#16
  obtain ⟨v, hv⟩ := State.handedBack_task hback
  refine ⟨⟨v, ?_⟩, fun m hm => ?_, ?_⟩
  · rw [State.narrowed, State.modCtl_eq, State.setWs, State.task_setTask, State.ws, hv]
  · rw [← State.slot_cur] at hm
    exact (State.coresKeep_setTask _ _ (fun _ => rfl) m).trans (hback.lent m hm)
  · exact (hback.queue _).trans (if_pos rfl)

theorem exec_dcmp (hrep : s.ws.ctl.repA = false) :
    exec .dcmp s = .next (if s.ws.ctl.cw = 0 then s else s.narrowed).advance := by
  show execDcmp s = _
  rw [execDcmp, State.noRep_outside hrep]
  rfl

theorem exec_dcmp_inside (hrep : s.ws.ctl.repA = true) : exec .dcmp s = .next (s.takeTrap .illop 0) := by
  show execDcmp s = _
  rw [execDcmp, State.noRep_inside hrep]
  rfl

end

/-! ### Grants (R289, R297) -/

/-- The cores of a list lent to a request's task. -/
def State.LentTo (t : State) (r : ComposeReq) (l : List Nat) (x : Slot) : Prop :=
  (∀ m ∈ l, (t.core m).lent = some (r.cid, r.slot)) ∧ (t.core r.cid).slot r.slot = x

theorem State.lentTo_lend (s : State) {r : ComposeReq} (l : List Nat) (hr : r.slot < 8) :
    (s.lend r l).LentTo r l { (s.core r.cid).slot r.slot with members := l, recompose := false } := by
  obtain ⟨⟨hcores, -, -⟩, hlent⟩ := State.lendAll_spec l (some (r.cid, r.slot)) s
  refine ⟨fun m hm => ?_, ?_⟩
  · refine (State.coresKeep_modSlot _ r.cid r.slot (fun _ _ => rfl) _ m).trans ?_
    exact (hlent m).trans (if_pos hm)
  · obtain ⟨x, hx⟩ := hcores r.cid
    have hslot : ((s.lendAll l (some (r.cid, r.slot))).core r.cid).slot r.slot = (s.core r.cid).slot r.slot := by
      rw [hx]
      rfl
    rw [← hslot]
    exact (State.slot_modSlot _ _ _ _ _ _).trans (if_pos ⟨rfl, rfl, hr⟩)

theorem State.LentTo.modSlot {t : State} {r : ComposeReq} {l : List Nat} {x : Slot} (h : t.LentTo r l x) (hr : r.slot < 8)
    (f : Slot → Slot) : (t.modSlot r.cid r.slot f).LentTo r l (f x) :=
  ⟨fun m hm => (t.coresKeep_modSlot r.cid r.slot (fun _ _ => rfl) _ m).trans (h.1 m hm), by
    rw [State.slot_modSlot, if_pos ⟨rfl, rfl, hr⟩, h.2]⟩

section
variable {s : State} {k : Nat} {r : ComposeReq} {l : List Nat} (h : s.nextGrant (s.cluster k).composeQ = some (r, l))
include h

theorem exec_composeGrant : exec (.composeGrant k) s =
    .next (if r.again then s else (s.lend r l).modSlot r.cid r.slot fun t => t.composed false (widthCode r.n) s.now) := by
  show execComposeGrant k s = _
  simp only [execComposeGrant, h]
  split <;> rfl

theorem exec_recomposeGrant : exec (.recomposeGrant k) s = .next (if r.again then s.lend r l else s) := by
  show execRecomposeGrant k s = _
  simp only [execRecomposeGrant, h]
  split <;> rfl

end

section
variable {s : State} {cid slot w since : Nat} (hwait : ((s.core cid).slot slot).wait = some (.compose w since))
include hwait

theorem exec_composeTimeout : exec (.composeTimeout cid slot) s = .next
    (if since + 1024 ≤ s.now ∧ (s.members cid w).isNone then (s.unask cid slot).modSlot cid slot fun t => t.composed true 0 s.now
      else s) := by
  show execComposeTimeout cid slot s = _
  simp only [execComposeTimeout, hwait]
  exact (apply_ite Host.Outcome.next (since + 1024 ≤ s.now ∧ (s.members cid w).isNone = true) _ _).symm

end

/-! ### Reclaims (R290, R297) -/

/-- A task with CW not 0 that was handed back asks for its recomposition. -/
theorem State.recomposeDue_spec {t : State} {cid slot : Nat} (hi : slot < 8) :
    (∃ b, ((t.recomposeDue cid slot).core cid).slot slot = { (t.core cid).slot slot with recompose := b } ∧
      (((t.core cid).slot slot).ws.ctl.cw ≠ 0 → b = true ∧
        { cid := cid, slot := slot, n := 2 ^ ((t.core cid).slot slot).ws.ctl.cw.toNat, again := true } ∈
          ((t.recomposeDue cid slot).cluster (clusterOf cid)).composeQ)) ∧
      State.CoresKeep Core.lent t (t.recomposeDue cid slot) := by
  by_cases hcw : ((t.core cid).slot slot).ws.ctl.cw = 0
  · rw [State.recomposeDue_single hcw]
    exact ⟨⟨_, rfl, absurd hcw⟩, .refl t⟩
  · unfold State.recomposeDue
    dsimp only
    rw [if_neg hcw]
    refine ⟨⟨true, ?_, fun _ => ⟨rfl, ?_⟩⟩, t.coresKeep_modSlot cid slot (fun _ _ => rfl) _⟩
    · exact (State.slot_modSlot _ _ _ _ _ _).trans (if_pos ⟨rfl, rfl, hi⟩)
    · rw [State.cluster_modCluster, if_pos rfl]
      exact List.mem_append_right _ List.mem_cons_self

section
variable {s : State} {cid slot : Nat} (hi : slot < 8)
include hi

/-- A finished WAITA is runnable past the instruction, and any other task stays as it is (R225, R290). -/
theorem State.finishWaita_slot (hlost : ((s.core cid).slot slot).lost = [])
    (hread : ∀ a b c e f h, ((s.core cid).slot slot).wait = some (.waita a b c e f h) → s.sound a = true ∧ s.Uncached a) :
    ((∀ a b c e f h, ((s.core cid).slot slot).wait ≠ some (.waita a b c e f h)) ∧ s.finishWaita cid slot = s) ∨
    ∃ a b c e f h, ((s.core cid).slot slot).wait = some (.waita a b c e f h) ∧
      ((s.finishWaita cid slot).core cid).slot slot =
        Slot.waitCompleted s.now e (s.waitValue (.waita a b c e f h)) ((s.core cid).slot slot) := by
  by_cases hw : ∃ a b c e f h, ((s.core cid).slot slot).wait = some (.waita a b c e f h)
  · obtain ⟨a, b, c, e, f, h, hw⟩ := hw
    obtain ⟨hsound, hunc⟩ := hread _ _ _ _ _ _ hw
    refine .inr ⟨a, b, c, e, f, h, hw, ?_⟩
    have hend : s.finishWaita cid slot = s.endWait cid slot (s.waitValue (.waita a b c e f h)) := by
      simp only [State.finishWaita, State.endWaitNow, hw, State.waitDamage_sound hsound, State.waitRead_waita hunc]
    rw [hend, (State.slot_endWait hi hw _).1]
    refine congrArg _ ?_
    rw [show ((s.core cid).slot slot).lost.filter _ = ((s.core cid).slot slot).lost from by rw [hlost]; rfl]
  · have hnot : ∀ a b c e f h, ((s.core cid).slot slot).wait ≠ some (.waita a b c e f h) :=
      fun a b c e f h hw' => hw ⟨a, b, c, e, f, h, hw'⟩
    exact .inl ⟨hnot, State.finishWaita_of_not hnot⟩

/-- What a reclaim leaves: of the task that its wait's end left, the lent cores and its tiles' place, and a recomposition due. -/
theorem State.reclaim_spec {y : Slot} (hy : ((s.finishWaita cid slot).core cid).slot slot = y) (hlost : y.lost = [])
    (hstate : y.ws.tsw.state ≠ .trapped) :
    (∃ v b, ((s.reclaim cid slot).core cid).slot slot = { y with members := [], recompose := b, ws := { y.ws with vsd := v } } ∧
      (y.ws.ctl.cw ≠ 0 → b = true ∧ { cid := cid, slot := slot, n := 2 ^ y.ws.ctl.cw.toNat, again := true } ∈
        ((s.reclaim cid slot).cluster (clusterOf cid)).composeQ)) ∧
      ∀ m ∈ y.members, ((s.reclaim cid slot).core m).lent = none := by
  subst hy
  have hback := State.handedBack_handBack hi hlost 0xFFFF#16
  have hreclaim : s.reclaim cid slot = ((s.finishWaita cid slot).handBack cid slot 0xFFFF#16).recomposeDue cid slot := if_neg hstate
  obtain ⟨v, hv⟩ := hback.task
  obtain ⟨⟨b, hb, hdue⟩, hlent⟩ := State.recomposeDue_spec (t := (s.finishWaita cid slot).handBack cid slot 0xFFFF#16) (cid := cid) hi
  rw [← hreclaim, hv] at hb
  rw [← hreclaim, hv] at hdue
  rw [← hreclaim] at hlent
  exact ⟨⟨v, b, hb, hdue⟩, fun m hm => (hlent m).trans (hback.lent m hm)⟩

end

/-- A WAITA's end keeps CW and the lent cores. -/
theorem Slot.waitCompleted_frame (t : Slot) (now : Nat) (d : GReg) (v : Word) :
    (t.waitCompleted now d v).ws.ctl.cw = t.ws.ctl.cw ∧ (t.waitCompleted now d v).members = t.members ∧
      (t.waitCompleted now d v).lost = t.lost ∧ (t.waitCompleted now d v).ws.tsw.state = .runnable := by
  have h : (t.ws.ctl.afterBody t.chainLen).1.cw = t.ws.ctl.cw := by rw [Ctl.afterBody_frame]
  exact ⟨h, rfl, rfl, rfl⟩

theorem exec_reclaim {s : State} {cid ld slot : Nat} (hlent : (s.core cid).lent = some (ld, slot))
    (hrun : (s.core cid).runList ≠ []) : exec (.reclaim cid) s = .next (s.reclaim ld slot) := by
  show execReclaim cid s = _
  simp only [execReclaim, hlent, List.isEmpty_iff, if_neg hrun]

/-! ### The obligation -/

/-- Settles O54. -/
theorem barriersAndPhalanxes : Obligations.BarriersAndPhalanxes := by
  unfold Obligations.BarriersAndPhalanxes
  refine ⟨fun s sc n b => ?_, fun s q ld n l => ?_, fun s n k cid slot ld since r l => ?_⟩
  · intro id inst scope goal hb
    have hscope : barScope sc = scope := by cases sc <;> rfl
    have hbar (odd : Bool) := State.barw_spec hb odd
    rw [hscope] at hbar
    refine ⟨⟨fun h => completes_advance ((hbar false).1 h), (hbar false).2⟩,
      ⟨fun h => completes_advance ((hbar true).1 h), (hbar true).2⟩, _, completes_advance (exec_barv hb), ?_, ?_, ?_, ?_⟩
    · rw [hscope]; rfl
    · rw [hscope]; rfl
    · rw [State.barrier_inst hb]; cases sc <;> rfl
    · exact State.barrier_arriveAt hb (s.releaseFor_launches _ _ _)
  · intro free mates dist inOrder clear now
    refine ⟨fun r h => State.nextGrant_some h, State.nextGrant_none, fun hn => ?_, ?_, fun h => ?_⟩
    · have hmembers := s.members_eq ld n
      rw [if_neg (by omega)] at hmembers
      have hlength : (s.freeMates ld).length = mates.length := s.length_freeMates ld
      rw [hmembers]
      refine ⟨?_, fun h => ?_⟩
      · split <;> simp <;> omega
      · split at h
        · next hle =>
          cases h
          exact ⟨by rw [List.length_take]; omega, s.take_freeMates ld (n - 1)⟩
        · cases h
    · refine .trans ?_ (or_congr (iff_of_eq (congrArg (· < 7) (s.length_freeMates ld))) State.freeNeighbour_none)
      rw [s.members_eq ld 16, if_pos rfl]
      split
      · next hfew => simp [hfew]
      · next hfew => simp [hfew]
    · rw [s.members_eq ld 16, if_pos rfl] at h
      split at h
      · cases h
      · next hlen =>
        obtain ⟨k, hk, rfl⟩ := Option.map_eq_some_iff.1 h
        obtain ⟨d, hd, hnear, hclear, hfirst⟩ := State.freeNeighbour_some hk
        have hle : (s.freeMates ld).length ≤ 7 := List.length_filter_le _ _
        have hseven : (s.freeMates ld).take 7 = s.freeMates ld := List.take_of_length_le hle
        have hown := s.take_freeMates ld 7
        rw [hseven] at hown
        exact ⟨s.freeMates ld, k, d, rfl, by omega, hown, hd, hnear, hclear, hfirst⟩
  · intro code t0 t1 t2 lent mine asks
    have hcode : widthCode n.toNat = code := widthCode_byte n
    rw [← hcode]
    refine ⟨fun hrep hne hcw => completes_advance (exec_compose_same hrep hne hcw), fun hrep hne hcw => ?_,
      fun hrep hne hcw hother hlost => ?_, fun hrep hcw => ?_, fun hrep hcw hlost => ?_, exec_compose_illegal,
      exec_dcmp_inside, fun hnext hslot hagain => ?_, fun hnext hslot hagain => ?_, fun w hwait hslot => ?_,
      fun hlent hrun hslot hmem hlost hstate hread => ?_⟩
    · refine ⟨_, exec_compose_other hrep hne (hcw ▸ hne.symm), ?_, ?_⟩
      · rw [if_pos hcw]; rfl
      · rw [if_pos hcw]; exact s.composeQ_askCompose _ _ _ _
    · obtain ⟨⟨v, htask⟩, hback, hqueue⟩ := State.narrowed_spec hlost
      refine ⟨_, exec_compose_other hrep hne hother, ?_⟩
      rw [if_neg hcw]
      have hparked := State.task_parked (s.narrowed.askCompose s.hereCid s.here.cur.val n.toNat false) (.compose n.toNat s.now)
      rw [show (s.narrowed.askCompose s.hereCid s.here.cur.val n.toNat false).task = s.narrowed.task from rfl, htask] at hparked
      rw [← State.narrowed, State.ws, hparked]
      refine ⟨rfl, rfl, rfl, rfl, rfl, rfl, rfl, fun m hm => ?_, ?_⟩
      · exact (State.coresKeep_setTask _ _ (fun _ => rfl) m).trans (hback m hm)
      · refine (State.composeQ_askCompose _ _ _ _ _).trans ?_
        exact congrArg (· ++ [s.asks n.toNat]) hqueue
    · have hexec := exec_dcmp hrep
      rw [if_pos hcw] at hexec
      exact completes_advance hexec
    · have hexec := exec_dcmp hrep
      rw [if_neg hcw] at hexec
      obtain ⟨⟨v, htask⟩, hback, hqueue⟩ := State.narrowed_spec hlost
      refine ⟨_, completes_advance hexec, ?_, ?_, ?_, ?_, hback, hqueue⟩
      · rw [State.ws, htask]
      · rw [State.ws, htask]
      · rw [State.ws, htask]
      · rw [htask]
    · have hgrant := exec_composeGrant hnext
      have hrecompose := exec_recomposeGrant hnext
      rw [hagain, if_neg Bool.false_ne_true] at hgrant hrecompose
      obtain ⟨hall, hslot'⟩ := (s.lentTo_lend l hslot).modSlot hslot fun t => t.composed false (widthCode r.n) s.now
      refine ⟨⟨_, hgrant, ⟨hall, ?_⟩, ?_⟩, hrecompose⟩
      · rw [hslot']
        exact ⟨rfl, rfl⟩
      · rw [hslot']
        exact ⟨rfl, rfl, rfl⟩
    · have hgrant := exec_composeGrant hnext
      have hrecompose := exec_recomposeGrant hnext
      rw [hagain, if_pos rfl] at hgrant hrecompose
      obtain ⟨hall, hslot'⟩ := s.lentTo_lend l hslot
      refine ⟨⟨_, hrecompose, ⟨hall, ?_⟩, ?_⟩, hgrant⟩
      · rw [hslot']
        exact ⟨rfl, rfl⟩
      · rw [hslot']
    · have hexec := exec_composeTimeout hwait
      refine ⟨fun htime hnone => ?_, fun hstay => ?_⟩
      · rw [if_pos ⟨htime, by rw [hnone]; rfl⟩] at hexec
        have hslot' := (State.slot_modSlot (s.unask cid slot) cid slot cid slot fun t => t.composed true 0 s.now).trans
          (if_pos ⟨rfl, rfl, hslot⟩)
        refine ⟨_, hexec, ?_⟩
        rw [hslot']
        exact ⟨rfl, rfl, rfl⟩
      · rw [if_neg ?_] at hexec
        · exact hexec
        · rintro ⟨htime, hnone⟩
          rcases hstay with hearly | hsome
          · omega
          · rw [Option.isNone_iff_eq_none] at hnone
            rw [hnone] at hsome
            cases hsome
    · refine ⟨_, exec_reclaim hlent hrun, ?_⟩
      rcases State.finishWaita_slot hslot hlost hread with ⟨hnot, hsame⟩ | ⟨a, b, c, e, f, h, hwait, hended⟩
      · obtain ⟨⟨v, b, hafter, hdue⟩, hback⟩ := State.reclaim_spec hslot (by rw [hsame]) hlost hstate
        intro x
        have hx : x = _ := hafter
        rw [hx]
        exact ⟨rfl, hback, hdue, fun _ => ⟨rfl, rfl, rfl⟩, fun a b c e f h hw => absurd hw (hnot a b c e f h)⟩
      · obtain ⟨hcw, hmembers, hlost', hrunnable⟩ := Slot.waitCompleted_frame t2 s.now e (s.waitValue (.waita a b c e f h))
        obtain ⟨⟨v, b', hafter, hdue⟩, hback⟩ := State.reclaim_spec hslot hended (hlost'.trans hlost) (by rw [hrunnable]; nofun)
        rw [hcw] at hdue
        rw [hmembers] at hback
        intro x
        have hx : x = _ := hafter
        rw [hx]
        refine ⟨rfl, hback, hdue, fun hnot => absurd hwait (hnot _ _ _ _ _ _), fun a' b' c' e' f' h' hw hrep => ?_⟩
        rw [hwait] at hw
        cases hw
        rw [Slot.waitCompleted_of_noRep hrep]
        exact ⟨rfl, rfl, rfl, rfl⟩

end Sys2Proof.Machine
end

section
/-! PROOF. A saved core moves to a vacant core of its context (R369, R375, R376). -/

namespace Sys2Proof.Machine

/-! ### Steps over a list of cores -/

section
variable {α : Type} {g : α → Nat} {f : State → α → Core → Core}

theorem State.core_foldl_other (l : List α) (s : State) {m : Nat} (hm : m ∉ l.map g) :
    (l.foldl (fun (s : State) a => s.modCore (g a) (f s a)) s).core m = s.core m := by
  induction l generalizing s with
  | nil => rfl
  | cons a l ih =>
    rw [List.map_cons, List.mem_cons, not_or] at hm
    rw [List.foldl_cons, ih _ hm.2, State.core_modCore, if_neg hm.1]

theorem State.core_foldl_same {l : List α} (hl : (l.map g).Nodup) (s : State) {a : α} (ha : a ∈ l) :
    ∃ t, (l.foldl (fun (s : State) a => s.modCore (g a) (f s a)) s).core (g a) = f t a (s.core (g a)) := by
  induction l generalizing s with
  | nil => cases ha
  | cons b l ih =>
    obtain ⟨hb, hl⟩ := List.nodup_cons.1 hl
    rw [List.foldl_cons]
    rcases List.mem_cons.1 ha with rfl | ha
    · rw [State.core_foldl_other l _ hb, State.core_modCore, if_pos rfl]
      exact ⟨s, rfl⟩
    · obtain ⟨t, ht⟩ := ih hl (s.modCore (g b) (f s b)) ha
      rw [ht, State.core_modCore, if_neg fun h => hb (by rw [← h]; exact List.mem_map_of_mem ha)]
      exact ⟨t, rfl⟩

end

/-! ### Damage of an LM (R375) -/

section
variable {s : State}

/-- Where an LM is sound nothing is damaged, and no slot of the core has lost a register. -/
theorem State.sound_lm {cid : Nat} (h : s.sound (.lm cid 0) = true) :
    s.damaged = [] ∧ ∀ i, i < 8 → ((s.core cid).slot i).lost = [] := by
  have h' : s.damaged.isEmpty = true ∧ ((List.range 8).all fun i => ((s.core cid).slot i).lost.isEmpty) = true := by
    simpa [State.sound, Config.slotBytes] using h
  refine ⟨List.isEmpty_iff.1 h'.1, fun i hi => List.isEmpty_iff.1 ?_⟩
  exact List.all_eq_true.1 h'.2 i (List.mem_range.2 hi)

theorem State.lmHit_of_undamaged (h : s.damaged = []) (cid : Nat) (l : List (Nat × Nat)) : s.lmHit cid l = false := by
  rw [State.lmHit, h]
  rfl

theorem State.mendLm_of_undamaged (h : s.damaged = []) (cid : Nat) (l : List (Nat × Nat)) : s.mendLm cid l = s := by
  rw [State.mendLm, h]
  rfl

theorem State.leaveWords_of_undamaged (h : s.damaged = []) (cid : Nat) : s.leaveWords cid = s := by
  rw [State.leaveWords, State.lmHit_of_undamaged h]
  rfl

theorem State.cleanLm_of_sound {cid : Nat} (h : s.sound (.lm cid 0) = true) : s.cleanLm cid = (s.core cid).lm := by
  obtain ⟨hd, hlost⟩ := State.sound_lm h
  refine List.filter_eq_self.2 fun b _ => ?_
  have hnone : s.lostAt (.lm cid b.1) = none := by
    unfold State.lostAt
    dsimp only
    split
    · next hb =>
      rw [hlost _ (by have := hb.1; unfold Config.slotBytes at this; omega)] at hb
      exact absurd hb.2 (by simp)
    · rfl
  rw [State.isDamaged, hd, hnone]
  rfl

theorem State.copyable_of_sound {cid : Nat} (h : s.sound (.lm cid 0) = true) : s.copyable cid = true := by
  obtain ⟨hd, -⟩ := State.sound_lm h
  simp [State.copyable, State.taskClean, State.lmHit_of_undamaged hd]

end

/-! ### The move (R369) -/

theorem State.vacant_iff (s : State) (c : Nat) : s.vacant c = true ↔
    (∀ i : Fin 8, ((s.core c).slot i.val).held = false) ∧ (s.core c).quiet = true ∧
      (∀ i : Fin 32, (s.core c).tickets[i].state = .free) ∧ (s.core c).retired = false ∧ (s.core c).runList = [] ∧
      (s.core c).deque = [] ∧ (s.core c).counters = [] ∧ (∀ i : Fin 4, (s.core c).local4[i] = []) ∧
      ∀ x ∈ s.savedTasks, x.cid = c → s.cxOf c ≠ some x.cx := by
  have hheld : ((List.range 8).all fun i => !((s.core c).slot i).held) = true ↔ ∀ i : Fin 8, ((s.core c).slot i.val).held = false := by
    simp only [List.all_eq_true, List.mem_range, Bool.not_eq_true']
    exact ⟨fun h i => h i.val i.isLt, fun h i hi => h ⟨i, hi⟩⟩
  have hfree : ((s.core c).tickets.all fun t => t.state == .free) = true ↔ ∀ i : Fin 32, (s.core c).tickets[i].state = .free := by
    simp only [Vector.all_eq_true, beq_iff_eq]
    exact ⟨fun h i => h i.val i.isLt, fun h i hi => h ⟨i, hi⟩⟩
  have hempty : ((s.core c).local4.all fun q => q.isEmpty) = true ↔ ∀ i : Fin 4, (s.core c).local4[i] = [] := by
    simp only [Vector.all_eq_true, List.isEmpty_iff]
    exact ⟨fun h i => h i.val i.isLt, fun h i hi => h ⟨i, hi⟩⟩
  have hsaved : (!s.savedTasks.any fun x => x.cid == c && s.cxOf c == some x.cx) = true ↔
      ∀ x ∈ s.savedTasks, x.cid = c → s.cxOf c ≠ some x.cx := by
    simp
  unfold State.vacant
  dsimp only
  simp only [Bool.and_eq_true, hheld, hfree, hempty, hsaved, Bool.not_eq_true', List.isEmpty_iff, and_assoc]
  tauto

/-- What a move leaves before the page-ins of other cores are pointed to the target. -/
def State.moved (s : State) (src dst : Nat) : State :=
  let s1 := (((s.leaveWords src).mendLm dst (s.core src).movedPlaces).moveSeen src dst).combineWhere (clusterOf src) fun _ => true
  ((s1.setCore src (s.core src).vacated).setCore dst ((s.core dst).receiveFrom (s.core src) (s.cleanLm src))).dropCopies
    (clusterOf dst) fun _ => true

/-- The move, its page-ins pointed to the target. -/
def State.movedCore (s : State) (src dst : Nat) : State :=
  let t := (s.moved src dst).coreIds.foldl (fun s c => s.modCore c fun x => x.repointWords src dst) (s.moved src dst)
  { t with savedTasks := t.savedTasks.map fun x => if x.cid = src ∧ s.cxOf src = some x.cx then { x with cid := dst } else x }

section
variable {s : State} {src dst : Nat}

theorem exec_coreMove (hne : src ≠ dst) (hown : (s.cxOf src).isSome = true) (hcx : s.cxOf src = s.cxOf dst)
    (hvacant : s.vacant dst = true) (hquiet : (s.core src).quiet = true) (hsettled : (s.core src).settled = true)
    (hplacing : ∀ l ∈ s.launches, ∀ x ∈ l.pending, x.1 ≠ src) (hclean : s.copyable src = true) :
    exec (.coreMove src dst) s = .next (s.movedCore src dst) := by
  have hnot : (s.launches.any fun l => l.pending.any fun x => x.1 == src) = false := by
    refine List.any_eq_false.2 fun l hl => ?_
    rw [Bool.not_eq_true, List.any_eq_false]
    exact fun x hx => by simpa using hplacing l hl x hx
  show execCoreMove src dst s = _
  refine if_pos ?_
  rw [hnot, hown, ← hcx, hvacant, hquiet, hsettled, hclean, bne_iff_ne.2 hne, beq_self_eq_true]
  rfl

theorem exec_coreMove_unclean (hclean : s.copyable src = false) : exec (.coreMove src dst) s = .next s := by
  show execCoreMove src dst s = _
  refine if_neg ?_
  rw [hclean, Bool.and_false]
  exact Bool.false_ne_true

/-- Pointing page-ins elsewhere changes nothing else of a core, and nothing else of the state. -/
theorem State.core_movedCore (c : Nat) : ∃ p, (s.movedCore src dst).core c = { (s.moved src dst).core c with pageIns := p } := by
  refine List.foldlRecOn (motive := fun t : State => ∃ p, t.core c = { (s.moved src dst).core c with pageIns := p }) _ _ ⟨_, rfl⟩
    fun t ⟨p, hp⟩ k _ => ?_
  rw [State.core_modCore]
  split
  · next h => rw [← h, hp]; exact ⟨_, rfl⟩
  · exact ⟨p, hp⟩

theorem State.foldl_modCore_rest (l : List Nat) (f : Nat → Core → Core) (s : State) :
    let t := l.foldl (fun (s : State) c => s.modCore c (f c)) s
    t.mem = s.mem ∧ t.clusters = s.clusters ∧ t.damaged = s.damaged ∧ t.savedTasks = s.savedTasks := by
  refine List.foldlRecOn (motive := fun t : State => t.mem = s.mem ∧ t.clusters = s.clusters ∧ t.damaged = s.damaged ∧
    t.savedTasks = s.savedTasks) _ _ ⟨rfl, rfl, rfl, rfl⟩ fun t ⟨hm, hc, hd, hs⟩ k _ => ?_
  exact ⟨(t.setCore_mem _ _).trans hm, (t.setCore_clusters _ _).trans hc, (t.setCore_damaged _ _).trans hd,
    (t.setCore_savedTasks _ _).trans hs⟩

theorem State.core_moved_dst : (s.moved src dst).core dst = (s.core dst).receiveFrom (s.core src) (s.cleanLm src) :=
  (State.core_modCore _ dst dst fun _ => (s.core dst).receiveFrom (s.core src) (s.cleanLm src)).trans (if_pos rfl)

theorem State.core_moved_src (hne : src ≠ dst) : (s.moved src dst).core src = (s.core src).vacated :=
  (State.core_modCore _ dst src fun _ => (s.core dst).receiveFrom (s.core src) (s.cleanLm src)).trans ((if_neg hne).trans
    ((State.core_modCore _ src src fun _ => (s.core src).vacated).trans (if_pos rfl)))

theorem State.copies_dropCopies (s : State) (k : Nat) : ((s.dropCopies k fun _ => true).cluster k).copies = [] := by
  rw [State.dropCopies, State.cluster_modCluster, if_pos rfl]
  simp

/-- What a move leaves beside cores: a copy of the receiving cluster is dropped, and U lines of the other are combined. -/
theorem State.movedCore_rest (s : State) (src dst : Nat) :
    let s1 := (((s.leaveWords src).mendLm dst (s.core src).movedPlaces).moveSeen src dst).combineWhere (clusterOf src) fun _ => true
    (s.movedCore src dst).mem = s1.mem ∧ ((s.movedCore src dst).cluster (clusterOf dst)).copies = [] ∧
      (s.movedCore src dst).damaged = s1.damaged ∧
      (s.movedCore src dst).savedTasks = s1.savedTasks.map fun x =>
        if x.cid = src ∧ s.cxOf src = some x.cx then { x with cid := dst } else x := by
  intro s1
  obtain ⟨hmem, hclusters, hdamaged, hsaved⟩ := State.foldl_modCore_rest (s.moved src dst).coreIds
    (fun _ x => x.repointWords src dst) (s.moved src dst)
  refine ⟨hmem.trans ?_, ?_, hdamaged.trans ?_, ?_⟩
  · exact (State.setCore_mem _ _ _).trans (State.setCore_mem _ _ _)
  · rw [State.cluster, show (s.movedCore src dst).clusters = (s.moved src dst).clusters from hclusters]
    exact State.copies_dropCopies _ _
  · exact (State.setCore_damaged _ _ _).trans (State.setCore_damaged _ _ _)
  · refine congrArg (List.map _) (hsaved.trans ?_)
    exact (State.setCore_savedTasks _ _ _).trans (State.setCore_savedTasks _ _ _)

/-- A sound core moves whole, and where its old cluster has no U line, memory stays. -/
theorem State.movedCore_sound (hs : s.sound (.lm src 0) = true) :
    (s.movedCore src dst).savedTasks = (s.savedTasks.map fun x =>
        if x.cid = src ∧ s.cxOf src = some x.cx then { x with cid := dst } else x) ∧
      ((s.cluster (clusterOf src)).ulines = [] → (s.movedCore src dst).mem = s.mem) := by
  obtain ⟨hd, -⟩ := State.sound_lm hs
  obtain ⟨hmem, -, -, hsaved⟩ := s.movedCore_rest src dst
  rw [State.leaveWords_of_undamaged hd, State.mendLm_of_undamaged hd] at hmem hsaved
  obtain ⟨k, hk⟩ : ∃ k, s.moveSeen src dst = { s with clusters := k } := s.modLate_eq _ _
  refine ⟨?_, fun hu => ?_⟩
  · rw [hsaved, (State.tasksStay_combineWhere _ _ _).savedTasks, hk]
  · have hkeep : s.ClustersKeep (s.moveSeen src dst) := s.clustersKeep_modLate _ _
    have hulines := (hkeep (clusterOf src)).2
    rw [hu, List.subset_nil] at hulines
    rw [hmem, State.combineWhere, hulines, hk]
    rfl

/-- A move writes the target's LM whole (R375). -/
theorem State.movedCore_mended {u : Nat} (hu : u < 0x3000) (hplace : 0x400 ≤ u ∨ ((s.core src).slot (u / 128)).held = true) :
    (Space.lm, dst, u) ∉ (s.movedCore src dst).damaged := by
  obtain ⟨-, -, hd, -⟩ := s.movedCore_rest src dst
  have hcombine := State.combines_combineWhere (((s.leaveWords src).mendLm dst (s.core src).movedPlaces).moveSeen src dst)
    (clusterOf src) fun _ => true
  have hlate : ((s.leaveWords src).mendLm dst (s.core src).movedPlaces).Combines
      (((s.leaveWords src).mendLm dst (s.core src).movedPlaces).moveSeen src dst) := State.combines_modLate _ _ _
  rw [hd, hcombine.rest.2.1, hlate.rest.2.1, State.mendLm]
  split
  · next h => rw [List.isEmpty_iff.1 h]; exact List.not_mem_nil
  · intro hmem
    have hout := (List.mem_filter.1 hmem).2
    have hin : ((s.core src).movedPlaces.any fun x => decide (x.1 ≤ 4 * u ∧ 4 * u + 4 ≤ x.1 + x.2)) = true := by
      refine List.any_eq_true.2 ?_
      rcases hplace with hhigh | hheld
      · refine ⟨_, List.mem_cons_self, decide_eq_true ?_⟩
        simp only [Config.slotBytes, Config.lmSize]
        omega
      · by_cases hhigh : 0x400 ≤ u
        · refine ⟨_, List.mem_cons_self, decide_eq_true ?_⟩
          simp only [Config.slotBytes, Config.lmSize]
          omega
        · refine ⟨(512 * (u / 128), 512), List.mem_cons_of_mem _ (List.mem_map.2 ⟨u / 128, ?_, rfl⟩), decide_eq_true (by omega)⟩
          exact List.mem_filter.2 ⟨List.mem_range.2 (by omega), hheld⟩
    simp only [hin, beq_self_eq_true, Bool.and_self, Bool.not_true] at hout
    cases hout

end

end Sys2Proof.Machine
end

section
/-! PROOF. What hand-backs leave of a cluster that passes to another context (R295, R332, R370). -/

namespace Sys2Proof.Machine

/-- t is s with lent cores returned and tasks without the cores that they had, and with what steps in homes write; contexts own
their clusters, and keep what was saved of them. -/
structure State.Sheds (s t : State) : Prop where
  saved : t.savedClusters = s.savedClusters
  owner : ∀ k, (t.cluster k).owner = (s.cluster k).owner
  lent : ∀ c, (t.core c).lent = (s.core c).lent ∨ (t.core c).lent = none
  members : ∀ c i, ((t.core c).slot i).members = ((s.core c).slot i).members ∨ ((t.core c).slot i).members = []

theorem State.Sheds.refl (s : State) : s.Sheds s := ⟨rfl, fun _ => rfl, fun _ => .inl rfl, fun _ _ => .inl rfl⟩

theorem State.Sheds.trans {s t u : State} (h : s.Sheds t) (k : t.Sheds u) : s.Sheds u where
  saved := k.saved.trans h.saved
  owner c := (k.owner c).trans (h.owner c)
  lent c := by rcases k.lent c with hk | hk <;> rw [hk]; exacts [h.lent c, .inr rfl]
  members c i := by rcases k.members c i with hk | hk <;> rw [hk]; exacts [h.members c i, .inr rfl]

theorem State.sheds_foldl {α : Type} {f : State → α → State} (h : ∀ (s : State) (a : α), s.Sheds (f s a)) (s : State) (l : List α) :
    s.Sheds (l.foldl f s) := List.foldlRecOn l f (.refl s) fun _ hb a _ => hb.trans (h _ a)

/-- A step that keeps the tasks and whom their cores are lent to. -/
theorem State.sheds_of_tasks {s t : State} (htasks : s.TasksStay t) (hlent : State.CoresKeep Core.lent s t)
    (hsaved : t.savedClusters = s.savedClusters) (howner : ∀ k, (t.cluster k).owner = (s.cluster k).owner) : s.Sheds t where
  saved := hsaved
  owner := howner
  lent c := .inl (hlent c)
  members c i := by
    obtain ⟨r, l, h⟩ := htasks.slot c i
    rw [h]
    exact .inl rfl

/-- The same, where no cluster changes. -/
theorem State.sheds_of_clusters {s t : State} (htasks : s.TasksStay t) (hlent : State.CoresKeep Core.lent s t)
    (hsaved : t.savedClusters = s.savedClusters) (h : t.clusters = s.clusters) : s.Sheds t :=
  State.sheds_of_tasks htasks hlent hsaved fun k => by rw [State.cluster, h, ← State.cluster]

/-! ### Steps on a core, a slot and a cluster -/

theorem State.sheds_modCore (s : State) (k : Nat) {f : Core → Core} (hl : ∀ c, (f c).lent = c.lent ∨ (f c).lent = none)
    (hm : ∀ c i, ((f c).slot i).members = (c.slot i).members ∨ ((f c).slot i).members = []) : s.Sheds (s.modCore k f) where
  saved := s.setCore_savedClusters k _
  owner j := by rw [State.modCore, State.cluster, State.setCore_clusters, ← State.cluster]
  lent c := by
    rw [State.core_modCore]
    split
    · next h => rw [h]; exact hl _
    · exact .inl rfl
  members c i := by
    rw [State.core_modCore]
    split
    · next h => rw [h]; exact hm _ i
    · exact .inl rfl

theorem State.sheds_modSlot (s : State) (k i : Nat) {f : Slot → Slot} (hf : ∀ t, (f t).members = t.members ∨ (f t).members = []) :
    s.Sheds (s.modSlot k i f) :=
  s.sheds_modCore k (fun _ => .inl rfl) fun c j => by
    rw [Core.modSlot, Core.slot_setSlot]
    split
    · next h => rw [h.1]; exact hf _
    · exact .inl rfl

theorem State.sheds_modCluster (s : State) (k : Nat) {f : Cluster → Cluster} (hf : ∀ x, (f x).owner = x.owner) :
    s.Sheds (s.modCluster k f) :=
  State.sheds_of_tasks (s.tasksStay_modCluster k f) (.refl s) rfl fun j => by
    rw [State.cluster_modCluster]
    split
    · next h => rw [h, hf]
    · rfl

theorem State.sheds_dropCopies (s : State) (k : Nat) (p : Nat → Bool) : s.Sheds (s.dropCopies k p) :=
  s.sheds_modCluster k fun _ => rfl

theorem State.sheds_modLate (s : State) (k : Nat) (f : List Late → List Late) : s.Sheds (s.modLate k f) := by
  unfold State.modLate
  split
  · exact .refl s
  · exact s.sheds_modCluster k fun _ => rfl

theorem State.sheds_trigger (s : State) (n : Nat) : s.Sheds (s.trigger n) := by
  obtain ⟨k, l, h⟩ := s.trigger_eq n
  exact State.sheds_of_clusters (s.tasksStay_trigger n) (s.coresKeep_trigger n) (by rw [h]) (by rw [h])

theorem State.sheds_report (s : State) (d : Nat) (r : FaultRec) : s.Sheds (s.report d r) := by
  obtain ⟨k, m, l, h⟩ := s.report_eq d r
  exact State.sheds_of_clusters (s.tasksStay_report d r) (s.coresKeep_report d r) (by rw [h]) (by rw [h])

theorem Core.aside_lent : Core.Aside Core.lent := fun _ _ _ _ _ => rfl

theorem State.sheds_combineU (s : State) (c : Nat) (u : ULine) : s.Sheds (s.combineU c u) :=
  State.sheds_of_tasks (s.tasksStay_combineU c u) (s.coresKeep_combineU Core.aside_lent c u) (s.combines_combineU c u).rest.2.2.1
    fun k => by
      rw [State.cluster, s.clusters_combineU c u]
      exact (s.sheds_modCluster c (f := fun x => { x with ulines := x.ulines.filter fun y => y.line ≠ u.line }) fun _ => rfl).owner k

theorem State.sheds_combineWhere (s : State) (c : Nat) (p : Nat → Bool) : s.Sheds (s.combineWhere c p) :=
  State.sheds_foldl (fun t u => t.sheds_combineU c u) s _

theorem State.sheds_combineLine (s : State) (line : Nat) : s.Sheds (s.combineLine line) := by
  refine List.foldlRecOn _ _ (.refl s) fun t ht x _ => ?_
  dsimp only
  split
  · exact ht.trans (t.sheds_combineU _ _)
  · exact ht

theorem State.sheds_mendReg (s : State) (cid slot r : Nat) : s.Sheds (s.mendReg cid slot r) := by
  refine State.sheds_of_clusters (s.tasksStay_mendReg cid slot r) ?_ ?_ ?_
  all_goals unfold State.mendReg State.mend; dsimp only; split
  · exact .refl s
  · split
    · exact State.coresKeep_modSlot _ _ _ (fun _ _ => rfl) _
    · exact .refl s
  · rfl
  · split
    · exact State.setCore_savedClusters _ _ _
    · rfl
  · rfl
  · split
    · exact State.setCore_clusters _ _ _
    · rfl

/-! ### Hand-back (R295, R299) -/

theorem State.sheds_outOfService (s : State) (m : Nat) : s.Sheds (s.outOfService m) :=
  (s.sheds_modCore m (f := fun c => { c with retired := true }) (fun _ => .inl rfl) fun _ _ => .inl rfl).trans
    (State.sheds_trigger _ _)

theorem State.sheds_returnLent (s : State) (cid slot : Nat) : s.Sheds (s.returnLent cid slot) := by
  unfold State.returnLent
  refine State.Sheds.trans ?_ (State.sheds_modCluster _ _ fun _ => rfl)
  refine (State.sheds_foldl (fun t m => t.sheds_outOfService m) s _).trans (State.sheds_foldl (fun t m => ?_) _ _)
  exact t.sheds_modCore m (fun _ => .inr rfl) fun _ _ => .inl rfl

theorem Core.slots_zeroLost (c : Core) (i : Nat) (lost : List Nat) :
    (c.zeroLost i lost).slots = c.slots ∧ (c.zeroLost i lost).lent = c.lent := by
  unfold Core.zeroLost
  dsimp only
  split
  · exact ⟨rfl, rfl⟩
  · split <;> exact ⟨rfl, rfl⟩

theorem Slot.members_zeroLost (t : Slot) : t.zeroLost.members = t.members := by
  unfold Slot.zeroLost
  split <;> rfl

theorem State.sheds_saveTiles (s : State) (cid slot : Nat) (live : BitVec 16) : s.Sheds (s.saveTiles cid slot live) := by
  have hcore : s.Sheds (s.modCore cid fun c => c.saveTiles slot live) := by
    refine s.sheds_modCore cid (fun _ => .inl rfl) fun c i => .inl ?_
    refine (congrArg Slot.members (Core.slot_setSlot _ slot i _)).trans ?_
    split
    · next h => rw [h.1]
    · rfl
  have hmend (t : State) (l : List (Nat × Nat)) : t.Sheds (t.mendLm cid l) := by
    unfold State.mendLm
    split
    · exact .refl t
    · exact State.sheds_of_clusters (State.tasksStay_of_cores rfl rfl rfl rfl) (.refl t) rfl rfl
  unfold State.saveTiles
  dsimp only
  split
  · refine State.Sheds.trans (s.sheds_report (dieOf cid) (faultRec ((s.cxOf cid).getD 0) 0 2 .mchk 0 cid)) ?_
    unfold State.failLm
    dsimp only
    split
    · exact .refl _
    · exact State.sheds_outOfService _ _
  · split
    · exact hcore.trans (hmend _ _)
    · split
      · exact hcore.trans (hmend _ _)
      · exact hcore

theorem State.sheds_handBack (s : State) (cid slot : Nat) (live : BitVec 16) : s.Sheds (s.handBack cid slot live) := by
  rw [State.handBack_eq]
  refine State.Sheds.trans ?_ (State.sheds_modSlot _ cid slot fun _ => .inr rfl)
  split
  · exact s.sheds_returnLent cid slot
  · refine (s.sheds_returnLent cid slot).trans (State.Sheds.trans ?_ (State.sheds_saveTiles _ cid slot live))
    refine State.sheds_modCore _ cid (fun c => .inl (c.slots_zeroLost _ _).2) fun c i => .inl ?_
    rw [Core.slot, (c.slots_zeroLost _ _).1]
    rfl

/-- A task that has been handed back has no lent core. -/
theorem State.members_handBack (s : State) (cid : Nat) {slot : Nat} (hi : slot < 8) (live : BitVec 16) :
    (((s.handBack cid slot live).core cid).slot slot).members = [] := by
  rw [State.handBack_eq, State.slot_modSlot, if_pos ⟨rfl, rfl, hi⟩]

/-! ### Reclaims (R225, R290) -/

theorem State.sheds_afterWait (s : State) (w : Nat × Nat) (wait : Option Wait) (acq : Option Scope) :
    s.Sheds (s.afterWait w wait acq) := by
  have hsee (s : State) (line : Nat) : s.Sheds (s.seeHome w line) :=
    (s.sheds_dropCopies (clusterOf w.1) fun x => x == line).trans (State.sheds_modLate _ _ _)
  have hacq (s : State) (sc : Scope) : s.Sheds (s.acquireFor w sc fun _ => true) := by
    unfold State.acquireFor
    split
    · exact (s.sheds_dropCopies (clusterOf w.1) fun _ => true).trans (State.sheds_modLate _ _ _)
    · exact State.sheds_modLate _ _ _
  unfold State.afterWait
  dsimp only
  split <;> split
  · exact (hsee s _).trans (hacq _ _)
  · exact hacq s _
  · exact hsee s _
  · exact .refl s

section
variable {s : State} {cid slot : Nat}

theorem State.sheds_endWait {a : Loc} {b : Bool} {c va : Word} {d : GReg} {acq : Option Scope}
    (hwait : ((s.core cid).slot slot).wait = some (.waita a b c d acq va)) (v : Word) : s.Sheds (s.endWait cid slot v) := by
  rw [State.endWait, hwait]
  dsimp only
  rw [State.completeWaita_eq]
  have hdone := State.sheds_modSlot (s.mendReg cid slot (((s.core cid).slot slot).ws.ctl.phys d).toNat) cid slot
    (f := Slot.waitCompleted s.now d v) fun _ => .inl rfl
  exact (((s.sheds_mendReg cid slot _).trans hdone).trans (State.sheds_afterWait _ _ _ _)).trans
    (State.sheds_of_clusters (State.tasksStay_of_cores rfl rfl rfl rfl) (.refl _) rfl rfl)

theorem State.sheds_deliver (c : Cause) (hc : c.firmwareFirst = true) (info : Word) (len : Nat) :
    s.Sheds (s.deliver cid slot c info len) ∧ (slot < 8 → (((s.deliver cid slot c info len).core cid).slot slot).members = []) := by
  have hback := s.sheds_handBack cid slot 0xFFFF#16
  have htrap := State.sheds_modSlot (s.handBack cid slot 0xFFFF#16) cid slot (f := fun t => t.trapped c info len) fun _ => .inl rfl
  have hmend := State.sheds_mendReg ((s.handBack cid slot 0xFFFF#16).modSlot cid slot fun t => t.trapped c info len) cid slot 47
  have hdeliver : s.deliver cid slot c info len =
      ((s.handBack cid slot 0xFFFF#16).modSlot cid slot fun t => t.trapped c info len).mendReg cid slot 47 := if_pos hc
  rw [hdeliver]
  refine ⟨(hback.trans htrap).trans hmend, fun hi => ?_⟩
  rcases (htrap.trans hmend).members cid slot with h | h
  · exact h.trans (s.members_handBack cid hi _)
  · exact h

/-- Reading a word at its home combines its line, and changes no task (R222). -/
theorem State.sheds_waitRead (s : State) (w : Wait) : s.Sheds (s.waitRead w).2 ∧ s.TasksStay (s.waitRead w).2 := by
  unfold State.waitRead
  dsimp only
  split
  · exact ⟨s.sheds_combineLine _, s.tasksStay_combineLine _⟩
  · exact ⟨.refl s, .refl s⟩

/-- A WAITA's end either traps its task, which is handed back, or leaves it runnable; other tasks stay (R225, R375). -/
theorem State.sheds_finishWaita (s : State) (cid slot : Nat) : s.Sheds (s.finishWaita cid slot) ∧
    (slot < 8 → s.finishWaita cid slot = s ∨ (((s.finishWaita cid slot).core cid).slot slot).members = [] ∨
      (((s.finishWaita cid slot).core cid).slot slot).ws.tsw.state = .runnable) := by
  by_cases hw : ∃ a b c d e f, ((s.core cid).slot slot).wait = some (.waita a b c d e f)
  · obtain ⟨a, b, c, d, e, f, hw⟩ := hw
    have hfinish : s.finishWaita cid slot = s.endWaitNow cid slot := by rw [State.finishWaita, hw]
    rw [hfinish, State.endWaitNow, hw]
    dsimp only
    cases hdamage : s.waitDamage cid (.waita a b c d e f) with
    | some info =>
      have hunwait : s.Sheds (s.unwait cid slot) :=
        State.sheds_of_clusters (State.tasksStay_of_cores rfl rfl rfl rfl) (.refl s) rfl rfl
      obtain ⟨hdeliver, hmembers⟩ := State.sheds_deliver (s := (s.unwait cid slot).trigger 128) (cid := cid) .mchk rfl info
        ((s.core cid).slot slot).chainLen
      exact ⟨(hunwait.trans (State.sheds_trigger _ _)).trans hdeliver, fun hi => .inr (.inl (hmembers hi))⟩
    | none =>
      obtain ⟨hread, htasks⟩ := s.sheds_waitRead (.waita a b c d e f)
      have hwait : (((s.waitRead (.waita a b c d e f)).2.core cid).slot slot).wait = some (.waita a b c d e f) := by
        obtain ⟨r, l, h⟩ := htasks.slot cid slot
        rw [h]
        exact hw
      refine ⟨hread.trans (State.sheds_endWait hwait _), fun hi => .inr (.inr ?_)⟩
      rw [(State.slot_endWait hi hwait _).1]
      exact (Slot.waitCompleted_frame _ _ _ _).2.2.2
  · have hnot : ∀ a b c d e f, ((s.core cid).slot slot).wait ≠ some (.waita a b c d e f) :=
      fun a b c d e f h => hw ⟨a, b, c, d, e, f, h⟩
    rw [State.finishWaita_of_not hnot]
    exact ⟨.refl s, fun _ => .inl rfl⟩

theorem State.sheds_recomposeDue (s : State) (cid slot : Nat) : s.Sheds (s.recomposeDue cid slot) := by
  unfold State.recomposeDue
  dsimp only
  split
  · exact .refl s
  · exact (s.sheds_modSlot cid slot (f := fun t => { t with recompose := true }) fun _ => .inl rfl).trans
      (State.sheds_modCluster _ _ fun _ => rfl)

/-- A reclaim hands its task back, unless the task is trapped: then nothing is done. -/
theorem State.sheds_reclaim (s : State) (cid slot : Nat) : s.Sheds (s.reclaim cid slot) ∧
    (slot < 8 → (((s.reclaim cid slot).core cid).slot slot).members = [] ∨ s.reclaim cid slot = s) := by
  obtain ⟨hfinish, hended⟩ := s.sheds_finishWaita cid slot
  unfold State.reclaim
  dsimp only
  split
  · next htrap =>
    refine ⟨hfinish, fun hi => ?_⟩
    rcases hended hi with h | h | h
    · exact .inr h
    · exact .inl h
    · rw [h] at htrap; cases htrap
  · have hback := State.sheds_handBack (s.finishWaita cid slot) cid slot 0xFFFF#16
    have hdue := State.sheds_recomposeDue ((s.finishWaita cid slot).handBack cid slot 0xFFFF#16) cid slot
    refine ⟨(hfinish.trans hback).trans hdue, fun hi => .inl ?_⟩
    rcases hdue.members cid slot with h | h
    · exact h.trans (State.members_handBack _ cid hi _)
    · exact h

end

end Sys2Proof.Machine
end

section
/-! PROOF. A cluster passes to another context (R332, R370). -/

namespace Sys2Proof.Machine

/-! ### Phalanxes with a member in the cluster are handed back (R295, R370) -/

theorem mem_clusterCores {k c : Nat} : c ∈ clusterCores k ↔ c / 8 = k := by
  simp only [clusterCores, List.mem_map, List.mem_range]
  exact ⟨fun ⟨i, hi, h⟩ => by omega, fun h => ⟨c % 8, by omega, by omega⟩⟩

theorem nodup_clusterCores (k : Nat) : (clusterCores k).Nodup :=
  List.nodup_range.map fun _ _ h => Nat.add_left_cancel h

section
variable {s : State} {k : Nat}

theorem State.sheds_handBackIn (s : State) (k : Nat) : s.Sheds (s.handBackIn k) := by
  refine List.foldlRecOn _ _ (.refl s) fun t ht c _ => ?_
  split
  · exact ht.trans (t.sheds_reclaim _ _).1
  · exact ht

/-- Where no core of the cluster is lent, none is handed back. -/
theorem State.handBackIn_idle (h : ∀ c ∈ clusterCores k, (s.core c).lent = none) : s.handBackIn k = s := by
  refine List.foldlRecOn (motive := fun t => t = s) _ _ rfl fun t ht c hc => ?_
  rw [ht, h c hc]

/-- Where every lent core of the cluster is lent to one task, that task is handed back, unless it is trapped. -/
theorem State.handBackIn_single {ld sl : Nat} (hsl : sl < 8)
    (h : ∀ c ∈ clusterCores k, (s.core c).lent = none ∨ (s.core c).lent = some (ld, sl)) :
    (((s.handBackIn k).core ld).slot sl).members = [] ∨ s.handBackIn k = s := by
  refine (List.foldlRecOn (motive := fun t : State =>
    (∀ c ∈ clusterCores k, (t.core c).lent = none ∨ (t.core c).lent = some (ld, sl)) ∧
      (((t.core ld).slot sl).members = [] ∨ t = s)) _ _ ⟨h, .inr rfl⟩ fun t ⟨hlent, hdone⟩ c hc => ?_).2
  rcases hlent c hc with hnone | hsome
  · rw [hnone]
    exact ⟨hlent, hdone⟩
  · rw [hsome]
    obtain ⟨hsheds, hback⟩ := t.sheds_reclaim ld sl
    refine ⟨fun c hc => ?_, ?_⟩
    · rcases hsheds.lent c with hc' | hc' <;> dsimp only <;> rw [hc']
      · exact hlent c hc
      · exact .inl rfl
    · rcases hback hsl with hmembers | hsame
      · exact .inl hmembers
      · dsimp only
        rw [hsame]
        exact hdone

end

/-! ### What is saved of the cluster, and what comes back (R332, R370) -/

/-- What the switch leaves before anything is cleared. -/
def State.leaving (s : State) (k : Nat) : State :=
  (((clusterCores k).foldl (fun s c => s.refuseKv c) (s.handBackIn k)).combineWhere k fun _ => true).leaveCluster k

/-- What firmware saves of a cluster for the context that owned it. -/
def State.savesCluster (s : State) (k : Nat) : List SavedCluster :=
  match ((s.handBackIn k).cluster k).owner with
  | some o => [{ cluster := k, cx := o, csp := (s.leaving k).cleanCsp k, full := ((s.leaving k).cluster k).full,
                 cores := (clusterCores k).map fun c => { (s.leaving k).core c with lm := (s.leaving k).cleanLm c } }]
  | none => []

/-- What is kept of a context in a cluster. -/
def SavedCluster.isFor (x : SavedCluster) (k : Nat) (cxid : Option Nat) : Bool := x.cluster == k && some x.cx == cxid

def State.clearCores (s : State) (k : Nat) : State :=
  (clusterCores k).foldl (fun (s : State) c => s.modCore c fun c => c.cleared s.now) s

def State.restoreCores (s : State) (k : Nat) (back : Option SavedCluster) : State :=
  match back with
  | some x => ((clusterCores k).zip x.cores).foldl (fun (s : State) (p : Nat × Core) => s.modCore p.1 fun c => c.restored p.2) s
  | none => s

/-- The cluster after the switch. -/
def passedCluster (cxid : Option Nat) (back : Option SavedCluster) : Cluster :=
  match back with
  | some x => { Cluster.reset with owner := cxid, csp := x.csp, full := x.full }
  | none => { Cluster.reset with owner := cxid }

/-- What the switch leaves. -/
def State.switched (s : State) (k : Nat) (cxid : Option Nat) : State :=
  let back := (s.leaving k).savedClusters.find? fun x => x.isFor k cxid
  let s3 := ((s.leaving k).clearCores k).restoreCores k back
  ({ s3 with
    savedClusters := (s3.savedClusters.filter fun x => !x.isFor k cxid) ++ s.savesCluster k
    damaged := s3.damaged.filter fun d => !clusterSram k d } : State).setCluster k (passedCluster cxid back)

section
variable {s : State} {k : Nat} {cxid : Option Nat}

theorem exec_clusterContextSwitch
    (hlive : ∀ x, cxid = some x → (s.contexts.get x).isSome = true ∧ ∃ c ∈ clusterCores k, (s.core c).retired = false)
    (hne : (s.cluster k).owner ≠ cxid)
    (hquiet : ∀ c ∈ clusterCores k, ((s.handBackIn k).core c).quiet = true ∧ ((s.handBackIn k).core c).exposed = true)
    (hlaunch : s.launching k = false) (hwords : s.wordsInto k = false)
    (hclean : (s.cluster k).owner.isSome = true → ∀ c ∈ clusterCores k, (s.handBackIn k).copyable c = true) :
    exec (.clusterContextSwitch k cxid) s = .next (s.switched k cxid) := by
  have howner := (s.sheds_handBackIn k).owner k
  rw [← howner] at hne hclean
  show execClusterContextSwitch k cxid s = _
  unfold execClusterContextSwitch
  dsimp only
  rw [if_pos ?_]
  · unfold State.switched State.savesCluster State.leaving State.restoreCores State.clearCores passedCluster SavedCluster.isFor
    dsimp only <;> generalize State.leaveCluster _ k = t <;> generalize List.find? _ _ = back <;> generalize (Cluster.owner _) = o <;>
      cases back <;> cases o <;> rfl
  have hready : ((clusterCores k).all fun c => ((s.handBackIn k).core c).quiet && ((s.handBackIn k).core c).exposed &&
      (((s.handBackIn k).cluster k).owner.isNone || (s.handBackIn k).copyable c)) = true := by
    refine List.all_eq_true.2 fun c hc => ?_
    obtain ⟨hq, he⟩ := hquiet c hc
    rw [hq, he, Bool.true_and, Bool.true_and]
    cases ho : ((s.handBackIn k).cluster k).owner with
    | none => rfl
    | some o => exact hclean (by rw [ho]; rfl) c hc
  have hretired (x : Nat) (hx : cxid = some x) : ((s.contexts.get x).isSome && !(clusterCores k).all fun c => (s.core c).retired) = true := by
    obtain ⟨hsome, c, hc, hret⟩ := hlive x hx
    rw [hsome, Bool.true_and, Bool.not_eq_true', List.all_eq_false]
    exact ⟨c, hc, by rw [hret]; exact Bool.false_ne_true⟩
  rw [hready, hlaunch, hwords, bne_iff_ne.2 hne]
  cases cxid with
  | none => rfl
  | some x =>
    dsimp only
    rw [hretired x rfl]
    rfl

/-! ### Before anything is cleared -/

theorem State.sheds_refuseKv (s : State) (c : Nat) : s.Sheds (s.refuseKv c) := by
  refine State.sheds_foldl (fun t r => t.sheds_modSlot _ _ fun x => .inl ?_) s _
  split <;> rfl

theorem State.sheds_leaveWords (s : State) (c : Nat) : s.Sheds (s.leaveWords c) := by
  unfold State.leaveWords
  split
  · exact s.sheds_report _ _
  · exact .refl s

theorem State.sheds_leaveCluster (s : State) (k : Nat) : s.Sheds (s.leaveCluster k) := by
  unfold State.leaveCluster
  split
  · exact .refl s
  · have hwords := State.sheds_foldl (fun t c => t.sheds_leaveWords c) s (clusterCores k)
    dsimp only
    split
    · exact hwords.trans (State.sheds_report _ _ _)
    · exact hwords

theorem State.sheds_leaving (s : State) (k : Nat) : (s.handBackIn k).Sheds (s.leaving k) :=
  ((State.sheds_foldl (fun t c => t.sheds_refuseKv c) (s.handBackIn k) (clusterCores k)).trans
    (State.sheds_combineWhere _ k fun _ => true)).trans (State.sheds_leaveCluster _ k)

/-- Where no core of the cluster is lent, nothing waits at its directory agents, nothing is damaged and it has no U line, nothing
happens before it is cleared. -/
theorem State.leaving_idle (hlent : ∀ c ∈ clusterCores k, (s.core c).lent = none)
    (hdir : ∀ c ∈ clusterCores k, (s.core c).dirQ = [] ∧ (s.core c).aside = []) (hd : s.damaged = [])
    (hu : (s.cluster k).ulines = []) : s.leaving k = s := by
  have hrefuse : (clusterCores k).foldl (fun s c => s.refuseKv c) s = s :=
    List.foldlRecOn (motive := fun t => t = s) _ _ rfl fun t ht c hc => by
      rw [ht, State.refuseKv, (hdir c hc).1, (hdir c hc).2]
      rfl
  have hleave : (clusterCores k).foldl (fun s c => s.leaveWords c) s = s :=
    List.foldlRecOn (motive := fun t => t = s) _ _ rfl fun t ht c _ => by
      rw [ht, State.leaveWords_of_undamaged hd]
  have hcombine : (s.combineWhere k fun _ => true) = s := by
    rw [State.combineWhere, hu]
    rfl
  rw [State.leaving, State.handBackIn_idle hlent, hrefuse, hcombine, State.leaveCluster]
  split
  · rfl
  · dsimp only
    rw [hleave, hd]
    rfl

/-! ### What is cleared and what comes back -/

/-- A core finds nothing of another context: no translation, no record, no message, no phalanx (R332). -/
def Core.Bare (c : Core) : Prop := c.tt = [] ∧ c.l1 = [] ∧ c.icache = [] ∧ c.runList = [] ∧ c.deque = [] ∧ c.sendQ = [] ∧
  c.inbound = [] ∧ c.lent = none

/-- What is kept of clusters and of damage, and a cluster's own state, is no core's. -/
theorem State.core_kept (s : State) (l : List SavedCluster) (d : List (Space × Nat × Nat)) (y : Cluster) (c : Nat) :
    (({ s with savedClusters := l, damaged := d } : State).setCluster k y).core c = s.core c := rfl

theorem State.rest_kept (s : State) (l : List SavedCluster) (d : List (Space × Nat × Nat)) (y : Cluster) :
    (({ s with savedClusters := l, damaged := d } : State).setCluster k y).mem = s.mem ∧
      (({ s with savedClusters := l, damaged := d } : State).setCluster k y).savedClusters = l := ⟨rfl, rfl⟩

theorem State.rest_switched : (s.switched k cxid).mem = (((s.leaving k).clearCores k).restoreCores k
    ((s.leaving k).savedClusters.find? fun x => x.isFor k cxid)).mem ∧
      ∀ x ∈ s.savesCluster k, x ∈ (s.switched k cxid).savedClusters := by
  rw [State.switched, (State.rest_kept _ _ _ _).1, (State.rest_kept _ _ _ _).2]
  exact ⟨rfl, fun x hx => List.mem_append_right _ hx⟩

theorem State.core_switched (c : Nat) : (s.switched k cxid).core c = (((s.leaving k).clearCores k).restoreCores k
    ((s.leaving k).savedClusters.find? fun x => x.isFor k cxid)).core c :=
  State.core_kept _ _ _ _ c

theorem State.core_clearCores (s : State) {c : Nat} (hc : c ∈ clusterCores k) : ∃ n, (s.clearCores k).core c = (s.core c).cleared n := by
  obtain ⟨t, ht⟩ := State.core_foldl_same (g := id) (f := fun (s : State) _ c => c.cleared s.now)
    (by rw [List.map_id]; exact nodup_clusterCores k) s hc
  exact ⟨_, ht⟩

theorem State.core_clearCores_other (s : State) {c : Nat} (hc : c / 8 ≠ k) : (s.clearCores k).core c = s.core c :=
  State.core_foldl_other (g := id) (f := fun (s : State) _ c => c.cleared s.now) (clusterCores k) s
    (by rw [List.map_id, mem_clusterCores]; exact hc)

theorem State.core_restoreCores_other (s : State) {c : Nat} (hc : c / 8 ≠ k) (back : Option SavedCluster) :
    (s.restoreCores k back).core c = s.core c := by
  cases back with
  | none => rfl
  | some x =>
    refine State.core_foldl_other (g := Prod.fst) (f := fun _ p c => c.restored p.2) _ s fun hmem => ?_
    obtain ⟨p, hp, rfl⟩ := List.mem_map.1 hmem
    exact hc (mem_clusterCores.1 (List.of_mem_zip hp).1)

theorem State.bare_restoreCores {s : State} {c : Nat} (h : (s.core c).Bare) (back : Option SavedCluster) :
    ((s.restoreCores k back).core c).Bare := by
  cases back with
  | none => exact h
  | some x =>
    refine List.foldlRecOn (motive := fun t : State => (t.core c).Bare) _ _ h fun t ht p _ => ?_
    rw [State.core_modCore]
    split
    · next hc => rw [← hc]; exact ht
    · exact ht

/-- Each core of the cluster gets back what was kept of it. -/
theorem State.core_restoreCores (s : State) {x : SavedCluster} (hx : x.cores.length = 8) (i : Fin 8) :
    (s.restoreCores k (some x)).core (8 * k + i.val) = (s.core (8 * k + i.val)).restored (x.cores.getD i.val Core.reset) := by
  have hlength : (clusterCores k).length = 8 := by simp [clusterCores]
  have hkeys : (((clusterCores k).zip x.cores).map Prod.fst).Nodup := by
    rw [List.map_fst_zip (by omega)]
    exact nodup_clusterCores k
  have hmem : (8 * k + i.val, x.cores.getD i.val Core.reset) ∈ (clusterCores k).zip x.cores := by
    have hi : i.val < ((clusterCores k).zip x.cores).length := by rw [List.length_zip]; omega
    refine List.mem_iff_getElem.2 ⟨i.val, hi, ?_⟩
    rw [List.getElem_zip, List.getD_eq_getElem _ _ (by omega)]
    simp [clusterCores]
  obtain ⟨t, ht⟩ := State.core_foldl_same (g := Prod.fst) (f := fun _ (p : Nat × Core) c => c.restored p.2) hkeys s hmem
  exact ht

/-- Memory and what was saved stay with what is cleared and comes back. -/
theorem State.rest_restoreCores (s : State) (back : Option SavedCluster) :
    ((s.clearCores k).restoreCores k back).mem = s.mem ∧ ((s.clearCores k).restoreCores k back).savedClusters = s.savedClusters := by
  have hmod {α : Type} (g : α → Nat) (f : State → α → Core → Core) (l : List α) (s : State) :
      (l.foldl (fun (s : State) a => s.modCore (g a) (f s a)) s).mem = s.mem ∧
        (l.foldl (fun (s : State) a => s.modCore (g a) (f s a)) s).savedClusters = s.savedClusters :=
    List.foldlRecOn (motive := fun t : State => t.mem = s.mem ∧ t.savedClusters = s.savedClusters) _ _ ⟨rfl, rfl⟩
      fun t ⟨hm, hs⟩ _ _ => ⟨(t.setCore_mem _ _).trans hm, (t.setCore_savedClusters _ _).trans hs⟩
  obtain ⟨hm, hs⟩ := hmod id (fun s _ c => c.cleared s.now) (clusterCores k) s
  cases back with
  | none => exact ⟨hm, hs⟩
  | some x =>
    obtain ⟨hm', hs'⟩ := hmod Prod.fst (fun _ (p : Nat × Core) c => c.restored p.2) ((clusterCores k).zip x.cores) (s.clearCores k)
    exact ⟨hm'.trans hm, hs'.trans hs⟩

theorem Core.bare_cleared (c : Core) (n : Nat) : (c.cleared n).Bare := ⟨rfl, rfl, rfl, rfl, rfl, rfl, rfl, rfl⟩

/-- The cores of the cluster after the switch: nothing of another context's, and what was kept of its own. -/
theorem State.cores_switched (hs : (s.leaving k).savedClusters = s.savedClusters) :
    (∀ c ∈ clusterCores k, ((s.switched k cxid).core c).Bare) ∧
      ((s.savedClusters.find? fun x => x.isFor k cxid) = none → ∀ c ∈ clusterCores k,
        ∃ n, (s.switched k cxid).core c = ((s.leaving k).core c).cleared n) ∧
      ∀ y, (s.savedClusters.find? fun x => x.isFor k cxid) = some y → y.cores.length = 8 → ∀ i : Fin 8,
        ∃ n, (s.switched k cxid).core (8 * k + i.val) =
          (((s.leaving k).core (8 * k + i.val)).cleared n).restored (y.cores.getD i.val Core.reset) := by
  refine ⟨fun c hc => ?_, fun hnone c hc => ?_, fun y hy hlength i => ?_⟩
  · rw [State.core_switched]
    obtain ⟨n, hn⟩ := (s.leaving k).core_clearCores hc
    exact State.bare_restoreCores (by rw [hn]; exact Core.bare_cleared _ n) _
  · rw [State.core_switched, hs, hnone]
    exact (s.leaving k).core_clearCores hc
  · rw [State.core_switched, hs, hy, State.core_restoreCores _ hlength]
    obtain ⟨n, hn⟩ := (s.leaving k).core_clearCores (k := k) (c := 8 * k + i.val) (mem_clusterCores.2 (by omega))
    rw [hn]
    exact ⟨n, rfl⟩

theorem State.cluster_switched (hs : (s.leaving k).savedClusters = s.savedClusters) :
    (s.switched k cxid).cluster k = passedCluster cxid (s.savedClusters.find? fun x => x.isFor k cxid) := by
  rw [← hs, State.switched]
  exact (State.cluster_setCluster _ k k _).trans (if_pos rfl)

theorem Core.tickets_vacated (c : Core) {i : Nat} (hi : i < 32) :
    (c.vacated.ticket i).state = .free ∧ (c.vacated.ticket i).gen = (c.ticket i).gen := by
  simp [Core.ticket, Core.vacated, vget, hi, Ticket.freed, Ticket.reset]

theorem Core.held_freed (slots : Vector Slot 8) (i : Nat) :
    (vget (slots.map fun t => { Slot.reset with actNo := t.actNo }) i Slot.reset).held = false := by
  unfold vget
  split
  · rw [Vector.getElem_map]; rfl
  · rfl

/-- The task whose members the cluster's lent cores are is handed back. -/
theorem State.members_switched {ld sl : Nat} (hquiet : ∀ c ∈ clusterCores k, ((s.handBackIn k).core c).quiet = true)
    (hlent : ∀ c ∈ clusterCores k, (s.core c).lent = none ∨ (s.core c).lent = some (ld, sl))
    (hsome : ∃ c ∈ clusterCores k, (s.core c).lent = some (ld, sl)) (hld : ld / 8 ≠ k) (hsl : sl < 8) :
    (((s.switched k cxid).core ld).slot sl).members = [] := by
  rw [State.core_switched, State.core_restoreCores_other _ hld, State.core_clearCores_other _ hld]
  rcases State.handBackIn_single hsl hlent with hback | hsame
  · rcases (s.sheds_leaving k).members ld sl with h | h
    · exact h.trans hback
    · exact h
  · obtain ⟨c, hc, hl⟩ := hsome
    have hq := hquiet c hc
    rw [hsame] at hq
    simp [Core.quiet, hl] at hq

/-- A cluster about which nothing happens before it is cleared is saved as it was. -/
theorem State.savesCluster_idle {o : Nat} (hlent : ∀ c ∈ clusterCores k, (s.core c).lent = none) (hidle : s.leaving k = s)
    (hsound : ∀ c ∈ clusterCores k, s.sound (.lm c 0) = true) (ho : (s.cluster k).owner = some o) :
    s.savesCluster k = [⟨k, o, (clusterCores k).map s.core, (s.cluster k).csp, (s.cluster k).full⟩] := by
  obtain ⟨hd, -⟩ := State.sound_lm (hsound (8 * k) (mem_clusterCores.2 (by omega)))
  have hcsp : s.cleanCsp k = (s.cluster k).csp := by
    refine List.filter_eq_self.2 fun b _ => ?_
    rw [State.isDamaged, hd]
    rfl
  have hcores : ((clusterCores k).map fun c => { s.core c with lm := s.cleanLm c }) = (clusterCores k).map s.core :=
    List.map_congr_left fun c hc => by
      rw [State.cleanLm_of_sound (hsound c hc)]
  unfold State.savesCluster
  rw [State.handBackIn_idle hlent, ho]
  dsimp only
  generalize s.leaving k = t at hidle
  subst hidle
  rw [hcsp, hcores]

/-- With nothing to hand back, to answer, to combine or to lose, the old context's cluster is saved as it was. -/
theorem State.saved_switched (hlent : ∀ c ∈ clusterCores k, (s.core c).lent = none)
    (hdir : ∀ c ∈ clusterCores k, (s.core c).dirQ = [] ∧ (s.core c).aside = [])
    (hsound : ∀ c ∈ clusterCores k, s.sound (.lm c 0) = true) (hu : (s.cluster k).ulines = []) :
    (s.switched k cxid).mem = s.mem ∧ ∀ o, (s.cluster k).owner = some o → ∃ x ∈ (s.switched k cxid).savedClusters,
      x.cluster = k ∧ x.cx = o ∧ x.csp = (s.cluster k).csp ∧ x.cores = (clusterCores k).map s.core := by
  obtain ⟨hd, -⟩ := State.sound_lm (hsound (8 * k) (mem_clusterCores.2 (by omega)))
  have hidle := State.leaving_idle hlent hdir hd hu
  obtain ⟨hmem, -⟩ := State.rest_restoreCores (k := k) (s.leaving k) ((s.leaving k).savedClusters.find? fun x => x.isFor k cxid)
  obtain ⟨hswitched, hkept⟩ := State.rest_switched (s := s) (k := k) (cxid := cxid)
  refine ⟨?_, fun o ho => ⟨⟨k, o, (clusterCores k).map s.core, (s.cluster k).csp, (s.cluster k).full⟩, hkept _ ?_, rfl, rfl, rfl, rfl⟩⟩
  · exact hswitched.trans (hmem.trans (by rw [hidle]))
  · rw [State.savesCluster_idle hlent hidle hsound ho]
    exact List.mem_singleton_self _

end

/-- Settles O56. -/
theorem coresAndClustersMove : Obligations.CoresAndClustersMove := by
  unfold Obligations.CoresAndClustersMove
  intro s src dst k cxid a ids mine
  refine ⟨fun hne hown hcx hvacant hquiet hsettled hplacing hsound => ?_, s.vacant_iff dst, exec_coreMove_unclean,
    fun hne hown hcx hvacant hquiet hsettled hplacing hclean => ?_, fun hlive howner hquiet hlaunch hwords hclean => ?_⟩
  · refine ⟨_, exec_coreMove hne hown hcx hvacant hquiet hsettled hplacing (State.copyable_of_sound hsound), ?_, ?_, ?_, ?_, ?_⟩
    · obtain ⟨p, hp⟩ := State.core_movedCore (s := s) (src := src) (dst := dst) dst
      rw [hp, State.core_moved_dst, State.cleanLm_of_sound hsound]
      exact ⟨rfl, rfl, rfl, rfl, rfl, rfl, rfl, rfl, rfl, rfl, rfl, rfl, rfl, rfl, rfl, rfl⟩
    · obtain ⟨p, hp⟩ := State.core_movedCore (s := s) (src := src) (dst := dst) src
      rw [hp, State.core_moved_src hne]
      refine ⟨rfl, rfl, fun i hi => ?_, rfl, rfl, rfl, rfl, rfl, rfl, rfl, fun i hi => ?_⟩
      · exact Core.held_freed a.slots i
      · exact Core.tickets_vacated a hi
    · exact (State.movedCore_sound hsound).2
    · exact (s.movedCore_rest src dst).2.1
    · exact (State.movedCore_sound hsound).1
  · exact ⟨_, exec_coreMove hne hown hcx hvacant hquiet hsettled hplacing hclean, fun u hu hplace => State.movedCore_mended hu hplace⟩
  · refine ⟨_, exec_clusterContextSwitch hlive howner hquiet hlaunch hwords hclean, ?_⟩
    have hs : (s.leaving k).savedClusters = s.savedClusters := (s.sheds_leaving k).saved.trans (s.sheds_handBackIn k).saved
    obtain ⟨hbare, hnone, hsome⟩ := State.cores_switched (cxid := cxid) hs
    have hcluster := State.cluster_switched (cxid := cxid) hs
    have hnew (back : Option SavedCluster) : (passedCluster cxid back).owner = cxid ∧ (passedCluster cxid back).copies = [] ∧
        (passedCluster cxid back).late = [] ∧ (passedCluster cxid back).ulines = [] ∧ (passedCluster cxid back).l2 = [] := by
      cases back <;> exact ⟨rfl, rfl, rfl, rfl, rfl⟩
    obtain ⟨h1, h2, h3, h4, h5⟩ := hnew (s.savedClusters.find? fun x => x.isFor k cxid)
    rw [← hcluster] at h1 h2 h3 h4 h5
    refine ⟨h1, h2, h3, h4, h5, hbare, fun hno => ?_, fun y hy hlength => ?_,
      fun ld sl => State.members_switched fun c hc => (hquiet c hc).1, fun hidle hu => ?_⟩
    · have hno' : (s.savedClusters.find? fun x => x.isFor k cxid) = none := hno
      rw [hno'] at hcluster
      rw [hcluster]
      refine ⟨rfl, rfl, fun c hc => ?_⟩
      obtain ⟨n, hn⟩ := hnone hno' c hc
      rw [hn]
      exact ⟨rfl, rfl, rfl, rfl, fun j _ => Core.held_freed _ j⟩
    · have hy' : (s.savedClusters.find? fun x => x.isFor k cxid) = some y := hy
      rw [hy'] at hcluster
      rw [hcluster]
      refine ⟨rfl, rfl, fun i => ?_⟩
      obtain ⟨n, hn⟩ := hsome y hy' hlength i
      dsimp only
      rw [hn]
      exact ⟨rfl, rfl, rfl, rfl, rfl, rfl, rfl⟩
    · exact State.saved_switched (fun c hc => (hidle c hc).1) (fun c hc => ⟨(hidle c hc).2.1, (hidle c hc).2.2.1⟩)
        (fun c hc => (hidle c hc).2.2.2) hu

end Sys2Proof.Machine
end

section
/-! PROOF. Firmware's decision on a fault (R359, R364), in a state with an empty TLB entry. -/

namespace Sys2Proof.Machine

/-- A first-level entry of context 1 that maps no byte; its address lies inside the page of the fault below. -/
def emptyLeaf : Leaf :=
  { cx := 1, va := 0x40001, size := 0, pa := 0x40000, rd := true, wr := true, ex := false, sp := false, pin := false }

/-- The configuration of context 1: no page is mapped, and every cause is passed. -/
def bareCfg : ContextCfg :=
  { cxid := 1, root := 0, handler := none, passXlate := true, passPerm := true, passMchk := true, dsw := [], quotas := []
    classes := [], homeDie := 0, snapEn := false, maps := [] }

/-- Firmware has a translation fault at 0x40010 of the task in slot 0 of core 0, and that core's TLB holds the empty entry. -/
def emptyLeafFault : State :=
  { State.reset with
    clusters := [(0, { Cluster.reset with owner := some 1 })]
    contexts := [(1, { cfg := bareCfg, prefixes := [], sptQ := [] })]
    here := { Core.reset with
      l1 := [emptyLeaf]
      slots := Core.reset.slots.set 0 { Slot.reset with
        held := true
        fwFault := some 3
        ws := { Workspace.reset with trinfo := 0x40010, tsw := { Tsw.reset with cause := .xlate, state := .trapped } } } } }

/-- An entry that maps no byte covers none of the page, so the TLBI of a resolved fault keeps it (R380). -/
theorem emptyLeaf_stays : emptyLeaf ∈ ((emptyLeafFault.resolveFault 0 0 3).core 0).l1 := by decide +kernel

theorem exec_resolve_emptyLeafFault :
    exec (.firmwareFaultDecision 0 0 .resolved) emptyLeafFault = .next (emptyLeafFault.resolveFault 0 0 3) := rfl

/-- Refutes O59, by its clause on a resolved fault: that no first-level entry of the context is left whose address lies inside the
page. TLBI drops the entries that cover a byte of the page, and no hypothesis of the clause says that an entry covers any: where
the TLB holds an entry of size 0 inside the page (which no step of the model fills in, but which the statement admits) it is left. -/
theorem not_firmwareAndHost : ¬ Obligations.FirmwareAndHost := by
  unfold Obligations.FirmwareAndHost
  intro h
  have hfault := h.1 emptyLeafFault 0 0 0 3 bareCfg TTEntry.reset .resolved (by decide) rfl rfl rfl
  obtain ⟨t, hexec, -, hleft⟩ := (hfault.1 rfl).1 (by decide +kernel) (by decide +kernel) (by decide +kernel)
  rw [exec_resolve_emptyLeafFault] at hexec
  cases hexec
  have hcases : 0x40001 + 0 ≤ 0x40010 / 65536 * 65536 ∨ 0x40010 / 65536 * 65536 + 65536 ≤ 0x40001 :=
    hleft emptyLeaf emptyLeaf_stays rfl
  omega

end Sys2Proof.Machine
end
